-- ==== Sys2Proof/Word.lean ====
section
/-! DEFINITION. Words of the machine and splitting a number into fields (spec/00_scope.md R4, R5). -/
namespace Sys2Proof

/-- A 32-bit register (01 R13). -/
abbrev Word := BitVec 32

/-- One byte of storage. -/
abbrev Byte := BitVec 8

/-- A 64-bit value; the raw form of every operand. -/
abbrev Dword := BitVec 64

/-- Joins fields, lowest first, each given by its width and its value. -/
def pack : List (Nat × Nat) → Nat
  | [] => 0
  | (w, v) :: r => v % 2 ^ w + 2 ^ w * pack r

/-- Splits a number into fields of the given widths, lowest first. -/
def unpack : List Nat → Nat → List Nat
  | [], _ => []
  | w :: ws, n => n % 2 ^ w :: unpack ws (n / 2 ^ w)

/-- Bits `hi` down to `lo` of a number. -/
def bitsOf (n hi lo : Nat) : Nat := n / 2 ^ lo % 2 ^ (hi + 1 - lo)

/-- Bit `i` of a number. -/
def bitOf (n i : Nat) : Bool := n / 2 ^ i % 2 == 1

end Sys2Proof
end

