-- ==== Sys2Proof/Format.lean ====
section
/-! DEFINITION. The fields of the instruction formats (spec/06_encoding_opcode_map.md R168 to R175) and the numeric types (R126, R178, R196). -/
namespace Sys2Proof

/-- An operand field (06 R171). -/
inductive Opnd where
  | v (n : BitVec 8)
  | s (n : BitVec 8)
  | x (n : BitVec 3)
  | p (n : BitVec 3)
  | t (n : BitVec 4)
  | k (n : BitVec 2)
  | c (n : BitVec 8)
  deriving DecidableEq, Repr

/-- The common frame of an instruction without its opcode (06 R168). -/
structure Hdr where
  fn : BitVec 8
  pn : Bool
  pg : BitVec 3
  gap : BitVec 4
  wt : BitVec 4
  te : Bool
  tk : BitVec 2
  ws : Bool
  deriving DecidableEq, Repr

/-- Operand area of format A (06 R175). -/
structure FA where
  dst : Opnd
  sa : Opnd
  sb : Opnd
  sc : Opnd
  lt : BitVec 3
  md : BitVec 5
  imm : BitVec 16
  deriving DecidableEq, Repr

/-- Operand area of format I. -/
structure FI where
  dst : Opnd
  sa : Opnd
  sb : Opnd
  imm : BitVec 32
  deriving DecidableEq, Repr

/-- Operand area of format W. -/
structure FW where
  dst : Opnd
  imm : BitVec 64
  deriving DecidableEq, Repr

/-- Operand area of format M. -/
structure FM where
  d : Opnd
  base : Opnd
  index : Opnd
  width : BitVec 3
  scope : BitVec 3
  order : BitVec 2
  hint : BitVec 2
  off : BitVec 24
  deriving DecidableEq, Repr

/-- Operand area of format C. -/
structure FC where
  src : Opnd
  loff : BitVec 24
  slot : BitVec 3
  aux : BitVec 27
  deriving DecidableEq, Repr

/-- Operand area of format E. -/
structure FE where
  dst : Opnd
  sa : Opnd
  sb : Opnd
  sc : Opnd
  ctl : BitVec 24
  ext : BitVec 96
  deriving DecidableEq, Repr

/-- Operand area of format S. -/
structure FS where
  dst : Opnd
  sa : Opnd
  sb : Opnd
  place : BitVec 10
  sys : BitVec 24
  deriving DecidableEq, Repr

/-- The body of format L: 41 fields of 06 R175 (three bases, type, operation, five extents, fifteen strides, lowest bits first) kept as one number. -/
structure FL where
  body : BitVec 256
  deriving DecidableEq, Repr

/-- The numeric types, in the order of the codes 0 to 11 of 07 R196. -/
inductive NTy where
  | s8 | n8 | s16 | n16 | s32 | n32 | s64 | n64 | f64 | f32 | f16 | g16
  deriving DecidableEq, Repr

end Sys2Proof
end

