-- ==== Sys2Proof/Machine/Bits.lean ====
section
/-! DEFINITION. Numeric types, bit fields, sign extension, byte order and the helper functions Wrap, Sat and SignExt (spec/06 R183, 07 R185). -/
namespace Sys2Proof.Machine
open Sys2Proof

/-- Width in bits (05 R126, R128). -/
def tyBits : NTy → Nat
  | .s8 | .n8 => 8
  | .s16 | .n16 | .f16 | .g16 => 16
  | .s32 | .n32 | .f32 => 32
  | .s64 | .n64 | .f64 => 64

/-- Two's complement types (05 R128). -/
def tySigned : NTy → Bool
  | .s8 | .s16 | .s32 | .s64 => true
  | _ => false

/-- The wide float formats (05 R126). -/
def tyFloat : NTy → Bool
  | .f64 | .f32 | .f16 | .g16 => true
  | _ => false

/-- Type code of R196: 0 to 7 integer, 8 to 11 float. -/
def tyOfCode : Nat → Option NTy
  | 0 => some .s8
  | 1 => some .n8
  | 2 => some .s16
  | 3 => some .n16
  | 4 => some .s32
  | 5 => some .n32
  | 6 => some .s64
  | 7 => some .n64
  | 8 => some .f64
  | 9 => some .f32
  | 10 => some .f16
  | 11 => some .g16
  | _ => none

/-- Integer type code of FN[3:0] (06 R178). -/
def intTyOf (n : Nat) : Option NTy := if n < 8 then tyOfCode n else none

/-- Float type code of FN[3:0] (05 R126). -/
def floatTyOf (n : Nat) : Option NTy := if n < 4 then tyOfCode (8 + n) else none

/-- SignExt(x, n) (06 R183). -/
def signExt (x n : Nat) : Int :=
  if n = 0 then 0
  else if x % 2 ^ n < 2 ^ (n - 1) then (x % 2 ^ n : Nat) else (x % 2 ^ n : Nat) - (2 ^ n : Nat)

/-- The low `w` bits of an integer, as a bit pattern. -/
def lowBits (w : Nat) (x : Int) : Nat := (x % (2 ^ w : Nat)).toNat

/-- A bit pattern read as a value of the integer type. -/
def intVal (ty : NTy) (n : Nat) : Int :=
  if tySigned ty then signExt n (tyBits ty) else (n % 2 ^ tyBits ty : Nat)

/-- Type minimum. -/
def tyMin (ty : NTy) : Int := if tySigned ty then -(2 ^ (tyBits ty - 1) : Nat) else 0

/-- Type maximum. -/
def tyMax (ty : NTy) : Int :=
  if tySigned ty then (2 ^ (tyBits ty - 1) : Nat) - 1 else (2 ^ tyBits ty : Nat) - 1

/-- Wrap(x, ty), as the w bits of the result (06 R183). -/
def wrapTo (ty : NTy) (x : Int) : Nat := lowBits (tyBits ty) x

/-- Sat(x, ty), as the w bits of the result (06 R183). -/
def satTo (ty : NTy) (x : Int) : Nat :=
  wrapTo ty (if x < tyMin ty then tyMin ty else if tyMax ty < x then tyMax ty else x)

/-- Register words of a w-bit result: extended to 32 bits for the narrow types, low word first for 64-bit types (07 R185). -/
def regWords (ty : NTy) (n : Nat) : List Word :=
  match tyBits ty with
  | 64 => [BitVec.ofNat 32 n, BitVec.ofNat 32 (n / 2 ^ 32)]
  | 32 => [BitVec.ofNat 32 n]
  | w => [if tySigned ty then BitVec.ofInt 32 (signExt n w) else BitVec.ofNat 32 (n % 2 ^ w)]

/-- Little-endian bytes of a number (00 R5). -/
def toBytes : Nat → Nat → List Byte
  | 0, _ => []
  | k + 1, n => BitVec.ofNat 8 n :: toBytes k (n / 256)

/-- The number that little-endian bytes hold (00 R5). -/
def ofBytes : List Byte → Nat
  | [] => 0
  | b :: r => b.toNat + 256 * ofBytes r

/-- Exclusive-or of the low `n` bits of a number. -/
def parityOf : Nat → Nat → Bool
  | 0, _ => false
  | k + 1, n => (n % 2 == 1) != parityOf k (n / 2)

/-- Number of set bits among the low `k` bits. -/
def popCount : Nat → Nat → Nat
  | 0, _ => 0
  | k + 1, n => n % 2 + popCount k (n / 2)

/-- The low `k` bits in reverse order. -/
def bitRev : Nat → Nat → Nat
  | 0, _ => 0
  | k + 1, n => n % 2 * 2 ^ k + bitRev k (n / 2)

/-- Leading zero bits among the low `k` bits. -/
def leadZeros : Nat → Nat → Nat
  | 0, _ => 0
  | k + 1, n => if n / 2 ^ k % 2 = 1 then 0 else 1 + leadZeros k n

/-- Floor of the square root of a number below 4 to the `k`, bit by bit. -/
def isqrtGo (n : Nat) : Nat → Nat → Nat
  | 0, r => r
  | k + 1, r => isqrtGo n k (if (r + 2 ^ k) * (r + 2 ^ k) ≤ n then r + 2 ^ k else r)

/-- Floor of the square root. -/
def isqrt (n : Nat) : Nat := isqrtGo n (Nat.log2 n / 2 + 1) 0

/-- Replaces bits `hi` to `lo` of `n` by those of `v`. -/
def putBits (n hi lo v : Nat) : Nat :=
  n - bitsOf n hi lo * 2 ^ lo + v % 2 ^ (hi + 1 - lo) * 2 ^ lo

/-- Sets or clears one element of a list that has the index; any other list is unchanged. -/
def setAt {α : Type} (l : List α) (i : Nat) (a : α) : List α := l.set i a

/-- Puts an element before the first that it may precede. -/
def insertBy {α : Type} (le : α → α → Bool) (a : α) : List α → List α
  | [] => [a]
  | b :: r => if le a b then a :: b :: r else b :: insertBy le a r

/-- The elements in rising order; equal ones keep their order. -/
def sortBy {α : Type} (le : α → α → Bool) (l : List α) : List α := l.foldr (insertBy le) []

/-- Ceiling of a quotient. -/
def ceilDiv (a b : Nat) : Nat := if b = 0 then 0 else (a + b - 1) / b

/-- CRC-32C over bytes (03 R88): reflected polynomial 0x82F63B78, initial and final all ones. -/
def crcBits : Nat → Nat → Nat
  | 0, c => c
  | k + 1, c => crcBits k (if c % 2 = 1 then (c / 2) ^^^ 0x82F63B78 else c / 2)

def crcGo : List Byte → Nat → Nat
  | [], c => c
  | b :: r, c => crcGo r (crcBits 8 (c ^^^ b.toNat))

def crc32c (l : List Byte) : Nat := crcGo l 0xFFFFFFFF ^^^ 0xFFFFFFFF

end Sys2Proof.Machine
end

