-- ==== Sys2Proof/Machine/Float.lean ====
section
/-! DEFINITION. The wide float formats: decoding, poison patterns, exact values and the one rounding of each result (spec/05 R126 to R131, R141 to R144, 07 R197 to R202). -/
namespace Sys2Proof.Machine
open Sys2Proof

/-- Exponent bits of a wide format (05 R126). -/
def expBits : NTy → Nat
  | .f64 => 11
  | .f32 | .g16 => 8
  | .f16 => 5
  | _ => 0

/-- Fraction bits of a wide format (05 R126). -/
def manBits : NTy → Nat
  | .f64 => 52
  | .f32 => 23
  | .f16 => 10
  | .g16 => 7
  | _ => 0

/-- Exponent bias (05 R126). -/
def fBias (ty : NTy) : Int := (2 ^ (expBits ty - 1) : Nat) - 1

/-- The pattern of plus infinity. -/
def infBits (ty : NTy) : Nat := (2 ^ expBits ty - 1) * 2 ^ manBits ty

/-- The sign bit's weight. -/
def signBit (ty : NTy) : Nat := 2 ^ (tyBits ty - 1)

/-- Exponent of the weight of the lowest fraction bit of a subnormal. -/
def qMin (ty : NTy) : Int := 1 - fBias ty - manBits ty

/-- Rounding modes (05 R129). -/
inductive RMode where
  | rne | rz | rup | rdn | rna
  deriving DecidableEq, Repr

/-- Codes 0 to 4 of R129. -/
def rmodeOf : Nat → RMode
  | 1 => .rz
  | 2 => .rup
  | 3 => .rdn
  | 4 => .rna
  | _ => .rne

/-- FN[7:4] values that R129 assigns. -/
def rmodeLegal (n : Nat) : Bool := n < 5 || n == 8

/-- Mode(FN): FN[7:4], or MODE.RM when it is 8 (05 R129). -/
def modeOf (fnHi rm : Nat) : RMode := if fnHi = 8 then rmodeOf rm else rmodeOf fnHi

/-- A decoded float value. -/
inductive FVal where
  | nan (quiet : Bool) (kind index : Nat)
  | inf (neg : Bool)
  | fin (neg : Bool) (m : Nat) (e : Int)
  deriving DecidableEq, Repr

/-- An exact result before rounding: `dy neg m e sticky` is (-1)^neg times (m + d) times 2^e, with 0 < d < 1 exactly when sticky. -/
inductive XVal where
  | invalid
  | inf (neg : Bool)
  | dy (neg : Bool) (m : Nat) (e : Int) (sticky : Bool)
  deriving DecidableEq, Repr

/-- Width of the index field of a poison pattern (05 R142). -/
def poisonIndexBits : NTy → Nat
  | .f16 => 6
  | .g16 => 3
  | _ => 18

/-- Position of the kind field of a poison pattern (05 R142). -/
def poisonKindPos : NTy → Nat
  | .f64 => 47
  | .f16 => 6
  | .g16 => 3
  | _ => 18

/-- Width of the kind field of a poison pattern (05 R142). -/
def poisonKindBits : NTy → Nat
  | .f16 | .g16 => 3
  | _ => 4

/-- The generated poison pattern (05 R142). A kind of 8 or more becomes 0 where the format has three bits for it (R143). -/
def poisonBits (ty : NTy) (kind index : Nat) : Nat :=
  infBits ty + 2 ^ (manBits ty - 1)
    + (if kind < 2 ^ poisonKindBits ty then kind else 0) * 2 ^ poisonKindPos ty
    + index % 2 ^ poisonIndexBits ty

/-- Magnitude bits of a pattern. -/
def magBits (ty : NTy) (n : Nat) : Nat := n % signBit ty

/-- Sign of a pattern. -/
def isNeg (ty : NTy) (n : Nat) : Bool := bitOf n (tyBits ty - 1)

/-- IsPoison(v, ty): a NaN (05 R141); false for integer types (06 R183). -/
def isPoison (ty : NTy) (n : Nat) : Bool := tyFloat ty && infBits ty < magBits ty n

/-- The quiet bit of a pattern (05 R142). -/
def quietBit (ty : NTy) (n : Nat) : Bool := bitOf n (manBits ty - 1)

/-- Decodes a pattern (05 R126, R142). -/
def decodeF (ty : NTy) (n : Nat) : FVal :=
  if infBits ty < magBits ty n then
    .nan (quietBit ty n) (n / 2 ^ poisonKindPos ty % 2 ^ poisonKindBits ty) (n % 2 ^ poisonIndexBits ty)
  else if magBits ty n = infBits ty then .inf (isNeg ty n)
  else
    if magBits ty n / 2 ^ manBits ty = 0 then .fin (isNeg ty n) (magBits ty n) (qMin ty)
    else .fin (isNeg ty n) (magBits ty n % 2 ^ manBits ty + 2 ^ manBits ty)
      (qMin ty + (magBits ty n / 2 ^ manBits ty : Nat) - 1)

/-- Whether a magnitude is moved up: `odd` is the parity of the truncated value, `cmp` compares the rest with half a unit (05 R129). -/
def roundsUp (m : RMode) (neg odd : Bool) (cmp : Ordering) (inexact : Bool) : Bool :=
  match m with
  | .rne => cmp == .gt || (cmp == .eq && odd)
  | .rz => false
  | .rup => inexact && !neg
  | .rdn => inexact && neg
  | .rna => cmp == .gt || cmp == .eq

/-- `(m + d) * 2^e` in units of 2^q, rounded once; the code of a result is even when it and `base` are of one parity (05 R129). -/
def roundOn (base : Nat) (mode : RMode) (neg : Bool) (m : Nat) (e : Int) (sticky : Bool) (q : Int) : Nat :=
  if q ≤ e then
    m * 2 ^ (e - q).toNat
      + (if roundsUp mode neg ((base + m * 2 ^ (e - q).toNat) % 2 == 1) .lt sticky then 1 else 0)
  else if (Nat.log2 m : Int) + 2 < q - e then
    if roundsUp mode neg false .lt (m != 0 || sticky) then 1 else 0
  else
    let sh := (q - e).toNat
    let n := m / 2 ^ sh
    let r := 2 * (m % 2 ^ sh)
    let c := compare r (2 ^ sh)
    n + (if roundsUp mode neg ((base + n) % 2 == 1) (if c == .eq && sticky then .gt else c) (r != 0 || sticky) then 1 else 0)

/-- The same where the parity of the number of units is that of its code. -/
def roundAt (mode : RMode) (neg : Bool) (m : Nat) (e : Int) (sticky : Bool) (q : Int) : Nat := roundOn 0 mode neg m e sticky q

/-- The result of an overflow (05 R131). -/
def overflowBits (ty : NTy) (mode : RMode) (neg : Bool) : Nat :=
  (match mode with
  | .rne | .rna => infBits ty
  | .rz => infBits ty - 1
  | .rup => if neg then infBits ty - 1 else infBits ty
  | .rdn => if neg then infBits ty else infBits ty - 1)
  + (if neg then signBit ty else 0)

/-- Round of an exact value to a wide format (05 R131). -/
def roundDy (ty : NTy) (mode : RMode) (neg : Bool) (m : Nat) (e : Int) (sticky : Bool) : Nat :=
  let s := if neg then signBit ty else 0
  if m = 0 ∧ sticky = false then s
  else
    let top := e + (Nat.log2 m : Int)
    let q := max (top - manBits ty) (qMin ty)
    if fBias ty + 1 < top then overflowBits ty mode neg
    else
      let n := roundAt mode neg m e sticky q
      let b := (q - qMin ty).toNat * 2 ^ manBits ty + n
      if infBits ty ≤ b then overflowBits ty mode neg else b + s

/-- Round(x, ty, m); none for an invalid operation. -/
def roundX (ty : NTy) (mode : RMode) : XVal → Option Nat
  | .invalid => none
  | .inf neg => some (infBits ty + (if neg then signBit ty else 0))
  | .dy neg m e st => some (roundDy ty mode neg m e st)

/-- The exact value of a non-NaN operand. -/
def FVal.exact : FVal → XVal
  | .nan _ _ _ => .invalid
  | .inf neg => .inf neg
  | .fin neg m e => .dy neg m e false

/-- Signed sum of two magnitudes at a common exponent; an exact zero takes the sign that IEEE 754 gives it (05 R127). -/
def addDy (mode : RMode) (n1 : Bool) (m1 : Nat) (e1 : Int) (n2 : Bool) (m2 : Nat) (e2 : Int) : XVal :=
  let e := min e1 e2
  let a : Int := (m1 * 2 ^ (e1 - e).toNat : Nat)
  let b : Int := (m2 * 2 ^ (e2 - e).toNat : Nat)
  let s := (if n1 then -a else a) + (if n2 then -b else b)
  if s = 0 then .dy (if m1 = 0 ∧ m2 = 0 ∧ n1 = n2 then n1 else mode == .rdn) 0 0 false
  else .dy (decide (s < 0)) s.natAbs e false

/-- a + b exactly; invalid for infinities of opposite signs. -/
def xAdd (mode : RMode) : XVal → XVal → XVal
  | .invalid, _ => .invalid
  | _, .invalid => .invalid
  | .inf a, .inf b => if a = b then .inf a else .invalid
  | .inf a, .dy _ _ _ _ => .inf a
  | .dy _ _ _ _, .inf b => .inf b
  | .dy n1 m1 e1 _, .dy n2 m2 e2 _ => addDy mode n1 m1 e1 n2 m2 e2

/-- Negation of an exact value. -/
def xNeg : XVal → XVal
  | .invalid => .invalid
  | .inf a => .inf (!a)
  | .dy n m e s => .dy (!n) m e s

/-- a times b exactly; invalid for 0 times infinity. -/
def xMul : XVal → XVal → XVal
  | .invalid, _ => .invalid
  | _, .invalid => .invalid
  | .inf a, .inf b => .inf (a != b)
  | .inf a, .dy n m _ _ => if m = 0 then .invalid else .inf (a != n)
  | .dy n m _ _, .inf b => if m = 0 then .invalid else .inf (n != b)
  | .dy n1 m1 e1 _, .dy n2 m2 e2 _ => .dy (n1 != n2) (m1 * m2) (e1 + e2) false

/-- a times 2^k. -/
def xScale (k : Int) : XVal → XVal
  | .dy n m e s => .dy n m (e + k) s
  | x => x

/-- a / b to 120 bits and more, with a sticky rest (07 R198). -/
def xDiv : XVal → XVal → XVal
  | .invalid, _ => .invalid
  | _, .invalid => .invalid
  | .inf _, .inf _ => .invalid
  | .inf a, .dy n _ _ _ => .inf (a != n)
  | .dy n _ _ _, .inf b => .dy (n != b) 0 0 false
  | .dy n1 m1 e1 _, .dy n2 m2 e2 _ =>
    if m2 = 0 then (if m1 = 0 then .invalid else .inf (n1 != n2))
    else
      let k := 130 + Nat.log2 m2
      .dy (n1 != n2) (m1 * 2 ^ k / m2) (e1 - e2 - k) (decide (m1 * 2 ^ k % m2 ≠ 0))

/-- The exact value 1. -/
def xOne : XVal := .dy false 1 0 false

/-- Square root (07 R198). -/
def xSqrt : XVal → XVal
  | .invalid => .invalid
  | .inf neg => if neg then .invalid else .inf false
  | .dy neg m e _ =>
    if m = 0 then .dy neg 0 0 false
    else if neg then .invalid
    else
      let o : Nat := (e % 2).toNat
      let n := m * 2 ^ o * 4 ^ 80
      let r := isqrt n
      .dy false r ((e - o) / 2 - 80) (decide (r * r ≠ n))

/-- Reciprocal square root (07 R198). -/
def xRsqrt : XVal → XVal
  | .invalid => .invalid
  | .inf neg => if neg then .invalid else .dy false 0 0 false
  | .dy neg m e _ =>
    if m = 0 then .inf neg
    else if neg then .invalid
    else
      let o : Nat := (e % 2).toNat
      let d := m * 2 ^ o
      let r := isqrt (4 ^ 140 / d)
      .dy false r (-((e - o) / 2) - 140) (decide (r * r * d ≠ 4 ^ 140))

/-- Compares two exact values, both finite or infinite, zeros equal. -/
def xCmp : XVal → XVal → Ordering
  | .inf a, .inf b => compare b.toNat a.toNat
  | .inf a, _ => if a then .lt else .gt
  | _, .inf b => if b then .gt else .lt
  | .dy n1 m1 e1 _, .dy n2 m2 e2 _ =>
    let e := min e1 e2
    let a : Int := (m1 * 2 ^ (e1 - e).toNat : Nat)
    let b : Int := (m2 * 2 ^ (e2 - e).toNat : Nat)
    compare (if n1 then -a else a) (if n2 then -b else b)
  | _, _ => .eq

/-- A total order key of non-NaN patterns in which -0 lies below +0 (05 R127). -/
def orderKey (ty : NTy) (n : Nat) : Int :=
  if isNeg ty n then -(magBits ty n : Int) - 1 else magBits ty n

/-- A value rounded to an integer by a mode; infinities have no value. -/
def roundInt (mode : RMode) : XVal → Option Int
  | .dy neg m e st =>
    let n : Int := roundAt mode neg m e st 0
    some (if neg then -n else n)
  | _ => none

/-- Conversion of a float to an integer type, saturating (05 R131, 07 R196). -/
def floatToInt (src dst : NTy) (mode : RMode) (n : Nat) : Nat :=
  match decodeF src n with
  | .nan _ _ _ => wrapTo dst (tyMin dst)
  | .inf neg => wrapTo dst (if neg then tyMin dst else tyMax dst)
  | .fin neg m e =>
    if (80 : Int) < e then wrapTo dst (if m = 0 then 0 else if neg then tyMin dst else tyMax dst)
    else match roundInt mode (.dy neg m e false) with
      | some x => satTo dst x
      | none => 0

/-- The exact value of an integer. -/
def xInt (x : Int) : XVal := .dy (decide (x < 0)) x.natAbs 0 false

/-! The correctly rounded functions fex2, flg2, fsin and fcos (07 R197): an interval of fixed-point numbers with P fraction bits is refined until both ends round alike. -/

/-- 2 times the area tangent of z over 2^P, for |z| at most 2^P / 3, by its series. -/
def atanhGo (P z2 : Int) : Nat → Int → Int → Int → Int
  | 0, _, _, acc => acc
  | k + 1, t, d, acc => if t = 0 then acc else atanhGo P z2 k (t * z2 / P) (d + 2) (acc + t / d)

def atanh2 (p : Nat) (z : Int) : Int :=
  2 * atanhGo (2 ^ p : Nat) (z * z / (2 ^ p : Nat)) (p + 8) z 1 0

/-- ln 2 with p fraction bits. -/
def ln2Fix (p : Nat) : Int := atanh2 p ((2 ^ p : Nat) / 3)

/-- exp(t / 2^p) for t in 0 to 2^p. -/
def expGo (P t : Int) : Nat → Int → Int → Int → Int
  | 0, _, _, acc => acc
  | k + 1, i, term, acc => if term = 0 then acc else expGo P t k (i + 1) (term * t / P / i) (acc + term)

def expFix (p : Nat) (t : Int) : Int := expGo (2 ^ p : Nat) t (p + 8) 1 (2 ^ p : Nat) 0

/-- The series of sine (start i = 1) and cosine (start i = 0) in x over 2^p, |x| below 2^p. -/
def sinGo (P x2 : Int) : Nat → Int → Int → Int → Int
  | 0, _, _, acc => acc
  | k + 1, i, term, acc =>
    if term = 0 then acc else sinGo P x2 k (i + 2) (-(term * x2 / P / ((i + 1) * (i + 2)))) (acc + term)

def sinFix (p : Nat) (x : Int) : Int :=
  sinGo (2 ^ p : Nat) (x * x / (2 ^ p : Nat)) (p + 8) 1 x 0

def cosFix (p : Nat) (x : Int) : Int :=
  sinGo (2 ^ p : Nat) (x * x / (2 ^ p : Nat)) (p + 8) 0 (2 ^ p : Nat) 0

/-- arctan(1 / n) with p fraction bits. -/
def atanInvGo (n2 : Int) : Nat → Int → Int → Int → Int
  | 0, _, _, acc => acc
  | k + 1, t, d, acc => if t = 0 then acc else atanInvGo n2 k (-(t / n2)) (d + 2) (acc + t / d)

def atanInv (p n : Nat) : Int := atanInvGo (n * n) (p + 8) ((2 ^ p : Nat) / n) 1 0

/-- pi with p fraction bits, by Machin's formula. -/
def piFix (p : Nat) : Int := 16 * atanInv p 5 - 4 * atanInv p 239

/-- Bound of the error of each approximation, in units of the last place: far above the number of series terms. -/
def fixErr : Int := 2 ^ 20

/-- One end of an interval, `f / 2^p`, as a value; `up` moves an end just below itself. -/
def fixX (p : Nat) (f : Int) (below : Bool) : XVal :=
  if below then
    if 0 < f then .dy false (f - 1).toNat (-(p : Int)) true else .dy true (-f).toNat (-(p : Int)) true
  else
    if 0 ≤ f then .dy false f.toNat (-(p : Int)) true else .dy true (-f - 1).toNat (-(p : Int)) true

/-- Rounds a value known to lie strictly between two ends, refining the precision while they differ. -/
def zivRound (ty : NTy) (mode : RMode) (k : Int) (f : Nat → Int) : Nat → Nat → Nat
  | 0, p => roundDy ty mode (decide (f p < 0)) (f p).natAbs (k - p) true
  | fuel + 1, p =>
    let a := f p
    match roundX ty mode (xScale k (fixX p (a - fixErr) false)), roundX ty mode (xScale k (fixX p (a + fixErr) true)) with
    | some x, some y => if x = y then x else zivRound ty mode k f fuel (2 * p)
    | _, _ => 0

/-- The value `neg m e` with p fraction bits, rounded down. -/
def dyFix (neg : Bool) (m : Nat) (e : Int) (p : Nat) : Int :=
  let a : Int := if 0 ≤ e + p then (m * 2 ^ (e + p).toNat : Nat) else ((m / 2 ^ (-(e + p)).toNat : Nat) : Int)
  if neg then -a else a

/-- 2^a rounded once (07 R198). -/
def exp2Bits (ty : NTy) (mode : RMode) : FVal → Nat
  | .nan _ _ _ => 0
  | .inf neg => if neg then 0 else infBits ty
  | .fin neg m e =>
    if m = 0 then roundDy ty mode false 1 0 false
    else if 12 < e + (Nat.log2 m : Int) then
      (if neg then roundDy ty mode false 1 (-20000) true else roundDy ty mode false 1 20000 false)
    else
      let x := dyFix neg m e 1200
      let n := x / (2 ^ 1200 : Nat)
      let fr := x % (2 ^ 1200 : Nat)
      if fr = 0 then roundDy ty mode false 1 n false
      else zivRound ty mode n (fun p => expFix p (if p ≤ 1200 then (fr / (2 ^ (1200 - p) : Nat)) * ln2Fix p / (2 ^ p : Nat) else fr * (2 ^ (p - 1200) : Nat) * ln2Fix p / (2 ^ p : Nat))) 6 128

/-- log2 of a positive finite value rounded once (07 R198). -/
def log2Bits (ty : NTy) (mode : RMode) (m : Nat) (e : Int) : Nat :=
  let l := Nat.log2 m
  let k := e + (l : Int)
  if m = 2 ^ l then roundDy ty mode (decide (k < 0)) k.natAbs 0 false
  else zivRound ty mode 0 (fun p =>
    let num : Int := ((m - 2 ^ l : Nat) : Int) * (2 ^ p : Nat)
    let z := num / ((m + 2 ^ l : Nat) : Int)
    k * (2 ^ p : Nat) + atanh2 p z * (2 ^ p : Nat) / ln2Fix p) 6 128

/-- sin (`co` false) or cos of a nonzero finite value rounded once (07 R198). -/
def sinBits (ty : NTy) (mode : RMode) (co neg : Bool) (m : Nat) (e : Int) : Nat :=
  let extra := (max 0 (e + (Nat.log2 m : Int))).toNat + 16
  zivRound ty mode 0 (fun p =>
    let big := p + extra
    let x := dyFix neg m e big
    let half := piFix big / 2
    let k := (2 * x + half) / (2 * half)
    let r := (x - k * half) / (2 ^ extra : Nat)
    match (k + (if co then 1 else 0)) % 4 with
    | 0 => sinFix p r
    | 1 => cosFix p r
    | 2 => -(sinFix p r)
    | _ => -(cosFix p r)) 6 128

end Sys2Proof.Machine
end

