-- ==== Sys2Proof/Machine/Consts.lean ====
section
/-! DEFINITION. The small-constant table (spec/06 R173). -/
namespace Sys2Proof.Machine
open Sys2Proof

/-- An integer rounded to nearest in a float format. -/
def floatOfInt (ty : NTy) (x : Int) : Nat := roundDy ty .rne (decide (x < 0)) x.natAbs 0 false

/-- pi, ln 2 and log2 e, each rounded once to nearest (06 R173). -/
def mathConst (ty : NTy) : Nat × Nat × Nat :=
  match ty with
  | .f64 => (0x400921FB54442D18, 0x3FE62E42FEFA39EF, 0x3FF71547652B82FE)
  | .f16 => (0x4248, 0x398C, 0x3DC5)
  | .g16 => (0x4049, 0x3F31, 0x3FB9)
  | _ => (0x40490FDB, 0x3F317218, 0x3FB8AA3B)

/-- A constant read in a float format (06 R173). -/
def constFloat (ty : NTy) (i : Nat) : Option Nat :=
  if i < 0x40 then some (floatOfInt ty i)
  else if i < 0x80 then some (floatOfInt ty ((i : Int) - 128))
  else if i < 0xA0 then some (roundDy ty .rne false 1 ((i : Int) - 0x90) false)
  else match i with
    | 0xA0 => some (infBits ty)
    | 0xA1 => some (infBits ty + signBit ty)
    | 0xA2 => some (infBits ty - 1)
    | 0xA3 => some (2 ^ manBits ty)
    | 0xA4 => some (signBit ty)
    | 0xA5 => some (mathConst ty).1
    | 0xA6 => some (mathConst ty).2.1
    | 0xA7 => some (mathConst ty).2.2
    | _ => none

/-- A constant read in an integer type (06 R173). -/
def constInt (ty : NTy) (i : Nat) : Option Nat :=
  if i < 0x40 then some i
  else if i < 0x80 then some (wrapTo ty ((i : Int) - 128))
  else if i < 0x90 then none
  else if i < 0xA0 then some (wrapTo ty (2 ^ (i - 0x90) : Nat))
  else if i = 0xA0 then some (wrapTo ty (tyMax ty))
  else if i = 0xA1 then some (wrapTo ty (tyMin ty))
  else none

/-- The constant of R173 in a type; none where R173 says ILLOP. -/
def constVal (ty : NTy) (i : Nat) : Option Nat := if tyFloat ty then constFloat ty i else constInt ty i

end Sys2Proof.Machine
end

