-- ==== Sys2Proof/Syntax.lean ====
section
/-! DEFINITION. The instruction set: one constructor per row of spec/opcode_table.json. The first 149 are the instructions of programs, the other 107 are the steps of the device and of its firmware, which have no encoding. -/
namespace Sys2Proof

/-- One constructor per row of spec/opcode_table.json. -/
inductive Instr where
  /-- ADD, R189. -/
  | add (h : Hdr) (o : FA)
  /-- SUB, R189. -/
  | sub (h : Hdr) (o : FA)
  /-- MUL, R189. -/
  | mul (h : Hdr) (o : FA)
  /-- MULH, R189. -/
  | mulh (h : Hdr) (o : FA)
  /-- MAD, R189. -/
  | mad (h : Hdr) (o : FA)
  /-- DIV, R190. -/
  | div (h : Hdr) (o : FA)
  /-- REM, R190. -/
  | rem (h : Hdr) (o : FA)
  /-- NEG, R189. -/
  | neg (h : Hdr) (o : FA)
  /-- ABS, R189. -/
  | abs (h : Hdr) (o : FA)
  /-- MIN, R189. -/
  | min (h : Hdr) (o : FA)
  /-- MAX, R189. -/
  | max (h : Hdr) (o : FA)
  /-- AND, R189. -/
  | and (h : Hdr) (o : FA)
  /-- OR, R189. -/
  | or (h : Hdr) (o : FA)
  /-- XOR, R189. -/
  | xor (h : Hdr) (o : FA)
  /-- NOT, R189. -/
  | not (h : Hdr) (o : FA)
  /-- SHL, R189. -/
  | shl (h : Hdr) (o : FA)
  /-- SHR, R189. -/
  | shr (h : Hdr) (o : FA)
  /-- SRA, R189. -/
  | sra (h : Hdr) (o : FA)
  /-- ROT, R189. -/
  | rot (h : Hdr) (o : FA)
  /-- CLZ, R189. -/
  | clz (h : Hdr) (o : FA)
  /-- POPC, R189. -/
  | popc (h : Hdr) (o : FA)
  /-- BREV, R189. -/
  | brev (h : Hdr) (o : FA)
  /-- BFX, R191. -/
  | bfx (h : Hdr) (o : FA)
  /-- BFI, R191. -/
  | bfi (h : Hdr) (o : FA)
  /-- CMP, R192. -/
  | cmp (h : Hdr) (o : FA)
  /-- SEL, R192. -/
  | sel (h : Hdr) (o : FA)
  /-- LEA, R193. -/
  | lea (h : Hdr) (o : FA)
  /-- ADDC, R193. -/
  | addc (h : Hdr) (o : FA)
  /-- MOVI, R194. -/
  | movi (h : Hdr) (o : FI)
  /-- MOVW, R194. -/
  | movw (h : Hdr) (o : FW)
  /-- CVT, R196. -/
  | cvt (h : Hdr) (o : FA)
  /-- MOV, R195. -/
  | mov (h : Hdr) (o : FA)
  /-- FADD, R197. -/
  | fadd (h : Hdr) (o : FA)
  /-- FSUB, R197. -/
  | fsub (h : Hdr) (o : FA)
  /-- FMUL, R197. -/
  | fmul (h : Hdr) (o : FA)
  /-- FMA, R197. -/
  | fma (h : Hdr) (o : FA)
  /-- FMIN, R199. -/
  | fmin (h : Hdr) (o : FA)
  /-- FMAX, R199. -/
  | fmax (h : Hdr) (o : FA)
  /-- FABS, R197. -/
  | fabs (h : Hdr) (o : FA)
  /-- FNEG, R197. -/
  | fneg (h : Hdr) (o : FA)
  /-- FCMP, R200. -/
  | fcmp (h : Hdr) (o : FA)
  /-- FDIV, R198. -/
  | fdiv (h : Hdr) (o : FA)
  /-- FSQRT, R198. -/
  | fsqrt (h : Hdr) (o : FA)
  /-- FRCP, R197. -/
  | frcp (h : Hdr) (o : FA)
  /-- FRSQ, R197. -/
  | frsq (h : Hdr) (o : FA)
  /-- FEX2, R197. -/
  | fex2 (h : Hdr) (o : FA)
  /-- FLG2, R197. -/
  | flg2 (h : Hdr) (o : FA)
  /-- FSIN, R197. -/
  | fsin (h : Hdr) (o : FA)
  /-- FCOS, R197. -/
  | fcos (h : Hdr) (o : FA)
  /-- FRND, R202. -/
  | frnd (h : Hdr) (o : FA)
  /-- FCLS, R201. -/
  | fcls (h : Hdr) (o : FA)
  /-- FSCL, R197. -/
  | fscl (h : Hdr) (o : FA)
  /-- FCLP, R199. -/
  | fclp (h : Hdr) (o : FA)
  /-- FDOT2, R201. -/
  | fdot2 (h : Hdr) (o : FA)
  /-- FCVT, R202. -/
  | fcvt (h : Hdr) (o : FA)
  /-- NSCL, R204. -/
  | nscl (h : Hdr) (o : FA)
  /-- NPCK, R205. -/
  | npck (h : Hdr) (o : FA)
  /-- NUNP, R206. -/
  | nunp (h : Hdr) (o : FA)
  /-- NDOT, R207. -/
  | ndot (h : Hdr) (o : FA)
  /-- PCHK, R208. -/
  | pchk (h : Hdr) (o : FA)
  /-- PCHK_PROV, R208. -/
  | pchkProv (h : Hdr) (o : FA)
  /-- PMRK, R209. -/
  | pmrk (h : Hdr) (o : FA)
  /-- PFIX, R210. -/
  | pfix (h : Hdr) (o : FA)
  /-- PLOG, R211. -/
  | plog (h : Hdr) (o : FA)
  /-- SHFL, R213. -/
  | shfl (h : Hdr) (o : FA)
  /-- VOTE, R214. -/
  | vote (h : Hdr) (o : FA)
  /-- BLOT, R214. -/
  | blot (h : Hdr) (o : FA)
  /-- REDX, R215. -/
  | redx (h : Hdr) (o : FA)
  /-- SCAN, R215. -/
  | scan (h : Hdr) (o : FA)
  /-- SRED, R215. -/
  | sred (h : Hdr) (o : FA)
  /-- RDL, R216. -/
  | rdl (h : Hdr) (o : FA)
  /-- WRL, R216. -/
  | wrl (h : Hdr) (o : FA)
  /-- MTCH, R216. -/
  | mtch (h : Hdr) (o : FA)
  /-- GETC, R217. -/
  | getc (h : Hdr) (o : FA)
  /-- SETC, R217. -/
  | setc (h : Hdr) (o : FA)
  /-- GETID, R219. -/
  | getid (h : Hdr) (o : FA)
  /-- CLK, R220. -/
  | clk (h : Hdr) (o : FA)
  /-- BRA, R226. -/
  | bra (h : Hdr) (o : FC)
  /-- BRX, R226. -/
  | brx (h : Hdr) (o : FC)
  /-- CALL, R227. -/
  | call (h : Hdr) (o : FC)
  /-- CALI, R227. -/
  | cali (h : Hdr) (o : FC)
  /-- RET, R227. -/
  | ret (h : Hdr) (o : FC)
  /-- CVB, R229. -/
  | cvb (h : Hdr) (o : FC)
  /-- CVB_CUR, R229. -/
  | cvbCur (h : Hdr) (o : FC)
  /-- CVW, R230. -/
  | cvw (h : Hdr) (o : FC)
  /-- EXIT, R231. -/
  | exit (h : Hdr) (o : FC)
  /-- YIELD, R232. -/
  | yield (h : Hdr) (o : FC)
  /-- NOP, R232. -/
  | nop (h : Hdr) (o : FC)
  /-- LOOP, R228. -/
  | loop (h : Hdr) (o : FC)
  /-- LD, R234. -/
  | ld (h : Hdr) (o : FM)
  /-- ST, R235. -/
  | st (h : Hdr) (o : FM)
  /-- LDT, R236. -/
  | ldt (h : Hdr) (o : FM)
  /-- STT, R236. -/
  | stt (h : Hdr) (o : FM)
  /-- LDV, R238. -/
  | ldv (h : Hdr) (o : FM)
  /-- PFX, R239. -/
  | pfx (h : Hdr) (o : FM)
  /-- ATOM, R241. -/
  | atom (h : Hdr) (o : FM)
  /-- CAS, R242. -/
  | cas (h : Hdr) (o : FM)
  /-- RED, R243. -/
  | red (h : Hdr) (o : FM)
  /-- RFL, R244. -/
  | rfl (h : Hdr) (o : FM)
  /-- FENCE, R245. -/
  | fence (h : Hdr) (o : FM)
  /-- MON, R246. -/
  | mon (h : Hdr) (o : FM)
  /-- MWT, R247. -/
  | mwt (h : Hdr) (o : FI)
  /-- QWAIT, R248. -/
  | qwait (h : Hdr) (o : FM)
  /-- WAKE, R249. -/
  | wake (h : Hdr) (o : FM)
  /-- BAR, R252. -/
  | bar (h : Hdr) (o : FA)
  /-- BSC, R253. -/
  | bsc (h : Hdr) (o : FA)
  /-- ARRV_SET, R254. -/
  | arrvSet (h : Hdr) (o : FA)
  /-- ARRV_ADD, R254. -/
  | arrvAdd (h : Hdr) (o : FA)
  /-- AWT, R255. -/
  | awt (h : Hdr) (o : FA)
  /-- QPUSH, R256. -/
  | qpush (h : Hdr) (o : FA)
  /-- QPOP, R256. -/
  | qpop (h : Hdr) (o : FA)
  /-- LEND, R257. -/
  | lend (h : Hdr) (o : FA)
  /-- CLAIM, R258. -/
  | claim (h : Hdr) (o : FA)
  /-- SEND, R259. -/
  | send (h : Hdr) (o : FA)
  /-- CPY, R267. -/
  | cpy (h : Hdr) (o : FE)
  /-- CPYM, R270. -/
  | cpym (h : Hdr) (o : FE)
  /-- RFET, R275. -/
  | rfet (h : Hdr) (o : FE)
  /-- RFETT, R275. -/
  | rfett (h : Hdr) (o : FE)
  /-- CSEAL, R276. -/
  | cseal (h : Hdr) (o : FE)
  /-- MMA, R279. -/
  | mma (h : Hdr) (o : FA)
  /-- MMSP, R279. -/
  | mmsp (h : Hdr) (o : FA)
  /-- TZRO, R282. -/
  | tzro (h : Hdr) (o : FA)
  /-- TMOV, R282. -/
  | tmov (h : Hdr) (o : FA)
  /-- KBND, R284. -/
  | kbnd (h : Hdr) (o : FA)
  /-- TRMX_GET, R283. -/
  | trmxGet (h : Hdr) (o : FA)
  /-- TRMX_PUT, R283. -/
  | trmxPut (h : Hdr) (o : FA)
  /-- RALC, R287. -/
  | ralc (h : Hdr) (o : FA)
  /-- RPUT, R288. -/
  | rput (h : Hdr) (o : FA)
  /-- RPUT_IN, R288. -/
  | rputIn (h : Hdr) (o : FA)
  /-- RGET, R289. -/
  | rget (h : Hdr) (o : FA)
  /-- RDON, R290. -/
  | rdon (h : Hdr) (o : FA)
  /-- RSD, R291. -/
  | rsd (h : Hdr) (o : FA)
  /-- POST, R292. -/
  | post (h : Hdr) (o : FA)
  /-- SNAP, R293. -/
  | snap (h : Hdr) (o : FA)
  /-- NEST, R295. -/
  | nest (h : Hdr) (o : FL)
  /-- NRED, R296. -/
  | nred (h : Hdr) (o : FL)
  /-- XCON, R301. -/
  | xcon (h : Hdr) (o : FE)
  /-- TRAP, R375. -/
  | trap (h : Hdr) (o : FS)
  /-- TRET, R376. -/
  | tret (h : Hdr) (o : FS)
  /-- TCLR, R377. -/
  | tclr (h : Hdr) (o : FS)
  /-- BRK, R375. -/
  | brk (h : Hdr) (o : FS)
  /-- PARK, R378. -/
  | park (h : Hdr) (o : FS)
  /-- TRES, R379. -/
  | tres (h : Hdr) (o : FS)
  /-- TRES_W, R379. -/
  | tresW (h : Hdr) (o : FS)
  /-- PLCW, R380. -/
  | plcw (h : Hdr) (o : FS)
  /-- XINV, R381. -/
  | xinv (h : Hdr) (o : FS)
  /-- SWAP, R382. -/
  | swap (h : Hdr) (o : FS)
  /-- FCAL, R383. -/
  | fcal (h : Hdr) (o : FS)
  /-- DIAG, R380. -/
  | diag (h : Hdr) (o : FS)
  /-- MEMORY_ACCESS_PERFORM, R108. -/
  | memoryAccessPerform (id : Nat)
  /-- MONITOR_POLL, R123. -/
  | monitorPoll (g : Nat) (lane : Nat)
  /-- MWT_TIMEOUT, R247. -/
  | mwtTimeout (g : Nat) (lane : Nat)
  /-- CLAIM_GRANT, R28. -/
  | claimGrant (k : Nat)
  /-- DEADLOCK_DETECT, R31. -/
  | deadlockDetect (team : Nat)
  /-- CVW_RELEASE, R230. -/
  | cvwRelease (g : Nat) (cb : Nat)
  /-- BAR_DEPARTURE, R252. -/
  | barDeparture (k : Nat)
  /-- ATOMIC_BUFFER_DRAIN, R122. -/
  | atomicBufferDrain (k : Nat)
  /-- CAUSAL_BUFFER_RELEASE, R116. -/
  | causalBufferRelease (id : Nat)
  /-- HAND_QUEUE_APPLY, R101. -/
  | handQueueApply (id : Nat)
  /-- INBOX_MESSAGE_ARRIVAL, R98. -/
  | inboxMessageArrival (id : Nat)
  /-- SENDER_RESET_MARKER, R98. -/
  | senderResetMarker (core : Nat) (ring : Nat)
  /-- ARRIVAL_INCREMENT, R94. -/
  | arrivalIncrement (id : Nat)
  /-- COLOPHON_WRITE, R95. -/
  | colophonWrite (id : Nat)
  /-- COPY_INSTANCE_START, R267. -/
  | copyInstanceStart (team : Nat) (chan : Nat)
  /-- ENGINE_PACKET_WRITE, R268. -/
  | enginePacketWrite (eng : Nat)
  /-- MATRIX_GRANT, R281. -/
  | matrixGrant (cluster : Nat)
  /-- MATRIX_PASS_COMPLETE, R281. -/
  | matrixPassComplete (cluster : Nat)
  /-- INPUT_ACCESSION, R53. -/
  | inputAccession (id : Nat)
  /-- RECORD_ARRIVAL, R58. -/
  | recordArrival (id : Nat)
  /-- RESIDUAL_POST_APPLY, R59. -/
  | residualPostApply (id : Nat)
  /-- CATALOGUE_ANSWER, R288. -/
  | catalogueAnswer (id : Nat)
  /-- BLOCK_ACTIVATION, R46. -/
  | blockActivation (die : Nat)
  /-- COALESCING_TIMER_LAPSE, R61. -/
  | coalescingTimerLapse (graph : Nat) (blk : Nat)
  /-- CATALOGUE_CHOICE, R63. -/
  | catalogueChoice (die : Nat)
  /-- DISPATCH_LAUNCH, R64. -/
  | dispatchLaunch (g : Nat)
  /-- DISPATCH_RETIRE, R65. -/
  | dispatchRetire (graph : Nat) (blk : Nat)
  /-- PROBE_START, R70. -/
  | probeStart (graph : Nat)
  /-- PROBE_ANSWER, R70. -/
  | probeAnswer (graph : Nat)
  /-- REPORT_WRITE, R73. -/
  | reportWrite (graph : Nat)
  /-- GRID_COMPLETE, R16. -/
  | gridComplete (grid : Nat)
  /-- HANDLER_ENTRY, R363. -/
  | handlerEntry (g : Nat) (lane : Nat)
  /-- FAULT_FILL, R369. -/
  | faultFill (cluster : Nat) (entry : Nat)
  /-- FAULT_REFUSE, R369. -/
  | faultRefuse (cluster : Nat) (entry : Nat) (prot : Bool)
  /-- STOP_ARRIVAL, R372. -/
  | stopArrival (team : Nat)
  /-- DBGC_RESUME, R372. -/
  | dbgcResume (team : Nat)
  /-- RESUME_ARRIVAL, R372. -/
  | resumeArrival (team : Nat)
  /-- SINGLE_STEP, R373. -/
  | singleStep (g : Nat) (lane : Nat)
  /-- PREEMPTION_SIGNAL, R385. -/
  | preemptionSignal (cores : List Nat)
  /-- SHADOW_SWAP_COMPLETE, R385. -/
  | shadowSwapComplete (core : Nat)
  /-- SPILL, R387. -/
  | spill (team : Nat)
  /-- PACKET_DEFERRAL, R388. -/
  | packetDeferral (id : Nat)
  /-- ALLOCATION_COPY_COMPLETE, R388. -/
  | allocationCopyComplete (team : Nat)
  /-- TEAM_RESUMPTION, R389. -/
  | teamResumption (team : Nat)
  /-- QTAIL_DOORBELL, R335. -/
  | qtailDoorbell (q : Nat) (value : BitVec 32)
  /-- QUEUE_RUN_WRITE, R335. -/
  | queueRunWrite (q : Nat) (run : Bool)
  /-- NOP_PACKET, R337. -/
  | nopPacket (q : Nat)
  /-- LAUNCH, R341. -/
  | launch (q : Nat)
  /-- WRITE, R337. -/
  | write (q : Nat)
  /-- SIGNAL_PACKET, R337. -/
  | signalPacket (q : Nat)
  /-- WAIT_PACKET, R337. -/
  | waitPacket (q : Nat)
  /-- WAIT_CONDITION_MET, R337. -/
  | waitConditionMet (k : Nat)
  /-- INDIRECT, R338. -/
  | indirect (q : Nat)
  /-- LOAD_STANDING_GRAPH, R345. -/
  | loadStandingGraph (q : Nat)
  /-- START_STANDING_GRAPH, R345. -/
  | startStandingGraph (q : Nat)
  /-- STOP_STANDING_GRAPH, R345. -/
  | stopStandingGraph (q : Nat)
  /-- RESET_STANDING_GRAPH, R345. -/
  | resetStandingGraph (q : Nat)
  /-- UNLOAD_STANDING_GRAPH, R345. -/
  | unloadStandingGraph (q : Nat)
  /-- LOAD_TASK_GRAPH, R345. -/
  | loadTaskGraph (q : Nat)
  /-- UNLOAD_TASK_GRAPH, R345. -/
  | unloadTaskGraph (q : Nat)
  /-- INPUT, R340. -/
  | input (q : Nat)
  /-- INPUT_SLOT_FREED, R340. -/
  | inputSlotFreed (k : Nat)
  /-- TRIGGER, R337. -/
  | trigger (q : Nat)
  /-- COMPLETION_WORD_WRITE, R339. -/
  | completionWordWrite (q : Nat)
  /-- TASK_GRAPH_TRIGGER, R344. -/
  | taskGraphTrigger (part : Nat) (graph : Nat)
  /-- LAUNCH_NODE, R346. -/
  | launchNode (part : Nat) (graph : Nat)
  /-- STANDING_NODE, R346. -/
  | standingNode (part : Nat) (graph : Nat)
  /-- CONDITIONAL_NODE, R346. -/
  | conditionalNode (part : Nat) (graph : Nat)
  /-- LOOP_NODE, R346. -/
  | loopNode (part : Nat) (graph : Nat)
  /-- COPY_NODE, R346. -/
  | copyNode (part : Nat) (graph : Nat)
  /-- WAIT_NODE, R346. -/
  | waitNode (part : Nat) (graph : Nat)
  /-- SIGNAL_NODE, R346. -/
  | signalNode (part : Nat) (graph : Nat)
  /-- TASK_GRAPH_RUN_END, R346. -/
  | taskGraphRunEnd (part : Nat) (graph : Nat)
  /-- TIME_SLICE_SWITCH, R348. -/
  | timeSliceSwitch (part : Nat)
  /-- MSIX_MESSAGE, R349. -/
  | msixMessage (vector : Nat)
  /-- MSIX_UNMASK, R349. -/
  | msixUnmask (vector : Nat)
  /-- IMAGE_LOAD_START, R421. -/
  | imageLoadStart (addr : BitVec 64)
  /-- FCAL_REPLY, R383. -/
  | fcalReply (die : Nat) (team : Nat) (g : Nat) (value : BitVec 32)
  /-- INVALIDATION_START, R404. -/
  | invalidationStart (die : Nat) (addr : BitVec 64) (pages : Nat) (reach : Nat) (part : Nat)
  /-- PARK_RELEASE, R430. -/
  | parkRelease (team : Nat)
  /-- IMGB_WRITE, R430. -/
  | imgbWrite (team : Nat) (value : BitVec 56)
  /-- PARTITION_ENABLE, R406. -/
  | partitionEnable (part : Nat) (run : Bool)
  /-- PLACE_TABLE_COMMIT, R408. -/
  | placeTableCommit (part : Nat)
  /-- CLUSTER_RESET_GO, R412. -/
  | clusterResetGo (die : Nat) (cluster : Nat)
  /-- ISOLATION, R412. -/
  | isolation (die : Nat)
  /-- CUT_PACKET_ARRIVAL, R412. -/
  | cutPacketArrival (id : Nat)
  /-- ISOLATED_PACKET_ANSWER, R413. -/
  | isolatedPacketAnswer (id : Nat)
  /-- RESET_COMPLETE, R412. -/
  | resetComplete (die : Nat)
  /-- RESTORE, R414. -/
  | restore (die : Nat)
  /-- HBM_RELEASE, R417. -/
  | hbmRelease (die : Nat)
  /-- MAILBOX_START, R418. -/
  | mailboxStart (addr : BitVec 64)
  /-- HOST_MEM_ACCESS, R425. -/
  | hostMemAccess (pa : Nat) (data : List (BitVec 8)) (write : Bool)
  /-- BACK_INVALIDATE, R425. -/
  | backInvalidate (line : Nat)
  /-- REGISTER_WRITE, R428. -/
  | registerWrite (agent : Nat) (offset : Nat) (size : Nat) (value : BitVec 64)
  /-- COPY_BACK_COMPLETE, R389. -/
  | copyBackComplete (team : Nat)
  /-- RESULT_LAND, R37. -/
  | resultLand
  /-- QWAIT_RETRY, R248. -/
  | qwaitRetry
  /-- PAGE_WALK, R403. -/
  | pageWalk
  /-- STANDING_TEAM_FORMED, R50. -/
  | standingTeamFormed
  /-- TEAM_START, R343. -/
  | teamStart
  /-- IMAGE_LOAD_COMPLETE, R421. -/
  | imageLoadComplete
  /-- MODULE_RESET, R417. -/
  | moduleReset
  /-- MONITOR_LEVEL, R417. -/
  | monitorLevel
  /-- LPDDR_ONLY_LEVEL, R417. -/
  | lpddrOnlyLevel
  /-- FUNCTION_LEVEL_RESET, R424. -/
  | functionLevelReset
  /-- CLOCK_STEP_UPDATE, R427. -/
  | clockStepUpdate
  /-- THERMAL_TRIP, R427. -/
  | thermalTrip
  deriving DecidableEq, Repr

end Sys2Proof
end

