-- ==== Sys2Proof/Machine/Legal.lean ====
section
/-! DEFINITION. Which encodings are legal: the checks of row 4 of spec/06 R180, made of the fields alone (06 R168 to R178 and the field rules of each entry of 07, 08, 09 and 16). -/
namespace Sys2Proof.Machine
open Sys2Proof

/-- An unused operand field: all ten bits zero (06 R171). -/
def noOpnd (o : Opnd) : Bool := o == .v 0

/-- A source held per lane or per thread (06 R174). -/
def perLane : Opnd → Bool
  | .v _ | .x _ | .k _ => true
  | .p n => n != 7
  | _ => false

/-- The frame: PG 0b111 with PN is illegal (06 R169); WS only where allowed (R170). -/
def hdrOk (h : Hdr) (ws : Bool) : Bool := !(h.pg == 7 && h.pn) && (ws || !h.ws)

/-- Field "R" for a type: V, S, X or C, even for 64 bits (06 R172, R173, 07 R186). -/
def srcR (ty : NTy) : Opnd → Bool
  | .v n | .s n => tyBits ty != 64 || n.toNat % 2 == 0
  | .x n => tyBits ty != 64 || n.toNat % 2 == 0
  | .c n => (constVal ty n.toNat).isSome
  | _ => false

/-- A scalar index is below 96 (06 R171). -/
def idxOk : Opnd → Bool
  | .s n => decide (n.toNat < 96)
  | _ => true

def isV : Opnd → Bool
  | .v _ => true
  | _ => false

def isS : Opnd → Bool
  | .s _ => true
  | _ => false

def isP : Opnd → Bool
  | .p _ => true
  | _ => false

def isT : Opnd → Bool
  | .t _ => true
  | _ => false

def isX : Opnd → Bool
  | .x _ => true
  | _ => false

/-- A predicate destination: p7 is read only (06 R171). -/
def isPd : Opnd → Bool
  | .p n => n != 7
  | _ => false

/-- V or S, even when `wide`. -/
def regVS (wide : Bool) : Opnd → Bool
  | .v n | .s n => !wide || n.toNat % 2 == 0
  | _ => false

/-- A vector or scalar register whose index is a multiple of `k`. -/
def alignedBy (k : Nat) : Opnd → Bool
  | .v n | .s n => n.toNat % k == 0
  | _ => false

/-- A range of `k` registers within its class (07 R188). -/
def rangeIn (k : Nat) : Opnd → Bool
  | .v n => decide (n.toNat + k ≤ 256)
  | .s n => decide (n.toNat + k ≤ 96)
  | _ => false

/-- S, or a constant of the type. -/
def srcSC (ty : NTy) : Opnd → Bool
  | .s n => tyBits ty != 64 || n.toNat % 2 == 0
  | .c n => (constVal ty n.toNat).isSome
  | _ => false

/-- The uniform rule: a scalar destination takes no per-lane source and no guard (06 R174). DESIGN CHOICE: p7, which reads as true for every lane, is no per-lane source. -/
def uniOk (h : Hdr) (dst : Opnd) (srcs : List Opnd) : Bool :=
  !isS dst || (!srcs.any perLane && h.pg == 7)

/-- Rules of LT and WS for a format-A register destination, or for any other destination (06 R170, R172). -/
def latchOk (h : Hdr) (dst : Opnd) (lt : BitVec 3) (wide : Bool) : Bool :=
  if isV dst || isS dst then (!wide || lt.toNat % 2 == 0) else lt == 0 && !h.ws

/-- Every scalar index of a format-A instruction is below 96. -/
def idxA (o : FA) : Bool := idxOk o.dst && idxOk o.sa && idxOk o.sb && idxOk o.sc

/-- The parts common to every format-A instruction. -/
def frameA (h : Hdr) (o : FA) (wide : Bool) : Bool :=
  hdrOk h true && idxA o && latchOk h o.dst o.lt wide

def fnLo (h : Hdr) : Nat := h.fn.toNat % 16
def fnHi (h : Hdr) : Nat := h.fn.toNat / 16

/-- Integer instruction of 07 R189: `vmax` is the highest variant, `n` the number of sources, `sh` says that b is one 32-bit operand. -/
def intOk (h : Hdr) (o : FA) (vmax n : Nat) (sh : Bool) : Bool :=
  match intTyOf (fnLo h) with
  | none => false
  | some ty =>
    decide (fnHi h ≤ vmax) && frameA h o (tyBits ty == 64) && regVS (tyBits ty == 64) o.dst
      && srcR ty o.sa
      && (if n < 2 then noOpnd o.sb else srcR (if sh then .n32 else ty) o.sb)
      && (if n < 3 then noOpnd o.sc else srcR ty o.sc)
      && o.md == 0 && o.imm == 0
      && uniOk h o.dst ([o.sa] ++ (if n < 2 then [] else [o.sb]) ++ (if n < 3 then [] else [o.sc]))

/-- `bfx` and `bfi` (07 R191): position and length within the width. -/
def bitfieldOk (h : Hdr) (o : FA) (n : Nat) : Bool :=
  match intTyOf (fnLo h) with
  | none => false
  | some ty =>
    let pos := o.imm.toNat % 128
    let len := o.imm.toNat / 256 % 128
    fnHi h == 0 && frameA h o (tyBits ty == 64) && regVS (tyBits ty == 64) o.dst && srcR ty o.sa
      && (if n < 2 then noOpnd o.sb else srcR ty o.sb) && noOpnd o.sc && o.md == 0
      && !bitOf o.imm.toNat 15 && !bitOf o.imm.toNat 7
      && decide (pos < tyBits ty) && decide (0 < len) && decide (len ≤ tyBits ty)
      && uniOk h o.dst ([o.sa] ++ (if n < 2 then [] else [o.sb]))

/-- A comparison whose sources are all scalar or constant and that combines with no predicate is uniform, so it takes no guard (07 R187). -/
def cmpUniOk (h : Hdr) (o : FA) (combine : Bool) : Bool :=
  combine || perLane o.sa || perLane o.sb || h.pg == 7

/-- A combining predicate, or no field at all (07 R192). -/
def combineOk (mode : Nat) (sc : Opnd) : Bool :=
  decide (mode < 3) && (if mode = 0 then noOpnd sc else isP sc)

def cmpOk (h : Hdr) (o : FA) : Bool :=
  match intTyOf (fnLo h) with
  | none => false
  | some ty =>
    decide (fnHi h < 6) && frameA h o false && isPd o.dst && srcR ty o.sa && srcR ty o.sb
      && decide (o.md.toNat < 4) && combineOk o.md.toNat o.sc && o.imm == 0
      && cmpUniOk h o (o.md != 0)

def selOk (h : Hdr) (o : FA) : Bool :=
  match intTyOf (fnLo h) with
  | none => false
  | some ty =>
    fnHi h == 0 && frameA h o (tyBits ty == 64) && regVS (tyBits ty == 64) o.dst && srcR ty o.sa
      && srcR ty o.sb && isP o.sc && o.md == 0 && o.imm == 0 && uniOk h o.dst [o.sa, o.sb, o.sc]

def leaOk (h : Hdr) (o : FA) : Bool :=
  match intTyOf (fnLo h) with
  | none => false
  | some ty =>
    fnHi h == 0 && frameA h o (tyBits ty == 64) && regVS (tyBits ty == 64) o.dst && srcR ty o.sa
      && srcR ty o.sb && noOpnd o.sc && decide (o.md.toNat < 8) && uniOk h o.dst [o.sa, o.sb]

def addcOk (h : Hdr) (o : FA) : Bool :=
  match intTyOf (fnLo h) with
  | none => false
  | some ty =>
    fnHi h == 0 && frameA h o (tyBits ty == 64) && regVS (tyBits ty == 64) o.dst && srcR ty o.sa
      && srcR ty o.sb && (isP o.sc || o.sc == .c 0 || o.sc == .c 1) && o.imm == 0
      && decide (o.md.toNat < 16) && (if o.md.toNat < 8 then o.md == 0 else o.md.toNat != 15)
      && uniOk h o.dst [o.sa, o.sb, o.sc]

def movOk (h : Hdr) (o : FA) : Bool :=
  match intTyOf (fnLo h) with
  | none => false
  | some ty =>
    fnHi h == 0 && frameA h o (tyBits ty == 64) && noOpnd o.sb && noOpnd o.sc && o.md == 0 && o.imm == 0
      && (match o.dst, o.sa with
          | .p n, .p _ => n != 7
          | .p n, a => n != 7 && srcR ty a
          | d, .p _ => regVS (tyBits ty == 64) d && (!isS d || h.pg == 7)
          | d, .k _ => regVS (tyBits ty == 64) d && (!isS d || h.pg == 7)
          | d, a => regVS (tyBits ty == 64) d && srcR ty a && uniOk h d [a])

def moviOk (h : Hdr) (o : FI) : Bool :=
  match intTyOf (fnLo h) with
  | none => false
  | some ty => fnHi h == 0 && hdrOk h false && idxOk o.dst && regVS (tyBits ty == 64) o.dst && noOpnd o.sa
      && noOpnd o.sb && uniOk h o.dst []

def movwOk (h : Hdr) (o : FW) : Bool :=
  (h.fn == 6 || h.fn == 7) && hdrOk h false && idxOk o.dst && regVS true o.dst && uniOk h o.dst []

/-- `cvt` (07 R196). -/
def cvtOk (h : Hdr) (o : FA) : Bool :=
  match tyOfCode (fnLo h), tyOfCode o.md.toNat with
  | some d, some s =>
    frameA h o (tyBits d == 64) && regVS (tyBits d == 64) o.dst && srcR s o.sa && noOpnd o.sb
      && noOpnd o.sc && o.imm == 0 && uniOk h o.dst [o.sa]
      && (if tyFloat d && tyFloat s then false
          else if tyFloat d || tyFloat s then rmodeLegal (fnHi h) else decide (fnHi h < 2))
  | _, _ => false

/-- Float instruction of `n` sources (07 R197); `rounds` says that FN[7:4] is a rounding mode, `b32` that b is one 32-bit operand. -/
def floatOk (h : Hdr) (o : FA) (n : Nat) (rounds b32 : Bool) : Bool :=
  match floatTyOf (fnLo h) with
  | none => false
  | some ty =>
    (if rounds then rmodeLegal (fnHi h) else fnHi h == 0)
      && frameA h o (tyBits ty == 64) && regVS (tyBits ty == 64) o.dst && srcR ty o.sa
      && (if n < 2 then noOpnd o.sb else srcR (if b32 then .s32 else ty) o.sb)
      && (if n < 3 then noOpnd o.sc else srcR ty o.sc) && o.md == 0 && o.imm == 0
      && uniOk h o.dst ([o.sa] ++ (if n < 2 then [] else [o.sb]) ++ (if n < 3 then [] else [o.sc]))

def fcmpOk (h : Hdr) (o : FA) : Bool :=
  match floatTyOf (fnLo h) with
  | none => false
  | some ty =>
    fnHi h == 0 && frameA h o false && isPd o.dst && srcR ty o.sa && srcR ty o.sb
      && decide (o.md.toNat % 8 < 6) && combineOk (o.md.toNat / 8) o.sc && o.imm == 0
      && cmpUniOk h o (o.md.toNat / 8 != 0)

/-- `fcls` writes an n32 mask (07 R201). -/
def fclsOk (h : Hdr) (o : FA) : Bool :=
  match floatTyOf (fnLo h) with
  | none => false
  | some ty =>
    fnHi h == 0 && frameA h o false && regVS false o.dst && srcR ty o.sa && noOpnd o.sb && noOpnd o.sc
      && o.md == 0 && o.imm == 0 && uniOk h o.dst [o.sa]

/-- `fdot2` reads two 16-bit elements from each of a and b; a constant there is read as an untyped 32-bit value (07 R201, 06 R173). -/
def fdot2Ok (h : Hdr) (o : FA) : Bool :=
  (fnLo h == 2 || fnLo h == 3) && rmodeLegal (fnHi h) && frameA h o false && regVS false o.dst
    && srcR .s32 o.sa && srcR .s32 o.sb && srcR .f32 o.sc && o.md == 0 && o.imm == 0
    && uniOk h o.dst [o.sa, o.sb, o.sc]

/-- `fcvt` (07 R202). -/
def fcvtOk (h : Hdr) (o : FA) : Bool :=
  match floatTyOf (fnLo h), floatTyOf o.md.toNat with
  | some d, some s =>
    rmodeLegal (fnHi h) && d != s && frameA h o (tyBits d == 64) && regVS (tyBits d == 64) o.dst
      && srcR s o.sa && noOpnd o.sb && noOpnd o.sc && o.imm == 0 && uniOk h o.dst [o.sa]
  | _, _ => false

/-- Fields common to the narrow instructions (07 R203). -/
def narrowFn (h : Hdr) (o : FA) (rounds : Bool) : Bool :=
  !bitOf h.fn.toNat 3 && (if rounds then rmodeLegal (fnHi h) else fnHi h == 0) && decide (o.md.toNat < 6)

/-- Element width of a narrow instruction. -/
def narrowW (o : FA) : Nat := o.md.toNat + 3

/-- A quad of vector registers. -/
def quadV (o : Opnd) : Bool := isV o && alignedBy 4 o

/-- Byte select in IMM16[1:0], first element in [7:2], count in [13:8], all within the container (07 R203). -/
def elemsOk (o : FA) : Bool :=
  decide (o.imm.toNat < 2 ^ 14) && decide (0 < o.imm.toNat / 256 % 64)
    && decide (o.imm.toNat / 4 % 64 + o.imm.toNat / 256 % 64 ≤ 120 / narrowW o)

/-- `nscl` (07 R204). -/
def nsclOk (h : Hdr) (o : FA) : Bool :=
  narrowFn h o false && frameA h o false && isV o.dst && isV o.sa && noOpnd o.sb && noOpnd o.sc
    && decide (o.imm.toNat < 4)

/-- `npck` (07 R205). -/
def npckOk (h : Hdr) (o : FA) : Bool :=
  narrowFn h o true && frameA h o false && quadV o.dst && isV o.sa && rangeIn (o.imm.toNat / 256 % 64) o.sa
    && isV o.sb && noOpnd o.sc && elemsOk o

/-- `nunp` (07 R206). -/
def nunpOk (h : Hdr) (o : FA) : Bool :=
  narrowFn h o true && frameA h o false && isV o.dst && rangeIn (o.imm.toNat / 256 % 64) o.dst && quadV o.sa
    && isV o.sb && noOpnd o.sc && elemsOk o

/-- `ndot` (07 R207). -/
def ndotOk (h : Hdr) (o : FA) : Bool :=
  narrowFn h o true && frameA h o false && isV o.dst && quadV o.sa && quadV o.sb && isV o.sc
    && decide (o.imm.toNat < 16)

/-- `pchk`, variant 0 (07 R208). -/
def pchkOk (h : Hdr) (o : FA) : Bool :=
  match floatTyOf (fnLo h) with
  | none => false
  | some ty => fnHi h == 0 && frameA h o false && isPd o.dst && srcR ty o.sa && noOpnd o.sb && noOpnd o.sc
      && o.md == 0 && o.imm == 0

/-- `pchk.prov` (07 R208); a scalar destination is a form of R187. -/
def pchkProvOk (h : Hdr) (o : FA) : Bool :=
  match floatTyOf (fnLo h) with
  | none => false
  | some ty => fnHi h == 1 && frameA h o false && regVS false o.dst && (!isS o.dst || h.pg == 7) && srcR ty o.sa
      && noOpnd o.sb && noOpnd o.sc && o.md == 0 && o.imm == 0

def pmrkOk (h : Hdr) (o : FA) : Bool :=
  match floatTyOf (fnLo h) with
  | none => false
  | some ty => fnHi h == 0 && frameA h o (tyBits ty == 64) && regVS (tyBits ty == 64) o.dst && noOpnd o.sa
      && noOpnd o.sb && noOpnd o.sc && o.md == 0 && o.imm == 0 && uniOk h o.dst []

def pfixOk (h : Hdr) (o : FA) : Bool :=
  match floatTyOf (fnLo h) with
  | none => false
  | some ty => fnHi h == 0 && frameA h o (tyBits ty == 64) && regVS (tyBits ty == 64) o.dst && srcR ty o.sa
      && srcR ty o.sb && noOpnd o.sc && o.md == 0 && o.imm == 0 && uniOk h o.dst [o.sa, o.sb]

/-- `plog` (07 R211): a range of eight registers from a multiple of 8. -/
def plogOk (h : Hdr) (o : FA) : Bool :=
  h.fn == 0 && frameA h o false && regVS false o.dst && alignedBy 8 o.dst && rangeIn 8 o.dst && srcR .n32 o.sa
    && noOpnd o.sb && noOpnd o.sc && o.md == 0 && o.imm == 0 && uniOk h o.dst [o.sa]

/-- Width code of the lane moves: 0 b32, 1 b64 (07 R212). -/
def laneTy (h : Hdr) : Option NTy :=
  if fnLo h = 0 then some .s32 else if fnLo h = 1 then some .s64 else none

/-- A validity predicate in IMM16[3:0] (07 R213): p7 and stray bits are illegal. -/
def validOk (imm : Nat) : Bool := imm == 0 || (decide (8 ≤ imm) && decide (imm < 15))

def shflOk (h : Hdr) (o : FA) : Bool :=
  match laneTy h with
  | none => false
  | some ty => decide (fnHi h < 4) && frameA h o (tyBits ty == 64) && isV o.dst && regVS (tyBits ty == 64) o.dst
      && srcR ty o.sa && srcR .n32 o.sb && noOpnd o.sc && o.md == 0 && validOk o.imm.toNat

def voteOk (h : Hdr) (o : FA) : Bool :=
  fnLo h == 0 && decide (fnHi h < 4) && frameA h o false && isP o.sa && noOpnd o.sb && noOpnd o.sc
    && o.md == 0 && o.imm == 0
    && (if fnHi h = 3 then regVS false o.dst && (!isS o.dst || h.pg == 7) else isPd o.dst)

def blotOk (h : Hdr) (o : FA) : Bool :=
  h.fn == 0 && frameA h o false && isV o.dst && isP o.sa && noOpnd o.sb && noOpnd o.sc && o.md == 0 && o.imm == 0

/-- `redx`, `scan` and `sred` (07 R215). -/
def reduceOk (h : Hdr) (o : FA) (scan scalar : Bool) : Bool :=
  match tyOfCode (fnLo h) with
  | none => false
  | some ty =>
    decide (fnHi h < 6) && !(tyFloat ty && decide (3 ≤ fnHi h))
      && (if tyFloat ty && fnHi h == 0 then rmodeLegal (o.md.toNat % 16) else o.md.toNat % 16 == 0)
      && (scan || decide (o.md.toNat < 16))
      && frameA h o (tyBits ty == 64) && regVS (tyBits ty == 64) o.dst
      && (if scalar then isS o.dst && h.pg == 7 && (isV o.sa || isX o.sa) else isV o.dst)
      && srcR ty o.sa && noOpnd o.sb && noOpnd o.sc && o.imm == 0

def rdlOk (h : Hdr) (o : FA) : Bool :=
  match laneTy h with
  | none => false
  | some ty => fnHi h == 0 && h.pg == 7 && frameA h o (tyBits ty == 64) && isS o.dst && regVS (tyBits ty == 64) o.dst
      && (isV o.sa || isX o.sa) && srcR ty o.sa && srcSC .n32 o.sb && noOpnd o.sc && o.md == 0 && validOk o.imm.toNat

def wrlOk (h : Hdr) (o : FA) : Bool :=
  match laneTy h with
  | none => false
  | some ty => fnHi h == 0 && frameA h o (tyBits ty == 64) && isV o.dst && regVS (tyBits ty == 64) o.dst
      && srcSC ty o.sa && srcSC .n32 o.sb && noOpnd o.sc && o.md == 0 && o.imm == 0

def mtchOk (h : Hdr) (o : FA) : Bool :=
  match laneTy h with
  | none => false
  | some ty => fnHi h == 0 && frameA h o false && isV o.dst && (isV o.sa || isX o.sa) && srcR ty o.sa && noOpnd o.sb
      && noOpnd o.sc && o.md == 0 && o.imm == 0

/-- Control registers that exist (07 R217). -/
def cregOk (i : Nat) : Bool :=
  i == 0 || i == 1 || (decide (8 ≤ i) && decide (i < 0x23))

/-- Control registers that `setc` may write (07 R217). -/
def cregRw (i : Nat) : Bool := cregOk i && decide (i < 0x20)

def getcOk (h : Hdr) (o : FA) : Bool :=
  h.fn == 0 && frameA h o false && regVS false o.dst && noOpnd o.sa && noOpnd o.sb && noOpnd o.sc && o.md == 0
    && cregOk o.imm.toNat && uniOk h o.dst []

def setcOk (h : Hdr) (o : FA) : Bool :=
  h.fn == 0 && frameA h o false && noOpnd o.dst && o.lt == 0 && !h.ws && srcSC .n32 o.sa && noOpnd o.sb && noOpnd o.sc
    && o.md == 0 && cregRw o.imm.toNat

/-- `getid` (07 R219): items 0 to 2 are held per thread. -/
def getidOk (h : Hdr) (o : FA) : Bool :=
  h.fn == 0 && frameA h o false && regVS false o.dst && noOpnd o.sa && noOpnd o.sb && noOpnd o.sc && o.md == 0
    && decide (o.imm.toNat < 13) && !(isS o.dst && decide (o.imm.toNat < 3)) && uniOk h o.dst []

def clkOk (h : Hdr) (o : FA) : Bool :=
  h.fn == 0 && frameA h o (decide (o.imm.toNat < 2)) && regVS (decide (o.imm.toNat < 2)) o.dst && noOpnd o.sa
    && noOpnd o.sb && noOpnd o.sc && o.md == 0 && decide (o.imm.toNat < 3) && uniOk h o.dst []

/-! Format C (08 R225). -/

/-- A V or S pair with an even index. -/
def pairVS (o : Opnd) : Bool := regVS true o && idxOk o

/-- An S pair with an even index. -/
def pairS (o : Opnd) : Bool := isS o && regVS true o && idxOk o

/-- Splits the ten bits of an operand field into class and index (06 R171); none for an illegal index. -/
def opndOfBits (n : Nat) : Option Opnd :=
  if n < 256 then some (.v (BitVec.ofNat 8 n))
  else if n < 512 then some (.s (BitVec.ofNat 8 (n - 256)))
  else if n < 520 then some (.x (BitVec.ofNat 3 (n - 512)))
  else if n < 528 then some (.p (BitVec.ofNat 3 (n - 520)))
  else if n < 544 then some (.t (BitVec.ofNat 4 (n - 528)))
  else if n < 548 then some (.k (BitVec.ofNat 2 (n - 544)))
  else if n < 768 then none
  else some (.c (BitVec.ofNat 8 (n - 768)))

/-- The link operand of `call` and `cali` (08 R225). -/
def linkOf (o : FC) : Opnd := (opndOfBits (o.aux.toNat / 2 ^ 17)).getD (.c 0)

/-- A scalar link needs an unguarded call, for a scalar destination is written once for the set (06 R174). -/
def linkOk (h : Hdr) (o : FC) : Bool :=
  pairVS (linkOf o) && (!isS (linkOf o) || h.pg == 7)

def frameC (h : Hdr) (fn : Nat) : Bool := hdrOk h false && h.fn.toNat == fn

def noTarget (o : FC) : Bool := o.loff == 0 && o.slot == 0

def braOk (h : Hdr) (o : FC) : Bool := frameC h 0 && noOpnd o.src && o.aux == 0
def brxOk (h : Hdr) (o : FC) : Bool := frameC h 0 && pairVS o.src && noTarget o && o.aux == 0
def callOk (h : Hdr) (o : FC) : Bool :=
  frameC h 0 && noOpnd o.src && linkOk h o && bitsOf o.aux.toNat 16 5 == 0
def caliOk (h : Hdr) (o : FC) : Bool :=
  frameC h 0 && pairVS o.src && noTarget o && linkOk h o && !(isS (linkOf o) && isV o.src) && bitsOf o.aux.toNat 16 0 == 0
def cvbOk (h : Hdr) (o : FC) : Bool :=
  frameC h 0 && h.pg == 7 && idxOk o.src && srcSC .n32 o.src && noTarget o && decide (o.aux.toNat < 4)
def cvbCurOk (h : Hdr) (o : FC) : Bool :=
  frameC h 1 && noOpnd o.src && noTarget o && decide (o.aux.toNat < 4)
def cvwOk (h : Hdr) (o : FC) : Bool :=
  frameC h 0 && noOpnd o.src && noTarget o && decide (o.aux.toNat < 4)
def plainC (h : Hdr) (o : FC) : Bool := frameC h 0 && noOpnd o.src && noTarget o && o.aux == 0
def loopOk (h : Hdr) (o : FC) : Bool :=
  frameC h 0 && regVS false o.src && idxOk o.src && (!isS o.src || h.pg == 7) && o.aux == 0

/-! Format M (08 R233 to R249). -/

def idxM (o : FM) : Bool := idxOk o.d && idxOk o.base && idxOk o.index

/-- Base pair, index of any readable class, scope and width codes (06 R175, R176, 04 R110). -/
def frameM (h : Hdr) (o : FM) : Bool :=
  hdrOk h false && idxM o && pairVS o.base
    && (match o.index with
        | .t _ => false
        | .c n => (constVal .s32 n.toNat).isSome
        | _ => true)
    && decide (o.width.toNat < 6) && decide (o.scope.toNat < 5)

/-- A register operand of the width (08 R233): pairs at b64, quads at b128. -/
def regOfWidth (w : Nat) (o : Opnd) : Bool :=
  match w with
  | 3 => regVS true o
  | 4 => regVS false o && alignedBy 4 o && rangeIn 4 o
  | _ => regVS false o

/-- Orders allowed: relaxed and one other. -/
def orderIn (o : FM) (l : List Nat) : Bool := l.contains o.order.toNat

def ldFn (h : Hdr) (w : Nat) : Bool := h.fn == 0 || (h.fn == 1 && decide (w < 2))

def ldOk (h : Hdr) (o : FM) : Bool :=
  frameM h o && ldFn h o.width.toNat && decide (o.width.toNat < 5) && regOfWidth o.width.toNat o.d
    && orderIn o [0, 1] && uniOk h o.d [o.base, o.index]

def stOk (h : Hdr) (o : FM) : Bool :=
  frameM h o && h.fn == 0 && decide (o.width.toNat < 5) && orderIn o [0, 2]
    && (match o.d with
        | .c n => decide (o.width.toNat < 4) && (constVal (if o.width.toNat = 3 then .s64 else .s32) n.toNat).isSome
        | d => regOfWidth o.width.toNat d)

/-- A base and index that are uniform, without a guard (08 R222). -/
def onceM (h : Hdr) (o : FM) : Bool := h.pg == 7 && !perLane o.base && !perLane o.index && (isS o.index || (match o.index with | .c _ => true | _ => false))

/-- FN of a tile load: [5:4] transpose 0 to 2, [3] strided (08 R233). -/
def tileFn (h : Hdr) : Bool := h.fn.toNat % 8 == 0 && decide (h.fn.toNat < 48)

def ldtOk (h : Hdr) (o : FM) : Bool :=
  frameM h o && tileFn h && isT o.d && o.width == 5 && onceM h o && orderIn o [0, 1]

def sttOk (h : Hdr) (o : FM) : Bool :=
  frameM h o && h.fn.toNat % 8 == 0 && decide (h.fn.toNat < 32) && isT o.d && o.width == 5 && onceM h o && orderIn o [0, 2]

def ldvOk (h : Hdr) (o : FM) : Bool :=
  if o.width == 5 then frameM h o && tileFn h && isT o.d && onceM h o && orderIn o [0, 1]
  else ldOk h o

def pfxOk (h : Hdr) (o : FM) : Bool :=
  frameM h o && h.fn == 0 && noOpnd o.d && o.scope == 0 && o.order == 0

/-- Types of the atomics (08 R240). -/
def atomTy (n : Nat) : Option NTy :=
  match n with
  | 4 => some .s32
  | 5 => some .n32
  | 6 => some .s64
  | 7 => some .n64
  | 8 => some .f64
  | 9 => some .f32
  | _ => none

/-- WIDTH b32 or b64 as the type has it. -/
def widthIs (o : FM) (ty : NTy) : Bool := o.width.toNat == (if tyBits ty = 64 then 3 else 2)

def atomOpOk (ty : NTy) (op : Nat) (exch : Bool) : Bool :=
  (decide (op < 3) || (decide (op < 6) && !tyFloat ty) || (exch && op == 6))

def atomOk (h : Hdr) (o : FM) : Bool :=
  match atomTy (fnLo h) with
  | none => false
  | some ty => frameM h o && widthIs o ty && atomOpOk ty (fnHi h) true && regVS (tyBits ty == 64) o.d
      && uniOk h o.d [o.base, o.index]

def casOk (h : Hdr) (o : FM) : Bool :=
  frameM h o && uniOk h o.d [o.base, o.index]
    && ((h.fn == 5 && o.width == 2 && regVS true o.d) || (h.fn == 7 && o.width == 3 && regVS false o.d && alignedBy 4 o.d && rangeIn 4 o.d))

def redOk (h : Hdr) (o : FM) : Bool :=
  match atomTy (fnLo h) with
  | none => false
  | some ty => frameM h o && widthIs o ty && atomOpOk ty (fnHi h) false && o.order == 0
      && (match o.d with
          | .c n => (constVal ty n.toNat).isSome
          | d => regVS (tyBits ty == 64) d)

/-- Every operand field of a format-M instruction is zero. -/
def emptyM (o : FM) : Bool := noOpnd o.d && noOpnd o.base && noOpnd o.index && o.width == 0 && o.hint == 0 && o.off == 0 && o.order == 0

def rflOk (h : Hdr) (o : FM) : Bool := hdrOk h false && h.fn == 0 && emptyM o && o.scope == 0

def fenceOk (h : Hdr) (o : FM) : Bool := hdrOk h false && decide (h.fn.toNat < 4) && emptyM o && decide (o.scope.toNat < 5)

def monOk (h : Hdr) (o : FM) : Bool :=
  match atomTy (fnLo h) with
  | none => false
  | some ty => !tyFloat ty && decide (fnHi h < 6) && frameM h o && widthIs o ty && orderIn o [0, 1]
      && (match o.d with
          | .c n => (constVal ty n.toNat).isSome
          | d => regVS (tyBits ty == 64) d)

def mwtOk (h : Hdr) (o : FI) : Bool :=
  h.fn == 0 && hdrOk h false && regVS false o.dst && idxOk o.dst && noOpnd o.sa && noOpnd o.sb && uniOk h o.dst []

def qwaitOk (h : Hdr) (o : FM) : Bool :=
  frameM h o && h.fn == 0 && noOpnd o.d && o.width == 3 && o.scope == 0 && o.order == 0

def wakeOk (h : Hdr) (o : FM) : Bool :=
  frameM h o && h.fn == 0 && o.width == 3 && o.order == 0
    && (match o.d with
        | .c n => (constVal .n32 n.toNat).isSome
        | d => regVS false d)

/-! Synchronisation, format A (08 R251). -/

/-- Frame of the synchronisation instructions: FN and LT 0; `w` says that a register is written, so that WS is legal (06 R170). -/
def frameSync (h : Hdr) (o : FA) (fn : Nat) (w : Bool) : Bool :=
  hdrOk h w && h.fn.toNat == fn && idxA o && o.lt == 0 && noOpnd o.sc

def barOk (h : Hdr) (o : FA) : Bool :=
  (frameSync h o 0 false || frameSync h o 0x10 false) && h.pg == 7 && noOpnd o.dst && noOpnd o.sa && noOpnd o.sb && o.md == 0
    && (if h.fn == 0 then decide (o.imm.toNat < 4) else o.imm == 0)

def bscOk (h : Hdr) (o : FA) : Bool :=
  (frameSync h o 0 true || frameSync h o 0x10 true) && h.pg == 7 && isS o.dst && srcSC .s32 o.sa && srcSC .n32 o.sb && o.md == 0
    && (if h.fn == 0 then decide (o.imm.toNat < 4) else o.imm == 0)

def arrvOk (h : Hdr) (o : FA) (fn : Nat) : Bool :=
  frameSync h o fn false && noOpnd o.dst && pairVS o.sa && srcR .n32 o.sb && o.md == 0 && o.imm == 0

def awtOk (h : Hdr) (o : FA) : Bool :=
  frameSync h o 0 true && regVS false o.dst && pairVS o.sa && srcR .n32 o.sb && o.md == 0 && o.imm == 0
    && uniOk h o.dst [o.sa, o.sb]

def qpushOk (h : Hdr) (o : FA) : Bool :=
  frameSync h o 0 false && h.pg == 7 && noOpnd o.dst && pairS o.sa && noOpnd o.sb && o.md == 0 && decide (o.imm.toNat < 8)

def qpopOk (h : Hdr) (o : FA) : Bool :=
  frameSync h o 0 true && h.pg == 7 && pairS o.dst && noOpnd o.sa && noOpnd o.sb && o.md == 0 && decide (o.imm.toNat < 8)

def lendOk (h : Hdr) (o : FA) : Bool :=
  frameSync h o 0 false && h.pg == 7 && noOpnd o.dst && srcSC .n32 o.sa && noOpnd o.sb && o.md == 0 && o.imm == 0

/-- Payload registers of `send` (08 R259). -/
def sendRegs (o : FA) : Nat := (o.imm.toNat / 256 % 64 + 3) / 4

def sendOk (h : Hdr) (o : FA) : Bool :=
  frameSync h o 0 false && isPd o.dst && srcR .n32 o.sa
    && decide (1 ≤ o.md.toNat) && decide (o.md.toNat ≤ 3)
    && decide (o.imm.toNat / 256 ≤ 56) && bitsOf o.imm.toNat 7 3 == 0
    && (if o.imm.toNat / 256 = 0 then noOpnd o.sb else regVS false o.sb && rangeIn (sendRegs o) o.sb)

/-! Engines, format E (09 R265 to R276, R298). -/

def idxE (o : FE) : Bool := idxOk o.dst && idxOk o.sa && idxOk o.sb && idxOk o.sc

def frameE (h : Hdr) (o : FE) : Bool := hdrOk h false && h.fn == 0 && idxE o

/-- An S pair, or constant 0 for none. -/
def pairS0 (o : Opnd) : Bool := pairS o || o == .c 0

def cpyOk (h : Hdr) (o : FE) : Bool :=
  frameE h o && h.pg == 7 && noOpnd o.dst && pairS o.sa && pairS0 o.sb && pairS0 o.sc
    && decide (bitsOf o.ctl.toNat 23 16 ≤ 191) && bitsOf o.ctl.toNat 11 0 == 0
    && bitsOf o.ext.toNat 95 64 == 0 && bitsOf o.ext.toNat 63 61 == 0

def cpymOk (h : Hdr) (o : FE) : Bool :=
  frameE h o && h.pg == 7 && noOpnd o.dst && pairS o.sa && isS o.sb && pairS0 o.sc
    && bitsOf o.ctl.toNat 23 20 == 0 && bitsOf o.ctl.toNat 19 0 != 0 && bitsOf o.ctl.toNat 1 0 == 0
    && bitsOf o.ext.toNat 83 68 != 0 && bitsOf o.ext.toNat 67 64 == 0 && bitsOf o.ext.toNat 63 61 == 0

/-- CVT and RM of the retrievals (09 R271). -/
def retrCtl (c : Nat) : Bool :=
  (if bitOf c 16 then rmodeLegal (bitsOf c 11 8) else bitsOf c 11 8 == 0) && bitsOf c 15 12 == 0 && bitsOf c 7 5 == 0
    && bitsOf c 23 17 == 0

def rfetOk (h : Hdr) (o : FE) : Bool :=
  frameE h o && isV o.dst && rangeIn (bitsOf o.ctl.toNat 4 0 + 1) o.dst && pairS o.sa && regVS false o.sb && noOpnd o.sc && o.ext == 0
    && retrCtl o.ctl.toNat

def rfettOk (h : Hdr) (o : FE) : Bool :=
  frameE h o && h.pg == 7 && isT o.dst && pairS o.sa && isS o.sb && noOpnd o.sc && o.ext == 0
    && retrCtl o.ctl.toNat && bitsOf o.ctl.toNat 4 0 == 0

/-- `cseal` (09 R276): an all-zero DST writes nothing. -/
def csealOk (h : Hdr) (o : FE) : Bool :=
  frameE h o && regVS false o.dst && pairVS o.sa && noOpnd o.sb && noOpnd o.sc && o.ctl == 0 && o.ext == 0
    && uniOk h o.dst [o.sa]

def xconOk (h : Hdr) (o : FE) : Bool :=
  let f := bitsOf o.ctl.toNat 3 0
  let c := bitsOf o.ctl.toNat 7 4
  frameE h o && h.pg == 7 && noOpnd o.dst && pairS o.sa && noOpnd o.sb && noOpnd o.sc && o.ext == 0
    && bitsOf o.ctl.toNat 23 8 == 0 && decide (4 ≤ c) && decide (f + c ≤ 16)

/-! Matrix passes and tiles, format A (09 R277 to R284). -/

def frameTile (h : Hdr) (o : FA) : Bool := hdrOk h false && idxA o && o.lt == 0

def mmaOk (h : Hdr) (o : FA) : Bool :=
  let f := fnLo h
  frameTile h o && isT o.dst && isT o.sa && isT o.sb && o.imm == 0
    && bitsOf h.fn.toNat 7 6 == 0 && (decide (f < 5) || decide (8 ≤ f))
    && (if 8 ≤ f then isT o.sc && decide (o.md.toNat % 8 < 6) && !bitOf h.fn.toNat 5
        else o.md.toNat % 8 == 0 && (if bitOf h.fn.toNat 5 then pairS o.sc else noOpnd o.sc))

def mmspOk (h : Hdr) (o : FA) : Bool :=
  frameTile h o && isT o.dst && isT o.sa && isT o.sb && noOpnd o.sc && o.imm == 0
    && bitsOf h.fn.toNat 7 5 == 0 && decide (fnLo h < 5) && o.md.toNat % 8 == 0

def tzroOk (h : Hdr) (o : FA) : Bool :=
  frameTile h o && h.fn == 0 && h.pg == 7 && isT o.dst && noOpnd o.sa && noOpnd o.sb && noOpnd o.sc && o.md == 0 && o.imm == 0

def tmovOk (h : Hdr) (o : FA) : Bool :=
  frameTile h o && h.fn == 0 && h.pg == 7 && isT o.dst && isT o.sa && noOpnd o.sb && noOpnd o.sc && o.md == 0 && o.imm == 0

/-- Element count of `trmx` (09 R283). -/
def trmxM (o : FA) : Nat := o.imm.toNat % 32 + 1

def trmxImm (o : FA) : Bool := decide (o.md.toNat < 2) && bitsOf o.imm.toNat 7 5 == 0

def trmxGetOk (h : Hdr) (o : FA) : Bool :=
  hdrOk h true && idxA o && h.fn == 0 && isV o.dst && rangeIn (trmxM o) o.dst && isT o.sa && noOpnd o.sb && noOpnd o.sc && trmxImm o

def trmxPutOk (h : Hdr) (o : FA) : Bool :=
  frameTile h o && h.fn == 1 && isT o.dst && isV o.sa && rangeIn (trmxM o) o.sa && noOpnd o.sb && noOpnd o.sc && trmxImm o

def kbndOk (h : Hdr) (o : FA) : Bool :=
  frameA h o false && h.fn == 0 && regVS false o.dst && isT o.sa && isT o.sb && regVS false o.sc && rangeIn 2 o.sc
    && decide (o.md.toNat < 2) && uniOk h o.dst [o.sc]

/-! Records, format A (09 R285). -/

def frameRec (h : Hdr) (o : FA) (fn : Nat) (w : Bool) : Bool :=
  hdrOk h w && h.fn.toNat == fn && idxA o && o.lt == 0 && noOpnd o.sc && o.md == 0

def ralcOk (h : Hdr) (o : FA) : Bool :=
  frameRec h o 0 false && h.pg == 7 && isPd o.dst && srcSC .n32 o.sa && srcSC .n32 o.sb && o.imm == 0

/-- Payload registers of `rput`: 4 L. -/
def rputOkFn (h : Hdr) (o : FA) (fn : Nat) : Bool :=
  frameRec h o fn false && isPd o.dst && quadV o.sa && decide (o.imm.toNat < 16)
    && (if o.imm = 0 then noOpnd o.sb else isV o.sb && rangeIn (4 * o.imm.toNat) o.sb)

def rgetOk (h : Hdr) (o : FA) : Bool :=
  frameRec h o 0 true && quadV o.dst && rangeIn (4 * (o.imm.toNat % 16) + 4) o.dst && srcR .n32 o.sa && noOpnd o.sb && decide (o.imm.toNat < 16)

def rdonOk (h : Hdr) (o : FA) : Bool :=
  frameRec h o 0 false && noOpnd o.dst && noOpnd o.sa && noOpnd o.sb && o.imm == 0

def rsdOk (h : Hdr) (o : FA) : Bool :=
  frameRec h o 0 false && noOpnd o.dst && srcR .n32 o.sa && srcR .f32 o.sb && o.imm == 0

def postOk (h : Hdr) (o : FA) : Bool :=
  frameRec h o 0 false && h.pg == 7 && noOpnd o.dst && srcSC .s32 o.sa && noOpnd o.sb && decide (o.imm.toNat < 4)

/-- `snap` (09 R285, R293): without IMM16[6] the graph field is unused. -/
def snapOk (h : Hdr) (o : FA) : Bool :=
  frameRec h o 0 true && regVS false o.dst && alignedBy 4 o.dst && rangeIn 5 o.dst && srcR .n32 o.sa && noOpnd o.sb
    && decide (o.imm.toNat < 128) && (decide (64 ≤ o.imm.toNat) || o.imm == 0) && uniOk h o.dst [o.sa]

/-! Loop nests, format L (06 R175, 09 R294). -/

def lBase (o : FL) (i : Nat) : Nat := bitsOf o.body.toNat (7 * i + 6) (7 * i)
def lType (o : FL) : Nat := bitsOf o.body.toNat 24 21
def lNop (o : FL) : Nat := bitsOf o.body.toNat 28 25
def lExt (o : FL) (l : Nat) : Nat := bitsOf o.body.toNat (10 * l + 38) (10 * l + 29) + 1
def lStr (o : FL) (i l : Nat) : Int := signExt (bitsOf o.body.toNat (79 + 11 * (5 * i + l) + 10) (79 + 11 * (5 * i + l))) 11

/-- Type codes of R294. -/
def lTy (n : Nat) : Option NTy :=
  match n with
  | 0 => some .f64
  | 1 => some .f32
  | 2 => some .f16
  | 3 => some .g16
  | 4 => some .s32
  | 5 => some .n32
  | 6 => some .s64
  | 7 => some .n64
  | _ => none

/-- An even scalar pair, 0 to 94 (06 R175). -/
def lBaseOk (b : Nat) : Bool := b % 2 == 0 && decide (b ≤ 94)

/-- A base field and strides of zero for an operand that NOP does not use. -/
def lUnused (o : FL) (i : Nat) : Bool := lBase o i == 0 && (List.range 5).all (fun l => lStr o i l == 0)

def frameL (h : Hdr) (o : FL) : Bool :=
  hdrOk h false && h.fn == 0 && h.pg == 7 && bitsOf o.body.toNat 255 244 == 0 && (lTy (lType o)).isSome
    && lBaseOk (lBase o 0) && lBaseOk (lBase o 1) && lBaseOk (lBase o 2)

def nestOk (h : Hdr) (o : FL) : Bool :=
  frameL h o && decide (lNop o < 7) && (lNop o != 0 || lUnused o 1)

def nredOk (h : Hdr) (o : FL) : Bool :=
  frameL h o && decide (lNop o < 5) && (lNop o == 1 || lUnused o 1) && lStr o 2 0 == 0

/-! System instructions, format S (16 R374). -/

def frameS (h : Hdr) (o : FS) (fn : Nat) : Bool :=
  hdrOk h false && h.fn.toNat == fn && idxOk o.dst && idxOk o.sa && idxOk o.sb

def emptyS (o : FS) : Bool := noOpnd o.dst && noOpnd o.sa && noOpnd o.sb && o.place == 0

def trapOk (h : Hdr) (o : FS) : Bool := frameS h o 0 && emptyS o
def tretOk (h : Hdr) (o : FS) : Bool := frameS h o 0 && emptyS o && o.sys == 0
def tclrOk (h : Hdr) (o : FS) : Bool := frameS h o 0 && emptyS o && !bitOf o.sys.toNat 23

/-- Indexes that `tres` reads: 0 and 5 to 15 (16 R379). -/
def tresIdx (n : Nat) : Bool := n == 0 || (decide (5 ≤ n) && decide (n < 16))

def tresOk (h : Hdr) (o : FS) : Bool :=
  frameS h o 0 && isV o.dst && noOpnd o.sa && noOpnd o.sb && o.place == 0 && tresIdx o.sys.toNat

/-- Indexes that `tres.w` writes: not 6, 8 or 9. -/
def tresWOk (h : Hdr) (o : FS) : Bool :=
  frameS h o 1 && noOpnd o.dst && !isX o.sa && srcR .s32 o.sa && noOpnd o.sb && o.place == 0
    && tresIdx o.sys.toNat && o.sys != 6 && o.sys != 8 && o.sys != 9

def plcwOk (h : Hdr) (o : FS) : Bool :=
  frameS h o 0 && h.pg == 7 && noOpnd o.dst && srcSC .s32 o.sa && noOpnd o.sb && decide (o.sys.toNat ≤ 8)

def xinvOk (h : Hdr) (o : FS) : Bool :=
  frameS h o 0 && h.pg == 7 && noOpnd o.dst && pairS o.sa && srcSC .n32 o.sb && o.place == 0 && decide (o.sys.toNat < 3)

def swapOk (h : Hdr) (o : FS) : Bool :=
  frameS h o 0 && h.pg == 7 && noOpnd o.dst && srcSC .s32 o.sa && noOpnd o.sb && o.place == 0 && o.sys == 0

def fcalOk (h : Hdr) (o : FS) : Bool :=
  frameS h o 0 && h.pg == 7 && (isS o.dst || noOpnd o.dst) && srcSC .s32 o.sa && noOpnd o.sb && o.place == 0
    && decide (o.sys.toNat < 2 ^ 16)

/-- Registers of a network interface that `diag` reads (16 R380). -/
def diagReg (n : Nat) : Bool := decide (n ≤ 8) || (decide (0x20 ≤ n) && decide (n < 0x24))

def diagOk (h : Hdr) (o : FS) : Bool :=
  frameS h o 0 && h.pg == 7 && isS o.dst && noOpnd o.sa && noOpnd o.sb && diagReg o.sys.toNat

/-- Row 4 of 06 R180 for every instruction of programs; a step of the device has no encoding and is always legal. -/
def legal : Instr → Bool
  | .add h o => intOk h o 1 2 false
  | .sub h o => intOk h o 1 2 false
  | .mul h o => intOk h o 1 2 false
  | .mulh h o => intOk h o 0 2 false
  | .mad h o => intOk h o 1 3 false
  | .div h o => intOk h o 1 2 false
  | .rem h o => intOk h o 0 2 false
  | .neg h o => intOk h o 1 1 false
  | .abs h o => intOk h o 1 1 false
  | .min h o => intOk h o 0 2 false
  | .max h o => intOk h o 0 2 false
  | .and h o => intOk h o 0 2 false
  | .or h o => intOk h o 0 2 false
  | .xor h o => intOk h o 0 2 false
  | .not h o => intOk h o 0 1 false
  | .shl h o => intOk h o 0 2 true
  | .shr h o => intOk h o 0 2 true
  | .sra h o => intOk h o 0 2 true
  | .rot h o => intOk h o 0 2 true
  | .clz h o => intOk h o 0 1 false
  | .popc h o => intOk h o 0 1 false
  | .brev h o => intOk h o 0 1 false
  | .bfx h o => bitfieldOk h o 1
  | .bfi h o => bitfieldOk h o 2
  | .cmp h o => cmpOk h o
  | .sel h o => selOk h o
  | .lea h o => leaOk h o
  | .addc h o => addcOk h o
  | .movi h o => moviOk h o
  | .movw h o => movwOk h o
  | .cvt h o => cvtOk h o
  | .mov h o => movOk h o
  | .fadd h o => floatOk h o 2 true false
  | .fsub h o => floatOk h o 2 true false
  | .fmul h o => floatOk h o 2 true false
  | .fma h o => floatOk h o 3 true false
  | .fmin h o => floatOk h o 2 false false
  | .fmax h o => floatOk h o 2 false false
  | .fabs h o => floatOk h o 1 false false
  | .fneg h o => floatOk h o 1 false false
  | .fcmp h o => fcmpOk h o
  | .fdiv h o => floatOk h o 2 true false
  | .fsqrt h o => floatOk h o 1 true false
  | .frcp h o => floatOk h o 1 true false
  | .frsq h o => floatOk h o 1 true false
  | .fex2 h o => floatOk h o 1 true false
  | .flg2 h o => floatOk h o 1 true false
  | .fsin h o => floatOk h o 1 true false
  | .fcos h o => floatOk h o 1 true false
  | .frnd h o => floatOk h o 1 true false
  | .fcls h o => fclsOk h o
  | .fscl h o => floatOk h o 2 true true
  | .fclp h o => floatOk h o 3 false false
  | .fdot2 h o => fdot2Ok h o
  | .fcvt h o => fcvtOk h o
  | .nscl h o => nsclOk h o
  | .npck h o => npckOk h o
  | .nunp h o => nunpOk h o
  | .ndot h o => ndotOk h o
  | .pchk h o => pchkOk h o
  | .pchkProv h o => pchkProvOk h o
  | .pmrk h o => pmrkOk h o
  | .pfix h o => pfixOk h o
  | .plog h o => plogOk h o
  | .shfl h o => shflOk h o
  | .vote h o => voteOk h o
  | .blot h o => blotOk h o
  | .redx h o => reduceOk h o false false
  | .scan h o => reduceOk h o true false
  | .sred h o => reduceOk h o false true
  | .rdl h o => rdlOk h o
  | .wrl h o => wrlOk h o
  | .mtch h o => mtchOk h o
  | .getc h o => getcOk h o
  | .setc h o => setcOk h o
  | .getid h o => getidOk h o
  | .clk h o => clkOk h o
  | .bra h o => braOk h o
  | .brx h o => brxOk h o
  | .call h o => callOk h o
  | .cali h o => caliOk h o
  | .ret h o => brxOk h o
  | .cvb h o => cvbOk h o
  | .cvbCur h o => cvbCurOk h o
  | .cvw h o => cvwOk h o
  | .exit h o => plainC h o
  | .yield h o => plainC h o
  | .nop h o => plainC h o
  | .loop h o => loopOk h o
  | .ld h o => ldOk h o
  | .st h o => stOk h o
  | .ldt h o => ldtOk h o
  | .stt h o => sttOk h o
  | .ldv h o => ldvOk h o
  | .pfx h o => pfxOk h o
  | .atom h o => atomOk h o
  | .cas h o => casOk h o
  | .red h o => redOk h o
  | .rfl h o => rflOk h o
  | .fence h o => fenceOk h o
  | .mon h o => monOk h o
  | .mwt h o => mwtOk h o
  | .qwait h o => qwaitOk h o
  | .wake h o => wakeOk h o
  | .bar h o => barOk h o
  | .bsc h o => bscOk h o
  | .arrvSet h o => arrvOk h o 0
  | .arrvAdd h o => arrvOk h o 0x10
  | .awt h o => awtOk h o
  | .qpush h o => qpushOk h o
  | .qpop h o => qpopOk h o
  | .lend h o => lendOk h o
  | .claim h o => lendOk h o
  | .send h o => sendOk h o
  | .cpy h o => cpyOk h o
  | .cpym h o => cpymOk h o
  | .rfet h o => rfetOk h o
  | .rfett h o => rfettOk h o
  | .cseal h o => csealOk h o
  | .mma h o => mmaOk h o
  | .mmsp h o => mmspOk h o
  | .tzro h o => tzroOk h o
  | .tmov h o => tmovOk h o
  | .kbnd h o => kbndOk h o
  | .trmxGet h o => trmxGetOk h o
  | .trmxPut h o => trmxPutOk h o
  | .ralc h o => ralcOk h o
  | .rput h o => rputOkFn h o 0
  | .rputIn h o => rputOkFn h o 1
  | .rget h o => rgetOk h o
  | .rdon h o => rdonOk h o
  | .rsd h o => rsdOk h o
  | .post h o => postOk h o
  | .snap h o => snapOk h o
  | .nest h o => nestOk h o
  | .nred h o => nredOk h o
  | .xcon h o => xconOk h o
  | .trap h o => trapOk h o
  | .tret h o => tretOk h o
  | .tclr h o => tclrOk h o
  | .brk h o => trapOk h o
  | .park h o => tretOk h o
  | .tres h o => tresOk h o
  | .tresW h o => tresWOk h o
  | .plcw h o => plcwOk h o
  | .xinv h o => xinvOk h o
  | .swap h o => swapOk h o
  | .fcal h o => fcalOk h o
  | .diag h o => diagOk h o
  | .resultLand => true
  | .memoryAccessPerform _ => true
  | .monitorPoll _ _ => true
  | .mwtTimeout _ _ => true
  | .qwaitRetry => true
  | .claimGrant _ => true
  | .deadlockDetect _ => true
  | .cvwRelease _ _ => true
  | .barDeparture _ => true
  | .atomicBufferDrain _ => true
  | .causalBufferRelease _ => true
  | .handQueueApply _ => true
  | .inboxMessageArrival _ => true
  | .senderResetMarker _ _ => true
  | .arrivalIncrement _ => true
  | .colophonWrite _ => true
  | .copyInstanceStart _ _ => true
  | .enginePacketWrite _ => true
  | .pageWalk => true
  | .matrixGrant _ => true
  | .matrixPassComplete _ => true
  | .inputAccession _ => true
  | .recordArrival _ => true
  | .residualPostApply _ => true
  | .catalogueAnswer _ => true
  | .blockActivation _ => true
  | .coalescingTimerLapse _ _ => true
  | .catalogueChoice _ => true
  | .dispatchLaunch _ => true
  | .dispatchRetire _ _ => true
  | .probeStart _ => true
  | .probeAnswer _ => true
  | .reportWrite _ => true
  | .standingTeamFormed => true
  | .teamStart => true
  | .gridComplete _ => true
  | .handlerEntry _ _ => true
  | .faultFill _ _ => true
  | .faultRefuse _ _ _ => true
  | .stopArrival _ => true
  | .dbgcResume _ => true
  | .resumeArrival _ => true
  | .singleStep _ _ => true
  | .preemptionSignal _ => true
  | .shadowSwapComplete _ => true
  | .spill _ => true
  | .packetDeferral _ => true
  | .allocationCopyComplete _ => true
  | .teamResumption _ => true
  | .qtailDoorbell _ _ => true
  | .queueRunWrite _ _ => true
  | .nopPacket _ => true
  | .launch _ => true
  | .write _ => true
  | .signalPacket _ => true
  | .waitPacket _ => true
  | .waitConditionMet _ => true
  | .indirect _ => true
  | .loadStandingGraph _ => true
  | .startStandingGraph _ => true
  | .stopStandingGraph _ => true
  | .resetStandingGraph _ => true
  | .unloadStandingGraph _ => true
  | .loadTaskGraph _ => true
  | .unloadTaskGraph _ => true
  | .input _ => true
  | .inputSlotFreed _ => true
  | .trigger _ => true
  | .completionWordWrite _ => true
  | .taskGraphTrigger _ _ => true
  | .launchNode _ _ => true
  | .standingNode _ _ => true
  | .conditionalNode _ _ => true
  | .loopNode _ _ => true
  | .copyNode _ _ => true
  | .waitNode _ _ => true
  | .signalNode _ _ => true
  | .taskGraphRunEnd _ _ => true
  | .timeSliceSwitch _ => true
  | .msixMessage _ => true
  | .msixUnmask _ => true
  | .imageLoadStart _ => true
  | .imageLoadComplete => true
  | .fcalReply _ _ _ _ => true
  | .invalidationStart _ _ _ _ _ => true
  | .parkRelease _ => true
  | .imgbWrite _ _ => true
  | .partitionEnable _ _ => true
  | .placeTableCommit _ => true
  | .clusterResetGo _ _ => true
  | .isolation _ => true
  | .cutPacketArrival _ => true
  | .isolatedPacketAnswer _ => true
  | .resetComplete _ => true
  | .restore _ => true
  | .moduleReset => true
  | .monitorLevel => true
  | .lpddrOnlyLevel => true
  | .hbmRelease _ => true
  | .mailboxStart _ => true
  | .functionLevelReset => true
  | .clockStepUpdate => true
  | .thermalTrip => true
  | .hostMemAccess _ _ _ => true
  | .backInvalidate _ => true
  | .registerWrite _ _ _ _ => true
  | .copyBackComplete _ => true

end Sys2Proof.Machine
end

