-- ==== Sys2Proof/WellFormed.lean ====
section
/-! DEFINITION. Well-formed instructions: the ones whose every field is legal. -/
namespace Sys2Proof

/-- The instruction's encoding passes row 4 of 06 R180; an encoding that fails it raises ILLOP. -/
abbrev Instr.WellFormed (i : Instr) : Prop := Machine.legal i = true

end Sys2Proof
end

