-- ==== Sys2Proof/Decode.lean ====
section
/-! DEFINITION. Decoding and encoding of the instructions (spec/06 R160 to R178). Every instruction is one, two or three 96-bit slots, each slot twelve little-endian bytes. -/
namespace Sys2Proof
open Machine (opndOfBits legal)

/-- Why a decoding is refused: no such opcode, a set bit that must be zero, an operand index of no meaning, a field value that row 4 of R180 refuses, or too few slots. -/
inductive DecodeError where
  | unassignedOp (op : Nat)
  | strayBits
  | badOperand
  | illegalField
  | truncated
  deriving DecidableEq, Repr

/-- The ten bits of an operand field (06 R171). -/
def opndBits : Opnd → Nat
  | .v n => n.toNat
  | .s n => 256 + n.toNat
  | .x n => 512 + n.toNat
  | .p n => 520 + n.toNat
  | .t n => 528 + n.toNat
  | .k n => 544 + n.toNat
  | .c n => 768 + n.toNat

/-- Widths of the common frame, from bit 64 up: WS, TK, TE, WT, GAP, PG, PN, FN, OP (06 R168). -/
def frameWidths : List Nat := [1, 2, 1, 4, 4, 3, 1, 8, 8]

def hdrFields (h : Hdr) (op : Nat) : List (Nat × Nat) :=
  [(1, h.ws.toNat), (2, h.tk.toNat), (1, h.te.toNat), (4, h.wt.toNat), (4, h.gap.toNat), (3, h.pg.toNat),
    (1, h.pn.toNat), (8, h.fn.toNat), (8, op)]

/-- The frame of a first slot, with its opcode. -/
def hdrOf (slot : Nat) : Option (Hdr × Nat) :=
  match unpack frameWidths (slot / 2 ^ 64) with
  | [ws, tk, te, wt, gap, pg, pn, fn, op] =>
    some ({ fn := BitVec.ofNat 8 fn, pn := pn == 1, pg := BitVec.ofNat 3 pg, gap := BitVec.ofNat 4 gap, wt := BitVec.ofNat 4 wt,
            te := te == 1, tk := BitVec.ofNat 2 tk, ws := ws == 1 }, op)
  | _ => none

def faFields (o : FA) : List (Nat × Nat) :=
  [(16, o.imm.toNat), (5, o.md.toNat), (3, o.lt.toNat), (10, opndBits o.sc), (10, opndBits o.sb), (10, opndBits o.sa), (10, opndBits o.dst)]

def faOf (slot : Nat) : Option FA :=
  match unpack [16, 5, 3, 10, 10, 10, 10] slot with
  | [imm, md, lt, sc, sb, sa, dst] =>
    match opndOfBits sc, opndOfBits sb, opndOfBits sa, opndOfBits dst with
    | some sc, some sb, some sa, some dst =>
      some { dst := dst, sa := sa, sb := sb, sc := sc, lt := BitVec.ofNat 3 lt, md := BitVec.ofNat 5 md, imm := BitVec.ofNat 16 imm }
    | _, _, _, _ => none
  | _ => none

def fiFields (o : FI) : List (Nat × Nat) :=
  [(32, o.imm.toNat), (2, 0), (10, opndBits o.sb), (10, opndBits o.sa), (10, opndBits o.dst)]

def fiOf (slot : Nat) : Option FI :=
  match unpack [32, 2, 10, 10, 10] slot with
  | [imm, z, sb, sa, dst] =>
    match opndOfBits sb, opndOfBits sa, opndOfBits dst with
    | some sb, some sa, some dst => if z = 0 then some { dst := dst, sa := sa, sb := sb, imm := BitVec.ofNat 32 imm } else none
    | _, _, _ => none
  | _ => none

def fwFields (o : FW) : List (Nat × Nat) := [(54, 0), (10, opndBits o.dst)]

def fwOf (slot s1 : Nat) : Option FW :=
  match unpack [54, 10] slot with
  | [z, dst] =>
    match opndOfBits dst with
    | some dst => if z = 0 ∧ s1 < 2 ^ 64 then some { dst := dst, imm := BitVec.ofNat 64 s1 } else none
    | none => none
  | _ => none

def fmFields (o : FM) : List (Nat × Nat) :=
  [(24, o.off.toNat), (2, o.hint.toNat), (2, o.order.toNat), (3, o.scope.toNat), (3, o.width.toNat), (10, opndBits o.index),
    (10, opndBits o.base), (10, opndBits o.d)]

def fmOf (slot : Nat) : Option FM :=
  match unpack [24, 2, 2, 3, 3, 10, 10, 10] slot with
  | [off, hint, order, scope, width, index, base, d] =>
    match opndOfBits index, opndOfBits base, opndOfBits d with
    | some index, some base, some d =>
      some { d := d, base := base, index := index, width := BitVec.ofNat 3 width, scope := BitVec.ofNat 3 scope,
             order := BitVec.ofNat 2 order, hint := BitVec.ofNat 2 hint, off := BitVec.ofNat 24 off }
    | _, _, _ => none
  | _ => none

def fcFields (o : FC) : List (Nat × Nat) :=
  [(27, o.aux.toNat), (3, o.slot.toNat), (24, o.loff.toNat), (10, opndBits o.src)]

def fcOf (slot : Nat) : Option FC :=
  match unpack [27, 3, 24, 10] slot with
  | [aux, sl, loff, src] =>
    match opndOfBits src with
    | some src => some { src := src, loff := BitVec.ofNat 24 loff, slot := BitVec.ofNat 3 sl, aux := BitVec.ofNat 27 aux }
    | none => none
  | _ => none

def feFields (o : FE) : List (Nat × Nat) :=
  [(24, o.ctl.toNat), (10, opndBits o.sc), (10, opndBits o.sb), (10, opndBits o.sa), (10, opndBits o.dst)]

def feOf (slot s1 : Nat) : Option FE :=
  match unpack [24, 10, 10, 10, 10] slot with
  | [ctl, sc, sb, sa, dst] =>
    match opndOfBits sc, opndOfBits sb, opndOfBits sa, opndOfBits dst with
    | some sc, some sb, some sa, some dst =>
      some { dst := dst, sa := sa, sb := sb, sc := sc, ctl := BitVec.ofNat 24 ctl, ext := BitVec.ofNat 96 s1 }
    | _, _, _, _ => none
  | _ => none

def fsFields (o : FS) : List (Nat × Nat) :=
  [(24, o.sys.toNat), (10, o.place.toNat), (10, opndBits o.sb), (10, opndBits o.sa), (10, opndBits o.dst)]

def fsOf (slot : Nat) : Option FS :=
  match unpack [24, 10, 10, 10, 10] slot with
  | [sys, place, sb, sa, dst] =>
    match opndOfBits sb, opndOfBits sa, opndOfBits dst with
    | some sb, some sa, some dst =>
      some { dst := dst, sa := sa, sb := sb, place := BitVec.ofNat 10 place, sys := BitVec.ofNat 24 sys }
    | _, _, _ => none
  | _ => none

/-- Body bits 63:0 stand in the first slot, 159:64 in the second, 255:160 in the third (06 R175). -/
def flOf (slot s1 s2 : Nat) : FL :=
  { body := BitVec.ofNat 256 (slot % 2 ^ 64 + 2 ^ 64 * (s1 % 2 ^ 96) + 2 ^ 160 * (s2 % 2 ^ 96)) }

/-- Slots of an instruction by its opcode (06 R164): two for formats W and E, three for L, else one. -/
def slotsOf (op : Nat) : Nat :=
  if op = 0x1D ∨ (0xB0 ≤ op ∧ op ≤ 0xB4) ∨ op = 0xE2 then 2
  else if op = 0xE0 ∨ op = 0xE1 then 3 else 1

/-- Instructions of format A by opcode (06 R177). -/
def instrA (op : Nat) (h : Hdr) (o : FA) : Option Instr :=
  match op with
  | 0x00 => some (.add h o)
  | 0x01 => some (.sub h o)
  | 0x02 => some (.mul h o)
  | 0x03 => some (.mulh h o)
  | 0x04 => some (.mad h o)
  | 0x05 => some (.div h o)
  | 0x06 => some (.rem h o)
  | 0x07 => some (.neg h o)
  | 0x08 => some (.abs h o)
  | 0x09 => some (.min h o)
  | 0x0A => some (.max h o)
  | 0x0B => some (.and h o)
  | 0x0C => some (.or h o)
  | 0x0D => some (.xor h o)
  | 0x0E => some (.not h o)
  | 0x0F => some (.shl h o)
  | 0x10 => some (.shr h o)
  | 0x11 => some (.sra h o)
  | 0x12 => some (.rot h o)
  | 0x13 => some (.clz h o)
  | 0x14 => some (.popc h o)
  | 0x15 => some (.brev h o)
  | 0x16 => some (.bfx h o)
  | 0x17 => some (.bfi h o)
  | 0x18 => some (.cmp h o)
  | 0x19 => some (.sel h o)
  | 0x1A => some (.lea h o)
  | 0x1B => some (.addc h o)
  | 0x1E => some (.cvt h o)
  | 0x1F => some (.mov h o)
  | 0x20 => some (.fadd h o)
  | 0x21 => some (.fsub h o)
  | 0x22 => some (.fmul h o)
  | 0x23 => some (.fma h o)
  | 0x24 => some (.fmin h o)
  | 0x25 => some (.fmax h o)
  | 0x26 => some (.fabs h o)
  | 0x27 => some (.fneg h o)
  | 0x28 => some (.fcmp h o)
  | 0x29 => some (.fdiv h o)
  | 0x2A => some (.fsqrt h o)
  | 0x2B => some (.frcp h o)
  | 0x2C => some (.frsq h o)
  | 0x2D => some (.fex2 h o)
  | 0x2E => some (.flg2 h o)
  | 0x2F => some (.fsin h o)
  | 0x30 => some (.fcos h o)
  | 0x31 => some (.frnd h o)
  | 0x32 => some (.fcls h o)
  | 0x33 => some (.fscl h o)
  | 0x34 => some (.fclp h o)
  | 0x35 => some (.fdot2 h o)
  | 0x36 => some (.fcvt h o)
  | 0x40 => some (.nscl h o)
  | 0x41 => some (.npck h o)
  | 0x42 => some (.nunp h o)
  | 0x43 => some (.ndot h o)
  | 0x48 => some (if Machine.fnHi h == 1 then .pchkProv h o else .pchk h o)
  | 0x49 => some (.pmrk h o)
  | 0x4A => some (.pfix h o)
  | 0x4B => some (.plog h o)
  | 0x50 => some (.shfl h o)
  | 0x51 => some (.vote h o)
  | 0x52 => some (.blot h o)
  | 0x53 => some (.redx h o)
  | 0x54 => some (.scan h o)
  | 0x55 => some (.sred h o)
  | 0x56 => some (.rdl h o)
  | 0x57 => some (.wrl h o)
  | 0x58 => some (.mtch h o)
  | 0x60 => some (.getc h o)
  | 0x61 => some (.setc h o)
  | 0x62 => some (.getid h o)
  | 0x63 => some (.clk h o)
  | 0xA0 => some (.bar h o)
  | 0xA1 => some (.bsc h o)
  | 0xA2 => some (if h.fn == 0x10 then .arrvAdd h o else .arrvSet h o)
  | 0xA3 => some (.awt h o)
  | 0xA4 => some (.qpush h o)
  | 0xA5 => some (.qpop h o)
  | 0xA6 => some (.lend h o)
  | 0xA7 => some (.claim h o)
  | 0xA8 => some (.send h o)
  | 0xC0 => some (.mma h o)
  | 0xC1 => some (.mmsp h o)
  | 0xC2 => some (.tzro h o)
  | 0xC3 => some (.tmov h o)
  | 0xC4 => some (.kbnd h o)
  | 0xC5 => some (if h.fn == 1 then .trmxPut h o else .trmxGet h o)
  | 0xD0 => some (.ralc h o)
  | 0xD1 => some (if h.fn == 1 then .rputIn h o else .rput h o)
  | 0xD2 => some (.rget h o)
  | 0xD3 => some (.rdon h o)
  | 0xD4 => some (.rsd h o)
  | 0xD5 => some (.post h o)
  | 0xD6 => some (.snap h o)
  | _ => none

/-- Instructions of format I by opcode (06 R177). -/
def instrI (op : Nat) (h : Hdr) (o : FI) : Option Instr :=
  match op with
  | 0x1C => some (.movi h o)
  | 0x8E => some (.mwt h o)
  | _ => none

/-- Instructions of format W by opcode (06 R177). -/
def instrW (op : Nat) (h : Hdr) (o : FW) : Option Instr :=
  match op with
  | 0x1D => some (.movw h o)
  | _ => none

/-- Instructions of format M by opcode (06 R177). -/
def instrM (op : Nat) (h : Hdr) (o : FM) : Option Instr :=
  match op with
  | 0x80 => some (.ld h o)
  | 0x81 => some (.st h o)
  | 0x82 => some (.ldt h o)
  | 0x83 => some (.stt h o)
  | 0x84 => some (.ldv h o)
  | 0x85 => some (.pfx h o)
  | 0x88 => some (.atom h o)
  | 0x89 => some (.cas h o)
  | 0x8A => some (.red h o)
  | 0x8B => some (.rfl h o)
  | 0x8C => some (.fence h o)
  | 0x8D => some (.mon h o)
  | 0x8F => some (.qwait h o)
  | 0x90 => some (.wake h o)
  | _ => none

/-- Instructions of format C by opcode (06 R177). -/
def instrC (op : Nat) (h : Hdr) (o : FC) : Option Instr :=
  match op with
  | 0x70 => some (.bra h o)
  | 0x71 => some (.brx h o)
  | 0x72 => some (.call h o)
  | 0x73 => some (.cali h o)
  | 0x74 => some (.ret h o)
  | 0x75 => some (if h.fn == 1 then .cvbCur h o else .cvb h o)
  | 0x76 => some (.cvw h o)
  | 0x77 => some (.exit h o)
  | 0x78 => some (.yield h o)
  | 0x79 => some (.nop h o)
  | 0x7A => some (.loop h o)
  | _ => none

/-- Instructions of format E by opcode (06 R177). -/
def instrE (op : Nat) (h : Hdr) (o : FE) : Option Instr :=
  match op with
  | 0xB0 => some (.cpy h o)
  | 0xB1 => some (.cpym h o)
  | 0xB2 => some (.rfet h o)
  | 0xB3 => some (.rfett h o)
  | 0xB4 => some (.cseal h o)
  | 0xE2 => some (.xcon h o)
  | _ => none

/-- Instructions of format S by opcode (06 R177). -/
def instrS (op : Nat) (h : Hdr) (o : FS) : Option Instr :=
  match op with
  | 0xF0 => some (.trap h o)
  | 0xF1 => some (.tret h o)
  | 0xF2 => some (.tclr h o)
  | 0xF3 => some (.brk h o)
  | 0xF4 => some (.park h o)
  | 0xF5 => some (if h.fn == 1 then .tresW h o else .tres h o)
  | 0xF6 => some (.plcw h o)
  | 0xF7 => some (.xinv h o)
  | 0xF8 => some (.swap h o)
  | 0xF9 => some (.fcal h o)
  | 0xFA => some (.diag h o)
  | _ => none

/-- Instructions of format L by opcode (06 R177). -/
def instrL (op : Nat) (h : Hdr) (o : FL) : Option Instr :=
  match op with
  | 0xE0 => some (.nest h o)
  | 0xE1 => some (.nred h o)
  | _ => none

/-- The format of an assigned opcode (06 R177). -/
inductive Fmt where
  | a | i | w | m | c | e | s | l
  deriving DecidableEq, Repr

def fmtOf (op : Nat) : Option Fmt :=
  if op = 0x1C ∨ op = 0x8E then some .i
  else if op = 0x1D then some .w
  else if op ≤ 0x36 ∨ (0x40 ≤ op ∧ op ≤ 0x43) ∨ (0x48 ≤ op ∧ op ≤ 0x4B) ∨ (0x50 ≤ op ∧ op ≤ 0x58) ∨ (0x60 ≤ op ∧ op ≤ 0x63) then some .a
  else if 0x70 ≤ op ∧ op ≤ 0x7A then some .c
  else if (0x80 ≤ op ∧ op ≤ 0x85) ∨ (0x88 ≤ op ∧ op ≤ 0x90) then some .m
  else if (0xA0 ≤ op ∧ op ≤ 0xA8) ∨ (0xC0 ≤ op ∧ op ≤ 0xC5) ∨ (0xD0 ≤ op ∧ op ≤ 0xD6) then some .a
  else if (0xB0 ≤ op ∧ op ≤ 0xB4) ∨ op = 0xE2 then some .e
  else if op = 0xE0 ∨ op = 0xE1 then some .l
  else if 0xF0 ≤ op ∧ op ≤ 0xFA then some .s
  else none

/-- The instruction that one to three slots hold, before its legality is judged. -/
def parseSlots (op : Nat) (h : Hdr) (s0 s1 s2 : Nat) : Except DecodeError Instr :=
  match fmtOf op with
  | none => .error (.unassignedOp op)
  | some f =>
    let r : Option Instr :=
      match f with
      | .a => (faOf s0).bind (instrA op h)
      | .i => (fiOf s0).bind (instrI op h)
      | .w => (fwOf s0 s1).bind (instrW op h)
      | .m => (fmOf s0).bind (instrM op h)
      | .c => (fcOf s0).bind (instrC op h)
      | .e => (feOf s0 s1).bind (instrE op h)
      | .s => (fsOf s0).bind (instrS op h)
      | .l => instrL op h (flOf s0 s1 s2)
    match r with
    | some i => .ok i
    | none => .error .badOperand

/-- Decodes the instruction that begins with the first of the given slots (06 R164 to R178). -/
def decode (slots : List Nat) : Except DecodeError Instr :=
  match slots with
  | [] => .error .truncated
  | s0 :: rest =>
    match hdrOf s0 with
    | none => .error .strayBits
    | some (h, op) =>
      if rest.length + 1 < slotsOf op then .error .truncated
      else
        match parseSlots op h s0 (rest.headD 0) (rest.tail.headD 0) with
        | .error e => .error e
        | .ok i => if legal i then .ok i else .error .illegalField

/-- Slots that bytes hold, twelve bytes to a slot (06 R160). -/
def slotsOfBytes : Nat → List Byte → List Nat
  | 0, _ => []
  | k + 1, bs => if bs.length < 12 then [] else Machine.ofBytes (bs.take 12) :: slotsOfBytes k (bs.drop 12)

/-- Decodes bytes laid out as the hardware stores them. -/
def decodeBytes (bs : List Byte) : Except DecodeError Instr := decode (slotsOfBytes 3 bs)

/-- The opcode of a program instruction (06 R177); none for a step of the device. -/
def opOf : Instr → Option Nat
  | .add _ _ => some 0x00
  | .sub _ _ => some 0x01
  | .mul _ _ => some 0x02
  | .mulh _ _ => some 0x03
  | .mad _ _ => some 0x04
  | .div _ _ => some 0x05
  | .rem _ _ => some 0x06
  | .neg _ _ => some 0x07
  | .abs _ _ => some 0x08
  | .min _ _ => some 0x09
  | .max _ _ => some 0x0A
  | .and _ _ => some 0x0B
  | .or _ _ => some 0x0C
  | .xor _ _ => some 0x0D
  | .not _ _ => some 0x0E
  | .shl _ _ => some 0x0F
  | .shr _ _ => some 0x10
  | .sra _ _ => some 0x11
  | .rot _ _ => some 0x12
  | .clz _ _ => some 0x13
  | .popc _ _ => some 0x14
  | .brev _ _ => some 0x15
  | .bfx _ _ => some 0x16
  | .bfi _ _ => some 0x17
  | .cmp _ _ => some 0x18
  | .sel _ _ => some 0x19
  | .lea _ _ => some 0x1A
  | .addc _ _ => some 0x1B
  | .movi _ _ => some 0x1C
  | .movw _ _ => some 0x1D
  | .cvt _ _ => some 0x1E
  | .mov _ _ => some 0x1F
  | .fadd _ _ => some 0x20
  | .fsub _ _ => some 0x21
  | .fmul _ _ => some 0x22
  | .fma _ _ => some 0x23
  | .fmin _ _ => some 0x24
  | .fmax _ _ => some 0x25
  | .fabs _ _ => some 0x26
  | .fneg _ _ => some 0x27
  | .fcmp _ _ => some 0x28
  | .fdiv _ _ => some 0x29
  | .fsqrt _ _ => some 0x2A
  | .frcp _ _ => some 0x2B
  | .frsq _ _ => some 0x2C
  | .fex2 _ _ => some 0x2D
  | .flg2 _ _ => some 0x2E
  | .fsin _ _ => some 0x2F
  | .fcos _ _ => some 0x30
  | .frnd _ _ => some 0x31
  | .fcls _ _ => some 0x32
  | .fscl _ _ => some 0x33
  | .fclp _ _ => some 0x34
  | .fdot2 _ _ => some 0x35
  | .fcvt _ _ => some 0x36
  | .nscl _ _ => some 0x40
  | .npck _ _ => some 0x41
  | .nunp _ _ => some 0x42
  | .ndot _ _ => some 0x43
  | .pchk _ _ => some 0x48
  | .pchkProv _ _ => some 0x48
  | .pmrk _ _ => some 0x49
  | .pfix _ _ => some 0x4A
  | .plog _ _ => some 0x4B
  | .shfl _ _ => some 0x50
  | .vote _ _ => some 0x51
  | .blot _ _ => some 0x52
  | .redx _ _ => some 0x53
  | .scan _ _ => some 0x54
  | .sred _ _ => some 0x55
  | .rdl _ _ => some 0x56
  | .wrl _ _ => some 0x57
  | .mtch _ _ => some 0x58
  | .getc _ _ => some 0x60
  | .setc _ _ => some 0x61
  | .getid _ _ => some 0x62
  | .clk _ _ => some 0x63
  | .bra _ _ => some 0x70
  | .brx _ _ => some 0x71
  | .call _ _ => some 0x72
  | .cali _ _ => some 0x73
  | .ret _ _ => some 0x74
  | .cvb _ _ => some 0x75
  | .cvbCur _ _ => some 0x75
  | .cvw _ _ => some 0x76
  | .exit _ _ => some 0x77
  | .yield _ _ => some 0x78
  | .nop _ _ => some 0x79
  | .loop _ _ => some 0x7A
  | .ld _ _ => some 0x80
  | .st _ _ => some 0x81
  | .ldt _ _ => some 0x82
  | .stt _ _ => some 0x83
  | .ldv _ _ => some 0x84
  | .pfx _ _ => some 0x85
  | .atom _ _ => some 0x88
  | .cas _ _ => some 0x89
  | .red _ _ => some 0x8A
  | .rfl _ _ => some 0x8B
  | .fence _ _ => some 0x8C
  | .mon _ _ => some 0x8D
  | .mwt _ _ => some 0x8E
  | .qwait _ _ => some 0x8F
  | .wake _ _ => some 0x90
  | .bar _ _ => some 0xA0
  | .bsc _ _ => some 0xA1
  | .arrvSet _ _ => some 0xA2
  | .arrvAdd _ _ => some 0xA2
  | .awt _ _ => some 0xA3
  | .qpush _ _ => some 0xA4
  | .qpop _ _ => some 0xA5
  | .lend _ _ => some 0xA6
  | .claim _ _ => some 0xA7
  | .send _ _ => some 0xA8
  | .cpy _ _ => some 0xB0
  | .cpym _ _ => some 0xB1
  | .rfet _ _ => some 0xB2
  | .rfett _ _ => some 0xB3
  | .cseal _ _ => some 0xB4
  | .mma _ _ => some 0xC0
  | .mmsp _ _ => some 0xC1
  | .tzro _ _ => some 0xC2
  | .tmov _ _ => some 0xC3
  | .kbnd _ _ => some 0xC4
  | .trmxGet _ _ => some 0xC5
  | .trmxPut _ _ => some 0xC5
  | .ralc _ _ => some 0xD0
  | .rput _ _ => some 0xD1
  | .rputIn _ _ => some 0xD1
  | .rget _ _ => some 0xD2
  | .rdon _ _ => some 0xD3
  | .rsd _ _ => some 0xD4
  | .post _ _ => some 0xD5
  | .snap _ _ => some 0xD6
  | .nest _ _ => some 0xE0
  | .nred _ _ => some 0xE1
  | .xcon _ _ => some 0xE2
  | .trap _ _ => some 0xF0
  | .tret _ _ => some 0xF1
  | .tclr _ _ => some 0xF2
  | .brk _ _ => some 0xF3
  | .park _ _ => some 0xF4
  | .tres _ _ => some 0xF5
  | .tresW _ _ => some 0xF5
  | .plcw _ _ => some 0xF6
  | .xinv _ _ => some 0xF7
  | .swap _ _ => some 0xF8
  | .fcal _ _ => some 0xF9
  | .diag _ _ => some 0xFA
  | .resultLand => none
  | .memoryAccessPerform _ => none
  | .monitorPoll _ _ => none
  | .mwtTimeout _ _ => none
  | .qwaitRetry => none
  | .claimGrant _ => none
  | .deadlockDetect _ => none
  | .cvwRelease _ _ => none
  | .barDeparture _ => none
  | .atomicBufferDrain _ => none
  | .causalBufferRelease _ => none
  | .handQueueApply _ => none
  | .inboxMessageArrival _ => none
  | .senderResetMarker _ _ => none
  | .arrivalIncrement _ => none
  | .colophonWrite _ => none
  | .copyInstanceStart _ _ => none
  | .enginePacketWrite _ => none
  | .pageWalk => none
  | .matrixGrant _ => none
  | .matrixPassComplete _ => none
  | .inputAccession _ => none
  | .recordArrival _ => none
  | .residualPostApply _ => none
  | .catalogueAnswer _ => none
  | .blockActivation _ => none
  | .coalescingTimerLapse _ _ => none
  | .catalogueChoice _ => none
  | .dispatchLaunch _ => none
  | .dispatchRetire _ _ => none
  | .probeStart _ => none
  | .probeAnswer _ => none
  | .reportWrite _ => none
  | .standingTeamFormed => none
  | .teamStart => none
  | .gridComplete _ => none
  | .handlerEntry _ _ => none
  | .faultFill _ _ => none
  | .faultRefuse _ _ _ => none
  | .stopArrival _ => none
  | .dbgcResume _ => none
  | .resumeArrival _ => none
  | .singleStep _ _ => none
  | .preemptionSignal _ => none
  | .shadowSwapComplete _ => none
  | .spill _ => none
  | .packetDeferral _ => none
  | .allocationCopyComplete _ => none
  | .teamResumption _ => none
  | .qtailDoorbell _ _ => none
  | .queueRunWrite _ _ => none
  | .nopPacket _ => none
  | .launch _ => none
  | .write _ => none
  | .signalPacket _ => none
  | .waitPacket _ => none
  | .waitConditionMet _ => none
  | .indirect _ => none
  | .loadStandingGraph _ => none
  | .startStandingGraph _ => none
  | .stopStandingGraph _ => none
  | .resetStandingGraph _ => none
  | .unloadStandingGraph _ => none
  | .loadTaskGraph _ => none
  | .unloadTaskGraph _ => none
  | .input _ => none
  | .inputSlotFreed _ => none
  | .trigger _ => none
  | .completionWordWrite _ => none
  | .taskGraphTrigger _ _ => none
  | .launchNode _ _ => none
  | .standingNode _ _ => none
  | .conditionalNode _ _ => none
  | .loopNode _ _ => none
  | .copyNode _ _ => none
  | .waitNode _ _ => none
  | .signalNode _ _ => none
  | .taskGraphRunEnd _ _ => none
  | .timeSliceSwitch _ => none
  | .msixMessage _ => none
  | .msixUnmask _ => none
  | .imageLoadStart _ => none
  | .imageLoadComplete => none
  | .fcalReply _ _ _ _ => none
  | .invalidationStart _ _ _ _ _ => none
  | .parkRelease _ => none
  | .imgbWrite _ _ => none
  | .partitionEnable _ _ => none
  | .placeTableCommit _ => none
  | .clusterResetGo _ _ => none
  | .isolation _ => none
  | .cutPacketArrival _ => none
  | .isolatedPacketAnswer _ => none
  | .resetComplete _ => none
  | .restore _ => none
  | .moduleReset => none
  | .monitorLevel => none
  | .lpddrOnlyLevel => none
  | .hbmRelease _ => none
  | .mailboxStart _ => none
  | .functionLevelReset => none
  | .clockStepUpdate => none
  | .thermalTrip => none
  | .hostMemAccess _ _ _ => none
  | .backInvalidate _ => none
  | .registerWrite _ _ _ _ => none
  | .copyBackComplete _ => none

/-- A first slot: the operand area below, the frame above. -/
def slotOf (area : List (Nat × Nat)) (h : Hdr) (op : Nat) : Nat := pack (area ++ hdrFields h op)

def encA (op : Nat) (h : Hdr) (o : FA) : List Nat := [slotOf (faFields o) h op]
def encI (op : Nat) (h : Hdr) (o : FI) : List Nat := [slotOf (fiFields o) h op]
def encW (op : Nat) (h : Hdr) (o : FW) : List Nat := [slotOf (fwFields o) h op, o.imm.toNat]
def encM (op : Nat) (h : Hdr) (o : FM) : List Nat := [slotOf (fmFields o) h op]
def encC (op : Nat) (h : Hdr) (o : FC) : List Nat := [slotOf (fcFields o) h op]
def encE (op : Nat) (h : Hdr) (o : FE) : List Nat := [slotOf (feFields o) h op, o.ext.toNat]
def encS (op : Nat) (h : Hdr) (o : FS) : List Nat := [slotOf (fsFields o) h op]
def encL (op : Nat) (h : Hdr) (o : FL) : List Nat :=
  [slotOf [(64, o.body.toNat)] h op, bitsOf o.body.toNat 159 64, bitsOf o.body.toNat 255 160]

/-- The slots of an instruction, from the encoding tables of 06; a step of the device has none. -/
def encode : Instr → List Nat
  | .add h o => encA 0x00 h o
  | .sub h o => encA 0x01 h o
  | .mul h o => encA 0x02 h o
  | .mulh h o => encA 0x03 h o
  | .mad h o => encA 0x04 h o
  | .div h o => encA 0x05 h o
  | .rem h o => encA 0x06 h o
  | .neg h o => encA 0x07 h o
  | .abs h o => encA 0x08 h o
  | .min h o => encA 0x09 h o
  | .max h o => encA 0x0A h o
  | .and h o => encA 0x0B h o
  | .or h o => encA 0x0C h o
  | .xor h o => encA 0x0D h o
  | .not h o => encA 0x0E h o
  | .shl h o => encA 0x0F h o
  | .shr h o => encA 0x10 h o
  | .sra h o => encA 0x11 h o
  | .rot h o => encA 0x12 h o
  | .clz h o => encA 0x13 h o
  | .popc h o => encA 0x14 h o
  | .brev h o => encA 0x15 h o
  | .bfx h o => encA 0x16 h o
  | .bfi h o => encA 0x17 h o
  | .cmp h o => encA 0x18 h o
  | .sel h o => encA 0x19 h o
  | .lea h o => encA 0x1A h o
  | .addc h o => encA 0x1B h o
  | .movi h o => encI 0x1C h o
  | .movw h o => encW 0x1D h o
  | .cvt h o => encA 0x1E h o
  | .mov h o => encA 0x1F h o
  | .fadd h o => encA 0x20 h o
  | .fsub h o => encA 0x21 h o
  | .fmul h o => encA 0x22 h o
  | .fma h o => encA 0x23 h o
  | .fmin h o => encA 0x24 h o
  | .fmax h o => encA 0x25 h o
  | .fabs h o => encA 0x26 h o
  | .fneg h o => encA 0x27 h o
  | .fcmp h o => encA 0x28 h o
  | .fdiv h o => encA 0x29 h o
  | .fsqrt h o => encA 0x2A h o
  | .frcp h o => encA 0x2B h o
  | .frsq h o => encA 0x2C h o
  | .fex2 h o => encA 0x2D h o
  | .flg2 h o => encA 0x2E h o
  | .fsin h o => encA 0x2F h o
  | .fcos h o => encA 0x30 h o
  | .frnd h o => encA 0x31 h o
  | .fcls h o => encA 0x32 h o
  | .fscl h o => encA 0x33 h o
  | .fclp h o => encA 0x34 h o
  | .fdot2 h o => encA 0x35 h o
  | .fcvt h o => encA 0x36 h o
  | .nscl h o => encA 0x40 h o
  | .npck h o => encA 0x41 h o
  | .nunp h o => encA 0x42 h o
  | .ndot h o => encA 0x43 h o
  | .pchk h o => encA 0x48 h o
  | .pchkProv h o => encA 0x48 h o
  | .pmrk h o => encA 0x49 h o
  | .pfix h o => encA 0x4A h o
  | .plog h o => encA 0x4B h o
  | .shfl h o => encA 0x50 h o
  | .vote h o => encA 0x51 h o
  | .blot h o => encA 0x52 h o
  | .redx h o => encA 0x53 h o
  | .scan h o => encA 0x54 h o
  | .sred h o => encA 0x55 h o
  | .rdl h o => encA 0x56 h o
  | .wrl h o => encA 0x57 h o
  | .mtch h o => encA 0x58 h o
  | .getc h o => encA 0x60 h o
  | .setc h o => encA 0x61 h o
  | .getid h o => encA 0x62 h o
  | .clk h o => encA 0x63 h o
  | .bra h o => encC 0x70 h o
  | .brx h o => encC 0x71 h o
  | .call h o => encC 0x72 h o
  | .cali h o => encC 0x73 h o
  | .ret h o => encC 0x74 h o
  | .cvb h o => encC 0x75 h o
  | .cvbCur h o => encC 0x75 h o
  | .cvw h o => encC 0x76 h o
  | .exit h o => encC 0x77 h o
  | .yield h o => encC 0x78 h o
  | .nop h o => encC 0x79 h o
  | .loop h o => encC 0x7A h o
  | .ld h o => encM 0x80 h o
  | .st h o => encM 0x81 h o
  | .ldt h o => encM 0x82 h o
  | .stt h o => encM 0x83 h o
  | .ldv h o => encM 0x84 h o
  | .pfx h o => encM 0x85 h o
  | .atom h o => encM 0x88 h o
  | .cas h o => encM 0x89 h o
  | .red h o => encM 0x8A h o
  | .rfl h o => encM 0x8B h o
  | .fence h o => encM 0x8C h o
  | .mon h o => encM 0x8D h o
  | .mwt h o => encI 0x8E h o
  | .qwait h o => encM 0x8F h o
  | .wake h o => encM 0x90 h o
  | .bar h o => encA 0xA0 h o
  | .bsc h o => encA 0xA1 h o
  | .arrvSet h o => encA 0xA2 h o
  | .arrvAdd h o => encA 0xA2 h o
  | .awt h o => encA 0xA3 h o
  | .qpush h o => encA 0xA4 h o
  | .qpop h o => encA 0xA5 h o
  | .lend h o => encA 0xA6 h o
  | .claim h o => encA 0xA7 h o
  | .send h o => encA 0xA8 h o
  | .cpy h o => encE 0xB0 h o
  | .cpym h o => encE 0xB1 h o
  | .rfet h o => encE 0xB2 h o
  | .rfett h o => encE 0xB3 h o
  | .cseal h o => encE 0xB4 h o
  | .mma h o => encA 0xC0 h o
  | .mmsp h o => encA 0xC1 h o
  | .tzro h o => encA 0xC2 h o
  | .tmov h o => encA 0xC3 h o
  | .kbnd h o => encA 0xC4 h o
  | .trmxGet h o => encA 0xC5 h o
  | .trmxPut h o => encA 0xC5 h o
  | .ralc h o => encA 0xD0 h o
  | .rput h o => encA 0xD1 h o
  | .rputIn h o => encA 0xD1 h o
  | .rget h o => encA 0xD2 h o
  | .rdon h o => encA 0xD3 h o
  | .rsd h o => encA 0xD4 h o
  | .post h o => encA 0xD5 h o
  | .snap h o => encA 0xD6 h o
  | .nest h o => encL 0xE0 h o
  | .nred h o => encL 0xE1 h o
  | .xcon h o => encE 0xE2 h o
  | .trap h o => encS 0xF0 h o
  | .tret h o => encS 0xF1 h o
  | .tclr h o => encS 0xF2 h o
  | .brk h o => encS 0xF3 h o
  | .park h o => encS 0xF4 h o
  | .tres h o => encS 0xF5 h o
  | .tresW h o => encS 0xF5 h o
  | .plcw h o => encS 0xF6 h o
  | .xinv h o => encS 0xF7 h o
  | .swap h o => encS 0xF8 h o
  | .fcal h o => encS 0xF9 h o
  | .diag h o => encS 0xFA h o
  | .resultLand => []
  | .memoryAccessPerform _ => []
  | .monitorPoll _ _ => []
  | .mwtTimeout _ _ => []
  | .qwaitRetry => []
  | .claimGrant _ => []
  | .deadlockDetect _ => []
  | .cvwRelease _ _ => []
  | .barDeparture _ => []
  | .atomicBufferDrain _ => []
  | .causalBufferRelease _ => []
  | .handQueueApply _ => []
  | .inboxMessageArrival _ => []
  | .senderResetMarker _ _ => []
  | .arrivalIncrement _ => []
  | .colophonWrite _ => []
  | .copyInstanceStart _ _ => []
  | .enginePacketWrite _ => []
  | .pageWalk => []
  | .matrixGrant _ => []
  | .matrixPassComplete _ => []
  | .inputAccession _ => []
  | .recordArrival _ => []
  | .residualPostApply _ => []
  | .catalogueAnswer _ => []
  | .blockActivation _ => []
  | .coalescingTimerLapse _ _ => []
  | .catalogueChoice _ => []
  | .dispatchLaunch _ => []
  | .dispatchRetire _ _ => []
  | .probeStart _ => []
  | .probeAnswer _ => []
  | .reportWrite _ => []
  | .standingTeamFormed => []
  | .teamStart => []
  | .gridComplete _ => []
  | .handlerEntry _ _ => []
  | .faultFill _ _ => []
  | .faultRefuse _ _ _ => []
  | .stopArrival _ => []
  | .dbgcResume _ => []
  | .resumeArrival _ => []
  | .singleStep _ _ => []
  | .preemptionSignal _ => []
  | .shadowSwapComplete _ => []
  | .spill _ => []
  | .packetDeferral _ => []
  | .allocationCopyComplete _ => []
  | .teamResumption _ => []
  | .qtailDoorbell _ _ => []
  | .queueRunWrite _ _ => []
  | .nopPacket _ => []
  | .launch _ => []
  | .write _ => []
  | .signalPacket _ => []
  | .waitPacket _ => []
  | .waitConditionMet _ => []
  | .indirect _ => []
  | .loadStandingGraph _ => []
  | .startStandingGraph _ => []
  | .stopStandingGraph _ => []
  | .resetStandingGraph _ => []
  | .unloadStandingGraph _ => []
  | .loadTaskGraph _ => []
  | .unloadTaskGraph _ => []
  | .input _ => []
  | .inputSlotFreed _ => []
  | .trigger _ => []
  | .completionWordWrite _ => []
  | .taskGraphTrigger _ _ => []
  | .launchNode _ _ => []
  | .standingNode _ _ => []
  | .conditionalNode _ _ => []
  | .loopNode _ _ => []
  | .copyNode _ _ => []
  | .waitNode _ _ => []
  | .signalNode _ _ => []
  | .taskGraphRunEnd _ _ => []
  | .timeSliceSwitch _ => []
  | .msixMessage _ => []
  | .msixUnmask _ => []
  | .imageLoadStart _ => []
  | .imageLoadComplete => []
  | .fcalReply _ _ _ _ => []
  | .invalidationStart _ _ _ _ _ => []
  | .parkRelease _ => []
  | .imgbWrite _ _ => []
  | .partitionEnable _ _ => []
  | .placeTableCommit _ => []
  | .clusterResetGo _ _ => []
  | .isolation _ => []
  | .cutPacketArrival _ => []
  | .isolatedPacketAnswer _ => []
  | .resetComplete _ => []
  | .restore _ => []
  | .moduleReset => []
  | .monitorLevel => []
  | .lpddrOnlyLevel => []
  | .hbmRelease _ => []
  | .mailboxStart _ => []
  | .functionLevelReset => []
  | .clockStepUpdate => []
  | .thermalTrip => []
  | .hostMemAccess _ _ _ => []
  | .backInvalidate _ => []
  | .registerWrite _ _ _ _ => []
  | .copyBackComplete _ => []

/-- The bytes of encoded slots. -/
def encodeBytes (i : Instr) : List Byte := (encode i).flatMap (Machine.toBytes 12)

/-- Splits a word of the opcode table's numbering into slots, as many as the opcode takes. -/
def tableSlots (w : Nat) : List Nat :=
  match hdrOf (w % 2 ^ 96) with
  | none => []
  | some (_, op) => (List.range (slotsOf op)).map (fun k => w / 2 ^ (96 * k) % 2 ^ 96)

/-- The instruction that the decoder reads from an instruction whose bits are `w`, numbered as spec/opcode_table.json numbers them. -/
def decodeTableWord (nbits w : Nat) : Option Instr :=
  match decodeBytes ((tableSlots (w % 2 ^ max nbits 288)).flatMap (Machine.toBytes 12)) with
  | .ok i => some i
  | .error _ => none

end Sys2Proof
end

