-- ==== Sys2Proof/Config.lean ====
section
/-! DEFINITION. What the spec leaves open: constants without a body, of which nothing can be proved but that they have a value. Entry 6 of the assumption log says how the free counter of the state feeds them. -/
namespace Sys2Proof.Config

/-- Clocks that an access takes beyond its unloaded latency (03 R107). -/
opaque delay : Nat → Nat

/-- Clocks from the event that creates a deadlock to its detection; the model takes it modulo 65 (01 R31). -/
opaque deadlockDelay : Nat → Nat

/-- How far back in the order of a location a read that nothing orders looks, of the writes that it may miss (04 R113). -/
opaque stale : Nat → Nat

/-- Which line or card a full cache drops (03 R91, 06 R163). -/
opaque victim : Nat → Nat

/-- A byte that two copies or a copy and an overlapping source leave open (04 R117, 09 R268). -/
opaque pick : Nat → Bool

/-- The integer that a matrix pass over integers takes for a value that is not one (09 R301). -/
opaque wholeOf (neg : Bool) (m : Nat) (e : Int) : Int

/-- Number of timing errors detected in a run of an over-scaled pass (05 R154). -/
opaque passErrors : Nat → Nat

/-- The public key in the boot ROM, and the serial number of the module (19 R419, R428). -/
opaque romKey : Nat
opaque serialNumber : Nat

/-- The channel of its die that serves an address of the LPDDR tier, modulo 8 (19 R422). -/
opaque lpddrChannel : Nat → Nat

/-- Whether a memory channel or stack passes training and test (19 R417). -/
opaque trained : Nat → Bool

/-- Readings of temperature and power (19 R427). -/
opaque temperature : Nat → Nat
opaque power : Nat → Nat

/-- A word of which the spec states no value. -/
opaque freeWord : Nat → Word

/-- Clocks that a step of the Front End, of the firmware or of bring-up takes (14 R348). -/
opaque stepTime : Nat → Nat

/-- The image of a KIND (19 R419) that a module flash holds; the flash is known by the last mailbox image written to it. -/
opaque flashImage : List Byte → Nat → List Byte

end Sys2Proof.Config
end

