-- ==== Sys2Proof/Machine/Tab.lean ====
section
/-! DEFINITION. Finite tables keyed by numbers, kept in rising order of keys. -/
namespace Sys2Proof.Machine

/-- A table: keys strictly rising. -/
abbrev Tab (α : Type) := List (Nat × α)

/-- The entry at a key. -/
def tget {α : Type} : Tab α → Nat → Option α
  | [], _ => none
  | (k, a) :: r, i => if i = k then some a else tget r i

/-- Sets the entry at a key. -/
def tset {α : Type} : Tab α → Nat → α → Tab α
  | [], i, a => [(i, a)]
  | (k, b) :: r, i, a => if i < k then (i, a) :: (k, b) :: r else if i = k then (i, a) :: r else (k, b) :: tset r i a

/-- Removes the entry at a key. -/
def tdel {α : Type} : Tab α → Nat → Tab α
  | [], _ => []
  | (k, b) :: r, i => if i = k then r else (k, b) :: tdel r i

/-- Applies a function to the entry at a key, if there is one. -/
def tupd {α : Type} : Tab α → Nat → (α → α) → Tab α
  | [], _, _ => []
  | (k, b) :: r, i, f => if i = k then (k, f b) :: r else (k, b) :: tupd r i f

/-- Keys strictly rising. -/
def tabWf {α : Type} : Tab α → Bool
  | [] => true
  | [_] => true
  | (k, _) :: (j, b) :: r => decide (k < j) && tabWf ((j, b) :: r)

/-- The lowest number that is no key, from `i` up, searching `n` numbers. -/
def tfree {α : Type} (t : Tab α) : Nat → Nat → Option Nat
  | 0, _ => none
  | n + 1, i => if (tget t i).isSome then tfree t n (i + 1) else some i

/-- The element of a list, or a default. -/
def lget {α : Type} (l : List α) (i : Nat) (d : α) : α := l.getD i d

/-- Applies a function to one element of a list. -/
def lupd {α : Type} : List α → Nat → (α → α) → List α
  | [], _, _ => []
  | a :: r, 0, f => f a :: r
  | a :: r, i + 1, f => a :: lupd r i f

end Sys2Proof.Machine
end

