-- ==== Sys2Proof/Machine/State.lean ====
section
/-! DEFINITION. The state of the device: plain data, holding every piece of state that INVENTORY.md lists, and the state after module reset. -/
namespace Sys2Proof.Machine
open Sys2Proof

/-- Why the machine stops. -/
inductive Fault where
  /-- Raised by PAGE_WALK when a table of the walk lies at a physical address that no controller and no window serves; safe. -/
  | noHome (pa : Nat)
  deriving DecidableEq, Repr

/-- Why a step has no next state. -/
inductive Refusal where
  /-- Raised by `exec` for an instruction that has no meaning yet; safe. -/
  | notModelled (mnemonic : String)
  /-- Raised by `exec` for a step of the device whose conditions do not hold in the state; the step function never asks for one; safe. -/
  | notDue (mnemonic : String)
  /-- Raised by `exec` for a program instruction when no convergence set stands selected for issue; safe. -/
  | noIssue
  deriving DecidableEq, Repr

/-! Threads and groups. -/

/-- Thread states (16 R360); held by a stop and held by `park` are told apart. -/
inductive TSt where
  | run | parked | handler | heldStop | heldPark | exited
  deriving DecidableEq, Repr

/-- Latch, run and lanes that the first word of a result goes to (01 R39). -/
structure Latch where
  lt : Nat
  run : Nat
  lanes : List Nat
  deriving DecidableEq, Repr

/-- What a thread waits for (16 R392, 01 R23). Barrier 4 is the barrier of the grid. -/
inductive Wait where
  | none
  | claim
  | cvw (cb : Nat)
  | bar (b : Nat)
  | bsc (b : Nat) (dst : Opnd) (latch : Option Latch) (val root : Nat)
  | mwt (deadline : Option Nat) (dst : Opnd)
  | qwait
  | qpush
  | qpop
  | awt (dst : Opnd) (latch : Option Latch)
  | fcal
  | fence (kind scope : Nat)
  | answer
  | walk
  | tret
  deriving DecidableEq, Repr

/-- A thread: group key and lane. -/
structure TRef where
  g : Nat
  lane : Nat
  deriving DecidableEq, Repr

/-- A token of a thread that an operation counts on (01 R38); `h` names a handler token (16 R365). -/
structure TokRef where
  g : Nat
  lane : Nat
  k : Nat
  h : Bool
  deriving DecidableEq, Repr

/-- A thread's monitor (08 R246, R255). `sn` tells it from a later one, `home` and `sa` name the word, `poll` is the next poll when the table was full, `sat` the satisfying value and the clock from which the thread may see it, `learn` what the satisfying read brings, by the scope that it needs (04 R111). -/
structure Mon where
  sn : Nat
  va : Nat
  sa : Nat
  home : Nat
  b64 : Bool
  signed : Bool
  cond : Nat
  val : Dword
  acq : Bool
  scope : Nat
  awt : Bool
  armed : Bool
  poll : Option Nat
  sat : Option (Dword × Nat)
  learn : List (Nat × List Nat)
  deriving DecidableEq, Repr

/-- A thread. `know` counts the releases of each die that happen before what it does next, `pot` those that a later acquiring fence would add, by the scope that it needs (04 R111, R112), and `frel` is the scope of its latest releasing fence. -/
structure Thread where
  pc : Nat
  st : TSt
  hm : Bool
  v : List Word
  pv : BitVec 7
  pt : BitVec 7
  tok : List Nat
  htok : List Nat
  trec : List Word
  wait : Wait
  resume : Nat
  wop : Nat
  mon : Option Mon
  readyAt : Nat
  lastIssue : Nat
  vecAt : Option Nat
  step : Bool
  solo : Bool
  rp : Bool
  rpPc : Nat
  rdon : Bool
  rdonSn : Nat
  lends : List (Nat × Nat)
  know : List Nat
  pot : List (List Nat)
  frel : Option Nat
  deriving DecidableEq, Repr

/-- An entry of an atomic-buffer slot (04 R121, 08 R243): the doubleword, which half (2: all of it), operation, type, accumulator, the thread and instruction that made it, and whether a contribution belongs to a dispatch (09 R290). -/
structure ABEnt where
  sa : Nat
  half : Nat
  op : Nat
  ty : NTy
  acc : Dword
  lane : Nat
  pc : Nat
  disp : Bool
  deriving DecidableEq, Repr

/-- The dispatch that a group runs (02 R64, R65): graph, node, block, record count, slot size, offset of its first window slot; the clock from which its launch is due with the records that go to the window and their slots, until it is launched; the serial from which the work of its threads is done. -/
structure Disp where
  graph : Nat
  node : Nat
  blk : Nat
  count : Nat
  rsz : Nat
  base : Nat
  launchAt : Option Nat
  recs : List (Nat × List Byte)
  doneSn : Option Nat
  deriving DecidableEq, Repr

/-- A group (01 R17 to R20, 12 R303, 16 R361). `raised` holds the bits of CAUSE raised in the clock at hand, which a `tclr` of that clock leaves set; `lastIssue` and `readySince` are what the scheduler compares; `accn` is the accession number that it received at launch (02 R53). -/
structure Group where
  core : Nat
  gi : Nat
  team : Nat
  gteam : Nat
  role : Nat
  mix : Nat
  th : List Thread
  s : List Word
  cbm : List Word
  cba : List Word
  cause : Word
  raised : Word
  mode : Word
  pctl : Word
  fm : List Word
  icnt : Word
  ab : List ABEnt
  resv : Tab (List Nat)
  disp : Option Disp
  accn : Nat
  lastIssue : Nat
  readySince : Nat
  deriving DecidableEq, Repr

/-- The issue run of a scheduler (01 R34). -/
structure Run where
  g : Nat
  n : Nat
  id : Nat
  deriving DecidableEq, Repr

/-- An issue scheduler (01 R32): its run, its latches with the run that wrote them (R39), the clock at which its iterative unit is free and the issue that takes it last (07 R190, R198). -/
structure Sched where
  run : Option Run
  xs : Tab (Word × Nat)
  unitFree : Nat
  unitSn : Nat
  deriving DecidableEq, Repr

/-! Results on their way (01 R37). -/

/-- One write that lands. `sn` is the issue serial of a vector write, against later lends (08 R257). -/
inductive RegWr where
  | v (g lane n : Nat) (x : Word) (sn : Nat)
  | s (g n : Nat) (x : Word)
  | p (g lane n : Nat) (b taint : Bool)
  | x (g lane n : Nat) (x : Word) (run : Nat)
  | creg (g i : Nat) (x : Word)
  | tc (core k : Nat) (x : Word)
  | tile (core k off : Nat) (bytes : List Byte)
  | himag (core k : Nat) (whole : Bool) (b : Bool)
  | causeClear (g : Nat) (mask : Word)
  | trec (g lane i : Nat) (x : Word)
  | dbgc (team : Nat) (x : Word)
  | ctl (cc : Nat) (fp : Bool) (rd : Nat) (x : Dword)
  deriving DecidableEq, Repr

/-- Results that land together. -/
structure Landing where
  tm : Nat
  wr : List RegWr
  tok : List TokRef
  wake : List TRef
  far : Option Nat := none
  deriving DecidableEq, Repr

/-- An operation in parts: how many parts are still out, what lands when all are done. -/
structure Op where
  left : Nat
  tm : Nat
  land : Landing
  deriving DecidableEq, Repr

/-! Messages in flight (03 R104, 04 R108 to R116). -/

/-- What a message does at its home. Register operands are already read. -/
inductive Body where
  | load (sa w : Nat) (sx : Bool) (dst : Opnd) (latch : Option Latch) (pc va : Nat)
  | tileRead (rows : List (Nat × Nat × Nat)) (core k stride eb teb pc va : Nat)
  | store (rows : List (Nat × List Byte)) (aon : Bool) (prog : Bool)
  | packet (copy idx sa : Nat) (data : List Byte) (ep : Bool)
  | atom (sa : Nat) (op : Nat) (ty : NTy) (b : Dword) (dst : Option Opnd) (g lane pc va : Nat)
  | cas (sa : Nat) (w : Nat) (expect new : Dword) (dst : Opnd) (pc va : Nat)
  | metaRead (frame : Nat) (dst : Opnd) (pc va : Nat)
  | monArm (sn : Nat)
  | qwait (sa : Nat)
  | wake (sa n : Nat)
  | arrSet (sa n : Nat)
  | arrInc (sa n : Nat) (copy : Nat)
  | push (sa team k : Nat) (x : Dword)
  | pop (sa team k : Nat) (dst : Opnd) (latch : Option Latch) (pc va : Nat)
  | ring (core ring sender : Nat) (payload : List Byte) (pd : Nat)
  | seal (sa : Nat) (dst : Option Opnd) (pc va : Nat)
  | plogRead (sa : Nat) (dst : Opnd) (latch : Option Latch) (pc va : Nat)
  | colophon (sa : Nat) (stamp : Dword) (copy : Nat)
  | record (graph : Nat) (data : List Byte) (slot : Nat)
  | input (graph : Nat) (data : List Byte) (slot : Nat)
  | rput (graph : Nat) (data : List Byte) (depth : Nat) (isIn : Bool) (pd : Nat)
  | outcome (pd cause : Nat)
  | ralc (graph node n pd : Nat) (lanes : List Nat)
  | rsd (graph node blk : Nat) (w : Word)
  | snap (graph node blk : Nat) (dst : Opnd) (latch : Option Latch)
  | post (grid k : Nat) (x : Word)
  | nireg (core reg : Nat) (x : Word)
  | niread (core reg : Nat) (dst : Opnd)
  | inval (part : Option Nat) (va pages reach cluster : Nat)
  | trigger (part graph : Nat)
  | ctlLoad (cc sa n : Nat) (sx fp : Bool) (rd : Nat)
  deriving DecidableEq, Repr

/-- Where a message stands: a release that waits for acknowledgements (04 R115), under way, in the causal buffer of R116, in a deferral queue, released from the causal buffer, cut by a cluster reset, or held back by an isolated interface. -/
inductive Stage where
  | waiting | flight | held | deferred | free | cut | unsent
  deriving DecidableEq, Repr

/-- A message: what its die had released at issue (`epoch`) with the clock of its die, the thread and the lanes for which it acts, the scope of its order and the scope at which it releases when a fence before it makes it a release, and what its threads knew. -/
structure Msg where
  id : Nat
  due : Nat
  src : Nat
  dst : Nat
  recCls : Bool
  die : Nat
  dieTo : Nat
  epoch : Nat
  vc : List Nat
  thr : Option TRef
  who : List Nat
  scope : Nat
  know : List Nat
  frel : Option Nat
  acq : Bool
  rel : Bool
  wr : Bool
  back : Nat
  stage : Stage
  bad : Bool
  op : Nat
  body : Body
  deriving DecidableEq, Repr

/-- An acknowledgement or a response under way (04 R115, R116; 08 R245): the message that was performed, and the clock at which it is back. -/
structure Ack where
  id : Nat
  src : Nat
  dst : Nat
  recCls : Bool
  die : Nat
  dieTo : Nat
  thr : Option TRef
  who : List Nat
  wr : Bool
  at_ : Nat
  deriving DecidableEq, Repr

/-- A write that a home has applied and that a read may still miss (04 R108, R112, R113): the bytes that it replaced, its writer, what happened before it, whether it was part of a read-modify-write or of one whole tile store, the scope at which it was a release, the threads that have seen it, the sc fences that order it, and the clock after which every read sees it. -/
structure Past where
  sa : Nat
  old : List Byte
  thr : Option TRef
  who : List Nat
  team : Option Nat
  die : Nat
  epoch : Nat
  vc : List Nat
  rmw : Bool
  aon : Bool
  relAt : Option Nat
  seen : List TRef
  sc : List Nat
  till : Nat
  deriving DecidableEq, Repr

/-! Cores and clusters. -/

/-- A core: tile shapes and high marks, inbox rings, isolation, sequence numbers and markers of senders, send credits, the swap under way, and the rows that its slice's banks serve with their clocks (03 R81). -/
structure Core where
  tc : List Word
  himag : List Bool
  ring : List Word
  isol : Bool
  sseq : Tab Nat
  markers : List (Nat × Nat)
  credit : List Nat
  swapUntil : Option Nat
  copying : Bool
  banks : List (Nat × Nat × Nat)
  deriving DecidableEq, Repr

/-- A posting in a matrix engine's reservation table (09 R277 to R281): the shapes and the mode stand as they were at posting; `xc` is the contraction that posted it (R302). -/
structure MReq where
  g : Nat
  lane : Nat
  pc : Nat
  tm : Nat
  pri : Nat
  fmt : Nat
  sparse : Bool
  z : Bool
  c : Nat
  a : Nat
  b : Nat
  sc : Option Nat
  m : Nat
  n : Nat
  k : Nat
  acols : Nat
  w : Nat
  fm : Word
  rows : List Nat
  zs : Option (Nat × Nat)
  mode : Word
  toks : List TokRef
  xc : Option Nat
  deriving DecidableEq, Repr

/-- An entry of the fault buffer (16 R368), with its requesters. -/
structure FEnt where
  fva : Nat
  smark : Nat
  kind : Nat
  st : Nat
  protf : Bool
  who : List (TRef × Nat)
  engines : List Nat
  deriving DecidableEq, Repr

/-- A request that waits for an entry of the fault buffer, of a thread or of an engine thread (16 R367). -/
structure FReq where
  mark : Nat
  va : Nat
  kind : Nat
  who : Option (TRef × Nat)
  eng : Option Nat
  deriving DecidableEq, Repr

/-- A cluster: the matrix engine's table, granted passes, clock at which the engine is free and groups that wait for an entry of the table, in order; the Contraction unit and its predictor; fault buffer, code and Retrieval caches, card cache. -/
structure Cluster where
  table : List MReq
  mwait : List Nat
  granted : List (MReq × Landing)
  freeAt : Nat
  engAt : Nat
  pred : List Nat
  fbuf : Tab FEnt
  fwait : List FReq
  code : Tab (List Byte)
  retr : Tab (List Byte)
  cards : List (Nat × Nat × Nat)
  restoreDue : Bool
  deriving DecidableEq, Repr

/-- A cached translation (18 R402): level 0 core, 1 cluster, 2 die, with the unit's number. -/
structure TEnt where
  lvl : Nat
  unit : Nat
  part : Nat
  va : Nat
  size : Nat
  pa : Nat
  perm : Nat
  dirty : Bool
  deriving DecidableEq, Repr

/-- A prefetch that waits for a walk (08 R239): whether it fills lines of the Retrieval unit's cache, one or a whole frame. -/
structure Fill where
  core : Nat
  va : Nat
  lines : Bool
  frame : Bool
  toks : List TokRef
  deriving DecidableEq, Repr

/-- An access of an engine thread that waits for a walk: the copy, the core, the address and the kind. -/
structure EReq where
  copy : Nat
  core : Nat
  va : Nat
  kind : Nat
  deriving DecidableEq, Repr

/-- A page walk (18 R403): the root at its start (R406) and the clock of its end, none while it waits for a slot; the threads that join it, the prefetches and the engine threads. -/
structure Walk where
  die : Nat
  part : Nat
  page : Nat
  root : Nat
  due : Option Nat
  who : List (TRef × Nat × Nat)
  fills : List Fill
  engs : List EReq
  deriving DecidableEq, Repr

/-- Vector clock, interrupt status, cluster reset block with the clocks of isolation and of clearing and the counts of the record, call queue and invalidation registers of a die. -/
structure Die where
  vc : List Nat
  intr : Nat
  reca : Nat
  rdone : Bool
  rbusy : Bool
  rclus : Nat
  rrun : Nat
  isoAt : Option Nat
  rstAt : Option Nat
  cut : Nat
  refd : Nat
  lost : List (Nat × Nat × Nat)
  fcal : List (Nat × Nat × Nat × Word)
  fhead : Nat
  invAddr : Nat
  invArg : Nat
  errs : Tab (Nat × Nat)
  deriving DecidableEq, Repr

/-! Teams and grids. -/

/-- A barrier instance that is satisfied and departs at a clock (08 R252); `out` while its flush is not acknowledged. -/
structure BarSt where
  sat : Option Nat
  flushed : Option Nat
  deriving DecidableEq, Repr

/-- An open copy instance of a channel (09 R267). -/
structure Chan where
  n : Nat
  col : Option Nat
  arr : Option Nat
  stamp : Dword
  slices : List (Nat × List Nat)
  toks : List TokRef
  deriving DecidableEq, Repr

/-- A waiting claim (01 R28 to R31): members, amount, clock, and for a call the link and the target. -/
structure Claim where
  id : Nat
  who : List TRef
  n : Nat
  tm : Nat
  call : Option (Opnd × Nat × Nat)
  toks : List TokRef
  deriving DecidableEq, Repr

/-- A team control entry (19 R430). -/
structure Entry where
  imgb : Nat
  spc : Nat
  saddr : Nat
  srsn : Word
  skind : Nat
  part : Nat
  smark : Nat
  stopall : Bool
  stopped : Bool
  ldrop : Nat
  v : Bool
  deriving DecidableEq, Repr

/-- Suspension of a team (16 R384 to R389): in place; a signal that arrives at a clock; from the swap on, slots to drain, draining in a flush, the allocation being copied, its image the home, everything spilled; filled, to be swapped in at a clock; swapped in while its tiles and allocation still stand in the image; the allocation copied back at a clock. -/
inductive Susp where
  | no
  | inPlace
  | signalled (tm : Nat)
  | spilling
  | draining (fl : Nat)
  | copying (tm : Nat)
  | copied
  | out
  | resuming (tm : Nat)
  | swapped
  | copyback (tm : Nat)
  deriving DecidableEq, Repr

/-- A team: its partition, grid or graph, index, shelf marks with their groups, resources, barriers, copies, claims, stops and suspension; `occ` numbers the lane-blocks on which it has a share, 2 × core of the map + lane-block, and `gone` says that its last thread has ended. -/
structure Team where
  part : Nat
  grid : Option Nat
  graph : Option Nat
  standing : Bool
  tix : Nat
  marks : List (Nat × Nat)
  ngrp : Nat
  ent : Nat
  sh : List Nat
  tiles : Nat
  spoff : Nat
  spsz : Nat
  polb : Nat
  logix : Nat
  qrec : List Nat
  qmask : Nat
  qhd : List Nat
  bars : List BarSt
  chans : Tab Chan
  claims : List Claim
  stopAt : Option Nat
  resumeAt : Option Nat
  susp : Susp
  dlAt : Option Nat
  occ : List Nat
  gone : Bool
  fcalOut : List (Nat × Opnd × List TRef × List TokRef)
  deriving DecidableEq, Repr

/-- A grid: its LAUNCH packet, initial scalars and placement map, teams and how many have started, whether it is complete, result words, barrier; `node` says that a launch node of a task graph started it. -/
structure Grid where
  lp : List Nat
  scal : List Word
  maps : List Nat
  part : Nat
  nteam : Nat
  started : Nat
  comp : Bool
  res : List Word
  gbar : BarSt
  multi : Bool
  die : Nat
  node : Bool
  deriving DecidableEq, Repr

/-- A row of a copy: the core whose windows its addresses mean, source, destination (an offset for `cpym`) and length. -/
structure CRow where
  core : Nat
  src : Nat
  dst : Nat
  len : Nat
  deriving DecidableEq, Repr

/-- A contraction (09 R298 to R302): its parameter block, the cards of A, B and C, the first scratch tile and their count, MODE and the format registers at issue. Then how far it has come: the block of C at hand, the next contracted tuple, the accumulators of the block, what they become when the pass that has been posted is granted, with the high marks of its operands, and whether a pass is out or the elements are being stored. -/
structure XCon where
  block : Nat
  cards : List Nat
  tile : Nat
  cnt : Nat
  mode : Word
  fm : List Word
  blk : Nat
  kpos : Nat
  accs : List Nat
  nexts : List Nat
  hia : Bool
  hib : Bool
  posted : Bool
  deriving DecidableEq, Repr

/-- A copy engine's work (09 R268 to R270): rows still to be written with the bytes done of the first, what its forking threads knew, words as they stood before a whole tile store into what it was reading (08 R237), destination marks of `cpym`, packets, increments and colophons out; or a contraction. `after` names the threads and serials whose earlier accesses come first, `old` source words that the copy has overwritten with their values, `g`, `lane` and `pc` the fork for the poison log. -/
structure Copy where
  cluster : Nat
  team : Nat
  part : Nat
  g : Nat
  lane : Nat
  pc : Nat
  core : Nat
  know : List Nat
  keep : List (Nat × Nat)
  after : List (TRef × Nat)
  todo : List CRow
  next : Nat
  out : Nat
  incs : Nat
  marks : List Nat
  arrs : List Nat
  cols : List Nat
  colSent : Bool
  colOut : Nat
  stamp : Nat
  poison : Bool
  toks : List TokRef
  old : List (Nat × Nat)
  blocked : Bool
  ended : Bool
  xcon : Option XCon
  deriving DecidableEq, Repr

/-- A flush of atomic-buffer slots (04 R122): slots still to drain, the slot that drains now, its updates out, the clock of the last acknowledgement, and what its end releases. -/
structure Flush where
  slots : List Nat
  g : Nat
  out : Nat
  ackAt : Nat
  toks : List TokRef
  bar : Option (Nat × Nat)
  deriving DecidableEq, Repr

/-! Standing graphs (02; 14 R350). -/

/-- A block (02 R45 to R65): residual, raise stamp, pending records with their slots, the group that runs it, the residual that its dispatch took, held (R76), its place among the blocks that wait for an active entry with the post held for it, whether it has an entry, version, timer, and the clock at which it last became ready. -/
structure Block where
  res : Word
  raise : Nat
  pend : List (Nat × List Byte)
  run : Option Nat
  taken : Word
  held : Bool
  waiting : Option Nat
  hres : Option Word
  active : Bool
  ver : BitVec 31
  timer : Option Nat
  lapsed : Bool
  readyAt : Option Nat
  lastDisp : Nat
  deriving DecidableEq, Repr

/-- A probe on its way (02 R70): its start, and the accession counter then. -/
structure Probe where
  start : Nat
  mark : Nat
  deriving DecidableEq, Repr

/-- A standing graph: table entry with the standing-team record after it, the node descriptors in use and those of its window (R47). `prev` is the last probe answered: quiet, the sums and its watermark; `due` is a report to be written: clock and watermark. -/
structure Graph where
  part : Nat
  entry : List Nat
  nodes : List (List Nat)
  desc : List (List Nat)
  running : Bool
  starting : Bool
  stopping : Bool
  accn : Nat
  ebnd : Word
  seq : Nat
  drop : Nat
  wmark : Nat
  prov : Option Nat
  sent : List Nat
  rcvd : List Nat
  disturbed : List Bool
  blocks : Tab Block
  pool : List Nat
  teams : List Nat
  probe : Option Probe
  lastProbe : Nat
  prev : Option (Bool × Nat × Nat × Nat)
  settled : Bool
  due : Option (Nat × Nat)
  deriving DecidableEq, Repr

/-- A selected convergence set and where its issue stands (01 R22): the instruction's code address, the address after it or after its pair, whether a second instruction follows or this is the second, whether it issues alone out of a pair, and the members that the first instruction trapped. -/
structure Cur where
  g : Nat
  pc : Nat
  next : Nat
  lanes : List Nat
  hm : Bool
  pair : Bool
  second : Bool
  solo : Bool
  trapped : List Nat
  deriving DecidableEq, Repr

/-! Control cores (14 R332 to R334). -/

/-- The privilege modes of the RISC-V privileged architecture (14 R332). -/
inductive Priv where
  | u | s | m
  deriving DecidableEq, Repr

/-- A physical memory protection entry: permissions, matching mode (0 off, 1 top of range, 2 four bytes, 3 a power of two), lock, address register. -/
structure Pmp where
  r : Bool
  w : Bool
  x : Bool
  mode : Nat
  lock : Bool
  addr : Nat
  deriving DecidableEq, Repr

/-- A control core: mode, partition, code address and the last instruction word fetched, integer and floating-point registers, PMP entries, control and status registers, the lines of its caches. As an agent of device scope: what happens before its next access, what an acquiring fence would add, the scope of its last releasing fence, and a fence that waits, with its kind and its least end. -/
structure CtlCore where
  priv : Priv
  part : Option Nat
  pc : Nat
  ir : Nat
  x : List Dword
  f : List Dword
  pmp : List Pmp
  satp : Nat
  medeleg : Nat
  mpp : Priv
  spp : Priv
  sum : Bool
  mxr : Bool
  mtvec : Nat
  mepc : Nat
  mcause : Nat
  mtval : Nat
  stvec : Nat
  sepc : Nat
  scause : Nat
  stval : Nat
  icache : Tab (List Byte)
  dcache : List Nat
  know : List Nat
  pot : List (List Nat)
  frel : Option Nat
  fence : Option (Nat × Nat)
  deriving DecidableEq, Repr

/-- What the firmware has a control core do, as far as this device can tell: fetches, loads and stores, fences with the sets that they order (bit 0 writes, bit 1 reads), control and status registers, calls and returns; and what the three layers own: assignments, slices, keys and plug-ins (14 R332 to R334, R348, R353). -/
inductive CtlOp where
  | fetch (va : Nat)
  | load (va n : Nat) (sx fp : Bool) (rd : Nat)
  | store (va n : Nat) (value : Dword)
  | fence (pred succ : Nat)
  | fenceI
  | csrWrite (k : Nat) (value : Dword)
  | csrRead (k rd : Nat)
  | ecall
  | mret
  | sret
  | assignCore (cc : Nat) (part : Option Nat)
  | assignVec (vec : Nat) (part : Option Nat)
  | sliceLen (n : Nat)
  | enrol (key : Nat)
  | plugin (pa : Nat)
  deriving DecidableEq, Repr

/-- What happens to the device from outside its instructions: acts of control cores, reads of registers by the host, poisoned writes of the host, and failures of checks (05 R151, R152; 19 R422, R423). -/
inductive Act where
  | ctl (cc : Nat) (op : CtlOp)
  | hostRead (offset size : Nat)
  | hostPoison (pa n : Nat)
  | upset (sa : Nat)
  | corrected (die unit : Nat)
  | retransmit (core : Nat)
  | flitFail (id : Nat)
  deriving DecidableEq, Repr

/-- A preemption signal on its way to the cores of a swap (16 R385), with the clock at which it arrives. -/
structure Prem where
  tm : Nat
  cores : List Nat
  deriving DecidableEq, Repr

/-- Everything that an instruction of a program may change. -/
structure Mach where
  mem : List Host.Cell
  bad : List (Nat × Nat)
  frames : Tab (BitVec 32 × Bool)
  hostLines : List Nat
  groups : Tab Group
  scheds : Tab Sched
  cores : Tab Core
  clusters : Tab Cluster
  dies : Tab Die
  teams : Tab Team
  entries : Tab Entry
  grids : Tab Grid
  copies : Tab Copy
  flushes : Tab Flush
  graphs : Tab Graph
  tlb : List TEnt
  walks : List Walk
  pending : List Landing
  flight : List Msg
  acks : List Ack
  past : List Past
  ops : Tab Op
  queues : Tab (List TRef)
  retries : List (Nat × TRef × Nat)
  cur : Option Cur
  serial : Nat
  free : Nat
  prem : List Prem
  ctl : Tab CtlCore
  deriving DecidableEq, Repr

/-! Partitions, Front End, bring-up. -/

/-- A partition control block (18 R406) with its Place Tables (R407): entry values by mark. `plugins` are the images of policy plug-ins that its scheduler has loaded (14 R353). -/
structure Part where
  tvec : Nat
  cst : Nat
  en : Bool
  root : Nat
  place : Tab Nat
  staged : Tab Nat
  plugins : List Nat
  deriving DecidableEq, Repr

/-- A packet that has started and is not complete (14 R337): its words, its place among the top-level packets, its level, the INDIRECT packet that contains it, its step and what it waits for (a grid, a message). -/
structure Pkt where
  id : Nat
  words : List Nat
  top : Nat
  lvl : Nat
  parent : Nat
  step : Nat
  ref : Nat
  deriving DecidableEq, Repr

/-- A host queue (14 R335): its registers; the buffers being read, innermost first, with address, words left and INDIRECT packet (R338); packets running; top-level packets started, completed in order and completed out of order; completion words owed; QHEAD at the current top-level packet. -/
structure Queue where
  qbase : Nat
  qdadr : Nat
  qtail : BitVec 32
  qhead : BitVec 32
  part : Nat
  vec : Nat
  qlog : Nat
  detail : Nat
  step : Nat
  run : Bool
  fault : Nat
  bufs : List (Nat × Nat × Nat)
  pkts : List Pkt
  tops : Nat
  count : Nat
  doneTops : List Nat
  owed : Nat
  topHead : BitVec 32
  deriving DecidableEq, Repr

/-- A task graph (14 R344 to R346); `late` says that a trigger of this clock found the pending bit set (R355). -/
structure Task where
  nodes : List (List Nat)
  entry : Nat
  node : Option Nat
  phase : Nat
  ref : Nat
  ctrs : List Nat
  grids : List Nat
  pend : Bool
  late : Bool
  endCode : Nat
  endNode : Nat
  unload : Bool
  deriving DecidableEq, Repr

/-- A coalescing register (14 R349) with the partition to which the monitor has assigned the vector (R333), its MSI-X mask, address and data, the clock of the first pending event, and the messages sent. -/
structure Vec where
  time : Nat
  cnt : Nat
  pend : Nat
  first : Nat
  masked : Bool
  maddr : Nat
  mdata : Nat
  sent : Nat
  part : Option Nat
  deriving DecidableEq, Repr

/-- A team that waits to start, in the order of waiting (14 R343): the grid whose next team it is, or the graph and the shelf mark. -/
structure WaitTeam where
  grid : Option Nat
  graph : Option (Nat × Nat)
  deriving DecidableEq, Repr

/-- The scheduler of a partition (14 R348): length of its slices, the queue (0 to 63) or task graph (64 up) that it serves, the end of the slice, and the clock of its next step. -/
structure TimeSlice where
  len : Nat
  cur : Nat
  ends : Nat
  due : Nat
  deriving DecidableEq, Repr

/-- Registers of bring-up, power and the mailbox (19), the tenant keys that the monitor has enrolled (R419), and the last answer to the host: nothing (Unsupported Request), or bytes with the poison mark (R423, R428). -/
structure Dev where
  level : Nat
  fail : Nat
  hbmr : List Bool
  /-- Dies whose training or test has failed (19 R418, FAIL 5). -/
  hbmBad : List Bool
  link : Bool
  floor : Option (List Byte)
  flash : List Byte
  images : List Nat
  mboxAddr : Nat
  mboxStat : Nat
  loadAddr : Nat
  loadRes : Nat
  loading : Option Nat
  temp : Nat
  pwr : Nat
  plim : Nat
  cstep : Nat
  tenants : List Nat
  hostAns : Option (List Byte × Bool)
  deriving DecidableEq, Repr

/-- What no instruction of a program changes. -/
structure Sys where
  parts : Tab Part
  queues : Tab Queue
  tasks : Tab Task
  vecs : Tab Vec
  waiting : List WaitTeam
  slice : Tab TimeSlice
  dev : Dev
  inputs : List (Nat × Instr)
  acts : List (Nat × Act)
  deriving DecidableEq, Repr

/-- Core clock, package count, fraction of a reference clock, phase of the clock, schedulers that have had their turn. -/
structure Clk where
  now : Nat
  pcnt : Nat
  frac : Nat
  phase : Nat
  turn : List Nat
  deriving DecidableEq, Repr

/-- The whole device. -/
structure State where
  clk : Clk
  sys : Sys
  m : Mach
  deriving DecidableEq, Repr

/-! Values at reset and at creation. -/

/-- The reset value of TC (07 R218). -/
def tcReset : Word := 0x00023F3F

/-- A core of which nothing has been written. -/
def Core.initial : Core :=
  { tc := List.replicate 16 tcReset, himag := List.replicate 16 false, ring := List.replicate 8 0, isol := false, sseq := [],
    markers := [], credit := [8, 8, 8, 8], swapUntil := none, copying := false, banks := [] }

def Cluster.initial : Cluster :=
  { table := [], mwait := [], granted := [], freeAt := 0, engAt := 0, pred := List.replicate 8 0, fbuf := [], fwait := [], code := [], retr := [],
    cards := [], restoreDue := false }

def Die.initial : Die :=
  { vc := [0, 0, 0, 0], intr := 0, reca := 0, rdone := false, rbusy := false, rclus := 0, rrun := 0, isoAt := none, rstAt := none, cut := 0, refd := 0, lost := [],
    fcal := [], fhead := 0, invAddr := 0, invArg := 0, errs := [] }

def Pmp.initial : Pmp := { r := false, w := false, x := false, mode := 0, lock := false, addr := 0 }

/-- A control core after module reset: M-mode, PMP off, everything that the spec gives no value zero. -/
def CtlCore.initial : CtlCore :=
  { priv := .m, part := none, pc := 0, ir := 0, x := List.replicate 32 0, f := List.replicate 32 0, pmp := List.replicate 16 Pmp.initial,
    satp := 0, medeleg := 0, mpp := .u, spp := .u, sum := false, mxr := false, mtvec := 0, mepc := 0, mcause := 0, mtval := 0, stvec := 0,
    sepc := 0, scause := 0, stval := 0, icache := [], dcache := [], know := [0, 0, 0, 0], pot := [], frel := none, fence := none }

def Sched.initial : Sched := { run := none, xs := [], unitFree := 0, unitSn := 0 }

def Part.initial : Part := { tvec := 0, cst := 0, en := false, root := 0, place := [], staged := [], plugins := [] }

def Queue.initial : Queue :=
  { qbase := 0, qdadr := 0, qtail := 0, qhead := 0, part := 0, vec := 0, qlog := 0, detail := 0, step := 0, run := false,
    fault := 0, bufs := [], pkts := [], tops := 0, count := 0, doneTops := [], owed := 0, topHead := 0 }

def Vec.initial : Vec := { time := 0, cnt := 1, pend := 0, first := 0, masked := true, maddr := 0, mdata := 0, sent := 0, part := none }

def Entry.initial : Entry :=
  { imgb := 0, spc := 0, saddr := 0, srsn := 0, skind := 0, part := 0, smark := 0, stopall := false, stopped := false,
    ldrop := 0, v := false }

def BarSt.initial : BarSt := { sat := none, flushed := none }

/-- Reset values of fm0 to fm7 (05 R132). -/
def fmReset : List Word :=
  [0x00010763, 0x00020F6A, 0x00010151, 0x0001035A, 0x00010153, 0x00010724, 0x00010358, 0x00010049]

/-- A thread at launch (01 R18, R19) with budget `b` at `pc`, in the clock `now`. -/
def Thread.launch (pc b now : Nat) : Thread :=
  { pc := pc, st := .run, hm := false, v := List.replicate b 0, pv := 0, pt := 0, tok := [0, 0, 0, 0], htok := [0, 0, 0, 0],
    trec := List.replicate 16 0, wait := .none, resume := 0, wop := 0, mon := none, readyAt := now, lastIssue := now, vecAt := none,
    step := false, solo := false, rp := false, rpPc := 0, rdon := false, rdonSn := 0, lends := [], know := [0, 0, 0, 0], pot := [], frel := none }

/-- A group at launch (01 R19). -/
def Group.launch (core gi team gteam role : Nat) (th : List Thread) (s : List Word) (now : Nat) : Group :=
  { core := core, gi := gi, team := team, gteam := gteam, role := role, mix := 0, th := th, s := s, cbm := [0, 0, 0, 0], cba := [0, 0, 0, 0],
    cause := 0, raised := 0, mode := 0, pctl := 3, fm := fmReset, icnt := 0, ab := [], resv := [], disp := none, accn := 0, lastIssue := now,
    readySince := now }

/-- The machine part after reset: nothing resident, nothing in flight, no byte of storage listed. -/
def Mach.reset : Mach :=
  { mem := [], bad := [], frames := [], hostLines := [], groups := [], scheds := [], cores := [], clusters := [], dies := [], teams := [],
    entries := [], grids := [], copies := [], flushes := [], graphs := [], tlb := [], walks := [], pending := [], flight := [], acks := [],
    past := [], ops := [], queues := [], retries := [], cur := none, serial := 1, free := 0, prem := [], ctl := [] }

/-- Bring-up registers after module reset (19 R416, R427). -/
def Dev.reset : Dev :=
  { level := 0, fail := 0, hbmr := [false, false, false, false], hbmBad := [false, false, false, false], link := false, floor := none, flash := [], images := [],
    mboxAddr := 0, mboxStat := 0, loadAddr := 0, loadRes := 0, loading := none, temp := 0, pwr := 0, plim := 3200, cstep := 0, tenants := [], hostAns := none }

def Sys.reset : Sys :=
  { parts := [], queues := [], tasks := [], vecs := [], waiting := [], slice := [], dev := Dev.reset,
    inputs := [], acts := [] }

/-- The device right after module reset (19 R416): level ROM, every register at the value of INVENTORY.md, memory with nothing listed. -/
def State.reset : State :=
  { clk := { now := 0, pcnt := 0, frac := 0, phase := 0, turn := [] }, sys := Sys.reset, m := Mach.reset }

end Sys2Proof.Machine
end

