-- ==== Sys2Proof/Machine/Addr.lean ====
section
/-! DEFINITION. Storage addresses, homes, places, hops and latencies (spec/03 R77 to R84, R102 to R107, 19 R426). A storage address below 2^52 is a physical address; the slice of core c begins at 2^52 + c * 2^20, its tile tk at 2^53 + c * 2^18 + k * 2^14. -/
namespace Sys2Proof.Machine
open Sys2Proof

/-- Core number: 144 × die + 12 × row + column (19 R420). -/
def coreId (die row col : Nat) : Nat := 144 * die + 12 * row + col
def coreDie (c : Nat) : Nat := c / 144
def coreRow (c : Nat) : Nat := c % 144 / 12
def coreCol (c : Nat) : Nat := c % 12

/-- Cluster number: 36 × die + 6 × floor(row / 2) + floor(col / 2) (18 R407). -/
def clusterOf (c : Nat) : Nat := 36 * coreDie c + 6 * (coreRow c / 2) + coreCol c / 2

/-- The cores of a cluster in the order k of 18 R414. -/
def clusterCores (cl : Nat) : List Nat :=
  let d := cl / 36
  let r := cl % 36 / 6 * 2
  let c := cl % 6 * 2
  [coreId d r c, coreId d r (c + 1), coreId d (r + 1) c, coreId d (r + 1) (c + 1)]

/-- Key of a group: its core and its index 24 × b + s within it (01 R14). -/
def groupKey (core gi : Nat) : Nat := 48 * core + gi

/-- Key of the scheduler of a lane-block (01 R32). -/
def schedKey (core lb : Nat) : Nat := 2 * core + lb

def sliceBase (core : Nat) : Nat := 2 ^ 52 + core * 2 ^ 20
def tileBase (core k : Nat) : Nat := 2 ^ 53 + core * 2 ^ 18 + k * 2 ^ 14
def hostBase : Nat := 0x8000000000000
def lpddrBase : Nat := 2 ^ 41

/-- The kinds of storage. -/
inductive SKind where
  | hbm (die : Nat)
  | lpddr (die : Nat)
  | host
  | slice (core : Nat)
  | none
  deriving DecidableEq, Repr

/-- What lies at a storage address (03 R84, 19 R426). -/
def skind (sa : Nat) : SKind :=
  if sa < 2 ^ 39 then .hbm (sa / 2 ^ 37)
  else if lpddrBase ≤ sa ∧ sa < 2 ^ 42 then .lpddr ((sa - lpddrBase) / 2 ^ 39)
  else if hostBase ≤ sa ∧ sa < 2 ^ 52 then .host
  else if 2 ^ 52 ≤ sa ∧ sa < 2 ^ 52 + 576 * 2 ^ 20 then .slice ((sa - 2 ^ 52) / 2 ^ 20)
  else .none

/-- Banks and rows of the bytes of an access in a slice, by 8-byte words (03 R81). -/
def bankRowsOf (sa n : Nat) : List (Nat × Nat) :=
  match skind sa with
  | .slice _ => (List.range ((sa % 8 + n + 7) / 8)).map (fun i => let o := sa % 2 ^ 20 + 8 * i; (o / 8 % 256, o / 2048))
  | _ => []

/-- The reserved metadata area of a tier (03 R85). -/
def inReserved (sa : Nat) : Bool :=
  match skind sa with
  | .hbm d => decide ((d + 1) * 2 ^ 37 - 2 ^ 26 ≤ sa)
  | .lpddr d => decide (lpddrBase + (d + 1) * 2 ^ 39 - 2 ^ 28 ≤ sa)
  | _ => false

/-- Home units are numbered: cores 0 to 575, HBM controllers 1000 + 2d + f, LPDDR 1100 + d, Catalogues 1200 + d, Front Ends 1300 + d, the host interface 1400, control cores 2000 + 8d + k. Copy engines and Retrieval units, 1600 and 1800 + cluster, send from the first core of their cluster. -/
def homeOf (sa : Nat) : Nat :=
  match skind sa with
  | .hbm d => 1000 + 2 * d + sa / 2 ^ 14 % 2
  | .lpddr d => 1100 + d
  | .slice c => c
  | .host => 1400
  | .none => 1500

def copyUnit (cl : Nat) : Nat := 1600 + cl
def retrUnit (cl : Nat) : Nat := 1800 + cl
def catHome (die : Nat) : Nat := 1200 + die
def feHome (die : Nat) : Nat := 1300 + die
def ctlHome (cc : Nat) : Nat := 2000 + cc

/-- Die, row and column of a unit's router (03 R106). -/
def homePos (h : Nat) : Nat × Nat × Nat :=
  if h < 1000 then (coreDie h, coreRow h, coreCol h)
  else if h < 1100 then ((h - 1000) / 2, if h % 2 = 0 then (0, 0) else (6, 6))
  else if h < 1200 then (h - 1100, 0, 6)
  else if h < 1300 then (h - 1200, 6, 0)
  else if h < 1400 then (h - 1300, 3, 3)
  else if h < 1600 then (0, 11, 11)
  else if 2000 ≤ h then ((h - 2000) / 8, 3, 3)
  else ((h - 1600) % 200 / 36, (h - 1600) % 200 % 36 / 6 * 2, (h - 1600) % 200 % 6 * 2)

/-- Distance in a ring of 12 (03 R102). -/
def ringDist (a b : Nat) : Nat :=
  let d := if a ≤ b then b - a else a - b
  min d (12 - d)

def torusHops (r1 c1 r2 c2 : Nat) : Nat := ringDist c1 c2 + ringDist r1 r2

/-- Bridge port toward another die (03 R106): dies 0 and 1, and 2 and 3, stand in one row of the package. -/
def portOf (a b : Nat) : Nat × Nat :=
  if a / 2 = b / 2 then (3, 9) else if a % 2 = b % 2 then (9, 3) else (9, 9)

/-- Hops between two units (03 R102, R105). -/
def hops (h1 h2 : Nat) : Nat :=
  let (d1, r1, c1) := homePos h1
  let (d2, r2, c2) := homePos h2
  if d1 = d2 then torusHops r1 c1 r2 c2
  else
    let (pr, pc) := portOf d1 d2
    torusHops r1 c1 pr pc + torusHops pr pc r2 c2

/-- Unloaded latency from a unit to a home and back (03 R107). -/
def latency (src home : Nat) : Nat :=
  let far := if (homePos src).1 = (homePos home).1 then 0 else 80
  let h := 4 * hops src home + far
  if src = home then 8
  else if home < 1000 then 12 + h
  else if home < 1100 then 150 + h
  else if home < 1200 then 240 + h
  else 12 + h

/-- The regions of the virtual address space (03 R77). -/
inductive Region where
  | paged | pad (mark off : Nat) | own (off : Nat) | metaw (frame : Nat) | range
  deriving DecidableEq, Repr

def regionOf (va : Nat) : Region :=
  if va < 0xF0000000000000 then .paged
  else if va < 0xF0000100000000 then .pad (va / 2 ^ 20 % 4096) (va % 2 ^ 20)
  else if va < 0xF1000000000000 then .range
  else if va < 0xF1000000100000 then .own (va % 2 ^ 20)
  else if va < 0xF2000000000000 then .range
  else if va < 0xF3000000000000 then .metaw ((va - 0xF2000000000000) / 8)
  else .range

/-- What an instruction can see but not change: the clock and the system tables. -/
structure Env where
  clk : Clk
  sys : Sys

def Env.now (e : Env) : Nat := e.clk.now

def State.env (s : State) : Env := { clk := s.clk, sys := s.sys }

def State.withMach (s : State) (m : Mach) : State := { s with m := m }

/-- Control block of a partition. -/
def partOf (sys : Sys) (p : Nat) : Part := (tget sys.parts p).getD Part.initial

/-- The core that a shelf mark names in a partition's Place Table in use (03 R79, 18 R407). -/
def placeCore (sys : Sys) (p mark : Nat) : Option Nat :=
  match tget (partOf sys p).place mark with
  | some w => if bitOf w 63 then some (coreId (bitsOf w 9 8) (bitsOf w 7 4) (bitsOf w 3 0)) else none
  | none => none

/-- The mark of a core in a partition's Place Table (03 R83). -/
def markOf (sys : Sys) (p core : Nat) : Nat :=
  match (partOf sys p).place.find? (fun (_, w) => bitOf w 63 && coreId (bitsOf w 9 8) (bitsOf w 7 4) (bitsOf w 3 0) == core) with
  | some (k, _) => k
  | none => 0

/-- Partition of a core (18 R405): the one whose Place Table in use names it; 16 for none. -/
def corePart (sys : Sys) (c : Nat) : Nat :=
  match sys.parts.find? (fun (_, p) => p.place.any (fun (_, w) => bitOf w 63 && coreId (bitsOf w 9 8) (bitsOf w 7 4) (bitsOf w 3 0) == c)) with
  | some (k, _) => k
  | none => 16

end Sys2Proof.Machine
end

