-- ==== Sys2Proof/Machine/Narrow.lean ====
section
/-! DEFINITION. Narrow formats and their containers (spec/05 R132 to R137, R145). -/
namespace Sys2Proof.Machine
open Sys2Proof

/-- The fields of a format register (05 R132). -/
structure NFmt where
  man : Nat
  exp : Nat
  sgn : Nat
  bias : Nat
  sat : Bool
  kinf : Bool
  deriving DecidableEq, Repr

/-- Element width of a format. -/
def nWidth (f : NFmt) : Nat := f.sgn + f.exp + f.man

/-- The format that a register names, when it is usable at element width `w` (05 R132). -/
def nfmtOf (fm : Word) (w : Nat) : Option NFmt :=
  let n := fm.toNat
  let f : NFmt := { man := bitsOf n 2 0, exp := bitsOf n 5 3, sgn := bitsOf n 6 6, bias := bitsOf n 15 8, sat := bitOf n 16, kinf := bitOf n 17 }
  if f.exp = 0 ∨ nWidth f < 3 ∨ 8 < nWidth f ∨ nWidth f ≠ w then none else some f

/-- The all-ones magnitude code. -/
def nAllOnes (f : NFmt) : Nat := 2 ^ (f.exp + f.man) - 1

/-- Largest finite magnitude code (05 R133). -/
def nMaxCode (f : NFmt) : Nat := if f.kinf then nAllOnes f - 1 else nAllOnes f

/-- Exponent of the unit of the subnormal grid. -/
def nQMin (f : NFmt) : Int := 1 - (f.bias : Int) - f.man

/-- Value of a code before its block scale (05 R133). -/
def nDecode (f : NFmt) (code : Nat) : XVal :=
  let mag := code % 2 ^ (f.exp + f.man)
  let neg := f.sgn = 1 ∧ bitOf code (f.exp + f.man) = true
  if f.kinf ∧ mag = nAllOnes f then .inf (decide neg)
  else
    let e := mag / 2 ^ f.man
    let m := mag % 2 ^ f.man
    if e = 0 then .dy (decide neg) m (nQMin f) false
    else .dy (decide neg) (m + 2 ^ f.man) (nQMin f + (e : Int) - 1) false

/-- The element times its block scale 2^(c - 127) (05 R133). -/
def nValue (f : NFmt) (c code : Nat) : XVal := xScale ((c : Int) - 127) (nDecode f code)

/-- Outcome of R134 for one element. -/
inductive NSettle where
  | code (n : Nat)
  | overflow
  deriving DecidableEq, Repr

/-- A code with a sign. -/
def nSigned (f : NFmt) (neg : Bool) (mag : Nat) : Nat :=
  mag + (if neg ∧ f.sgn = 1 then 2 ^ (f.exp + f.man) else 0)

/-- R134 for a value that is not poison, under block scale byte `c`. -/
def nSettle (f : NFmt) (mode : RMode) (c : Nat) (x : XVal) : NSettle :=
  let ovf (neg : Bool) : NSettle :=
    if neg ∧ f.sgn = 0 then (if f.sat then .code 0 else .overflow)
    else if f.kinf then .code (nSigned f neg (nAllOnes f))
    else if f.sat then .code (nSigned f neg (nMaxCode f)) else .overflow
  match xScale (127 - (c : Int)) x with
  | .invalid => .overflow
  | .inf neg => ovf neg
  | .dy neg m e _ =>
    if m = 0 then .code (nSigned f neg 0)
    else
      let top := e + (Nat.log2 m : Int)
      let q := max (top - f.man) (nQMin f)
      let base := (q - nQMin f).toNat * 2 ^ f.man
      let mag := base + roundOn base mode neg m e false q
      if neg ∧ f.sgn = 0 then
        if mag = 0 then .code 0 else if f.sat then .code 0 else .overflow
      else if mag ≤ nMaxCode f then .code (nSigned f neg mag)
      else ovf neg

/-- Number of elements of a container (05 R135). -/
def nPer (w : Nat) : Nat := 120 / w

/-- Element `k` of a container. -/
def contElem (w n k : Nat) : Nat := n / 2 ^ (w * k) % 2 ^ w

/-- The parity nibble over the element area (05 R135). -/
def contPar : Nat → Nat → Nat
  | 0, _ => 0
  | k + 1, n => (n % 16) ^^^ contPar k (n / 16)

/-- Container with elements, PAR and TAG as R135 says for format register `k`. -/
def contSeal (elems k : Nat) : Nat :=
  elems % 2 ^ 120 + (8 + k) * 2 ^ 120 + contPar 30 (elems % 2 ^ 120) * 2 ^ 124

/-- Container of a poisoned block (05 R145). -/
def contPoison (elems kind index : Nat) : Nat :=
  elems % 2 ^ 120 + index % 32 * 2 ^ 120 + (if kind < 8 then kind else 0) * 2 ^ 125

/-- Outcome of the check of R136. -/
inductive ContCheck where
  | poisoned (kind index : Nat)
  | mismatch
  | memuc
  | good
  deriving DecidableEq, Repr

/-- R136, for a container, its scale byte and the index of the format register named. -/
def contCheck (n c k : Nat) : ContCheck :=
  if c = 0xFF then .poisoned (bitsOf n 127 125) (bitsOf n 124 120)
  else if bitOf n 123 ∧ bitsOf n 122 120 ≠ k then .mismatch
  else if bitOf n 123 ∧ bitsOf n 127 124 ≠ contPar 30 (n % 2 ^ 120) then .memuc
  else .good

/-- Joins elements into the element area. -/
def contJoin (w : Nat) : List Nat → Nat
  | [] => 0
  | e :: r => e % 2 ^ w + 2 ^ w * contJoin w r

/-- The elements of a container, in increasing order. -/
def contElems (w n : Nat) : List Nat := (List.range (nPer w)).map (contElem w n)

/-- The |x - decoded| that one conversion adds under R157, as an exact value; an infinity that stays one adds nothing. -/
def nError (f : NFmt) (c code : Nat) (x : XVal) : XVal :=
  match xAdd .rne x (xNeg (nValue f c code)) with
  | .dy _ m e s => .dy false m e s
  | .inf _ => .inf false
  | .invalid => .dy false 0 0 false

/-- The least scale byte that holds a magnitude (07 R204). -/
def nScaleByte (f : NFmt) (x : XVal) : Nat :=
  match nDecode f (nMaxCode f), x with
  | .dy _ mf ef _, .dy _ m e _ =>
    (List.range 255).foldr (fun (c : Nat) (acc : Nat) =>
      if xCmp (.dy false m e false) (.dy false mf (ef + (c : Int) - 127) false) == .gt then acc else c) 254
  | _, _ => 254

end Sys2Proof.Machine
end

