-- ==== Sys2Proof/Machine/Ops.lean ====
section
/-! DEFINITION. Named operations over memory, registers, tokens and messages; taking an exception and returning from one. -/
namespace Sys2Proof.Machine
open Sys2Proof

/-! Access to the parts of the machine. -/

/-- What a lane without a thread reads as: exited. -/
def goneThread : Thread := { Thread.launch 0 0 0 with st := .exited }

def goneGroup : Group := Group.launch 0 0 0 0 0 [] [] 0

def goneTeam : Team :=
  { part := 0, grid := none, graph := none, standing := false, tix := 0, marks := [], ngrp := 0, ent := 0, sh := [0, 0], tiles := 0,
    spoff := 0, spsz := 0, polb := 0, logix := 0, qrec := [], qmask := 0, qhd := [], bars := [], chans := [], claims := [], stopAt := none,
    resumeAt := none, susp := .no, dlAt := none, occ := [], gone := false, fcalOut := [] }

def grpOf (m : Mach) (g : Nat) : Group := (tget m.groups g).getD goneGroup
def thrOf (m : Mach) (g lane : Nat) : Thread := lget (grpOf m g).th lane goneThread
def teamOf (m : Mach) (t : Nat) : Team := (tget m.teams t).getD goneTeam
def coreOf (m : Mach) (c : Nat) : Core := (tget m.cores c).getD Core.initial
def clusOf (m : Mach) (c : Nat) : Cluster := (tget m.clusters c).getD Cluster.initial
def dieOf (m : Mach) (d : Nat) : Die := (tget m.dies d).getD Die.initial
def schedOf (m : Mach) (k : Nat) : Sched := (tget m.scheds k).getD Sched.initial
def entOf (m : Mach) (k : Nat) : Entry := (tget m.entries k).getD Entry.initial
def ctlOf (m : Mach) (cc : Nat) : CtlCore := (tget m.ctl cc).getD CtlCore.initial

def updGrp (m : Mach) (g : Nat) (f : Group → Group) : Mach := { m with groups := tupd m.groups g f }
def updThr (m : Mach) (g lane : Nat) (f : Thread → Thread) : Mach := updGrp m g (fun a => { a with th := lupd a.th lane f })
def updTeam (m : Mach) (t : Nat) (f : Team → Team) : Mach := { m with teams := tupd m.teams t f }
def updCore (m : Mach) (c : Nat) (f : Core → Core) : Mach := { m with cores := tset m.cores c (f (coreOf m c)) }
def updClus (m : Mach) (c : Nat) (f : Cluster → Cluster) : Mach := { m with clusters := tset m.clusters c (f (clusOf m c)) }
def updDie (m : Mach) (d : Nat) (f : Die → Die) : Mach := { m with dies := tset m.dies d (f (dieOf m d)) }
def updSched (m : Mach) (k : Nat) (f : Sched → Sched) : Mach := { m with scheds := tset m.scheds k (f (schedOf m k)) }
def updCtl (m : Mach) (cc : Nat) (f : CtlCore → CtlCore) : Mach := { m with ctl := tset m.ctl cc (f (ctlOf m cc)) }
def updEnt (m : Mach) (k : Nat) (f : Entry → Entry) : Mach := { m with entries := tset m.entries k (f (entOf m k)) }

/-- The scheduler of a group (01 R32). -/
def schedKeyOf (gr : Group) : Nat := schedKey gr.core (gr.gi / 24)

/-- A thread that has not exited (16 R360). -/
def live (t : Thread) : Bool := t.st != .exited

/-- A group with a live thread. -/
def liveGrp (gr : Group) : Bool := gr.th.any live

/-- Groups of a team with their keys. -/
def teamGroups (m : Mach) (t : Nat) : List (Nat × Group) := m.groups.filter (fun (_, gr) => gr.team == t)

/-- Cores that a team is placed on, first core first (14 R342). -/
def teamCores (sys : Sys) (tm : Team) : List Nat := tm.marks.filterMap (fun (k, _) => placeCore sys tm.part k)

/-! Memory: bytes, checks, tile frames (03 R82 to R87). -/

/-- Storage, listed by address; a byte that is not listed reads as 0 (entry 1 of the assumption log). -/
abbrev Memory := List Host.Cell

/-- The canonical form: addresses strictly rising, no listed byte 0. -/
def Memory.wf : Memory → Bool
  | [] => true
  | [(_, b)] => b != 0
  | (k, b) :: (j, c) :: r => b != 0 && decide (k < j) && Memory.wf ((j, c) :: r)

def memGet : Memory → Nat → Byte
  | [], _ => 0
  | (k, b) :: r, a => if a = k then b else memGet r a

def memSet : Memory → Nat → Byte → Memory
  | [], a, b => if b = 0 then [] else [(a, b)]
  | (k, c) :: r, a, b =>
    if a < k then (if b = 0 then (k, c) :: r else (a, b) :: (k, c) :: r)
    else if a = k then (if b = 0 then r else (a, b) :: r)
    else (k, c) :: memSet r a b

def memWrite : Memory → Nat → List Byte → Memory
  | mem, _, [] => mem
  | mem, a, b :: r => memWrite (memSet mem a b) (a + 1) r

def memRead (mem : Memory) : Nat → Nat → List Byte
  | _, 0 => []
  | a, n + 1 => memGet mem a :: memRead mem (a + 1) n

/-- The number that `n` bytes at a storage address hold. -/
def readNat (m : Mach) (sa n : Nat) : Nat := ofBytes (memRead m.mem sa n)

/-- Two ranges share a place; an empty one shares none. -/
def overlaps (a n b k : Nat) : Bool := decide (a < b + k) && decide (b < a + n) && decide (0 < n) && decide (0 < k)

/-- Metadata of a frame: VER and ZF (03 R85), reset values 0 and 1. -/
def frameOf (m : Mach) (f : Nat) : BitVec 32 × Bool := (tget m.frames f).getD (0, true)

/-- The 64-bit metadata word of a frame (03 R85). -/
def frameWord (m : Mach) (f : Nat) : Nat := (frameOf m f).1.toNat * 2 ^ 32 + (if (frameOf m f).2 then 1 else 0)

/-- Tile frames that `n` bytes touch. -/
def framesOf (sa n : Nat) : List Nat :=
  if n = 0 then [] else (List.range ((sa + n - 1) / 16384 - sa / 16384 + 1)).map (fun i => sa / 16384 + i)

/-- A tile store that covers a whole frame with zero bytes (03 R86). -/
def coversZero (sa : Nat) (data : List Byte) : Bool :=
  decide (sa % 16384 = 0) && decide (data.length = 16384) && data.all (fun b => b == 0)

/-- VER advances by 1 and ZF is set, for one store to the frame (03 R86). -/
def touchFrame (z : Bool) (m : Mach) (f : Nat) : Mach :=
  { m with frames := tset m.frames f ((frameOf m f).1 + 1, z) }

/-- One store at a home: the bytes, and one update of each frame touched (03 R86); `aon` says that it is a tile store made as one update. -/
def storeAt (m : Mach) (sa : Nat) (data : List Byte) (aon : Bool) : Mach :=
  (framesOf sa data.length).foldl (touchFrame (aon && coversZero sa data))
    { m with mem := memWrite m.mem sa data,
             bad := m.bad.filter (fun (a, _) => decide (a < sa) || decide (sa + data.length ≤ a)) }

/-- The unit in which a failed byte fails: its aligned 4-byte word in a slice, its aligned 8-byte unit elsewhere (05 R151). -/
def failUnit (a : Nat) : Nat × Nat :=
  match skind a with
  | .slice _ => (a / 4 * 4, 4)
  | _ => (a / 8 * 8, 8)

/-- Kind of the first byte whose failed check makes bytes of the range fail (05 R151). -/
def badKind (m : Mach) (sa n : Nat) : Option Nat :=
  (m.bad.find? (fun (a, _) => overlaps (failUnit a).1 (failUnit a).2 sa n)).map (·.2)

/-- A place that a packet from a core reaches only at an isolated core's interface (18 R413); 1000 stands for a unit that is no core. -/
def cutOff (m : Mach) (core sa : Nat) : Bool :=
  match skind sa with
  | .slice c => c != core && (coreOf m c).isol
  | _ => false

/-- The kind that a reader finds failed bytes with: an isolated core answers with poison of kind LINK. -/
def seenKind (m : Mach) (core sa n : Nat) : Option Nat := if cutOff m core sa then some 2 else badKind m sa n

/-- Bytes of a tile register (00 R2). -/
def tileBytes (m : Mach) (core k off n : Nat) : List Byte := memRead m.mem (tileBase core k + off) n

/-! Serial numbers and free values. -/

def nextSerial (m : Mach) : Nat × Mach := (m.serial, { m with serial := m.serial + 1 })
def nextFree (m : Mach) : Nat × Mach := (m.free, { m with free := m.free + 1 })

/-! Tokens (01 R38, 16 R365). -/

def tokMap (m : Mach) (t : TokRef) (f : Nat → Nat) : Mach :=
  updThr m t.g t.lane (fun th => if t.h then { th with htok := lupd th.htok t.k f } else { th with tok := lupd th.tok t.k f })

def tokRise (m : Mach) (t : TokRef) : Mach := tokMap m t (· + 1)
def tokFall (m : Mach) (t : TokRef) : Mach := tokMap m t (· - 1)
def tokCount (th : Thread) (h : Bool) (k : Nat) : Nat := lget (if h then th.htok else th.tok) k 0

/-! Waking. -/

/-- Ends a wait: the thread goes on at the instruction after it (01 R43). -/
def wakeThr (t : Thread) : Thread := { t with wait := .none, pc := t.resume, solo := false }

def wake (m : Mach) (r : TRef) : Mach := updThr m r.g r.lane wakeThr

/-- Progress index of a replay; 0 when the thread does not replay the instruction that left it (16 R370). -/
def progOf (t : Thread) : Nat := if t.rp && t.rpPc == t.pc then (lget t.trec 7 0).toNat else 0

/-- Sends the thread back to the instruction that it is performing (16 R370). -/
def replayThr (t : Thread) : Thread := { t with wait := .none }

/-! Landing (01 R37, R39). -/

/-- A vector write is dropped when its register was lent after issue (08 R257). -/
def lentAway (t : Thread) (n sn : Nat) : Bool := t.lends.any (fun (s, b) => decide (sn < s) && decide (b ≤ n))

def applyWr (m : Mach) : RegWr → Mach
  | .v g l n x sn => updThr m g l (fun t => if lentAway t n sn then t else { t with v := setAt t.v n x })
  | .s g n x => updGrp m g (fun a => { a with s := setAt a.s n x })
  | .p g l n b t => updThr m g l (fun th =>
      { th with pv := BitVec.ofNat 7 (putBits th.pv.toNat n n (if b then 1 else 0)), pt := BitVec.ofNat 7 (putBits th.pt.toNat n n (if t then 1 else 0)) })
  | .x g l n x run =>
      let k := schedKeyOf (grpOf m g)
      if (schedOf m k).run.map (·.id) = some run then updSched m k (fun sc => { sc with xs := tset sc.xs (8 * l + n) (x, run) }) else m
  | .creg g i x => updGrp m g (fun a =>
      if i = 0 then { a with mode := x } else if i = 1 then { a with pctl := x } else { a with fm := setAt a.fm (i - 8) x })
  | .tc c k x => updCore m c (fun a => { a with tc := setAt a.tc k x })
  | .tile c k off b => { m with mem := memWrite m.mem (tileBase c k + off) b }
  | .himag c k whole b => updCore m c (fun a => { a with himag := lupd a.himag k (fun o => if whole then b else o || b) })
  | .causeClear g mask => updGrp m g (fun a => { a with cause := a.cause &&& ~~~ (mask &&& ~~~ a.raised) })
  | .trec g l i x => updThr m g l (fun t => { t with trec := setAt t.trec i x })
  | .dbgc t x => updEnt m (teamOf m t).ent (fun en => { en with stopall := bitOf x.toNat 0 })
  | .ctl cc fp rd x => updCtl m cc (fun c => if fp then { c with f := setAt c.f rd x } else if rd = 0 then c else { c with x := setAt c.x rd x })

def applyLanding (m : Mach) (l : Landing) : Mach :=
  l.wake.foldl wake (l.tok.foldl tokFall (l.wr.foldl applyWr m))

def pushLand (m : Mach) (l : Landing) : Mach := { m with pending := m.pending ++ [l] }

def land (m : Mach) (tm : Nat) (wr : List RegWr) (tok : List TokRef) : Mach :=
  pushLand m { tm := tm, wr := wr, tok := tok, wake := [] }

/-! Walking the page tables (18 R397 to R401). -/

inductive WalkRes where
  | leaf (va pa size perm pte pteAt : Nat)
  | none
  | noHome (pa : Nat)
  deriving DecidableEq, Repr

/-- A physical address that some home serves (03 R84, 19 R426). -/
def served (pa : Nat) : Bool :=
  match skind pa with
  | .none | .slice _ => false
  | _ => true

/-- Bits that an entry must hold as zero (18 R398). -/
def pteZero (p : Nat) : Bool := bitsOf p 63 52 == 0 && bitsOf p 11 9 == 0 && bitsOf p 1 1 == 0

/-- One level of a walk: level, table address, what is left of the levels. -/
def walkGo (m : Mach) (va : Nat) : List (Nat × Nat × Nat) → Nat → WalkRes
  | [], _ => .none
  | (lv, hi, lo) :: r, tab =>
    let at0 := tab + 8 * bitsOf va hi lo
    if !served at0 then .noHome at0 else
    let p0 := readNat m at0 8
    if !bitOf p0 0 || !pteZero p0 then .none
    else if lv < 2 then (if bitOf p0 7 then .none else walkGo m va r (bitsOf p0 51 12 * 4096))
    else if lv < 4 then
      let size := if lv = 2 then 2 ^ 31 else 2 ^ 21
      let pa := bitsOf p0 51 12 * 4096
      if bitOf p0 7 then (if pa % size = 0 then .leaf (va / size * size) pa size (bitsOf p0 4 2) p0 at0 else .none)
      else if lv = 3 && bitOf p0 12 then .none else walkGo m va r pa
    else if bitOf p0 8 then
      let at1 := tab + 8 * (bitsOf va hi lo / 16 * 16)
      let p1 := readNat m at1 8
      let pa := bitsOf p1 51 12 * 4096
      if bitOf p1 0 && bitOf p1 8 && pteZero p1 && pa % 65536 == 0 then .leaf (va / 65536 * 65536) pa 65536 (bitsOf p1 4 2) p1 at1 else .none
    else .leaf (va / 4096 * 4096) (bitsOf p0 51 12 * 4096) 4096 (bitsOf p0 4 2) p0 at0

/-- Levels of the tree with the bits of the address that index them (18 R397). -/
def walkLevels : List (Nat × Nat × Nat) := [(0, 55, 47), (1, 46, 39), (2, 38, 31), (3, 30, 21), (4, 20, 12)]

def walkVa (m : Mach) (root va : Nat) : WalkRes := walkGo m va walkLevels (root * 4096)

/-- Permission needed by a kind of access (18 R400, 16 R368): R, W and X are bits 0, 1 and 2. -/
def permits (perm kind : Nat) : Bool :=
  match kind with
  | 0 | 4 => bitOf perm 0
  | 1 | 5 => bitOf perm 1
  | 2 => bitOf perm 0 && bitOf perm 1
  | _ => bitOf perm 2

def isWrite (kind : Nat) : Bool := kind == 1 || kind == 2 || kind == 5

/-- Word `i` of a graph's table entry (14 R350). -/
def gword (gr : Graph) (i : Nat) : Nat := lget gr.entry i 0

/-- Pool `d` of a graph: base and size in bytes, HBM then LPDDR (14 R350). -/
def poolOf (gr : Graph) (d : Nat) (hbm : Bool) : Nat × Nat :=
  if hbm then (gword gr (4 + d), bitsOf (gword gr (8 + d / 2)) (32 * (d % 2) + 31) (32 * (d % 2)) * 65536)
  else (gword gr (10 + d), bitsOf (gword gr (14 + d / 2)) (32 * (d % 2) + 31) (32 * (d % 2)) * 65536)

/-- A page lies in a pool of a loaded graph (18 R400). -/
def inPool (m : Mach) (pa size : Nat) : Bool :=
  m.graphs.any (fun (_, gr) => (List.range 4).any (fun d =>
    overlaps pa size (poolOf gr d true).1 (poolOf gr d true).2 || overlaps pa size (poolOf gr d false).1 (poolOf gr d false).2))

/-- The HBM part of a die is released (19 R417). -/
def released (sys : Sys) (d : Nat) : Bool := lget sys.dev.hbmr d false

/-- A page lies inside the regions that R400 allows. -/
def pageOk (sys : Sys) (m : Mach) (pa size : Nat) : Bool :=
  (match skind pa with
   | .hbm d => released sys d && !inReserved (pa + size - 1)
   | .lpddr _ => !inReserved (pa + size - 1)
   | .host => true
   | _ => false) && !inPool m pa size

/-- A 4 KiB leaf of the task-graph trigger block (18 R400). -/
def trigLeaf (pa size : Nat) : Bool := size == 4096 && (pa == 2 ^ 42 + 0x1C0000 || pa == 2 ^ 42 + 0x1C1000)

/-- A cached translation that serves a core (18 R402). -/
def tlbFind (m : Mach) (part core va : Nat) : Option TEnt :=
  m.tlb.find? (fun t => t.part == part && decide (t.va ≤ va) && decide (va < t.va + t.size)
    && t.unit == (match t.lvl with | 0 => core | 1 => clusterOf core | _ => coreDie core))

/-! Address checks (08 R223 rows 3 to 5). -/

inductive XRes where
  | ok (sa : Nat)
  | metaw (frame : Nat)
  | trig (k : Nat)
  | cause (c : Nat)
  | miss
  | forbid
  deriving DecidableEq, Repr

/-- Cause numbers of 16 R362. -/
def cILLOP := 0
def cILLTGT := 1
def cLINEPAR := 2
def cMISAL := 3
def cRANGE := 4
def cPROT := 5
def cXLATE := 6
def cPSTORE := 7
def cPBRANCH := 8
def cPCONV := 9
def cLATCH := 10
def cDIVZ := 11
def cBUDGET := 12
def cDEADLOCK := 13
def cQEXH := 14
def cDEPTH := 15
def cCARD := 16
def cFMT := 17
def cBRK := 18
def cSTEP := 19
def cSWTRAP := 20
def cMEMUC := 21
def cWAITTO := 22

/-- Base of the image of the team's core number `i`: 3 MiB per core (16 R390). -/
def imageBase (m : Mach) (t : Team) (i : Nat) : Nat := (entOf m t.ent).imgb + 3 * 2 ^ 20 * i

/-- Where a team's allocation on a core stands while its slice does not hold it: the image (16 R388, R390). -/
def imageOf (e : Env) (m : Mach) (core off : Nat) : Option Nat :=
  (m.teams.find? (fun (_, tm) =>
      (tm.susp == .copied || tm.susp == .out || tm.susp == .swapped || (match tm.susp with | .resuming _ | .copyback _ => true | _ => false))
        && (teamCores e.sys tm).contains core && decide (tm.spoff ≤ off) && decide (off < tm.spoff + tm.spsz))).map
    (fun (_, tm) => (entOf m tm.ent).imgb + 3 * 2 ^ 20 * (teamCores e.sys tm).idxOf core + 0x200000 + off)

/-- A team whose allocation stands in its slices. -/
def inPlace (t : Team) : Bool := !t.gone && (match t.susp with | .no | .inPlace | .signalled _ => true | _ => false)

/-- A slice byte as others reach it by a shelf mark: in the image while RDR is set (18 R407). -/
def markAddr (e : Env) (m : Mach) (core off : Nat) : Nat := (imageOf e m core off).getD (sliceBase core + off)

/-- Storage address of a slice byte for what runs on its own core. DEDUCED: a byte that the allocation of a team in place holds is the slice's, though the image of a team that is out names the same offset (entry 41 of the assumption log). -/
def sliceAddr (e : Env) (m : Mach) (core off : Nat) : Nat :=
  if m.teams.any (fun (_, t) => inPlace t && decide (t.spoff ≤ off) && decide (off < t.spoff + t.spsz) && (teamCores e.sys t).contains core) then sliceBase core + off
  else markAddr e m core off

/-- The same by a mark that an agent of a core uses; `here` says that its team is in place. -/
def padAddr (e : Env) (m : Mach) (here : Bool) (core c off : Nat) : Nat := if here && c = core then sliceAddr e m c off else markAddr e m c off

/-- Row 3 to 5 for a leaf. -/
def leafRes (e : Env) (m : Mach) (part va pa size perm kind : Nat) (dirtyOk : Bool) : XRes :=
  let a := pa + va % size
  if trigLeaf pa size then
    if kind = 1 && a % 8 = 0 && (a - (2 ^ 42 + 0x1C0000)) / 8 / 64 == part then .trig ((a - (2 ^ 42 + 0x1C0000)) / 8 % 64) else .forbid
  else if !permits perm kind || !pageOk e.sys m pa size then .forbid
  else if isWrite kind && !dirtyOk then .miss
  else .ok a

/-- The tile frame that a metadata address names (03 R87); none means RANGE. -/
def metaFrame (e : Env) (m : Mach) (core part frame : Nat) : Option Nat :=
  let a := frame * 16384
  match regionOf a with
  | .pad mark off => (placeCore e.sys part mark).map (fun c => padAddr e m true core c off / 16384)
  | .own off => some (sliceAddr e m core off / 16384)
  | .paged =>
    match walkVa m (partOf e.sys part).root a with
    | .leaf _ pa size _ _ _ =>
      match skind (pa + a % size) with
      | .hbm d => if released e.sys d then some ((pa + a % size) / 16384) else none
      | .lpddr _ => some ((pa + a % size) / 16384)
      | _ => none
    | _ => none
  | _ => none

/-- Region, mark, slice end, metadata window and translation of `len` bytes at `va` for a core (08 R223 rows 3 to 5); `b64` says that the access is an aligned b64 `ld` or `ldv`, and `here` that the agent's team is in place. -/
def xlateAs (here : Bool) (e : Env) (m : Mach) (core part va len kind : Nat) (b64 : Bool) : XRes :=
  match regionOf va with
  | .range => .cause cRANGE
  | .pad mark off =>
    match placeCore e.sys part mark with
    | none => .cause cRANGE
    | some c => if 2 ^ 20 < off + len then .cause cRANGE else .ok (padAddr e m here core c off)
  | .own off => if 2 ^ 20 < off + len then .cause cRANGE else .ok (padAddr e m here core core off)
  | .metaw f =>
    if kind = 0 && b64 && va % 8 = 0 then (match metaFrame e m core part f with | some k => .metaw k | none => .cause cRANGE)
    else .cause cPROT
  | .paged =>
    match tlbFind m part core va with
    | some t => leafRes e m part va t.pa t.size t.perm kind t.dirty
    | none => .miss

/-- The same for the threads of a core. -/
def xlate (e : Env) (m : Mach) (core part va len kind : Nat) (b64 : Bool) : XRes := xlateAs true e m core part va len kind b64

/-- The same for an agent whose access walks at once: the log of R148 and the agents of 14 R431. -/
def xlateWalk (e : Env) (m : Mach) (core part va len kind : Nat) : XRes :=
  match regionOf va with
  | .paged =>
    match walkVa m (partOf e.sys part).root va with
    | .leaf _ pa size perm _ _ => leafRes e m part va pa size perm kind true
    | _ => .miss
  | _ => xlate e m core part va len kind (len == 8)

/-! Poison and its log (05 R141 to R149). -/

/-- Writes entry `ix` of a team's log, or counts it in LDROP (05 R148). -/
def logEntry (e : Env) (m : Mach) (team core : Nat) (ix : Nat) (words : Nat) : Mach :=
  let tm := teamOf m team
  if tm.polb = 0 || tm.gone then m
  else
    let va := tm.polb + 32 * (ix % 4096)
    match xlateWalk e m core tm.part va 32 1 with
    | .ok sa => storeAt m sa (toBytes 32 words) false
    | _ => updEnt m tm.ent (fun en => { en with ldrop := min 65535 (en.ldrop + 1) })

/-- Takes the team's next log index and writes the entry (05 R148). -/
def genPoison (e : Env) (m : Mach) (g lane pc kind addr : Nat) : Mach × Nat :=
  let gr := grpOf m g
  let tm := teamOf m gr.team
  let ix := tm.logix
  let m1 := updTeam m gr.team (fun t => { t with logix := (t.logix + 1) % 2 ^ 18 })
  let w := pack [(1, 1), (26, 0), (4, kind), (18, ix), (5, lane), (1, gr.gi / 24), (5, gr.gi % 24), (12, markOf e.sys tm.part gr.core),
    (56, pc), (8, 0), (56, addr), (64, e.clk.pcnt)]
  (logEntry e m1 gr.team gr.core ix w, ix)

/-- The pattern by which a load of a width, or an integer operand, carries poison (05 R146, 01 R40). -/
def loadPoison (bits kind ix : Nat) : Nat :=
  if bits = 8 then 0xFF else if bits = 16 then poisonBits .f16 kind ix else if bits = 64 then poisonBits .f64 kind ix
  else poisonBits .f32 kind ix

/-- Poison(kind, fmt, t, addr) of 06 R183. -/
def poisonVal (e : Env) (m : Mach) (g lane pc kind addr : Nat) (ty : NTy) : Mach × Nat :=
  let r := genPoison e m g lane pc kind addr
  (r.1, if tyFloat ty then poisonBits ty kind r.2 else loadPoison (tyBits ty) kind r.2)

/-- Raise sets the bit of its cause, and the clock remembers it (16 R361). -/
def setCause (m : Mach) (g c : Nat) : Mach :=
  updGrp m g (fun a => { a with cause := a.cause ||| BitVec.ofNat 32 (2 ^ c), raised := a.raised ||| BitVec.ofNat 32 (2 ^ c) })

/-! Legal code targets (06 R160 to R166). -/

/-- The line of a code address as a number, read at storage. -/
def lineAt (m : Mach) (sa : Nat) : Nat := readNat m sa 64

/-- PAR matches the slots (06 R161). -/
def linePar (l : Nat) : Bool := (List.range 8).all (fun k => parityOf 60 (l / 2 ^ (32 + 60 * k)) == bitOf l (24 + k))

def lineTgt (l slot : Nat) : Bool := bitOf l (11 + slot)

/-- Shape of a legal target: bits 5:3 clear, slot at most 4, paged (06 R166). -/
def tgtShape (t : Nat) : Bool := bitsOf t 5 3 == 0 && decide (bitsOf t 2 0 ≤ 4) && decide (t < 0xF0000000000000)

/-- The trap vector is a legal target (16 R366), read by a walk of its own. -/
def tvecOk (e : Env) (m : Mach) (core part : Nat) : Bool :=
  let t := (partOf e.sys part).tvec
  tgtShape t && (match xlateWalk e m core part (t / 64 * 64) 64 3 with
    | .ok sa => linePar (lineAt m sa) && lineTgt (lineAt m sa) (t % 8)
    | _ => false)

/-! Suspension, taking an exception and returning from it (16 R363 to R366, R376, R384, 19 R430). -/

/-- Clocks of a BSN crossing (00 R2). -/
def bsnDie := 18
def bsnPkg := 72

def setIntr (m : Mach) (d b : Nat) : Mach := updDie m d (fun a => { a with intr := a.intr ||| 2 ^ b })

/-- Holds a thread as a stop does (16 R372). -/
def holdThr (t : Thread) : Thread := if t.st == .run || t.st == .handler then { t with st := .heldStop } else t

/-- Leaves HELD. -/
def unholdThr (t : Thread) : Thread := if t.st == .heldStop then { t with st := if t.hm then .handler else .run } else t

/-- RUN, or HELD while the team is stopped or suspended in place (16 R372). -/
def runState (m : Mach) (team : Nat) : TSt :=
  if (entOf m (teamOf m team).ent).stopped || (teamOf m team).susp == .inPlace then .heldStop else .run

/-- A team that stands on its cores: not swapped out, nor on its way. -/
def resident (t : Team) : Bool := !t.gone && (t.susp == .no || t.susp == .inPlace || t.susp == .swapped || (match t.susp with | .signalled _ | .copyback _ => true | _ => false))

/-- Teams that stand on one of the cores. -/
def teamsOn (e : Env) (m : Mach) (cores : List Nat) : List (Nat × Team) :=
  m.teams.filter (fun (_, t) => resident t && (teamCores e.sys t).any cores.contains)

/-- The cores of every team on a set of cores, with the set, `n` times (16 R384). -/
def preemptSet (e : Env) (m : Mach) : Nat → List Nat → List Nat
  | 0, cs => cs
  | n + 1, cs => preemptSet e m n (cs ++ ((teamsOn e m cs).flatMap (fun (_, t) => teamCores e.sys t)).eraseDups.filter (fun c => !cs.contains c))

/-- Sends the pre-emption signal to a set of cores, unless a team on it has no image (16 R384, 19 R430). -/
def preempt (e : Env) (m : Mach) (cores : List Nat) : Mach :=
  let set := preemptSet e m m.teams.length cores
  let on := teamsOn e m set
  let tm := e.now + (if set.all (fun c => coreDie c == coreDie (cores.headD 0)) then bsnDie else bsnPkg)
  if on.any (fun (_, t) => (entOf m t.ent).imgb == 0) then setIntr m (coreDie (cores.headD 0)) 5
  else
    { (on.foldl (fun m (k, _) => updTeam m k (fun t => if t.susp == .no then { t with susp := .signalled tm } else t)) m) with
      prem := m.prem ++ [{ tm := tm, cores := set }] }

/-- Records a suspension and starts it: in place without an image, else by a pre-emption signal (16 R366, R382, 19 R430). -/
def suspendTeam (e : Env) (m : Mach) (team kind : Nat) (reason : Word) (spc saddr : Nat) : Mach :=
  let tm := teamOf m team
  let cores := teamCores e.sys tm
  let d := coreDie (cores.headD 0)
  if kind = 1 && (entOf m tm.ent).skind = 2 && tm.susp != .no then m else
  let m1 := updEnt m tm.ent (fun en => { en with srsn := reason, spc := spc, saddr := saddr, skind := kind })
  if (entOf m tm.ent).imgb = 0 then
    setIntr (updTeam { m1 with groups := m1.groups.map (fun (k, gr) => if gr.team = team then (k, { gr with th := gr.th.map holdThr }) else (k, gr)) }
      team (fun t => { t with susp := .inPlace })) d 5
  else if tm.susp == .no then preempt e m1 cores
  else m1

/-- A double fault (16 R366): the suspension records the PC of the instruction that raised it; the thread stands where the cause saves its PC, is not ready until the suspension arrives, its record is kept, and the team is suspended. -/
def doubleFault (e : Env) (m : Mach) (g lane cause spc ipc faddr : Nat) : Mach :=
  let gr := grpOf m g
  let m1 := updThr m g lane (fun t => { t with pc := spc, wait := .none, step := false, readyAt := e.now + bsnPkg + 1 })
  setIntr (suspendTeam e m1 gr.team 2 (BitVec.ofNat 32 (2 ^ 31 + cause)) ipc faddr) (coreDie gr.core) 1

/-- The trap record (16 R364). -/
def trapRecord (t : Thread) (cause faddr info spc prog : Nat) (psolo : Bool) : List Word :=
  let w5 := pack [(5, cause), (7, t.pv.toNat), (7, t.pt.toNat), (1, 0), (1, if psolo then 1 else 0)]
  [0, 0, 0, 0, 0, BitVec.ofNat 32 w5, BitVec.ofNat 32 (info % 2 ^ 24), BitVec.ofNat 32 prog,
   BitVec.ofNat 32 faddr, BitVec.ofNat 32 (faddr % 2 ^ 56 / 2 ^ 32), BitVec.ofNat 32 spc, BitVec.ofNat 32 (spc % 2 ^ 56 / 2 ^ 32)]
    ++ (List.range 4).map (fun i => lget t.v i 0)

/-- A thread enters PARKED with its record written; its handler follows 8 clocks later (16 R363). -/
def trapThr (now cause faddr info spc prog : Nat) (psolo : Bool) (t : Thread) : Thread :=
  { t with st := .parked, pc := spc, trec := trapRecord t cause faddr info spc prog psolo, wait := .none, vecAt := some (now + 8), step := false,
           solo := false, rp := false, rpPc := spc }

/-- Raise (06 R183, 16 R363): the cause bit, then PARKED with the record, or a double fault. -/
def raise (e : Env) (m : Mach) (g lane cause faddr info spc ipc prog : Nat) (psolo : Bool) : Mach :=
  let m1 := setCause m g cause
  let gr := grpOf m g
  if (thrOf m g lane).hm || !tvecOk e m gr.core (teamOf m gr.team).part then doubleFault e m1 g lane cause spc ipc faddr
  else updThr m1 g lane (trapThr e.now cause faddr info spc prog psolo)

/-- Registers, predicates and PC from the trap record (16 R376). -/
def tretThr (st : TSt) (t : Thread) : Thread :=
  let w := fun i => (lget t.trec i 0).toNat
  { t with v := setAt (setAt (setAt (setAt t.v 0 (lget t.trec 12 0)) 1 (lget t.trec 13 0)) 2 (lget t.trec 14 0)) 3 (lget t.trec 15 0),
           pv := BitVec.ofNat 7 (bitsOf (w 5) 11 5), pt := BitVec.ofNat 7 (bitsOf (w 5) 18 12), hm := false, st := st, wait := .none,
           pc := w 10 + bitsOf (w 11) 23 0 * 2 ^ 32, solo := bitOf (w 5) 20, rp := true, step := bitOf (w 5) 19,
           trec := setAt t.trec 5 (BitVec.ofNat 32 (putBits (w 5) 20 20 0)) }

/-! Replayable faults (16 R367 to R369). -/

/-- A request joins the fault buffer of a cluster: an entry of its page and kind, answered or not, else a free entry; else it waits (16 R367). -/
def joinFault (m : Mach) (cl mark va kind : Nat) (who : Option (TRef × Nat)) (eng : Option Nat) : Mach :=
  let b := clusOf m cl
  let add : FEnt → FEnt := fun f => { f with who := f.who ++ who.toList, engines := f.engines ++ eng.toList }
  let m1 := setIntr m (cl / 36) 2
  match b.fbuf.find? (fun (_, f) => f.fva / 4096 == va / 4096 && f.kind == kind) with
  | some (k, _) => updClus m1 cl (fun c => { c with fbuf := tupd c.fbuf k add })
  | none =>
    match tfree b.fbuf 64 0 with
    | some k => updClus m1 cl (fun c => { c with fbuf := tset c.fbuf k { fva := va, smark := mark, kind := kind, st := 1, protf := false, who := who.toList, engines := eng.toList } })
    | none => updClus m cl (fun c => { c with fwait := c.fwait ++ [{ mark := mark, va := va, kind := kind, who := who, eng := eng }] })

/-- The member parks at the instruction and its request joins the buffer (16 R367, R370). -/
def parkFault (e : Env) (m : Mach) (g lane va kind pc prog : Nat) (psolo : Bool) : Mach :=
  let gr := grpOf m g
  let m1 := updThr m g lane (fun t => { t with
    st := .parked, pc := pc, wait := .none, rp := true, rpPc := pc,
    trec := setAt (setAt t.trec 7 (BitVec.ofNat 32 prog)) 5 (BitVec.ofNat 32 (putBits (lget t.trec 5 0).toNat 20 20 (if psolo then 1 else 0))) })
  joinFault m1 (clusterOf gr.core) (markOf e.sys (teamOf m gr.team).part gr.core) va kind (some ({ g := g, lane := lane }, va)) none

/-- Tables that a walk reads, one entry a level, until it ends (18 R397, R399). -/
def walkReads (m : Mach) (va : Nat) : List (Nat × Nat × Nat) → Nat → List Nat
  | [], _ => []
  | (lv, hi, lo) :: r, tab =>
    let at0 := tab + 8 * bitsOf va hi lo
    if !served at0 then []
    else
      let p := readNat m at0 8
      at0 :: (if !bitOf p 0 || !pteZero p || bitOf p 7 || (lv == 3 && bitOf p 12) then [] else walkReads m va r (bitsOf p 51 12 * 4096))

/-- Clocks of a walk: the 12 of the die's cache and one unloaded read a level (18 R402). DESIGN CHOICE (entry 6): the walker stands where the die's Front End stands. -/
def walkClocks (m : Mach) (die root va : Nat) : Nat :=
  (walkReads m va walkLevels (root * 4096)).foldl (fun t pa => t + latency (feHome die) (homeOf pa)) 12

/-- A walk takes a slot and starts, under the root that its partition has now (18 R406). -/
def startSlot (e : Env) (m : Mach) (w : Walk) : Walk :=
  let root := (partOf e.sys w.part).root
  { w with root := root, due := some (e.now + walkClocks m w.die root (w.page * 4096) + Config.delay m.free) }

/-- Walks of a die in progress. -/
def slotsBusy (m : Mach) (die : Nat) : Nat := m.walks.countP (fun w => w.die == die && w.due.isSome)

/-- Requests join the walk of their page, or one that takes a free slot of the 64, or waits for one (18 R403). -/
def joinWalk (e : Env) (m : Mach) (die part va : Nat) (who : List (TRef × Nat × Nat)) (fills : List Fill) (engs : List EReq) : Mach :=
  let here := fun (w : Walk) => w.die == die && w.part == part && w.page == va / 4096
  if m.walks.any here then
    { m with walks := m.walks.map (fun w => if here w then { w with who := w.who ++ who, fills := w.fills ++ fills, engs := w.engs ++ engs } else w) }
  else
    let w : Walk := { die := die, part := part, page := va / 4096, root := 0, due := none, who := who, fills := fills, engs := engs }
    { m with free := m.free + 1, walks := m.walks ++ [if slotsBusy m die < 64 then startSlot e m w else w] }

/-- A slot of a die becomes free: the walk that waits longest starts. -/
def nextSlot (e : Env) (m : Mach) (die : Nat) : Mach :=
  match m.walks.findIdx? (fun w => w.die == die && w.due.isNone) with
  | some i => { m with free := m.free + 1, walks := m.walks.modify i (startSlot e m) }
  | none => m

/-- A miss of a thread waits for a walk. -/
def startWalk (e : Env) (m : Mach) (die part va : Nat) (who : TRef) (kind : Nat) : Mach := joinWalk e m die part va [(who, va, kind)] [] []

/-- The member waits at the instruction for a walk, and performs it again from part `prog`. -/
def waitWalk (e : Env) (m : Mach) (g lane va kind pc prog : Nat) (psolo : Bool) : Mach :=
  let gr := grpOf m g
  let m1 := updThr m g lane (fun t => { t with
    wait := .walk, pc := pc, resume := pc, solo := psolo, rp := true, rpPc := pc,
    trec := setAt t.trec 7 (BitVec.ofNat 32 prog) })
  startWalk e m1 (coreDie gr.core) (teamOf m gr.team).part va { g := g, lane := lane } kind

/-- A cache of `cap` lines takes one more; a full one drops a line first, of the spec's free choice. -/
def cacheAdd {α : Type} (cap free : Nat) (t : Tab α) (k : Nat) (x : α) : Tab α :=
  tset (if cap ≤ t.length then t.eraseIdx (Config.victim free % t.length) else t) k x

/-! Messages (03 R102 to R107, 04 R108 to R116). -/

/-- Clock entry `a` comes before `b` by their serial-number difference (04 R116). -/
def serBefore (a b : Nat) : Bool := let d := (b % 2 ^ 32 + 2 ^ 32 - a % 2 ^ 32) % 2 ^ 32; decide (1 ≤ d) && decide (d < 2 ^ 31)

/-- Entry-wise later of two vector clocks (04 R116). -/
def vcMerge (a b : List Nat) : List Nat :=
  (List.range 4).map (fun i => if serBefore (lget a i 0) (lget b i 0) then lget b i 0 else lget a i 0)

/-- A release operation counts in the clock of its die (04 R116). -/
def vcBump (v : List Nat) (d : Nat) : List Nat := lupd v d (fun n => (n + 1) % 2 ^ 32)

/-- A clock that holds one die's entry of another. -/
def vcOnly (v : List Nat) (d : Nat) : List Nat := (List.range 4).map (fun i => if i = d then lget v i 0 else 0)

/-- Releases of a die that its agents perform without a message: arrivals at a barrier, fences, ends of engine threads, retirements (04 R111). -/
def bumpDie (m : Mach) (d : Nat) : Mach := updDie m d (fun a => { a with vc := vcBump a.vc d })

/-- What happens before the next access of a thread grows (04 R112). -/
def learnThr (vc : List Nat) (t : Thread) : Thread := { t with know := vcMerge t.know vc }

/-- Opens an operation of `n` parts whose result lands at clock `tm` at the earliest (06 R182). -/
def openOp (m : Mach) (n tm : Nat) (tok : List TokRef) : Nat × Mach :=
  (m.serial, { m with serial := m.serial + 1, ops := tset m.ops m.serial { left := n, tm := tm, land := { tm := tm, wr := [], tok := tok, wake := [] } } })

/-- A part of an operation is done: what it delivers lands with the rest when the last part is done. -/
def closePart (m : Mach) (op tm : Nat) (wr : List RegWr) (wake : List TRef) : Mach :=
  match tget m.ops op with
  | none => m
  | some o =>
    let o1 : Op := { left := o.left - 1, tm := max o.tm tm, land := { o.land with wr := o.land.wr ++ wr, wake := o.land.wake ++ wake } }
    if o1.left = 0 then pushLand { m with ops := tdel m.ops op } { o1.land with tm := o1.tm } else { m with ops := tset m.ops op o1 }

/-- Control cores act as agents under thread references of their own: control core `8 d + k` of the device is the reference with lane 0 and this key. -/
def ctlKey (cc : Nat) : Nat := 1000000 + cc
def ctlRef (cc : Nat) : TRef := { g := ctlKey cc, lane := 0 }
def isCtl (r : TRef) : Bool := decide (1000000 ≤ r.g)
def ctlNo (r : TRef) : Nat := r.g - 1000000

/-- What the lanes for which a message acts know, or the control core or the copy that sends it. -/
def knowOf (m : Mach) (thr : Option TRef) (who : List Nat) (b : Body) : List Nat :=
  match thr with
  | some r => if isCtl r then (ctlOf m (ctlNo r)).know else who.foldl (fun v l => vcMerge v (thrOf m r.g l).know) [0, 0, 0, 0]
  | none =>
    match b with
    | .packet k _ _ _ _ | .colophon _ _ k | .arrInc _ _ k => ((tget m.copies k).map (·.know)).getD [0, 0, 0, 0]
    | _ => [0, 0, 0, 0]

/-- The network interface of the source is isolated and injects nothing (18 R412). -/
def holdsBack (m : Mach) (src dst : Nat) : Bool := src < 576 && src != dst && (coreOf m src).isol

/-- Runs of bytes that a message touches, by storage address. -/
def bodyAddrs : Body → List (Nat × Nat)
  | .load sa w _ _ _ _ _ | .ctlLoad _ sa w _ _ _ => [(sa, w)]
  | .tileRead rows _ _ _ _ _ _ _ => rows.map (fun r => (r.1, r.2.1))
  | .store rows _ _ => rows.map (fun r => (r.1, r.2.length))
  | .packet _ _ sa d _ => [(sa, d.length)]
  | .atom sa _ ty _ _ _ _ _ _ => [(sa, tyBits ty / 8)]
  | .cas sa w _ _ _ _ _ => [(sa, w)]
  | .qwait sa | .wake sa _ | .arrSet sa _ | .arrInc sa _ _ | .colophon sa _ _ => [(sa, 8)]
  | .push sa _ _ _ | .pop sa _ _ _ _ _ _ => [(sa, 528)]
  | .seal sa _ _ _ => [(sa, 128)]
  | .plogRead sa _ _ _ _ => [(sa, 32)]
  | _ => []

/-- Added latency of the cache of a level or above that serves a byte of paged memory for a core (18 R402). -/
def hitClocks (m : Mach) (part core lo sa : Nat) : Nat :=
  if homeOf sa < 576 then 0
  else
    let on := fun (l : Nat) => m.tlb.any (fun t => t.lvl == l && t.part == part && decide (t.pa ≤ sa) && decide (sa < t.pa + t.size)
      && t.unit == (match l with | 0 => core | 1 => clusterOf core | _ => coreDie core))
    if lo = 0 && on 0 then 0 else if on 1 then 4 else if on 2 then 12 else 0

/-- The same for a message: a thread's own core's caches, an engine thread's from its cluster's. -/
def addedClocks (m : Mach) (src : Nat) (thr : Option TRef) (b : Body) : Nat :=
  match (bodyAddrs b).head?, thr with
  | some (sa, _), some r => if src < 576 then hitClocks m (teamOf m (grpOf m r.g).team).part src 0 sa else 0
  | some (sa, _), none =>
    (match b with
     | .packet k _ _ _ _ | .colophon _ _ k => ((tget m.copies k).map (fun c => hitClocks m c.part c.core 1 sa)).getD 0
     | _ => 0)
  | none, _ => 0

/-- The clock at which a message injected now arrives: half the unloaded latency and a free delay later, and not before an earlier message of its source, destination and class (03 R104, R107). -/
def dueOf (e : Env) (m : Mach) (src dst : Nat) (recCls : Bool) (added : Nat) : Nat :=
  (m.flight.filter (fun x => x.src == src && x.dst == dst && x.recCls == recCls && x.stage != .waiting && x.stage != .unsent)).foldl (fun t x => max t x.due)
    (e.now + added + latency src dst / 2 + Config.delay m.free)

/-- Sends a message for some lanes of a thread's group, or for no thread. A release counts in the vector clock of its die (04 R116). DESIGN CHOICE: the access is performed after half of the latency of R107, rounded down, and the other half is the way back; the spec gives the way there and back only (entry 6 of the assumption log). -/
def send (e : Env) (m : Mach) (src dst : Nat) (recCls : Bool) (thr : Option TRef) (who : List Nat) (scope : Nat) (acq rel wr : Bool) (op : Nat) (b : Body) : Mach :=
  let d := (homePos src).1
  let vc := (dieOf m d).vc
  let vc1 := if rel then vcBump vc d else vc
  let l := latency src dst
  let kn := knowOf m thr who b
  let msg : Msg := {
    id := m.serial, due := dueOf e m src dst recCls (addedClocks m src thr b), src := src, dst := dst, recCls := recCls, die := d,
    dieTo := (homePos dst).1, epoch := lget vc d 0, vc := vc1, thr := thr, who := who, scope := scope,
    know := if rel then vcMerge kn (vcOnly vc1 d) else kn, frel := thr.bind (fun r => if isCtl r then (ctlOf m (ctlNo r)).frel else (thrOf m r.g r.lane).frel),
    acq := acq, rel := rel, wr := wr, back := l - l / 2,
    stage := if holdsBack m src dst then .unsent else .flight, bad := false, op := op, body := b }
  { updDie m d (fun a => { a with vc := vc1 }) with serial := m.serial + 1, free := m.free + 1, flight := m.flight ++ [msg] }

/-- The message or acknowledgement is one of the thread's. -/
def ofThr (r : TRef) (thr : Option TRef) (who : List Nat) : Bool := thr.any (fun q => q.g == r.g) && who.contains r.lane

/-- Messages of a thread that have not been performed. -/
def outstanding (m : Mach) (r : TRef) : Bool := m.flight.any (fun x => ofThr r x.thr x.who)

/-- Reads of a thread of which the response is still under way. -/
def unreturned (m : Mach) (r : TRef) : Bool := m.acks.any (fun a => !a.wr && ofThr r a.thr a.who)

/-- Writes of a thread, homed on its own die, that no home has acknowledged (04 R115). -/
def unacked (m : Mach) (r : TRef) : Bool :=
  m.flight.any (fun x => x.wr && x.die == x.dieTo && ofThr r x.thr x.who) || m.acks.any (fun a => a.wr && a.die == a.dieTo && ofThr r a.thr a.who)

end Sys2Proof.Machine
end

