-- ==== Sys2Proof/Machine/Operands.lean ====
section
/-! DEFINITION. Operand forms: reading operands, writing destinations and latches, effective addresses, guards, tile shapes, and the vector registers that an encoding names (spec/06 R169 to R176, R183, 01 R25). -/
namespace Sys2Proof.Machine
open Sys2Proof

/-- What an instruction knows of its issue: the convergence set `set`, its performing members `lanes`, the member acting, the address of the instruction and of the next one, the run (01 R34) and the issue serial. -/
structure Ctx where
  g : Nat
  core : Nat
  team : Nat
  part : Nat
  lane : Nat
  lanes : List Nat
  set : List Nat
  pc : Nat
  next : Nat
  hm : Bool
  pair : Bool
  run : Nat
  sn : Nat
  progs : List (Nat × Nat)
  te : Option Nat

/-- Token of one member (01 R38). -/
def Ctx.tokOf (c : Ctx) (lane : Nat) : List TokRef :=
  match c.te with
  | some k => [{ g := c.g, lane := lane, k := k, h := c.hm }]
  | none => []

def Ctx.tok (c : Ctx) : List TokRef := c.tokOf c.lane

/-- Tokens of every performing member. -/
def Ctx.toks (c : Ctx) : List TokRef := c.lanes.flatMap c.tokOf

/-- Progress index with which the member comes to the instruction (16 R370). -/
def Ctx.prog (c : Ctx) : Nat := (c.progs.lookup c.lane).getD 0

def Ctx.ref (c : Ctx) : TRef := { g := c.g, lane := c.lane }

/-- How a member fares: it completes, raises a cause, waits for a walk, or parks on a replayable fault. -/
inductive Out where
  | done
  | cause (c faddr info : Nat) (next : Bool) (prog : Nat)
  | walk (va kind prog : Nat)
  | fault (va kind prog : Nat)
  deriving DecidableEq, Repr

structure BRes where
  m : Mach
  out : Out

def ok (m : Mach) : BRes := { m := m, out := .done }

/-- A cause without address or code, with the saved PC at the instruction. -/
def trapOf (m : Mach) (c : Nat) : BRes := { m := m, out := .cause c 0 0 false 0 }

/-- A cause with an address (16 R362). -/
def trapAt (m : Mach) (c a : Nat) : BRes := { m := m, out := .cause c a 0 false 0 }

/-! Reading. -/

def regV (m : Mach) (g lane n : Nat) : Nat := (lget (thrOf m g lane).v n 0).toNat
def regS (m : Mach) (g n : Nat) : Nat := (lget (grpOf m g).s n 0).toNat

/-- Predicate value: p7 is true (06 R171). -/
def predV (m : Mach) (g lane n : Nat) : Bool := n == 7 || bitOf (thrOf m g lane).pv.toNat n

/-- Predicate taint: p7 has none (05 R147). -/
def predT (m : Mach) (g lane n : Nat) : Bool := n != 7 && bitOf (thrOf m g lane).pt.toNat n

/-- A latch of the current run (01 R39). -/
def latchV (m : Mach) (c : Ctx) (n : Nat) : Option Nat :=
  match tget (schedOf m (schedKeyOf (grpOf m c.g))).xs (8 * c.lane + n) with
  | some (x, run) => if run = c.run then some x.toNat else none
  | none => none

/-- ReadOperand (06 R183): the low bits of the type; an invalid latch gives new poison and sets LATCH (01 R40). -/
def readOp (e : Env) (m : Mach) (c : Ctx) (ty : NTy) : Opnd → Mach × Nat
  | .v n => (m, (regV m c.g c.lane n.toNat + (if tyBits ty = 64 then 2 ^ 32 * regV m c.g c.lane (n.toNat + 1) else 0)) % 2 ^ tyBits ty)
  | .s n => (m, (regS m c.g n.toNat + (if tyBits ty = 64 then 2 ^ 32 * regS m c.g (n.toNat + 1) else 0)) % 2 ^ tyBits ty)
  | .x n =>
    match latchV m c n.toNat, (if tyBits ty = 64 then latchV m c (n.toNat + 1) else some 0) with
    | some a, some b => (m, (a + 2 ^ 32 * b) % 2 ^ tyBits ty)
    | _, _ => poisonVal e (setCause m c.g cLATCH) c.g c.lane c.pc 3 0 ty
  | .p n => (m, if predV m c.g c.lane n.toNat then 1 else 0)
  | .t n => (m, n.toNat)
  | .k n => (m, tokCount (thrOf m c.g c.lane) c.hm n.toNat)
  | .c n => (m, (constVal ty n.toNat).getD 0)

/-- The guard (06 R169). -/
def guardOf (t : Thread) (h : Hdr) : Bool := h.pg == 7 || (bitOf t.pv.toNat h.pg.toNat != h.pn)

/-! Writing. -/

/-- The writes of a value to a register operand (07 R185); a predicate is true for a nonzero value. -/
def wrReg (c : Ctx) (ty : NTy) (dst : Opnd) (n : Nat) : List RegWr :=
  match dst with
  | .v k => (regWords ty n).zipIdx.map (fun (x, i) => RegWr.v c.g c.lane (k.toNat + i) x c.sn)
  | .s k => (regWords ty n).zipIdx.map (fun (x, i) => RegWr.s c.g (k.toNat + i) x)
  | .p k => [RegWr.p c.g c.lane k.toNat (n != 0) false]
  | _ => []

/-- The writes to latches LT of the given lanes (01 R39, 06 R172). -/
def wrLatch (c : Ctx) (ty : NTy) (lt : Nat) (lanes : List Nat) (n : Nat) : List RegWr :=
  lanes.flatMap (fun l => (regWords ty n).zipIdx.map (fun (x, i) => RegWr.x c.g l (lt + i) x c.run))

/-- WriteDest of a format-A instruction with a register destination: for one member, or once for the set with the latch of every member (06 R170, R172, R174). -/
def wrA (c : Ctx) (h : Hdr) (o : FA) (ty : NTy) (n : Nat) : List RegWr :=
  (if h.ws then [] else wrReg c ty o.dst n) ++ wrLatch c ty o.lt.toNat (if isS o.dst then c.lanes else [c.lane]) n

/-- Tokens that a result lowers: of the member, or of every member of a once-for-set result. -/
def tokA (c : Ctx) (dst : Opnd) : List TokRef := if isS dst then c.toks else c.tok

/-- A fixed-latency result (01 R37). -/
def landA (e : Env) (m : Mach) (c : Ctx) (h : Hdr) (o : FA) (ty : NTy) (lat n : Nat) : BRes :=
  ok (land m (e.now + lat) (wrA c h o ty n) (tokA c o.dst))

/-- Latency of a class at 32 bits and at 64 bits (06 R181). -/
def latOf (ty : NTy) (a b : Nat) : Nat := if tyBits ty = 64 then b else a

/-! Addresses (06 R176). -/

def readBase (e : Env) (m : Mach) (c : Ctx) (o : Opnd) : Nat := (readOp e m c .n64 o).2

/-- ea of a format-M access, before its checks. -/
def effAddr (e : Env) (m : Mach) (c : Ctx) (o : FM) : Mach × Int :=
  let b := readOp e m c .n64 o.base
  let i := readOp e b.1 c .s32 o.index
  (i.1, (b.2 : Int) + signExt i.2 32 + signExt o.off.toNat 24)

/-- Outcome of the address checks of 08 R223. -/
inductive AddrRes where
  | ok (sa : Nat)
  | metaw (frame : Nat)
  | trig (k : Nat)
  | stop (o : Out)
  deriving DecidableEq, Repr

/-- Checks 1 to 5 of 08 R223, for an access of `len` bytes aligned to `al`. -/
def checkAddr (e : Env) (m : Mach) (c : Ctx) (ea : Int) (al len kind : Nat) (b64 : Bool) : AddrRes :=
  if ea < 0 ∨ (2 ^ 56 : Int) ≤ ea then .stop (.cause cRANGE (lowBits 56 ea) 0 false 0)
  else
    let a := ea.toNat
    if a % al ≠ 0 then .stop (.cause cMISAL a 0 false 0)
    else match xlate e m c.core c.part a len kind b64 with
      | .ok sa => .ok sa
      | .metaw f => .metaw f
      | .trig k => if al = 8 && len = 8 && b64 then .trig k else .stop (.fault a kind 0)
      | .cause k => .stop (.cause k a 0 false 0)
      | .miss => .stop (.walk a kind 0)
      | .forbid => .stop (.fault a kind 0)

/-- The same outcome with a progress index (16 R370). -/
def withProg (o : Out) (p : Nat) : Out :=
  match o with
  | .walk va k _ => .walk va k p
  | .fault va k _ => .fault va k p
  | .cause a f i n _ => .cause a f i n p
  | .done => .done

/-! Tile shapes (07 R218). -/

def tcRows (w : Word) : Nat := bitsOf w.toNat 5 0 + 1
def tcCols (w : Word) : Nat := bitsOf w.toNat 15 8 + 1
def tcEw (w : Word) : Nat := bitsOf w.toNat 19 16

/-- Element bytes, 16 for containers (08 R236). -/
def ewBytes (w : Nat) : Nat := match w with | 0 => 1 | 1 => 2 | 2 => 4 | 3 => 8 | _ => 16

def shapeOf (m : Mach) (core k : Nat) : Word := lget (coreOf m core).tc k tcReset

/-- The tile lies in the team's allocation (09 R264). -/
def tileHeld (m : Mach) (team k : Nat) : Bool := bitOf (teamOf m team).tiles k

/-- Tile number of an operand. -/
def tileNo : Opnd → Nat
  | .t k => k.toNat
  | _ => 0

/-! Vector registers named by an encoding (01 R25, 06 R180 row 5, 07 R188). -/

/-- One above the highest vector register of a field that names `k` of them. -/
def vTop (k : Nat) : Opnd → Nat
  | .v n => n.toNat + k
  | _ => 0

def wOf (ty : Option NTy) : Nat := match ty with | some t => if tyBits t = 64 then 2 else 1 | none => 1

def maxN (l : List Nat) : Nat := l.foldl max 0

/-- Format A with the given register counts of DST, SA, SB and SC. -/
def needA (o : FA) (d a b c : Nat) : Nat := maxN [vTop d o.dst, vTop a o.sa, vTop b o.sb, vTop c o.sc]

def needInt (h : Hdr) (o : FA) : Nat := let w := wOf (intTyOf (fnLo h)); needA o w w w w
def needShift (h : Hdr) (o : FA) : Nat := let w := wOf (intTyOf (fnLo h)); needA o w w 1 1
def needF (h : Hdr) (o : FA) : Nat := let w := wOf (floatTyOf (fnLo h)); needA o w w w w
def needLane (h : Hdr) (o : FA) : Nat := let w := wOf (laneTy h); needA o w w 1 1

/-- Registers of a width (08 R233). -/
def widthRegs (w : Nat) : Nat := if w = 3 then 2 else if w = 4 then 4 else 1

/-- Format M with `d` data registers. -/
def needM (o : FM) (d : Nat) : Nat := maxN [vTop d o.d, vTop 2 o.base, vTop 1 o.index]

def needC (o : FC) (s : Nat) (link : Bool) : Nat := maxN [vTop s o.src, if link then vTop 2 (linkOf o) else 0]

/-- One above the highest vector register that the instruction names on a core. -/
def vneed (m : Mach) (core : Nat) : Instr → Nat
  | .shl h o | .shr h o | .sra h o | .rot h o => needShift h o
  | .add h o | .sub h o | .mul h o | .mulh h o | .mad h o | .div h o | .rem h o | .neg h o | .abs h o | .min h o | .max h o
  | .and h o | .or h o | .xor h o | .not h o | .clz h o | .popc h o | .brev h o | .bfx h o | .bfi h o | .cmp h o | .sel h o
  | .lea h o | .addc h o | .mov h o => needInt h o
  | .movi h o => vTop (wOf (intTyOf (fnLo h))) o.dst
  | .movw _ o => vTop 2 o.dst
  | .cvt h o => needA o (wOf (tyOfCode (fnLo h))) (wOf (tyOfCode o.md.toNat)) 1 1
  | .fcls h o => needA o 1 (wOf (floatTyOf (fnLo h))) 1 1
  | .fscl h o => let w := wOf (floatTyOf (fnLo h)); needA o w w 1 1
  | .fcvt h o => needA o (wOf (floatTyOf (fnLo h))) (wOf (floatTyOf o.md.toNat)) 1 1
  | .fdot2 _ o => needA o 1 1 1 1
  | .fadd h o | .fsub h o | .fmul h o | .fma h o | .fmin h o | .fmax h o | .fabs h o | .fneg h o | .fcmp h o | .fdiv h o | .fsqrt h o
  | .frcp h o | .frsq h o | .fex2 h o | .flg2 h o | .fsin h o | .fcos h o | .frnd h o | .fclp h o | .pchk h o | .pmrk h o | .pfix h o => needF h o
  | .pchkProv h o => needA o 1 (wOf (floatTyOf (fnLo h))) 1 1
  | .nscl _ o => needA o 1 1 1 1
  | .npck _ o => needA o 4 (o.imm.toNat / 256 % 64) 1 1
  | .nunp _ o => needA o (o.imm.toNat / 256 % 64) 4 1 1
  | .ndot _ o => needA o 1 4 4 1
  | .plog _ o => needA o 8 1 1 1
  | .shfl h o | .rdl h o | .wrl h o => needLane h o
  | .mtch h o => needA o 1 (wOf (laneTy h)) 1 1
  | .redx h o | .scan h o | .sred h o => let w := wOf (tyOfCode (fnLo h)); needA o w w 1 1
  | .vote _ o | .blot _ o | .getc _ o | .setc _ o | .getid _ o => needA o 1 1 1 1
  | .clk _ o => needA o (if o.imm.toNat < 2 then 2 else 1) 1 1 1
  | .bra _ o | .cvb _ o | .cvbCur _ o | .cvw _ o | .exit _ o | .yield _ o | .nop _ o => needC o 1 false
  | .brx _ o | .ret _ o => needC o 2 false
  | .call _ o => needC o 1 true
  | .cali _ o => needC o 2 true
  | .loop _ o => needC o 1 false
  | .ld _ o | .st _ o | .ldv _ o => needM o (widthRegs o.width.toNat)
  | .ldt _ o | .stt _ o | .pfx _ o | .qwait _ o | .wake _ o | .rfl _ o | .fence _ o => needM o 1
  | .atom h o | .red h o | .mon h o => needM o (wOf (atomTy (fnLo h)))
  | .cas h o => needM o (if h.fn == 7 then 4 else 2)
  | .mwt _ o => vTop 1 o.dst
  | .bar _ o | .bsc _ o | .qpush _ o | .qpop _ o | .lend _ o | .claim _ o => needA o 1 1 1 1
  | .arrvSet _ o | .arrvAdd _ o | .awt _ o => needA o 1 2 1 1
  | .send _ o => needA o 1 1 (max 1 (sendRegs o)) 1
  | .cpy _ _ | .cpym _ _ | .rfett _ _ | .xcon _ _ => 0
  | .rfet _ o => maxN [vTop (bitsOf o.ctl.toNat 4 0 + 1) o.dst, vTop 1 o.sb]
  | .cseal _ o => maxN [vTop 1 o.dst, vTop 2 o.sa]
  | .mma _ _ | .mmsp _ _ | .tzro _ _ | .tmov _ _ => 0
  | .kbnd _ o => needA o 1 0 0 2
  | .trmxGet _ o => vTop (if tcEw (shapeOf m core (tileNo o.sa)) = 3 then 2 * trmxM o else trmxM o) o.dst
  | .trmxPut _ o => vTop (if tcEw (shapeOf m core (tileNo o.dst)) = 3 then 2 * trmxM o else trmxM o) o.sa
  | .rput _ o | .rputIn _ o => needA o 1 4 (max 1 (4 * o.imm.toNat)) 1
  | .rget _ o => needA o (4 * (o.imm.toNat % 16) + 4) 1 1 1
  | .snap _ o => needA o 5 1 1 1
  | .ralc _ o | .rdon _ o | .rsd _ o | .post _ o => needA o 1 1 1 1
  | .tres _ o | .tresW _ o => maxN [vTop 1 o.dst, vTop 1 o.sa]
  | _ => 0

/-- The instruction writes a scalar register (16 R365). -/
def writesScalar : Instr → Bool
  | .ld _ o | .ldv _ o | .atom _ o | .cas _ o => isS o.d
  | .movi _ o => isS o.dst
  | .movw _ o => isS o.dst
  | .mwt _ o => isS o.dst
  | .call _ o | .cali _ o => isS (linkOf o)
  | .loop _ o => isS o.src
  | .cseal _ o => isS o.dst
  | .add _ o | .sub _ o | .mul _ o | .mulh _ o | .mad _ o | .div _ o | .rem _ o | .neg _ o | .abs _ o | .min _ o | .max _ o | .and _ o
  | .or _ o | .xor _ o | .not _ o | .shl _ o | .shr _ o | .sra _ o | .rot _ o | .clz _ o | .popc _ o | .brev _ o | .bfx _ o | .bfi _ o
  | .sel _ o | .lea _ o | .addc _ o | .cvt _ o | .mov _ o | .fadd _ o | .fsub _ o | .fmul _ o | .fma _ o | .fmin _ o | .fmax _ o
  | .fabs _ o | .fneg _ o | .fdiv _ o | .fsqrt _ o | .frcp _ o | .frsq _ o | .fex2 _ o | .flg2 _ o | .fsin _ o | .fcos _ o | .frnd _ o
  | .fcls _ o | .fscl _ o | .fclp _ o | .fdot2 _ o | .fcvt _ o | .pchkProv _ o | .pmrk _ o | .pfix _ o | .plog _ o | .vote _ o
  | .sred _ o | .rdl _ o | .getc _ o | .getid _ o | .clk _ o | .bsc _ o | .awt _ o | .qpop _ o | .kbnd _ o | .snap _ o => isS o.dst
  | _ => false

/-- Handler mode only (16 R374). -/
def privileged : Instr → Bool
  | .tret _ _ | .tclr _ _ | .park _ _ | .tres _ _ | .tresW _ _ | .plcw _ _ | .xinv _ _ | .swap _ _ | .diag _ _ => true
  | _ => false

end Sys2Proof.Machine
end

