-- ==== Sys2Proof/Machine/Flags.lean ====
section
/-! DEFINITION. Predicates and their taint (spec/05 R147, 07 R192, R193, R200): comparisons, combination with a predicate, carry. -/
namespace Sys2Proof.Machine
open Sys2Proof

/-- Conditions eq, ne, lt, le, gt, ge by code (07 R192). -/
def condInt (cc : Nat) (a b : Int) : Bool :=
  match cc with
  | 0 => decide (a = b)
  | 1 => decide (a ≠ b)
  | 2 => decide (a < b)
  | 3 => decide (a ≤ b)
  | 4 => decide (b < a)
  | _ => decide (b ≤ a)

/-- The same over an order of two values (07 R200). -/
def condOrd (cc : Nat) (o : Ordering) : Bool :=
  match cc, o with
  | 0, .eq | 3, .eq | 5, .eq => true
  | 1, .lt | 1, .gt => true
  | 2, .lt | 3, .lt => true
  | 4, .gt | 5, .gt => true
  | _, _ => false

/-- Value and taint of a result combined with the predicate SC: 0 none, 1 and, 2 or (07 R192). -/
def combineP (m : Mach) (c : Ctx) (mode : Nat) (sc : Opnd) (q : Bool) : Bool × Bool :=
  match mode, sc with
  | 1, .p n => (q && predV m c.g c.lane n.toNat, predT m c.g c.lane n.toNat)
  | 2, .p n => (q || predV m c.g c.lane n.toNat, predT m c.g c.lane n.toNat)
  | _, _ => (q, false)

/-- Carry-in of `addc` with its taint (07 R193). -/
def carryIn (m : Mach) (c : Ctx) : Opnd → Nat × Bool
  | .p n => (if predV m c.g c.lane n.toNat then 1 else 0, predT m c.g c.lane n.toNat)
  | .c n => (if n == 1 then 1 else 0, false)
  | _ => (0, false)

/-- The value of a predicate source with its taint. -/
def predSrc (m : Mach) (c : Ctx) : Opnd → Bool × Bool
  | .p n => (predV m c.g c.lane n.toNat, predT m c.g c.lane n.toNat)
  | _ => (false, false)

/-- Data that a store checks: poison patterns by width (05 R149). -/
def storePoison (bits n : Nat) : Bool :=
  match bits with
  | 16 => isPoison .f16 n
  | 32 => isPoison .f32 n
  | 64 => isPoison .f64 n
  | 128 => (List.range 4).any (fun i => isPoison .f32 (n / 2 ^ (32 * i) % 2 ^ 32))
  | _ => false

/-- PCTL.PST, PBR and PCV of a group (05 R149). -/
def pstOn (m : Mach) (g : Nat) : Bool := bitOf (grpOf m g).pctl.toNat 0
def pbrOn (m : Mach) (g : Nat) : Bool := bitOf (grpOf m g).pctl.toNat 1
def pcvOn (m : Mach) (g : Nat) : Bool := bitOf (grpOf m g).pctl.toNat 2

end Sys2Proof.Machine
end

