-- ==== Sys2Proof/Machine/Issue.lean ====
section
/-! DEFINITION. Issue of one instruction for a convergence set (spec/01 R32 to R38, 06 R168 to R170, R179, R180, 16 R363 to R367): the checks, the members, what a member does that fails, and the end of the run. -/
namespace Sys2Proof.Machine
open Sys2Proof

/-- The context of an issue. -/
def ctxOf (m : Mach) (cu : Cur) (h : Hdr) : Ctx :=
  let gr := grpOf m cu.g
  { g := cu.g, core := gr.core, team := gr.team, part := (teamOf m gr.team).part, lane := cu.lanes.headD 0, lanes := cu.lanes, set := cu.lanes,
    pc := cu.pc, next := cu.next, hm := cu.hm, pair := cu.pair || cu.second || cu.solo, run := (((schedOf m (schedKeyOf gr)).run).map (·.id)).getD 0,
    sn := m.serial, progs := cu.lanes.map (fun l => (l, progOf (thrOf m cu.g l))), te := if h.te then some h.tk.toNat else none }

/-- A member that the first instruction of a pair has stopped keeps its PC. -/
def going (t : Thread) : Bool := t.wait == .none && (t.st == .run || t.st == .handler)

/-- Clock of issue, gap, and the PC at the next instruction (01 R36, 06 R165). -/
def advanceThr (now next gap : Nat) (t : Thread) : Thread :=
  let u := { t with lastIssue := now, readyAt := max t.readyAt (now + 1 + gap) }
  if going t then { u with pc := next, solo := false, rp := false } else u

/-- Every member advances. The first of a pair leaves the gap to the second. -/
def advance (e : Env) (m : Mach) (cu : Cur) (h : Hdr) : Mach :=
  { cu.lanes.foldl (fun m l => updThr m cu.g l (advanceThr e.now cu.next (if cu.pair then 0 else h.gap.toNat))) m with serial := m.serial + 1 }

/-- What a failing member does (16 R363, R367; 06 R179). -/
def failMember (e : Env) (m : Mach) (c : Ctx) (lane : Nat) (psolo : Bool) : Out → Mach
  | .done => m
  | .cause k a i nx p => raise e m c.g lane k a i (if nx then c.next else c.pc) c.pc p psolo
  | .walk va k p => waitWalk e m c.g lane va k c.pc p psolo
  | .fault va k p => parkFault e m c.g lane va k c.pc p psolo

/-- A member that stood at the first of a pair failed there; if the second fails for it too, only the first counts, so PSOLO is 0 (06 R179). -/
def clearPsolo (m : Mach) (g lane : Nat) : Mach :=
  updThr m g lane (fun t => { t with solo := false, trec := setAt t.trec 5 (BitVec.ofNat 32 (putBits (lget t.trec 5 0).toNat 20 20 0)) })

/-- Performs one member, counting its token when it completes. -/
def runMember (e : Env) (c : Ctx) (tr : List Nat) (body : Env → Ctx → Mach → BRes) (acc : Mach × List Nat) (lane : Nat) : Mach × List Nat :=
  let c1 : Ctx := { c with lane := lane }
  let r := body e c1 acc.1
  match r.out with
  | .done => ((c1.tokOf lane).foldl tokRise r.m, acc.2)
  | o => if tr.contains lane then (clearPsolo acc.1 c.g lane, acc.2) else (failMember e r.m c lane c.pair o, acc.2 ++ [lane])

/-- Performs the instruction once for the set: a failure is that of every member. -/
def runOnce (e : Env) (c : Ctx) (tr : List Nat) (body : Env → Ctx → Mach → BRes) (m : Mach) : Mach × List Nat :=
  let r := body e c m
  match r.out with
  | .done => (c.toks.foldl tokRise r.m, [])
  | o => (c.lanes.foldl (fun m l => if tr.contains l then clearPsolo m c.g l else failMember e m c l c.pair o) r.m, c.lanes)

/-- Members whose named registers lie below their budgets, and the others (06 R180 row 5). -/
def budgetOk (m : Mach) (c : Ctx) (i : Instr) (lane : Nat) : Bool :=
  decide (vneed m c.core i ≤ (thrOf m c.g lane).v.length)

/-- Members that issue again stand at different addresses: a branch has sent them apart, and the run ends (01 R34). -/
def diverged (m : Mach) (g : Nat) (l : List Nat) : Bool :=
  match l.filter (fun k => going (thrOf m g k)) with
  | [] => false
  | k :: r => r.any (fun j => (thrOf m g j).pc != (thrOf m g k).pc)

/-- A member has trapped, which ends the run (01 R39). -/
def hasTrapped (m : Mach) (g : Nat) (l : List Nat) : Bool := l.any (fun k => (thrOf m g k).vecAt.isSome)

/-- The run after an issue: counted, and ended by a gap, by its length, by a trap or by divergence, after the second of a pair (01 R34, R39). -/
def endIssue (e : Env) (m : Mach) (cu : Cur) (gap : Nat) (stop : Bool) : Mach :=
  let k := schedKeyOf (grpOf m cu.g)
  let m1 := updGrp m cu.g (fun a => { a with lastIssue := e.now, icnt := if cu.second then a.icnt else a.icnt + 1 })
  updSched m1 k (fun sc => { sc with run :=
    match sc.run with
    | some r => if !cu.pair && (decide (0 < gap) || decide (16 ≤ r.n + 1) || stop) then none else some { r with n := r.n + 1 }
    | none => none })

/-- The second of a pair follows the first in the same clock. -/
def nextCur (cu : Cur) (failed : List Nat) (pc2 : Nat) : Option Cur :=
  if cu.pair then some { cu with pc := pc2, pair := false, second := true, trapped := cu.trapped ++ failed } else none

/-- ILLOP or another cause for every member (06 R180 rows 1 to 4): a pair has no effect, and an instruction that replays alone stays one that does (R179). -/
def failAll (e : Env) (m : Mach) (cu : Cur) (cause faddr : Nat) : Mach :=
  let m1 := cu.lanes.foldl (fun m l => raise e m cu.g l cause faddr 0 cu.pc cu.pc 0 cu.solo) m
  { endIssue e m1 { cu with pair := false } 1 true with cur := none }

/-- Code address of the slot after a one-slot instruction. -/
def pcAfter (pc n : Nat) : Nat := if pc % 8 + n < 5 then pc + n else (pc / 64 + 1) * 64 % 2 ^ 56

/-- Transfers that trap on a tainted guard whatever its value (05 R149, 08 R226). -/
def guardTraps : Instr → Bool
  | .bra _ _ | .brx _ _ | .call _ _ | .cali _ _ | .ret _ _ => true
  | _ => false

/-- The guard predicate is tainted and PCTL.PBR asks for a trap (08 R226). -/
def taintTrap (m : Mach) (g lane : Nat) (h : Hdr) : Bool := h.pg != 7 && pbrOn m g && predT m g lane h.pg.toNat

/-- One issue. `once` says that the instruction acts once for the set. -/
def issue (i : Instr) (h : Hdr) (once : Bool) (body : Env → Ctx → Mach → BRes) (e : Env) (cu : Cur) (m : Mach) : Mach :=
  if !legal i || (cu.hm && writesScalar i && !privileged i) then failAll e m cu cILLOP 0
  else
    let c0 := ctxOf m cu h
    let m0 := advance e m cu h
    let act := cu.lanes.filter (fun l => guardOf (thrOf m cu.g l) h)
    let good := cu.lanes.filter (fun l => if act.contains l then budgetOk m c0 i l else guardTraps i && taintTrap m cu.g l h)
    let bad := act.filter (fun l => !budgetOk m c0 i l && !cu.trapped.contains l)
    let c : Ctx := { c0 with lanes := good, lane := good.headD 0 }
    let m1 := bad.foldl (fun m l => failMember e m c0 l c0.pair (.cause cBUDGET 0 0 false 0)) m0
    let m2 := (act.filter (fun l => !budgetOk m c0 i l && cu.trapped.contains l)).foldl (fun m l => clearPsolo m cu.g l) m1
    let r :=
      if good.isEmpty then (m2, [])
      else if privileged i && !cu.hm then runOnce e c cu.trapped (fun _ _ m => trapOf m cPROT) m2
      else if once then runOnce e c cu.trapped body m2
      else good.foldl (runMember e c cu.trapped body) (m2, [])
    let stop := hasTrapped r.1 cu.g cu.lanes || diverged r.1 cu.g cu.lanes
    { endIssue e r.1 cu h.gap.toNat stop with cur := nextCur cu (bad ++ r.2) (pcAfter cu.pc 1) }

/-- Issue of a program instruction in a state. -/
def runI (i : Instr) (h : Hdr) (once : Bool) (body : Env → Ctx → Mach → BRes) (s : State) : Host.Outcome State Fault Refusal :=
  match s.m.cur with
  | none => .refused .noIssue
  | some cu => .next (s.withMach (issue i h once body s.env cu s.m))

end Sys2Proof.Machine
end

