-- ==== Sys2Proof/Machine/IntAlu.lean ====
section
/-! DEFINITION. Integer arithmetic, logic, conversions and moves (spec/07 R189 to R196). -/
namespace Sys2Proof.Machine
open Sys2Proof

/-- Reads three operands in order A, B, C, each in its type. -/
def read3 (e : Env) (m : Mach) (c : Ctx) (ta tb tc : NTy) (a b d : Opnd) : Mach × Nat × Nat × Nat :=
  let x := readOp e m c ta a
  let y := readOp e x.1 c tb b
  let z := readOp e y.1 c tc d
  (z.1, x.2, y.2, z.2)

/-- A register operand field that an instruction does not use reads v0 and is not looked at. -/
def intTy (h : Hdr) : NTy := (intTyOf (fnLo h)).getD .s32

/-- Wrap under variant 0, Sat under variant 1 (07 R189). -/
def fitInt (h : Hdr) (x : Int) : Nat := if fnHi h = 1 then satTo (intTy h) x else wrapTo (intTy h) x

/-- A fixed-latency integer instruction: `f` gives the result bits from the operand bits. -/
def intBody (h : Hdr) (o : FA) (n : Nat) (sh : Bool) (l32 l64 : Nat) (f : Nat → Nat → Nat → Nat) (e : Env) (c : Ctx) (m : Mach) : BRes :=
  let ty := intTy h
  let r := read3 e m c ty (if sh then .n32 else ty) ty o.sa (if n < 2 then .v 0 else o.sb) (if n < 3 then .v 0 else o.sc)
  landA e r.1 c h o ty (latOf ty l32 l64) (f r.2.1 r.2.2.1 r.2.2.2)

/-- The same, by the exact result over the integers. -/
def exactBody (h : Hdr) (o : FA) (n l32 l64 : Nat) (f : Int → Int → Int → Int) : Env → Ctx → Mach → BRes :=
  intBody h o n false l32 l64 (fun a b d => fitInt h (f (intVal (intTy h) a) (intVal (intTy h) b) (intVal (intTy h) d)))

def execAdd (h : Hdr) (o : FA) (s : State) := runI (.add h o) h (isS o.dst) (exactBody h o 2 1 2 (fun a b _ => a + b)) s
def execSub (h : Hdr) (o : FA) (s : State) := runI (.sub h o) h (isS o.dst) (exactBody h o 2 1 2 (fun a b _ => a - b)) s
def execMul (h : Hdr) (o : FA) (s : State) := runI (.mul h o) h (isS o.dst) (exactBody h o 2 4 6 (fun a b _ => a * b)) s
def execMulh (h : Hdr) (o : FA) (s : State) :=
  runI (.mulh h o) h (isS o.dst) (exactBody h o 2 4 6 (fun a b _ => (a * b) / (2 ^ tyBits (intTy h) : Nat))) s
def execMad (h : Hdr) (o : FA) (s : State) := runI (.mad h o) h (isS o.dst) (exactBody h o 3 4 6 (fun a b d => a * b + d)) s
def execNeg (h : Hdr) (o : FA) (s : State) := runI (.neg h o) h (isS o.dst) (exactBody h o 1 1 2 (fun a _ _ => -a)) s
def execAbs (h : Hdr) (o : FA) (s : State) := runI (.abs h o) h (isS o.dst) (exactBody h o 1 1 2 (fun a _ _ => if a < 0 then -a else a)) s
def execMin (h : Hdr) (o : FA) (s : State) := runI (.min h o) h (isS o.dst) (exactBody h o 2 1 2 (fun a b _ => if a ≤ b then a else b)) s
def execMax (h : Hdr) (o : FA) (s : State) := runI (.max h o) h (isS o.dst) (exactBody h o 2 1 2 (fun a b _ => if a ≤ b then b else a)) s

/-! Bitwise instructions give their w bits directly. -/

def execAnd (h : Hdr) (o : FA) (s : State) := runI (.and h o) h (isS o.dst) (intBody h o 2 false 1 2 (fun a b _ => a &&& b)) s
def execOr (h : Hdr) (o : FA) (s : State) := runI (.or h o) h (isS o.dst) (intBody h o 2 false 1 2 (fun a b _ => a ||| b)) s
def execXor (h : Hdr) (o : FA) (s : State) := runI (.xor h o) h (isS o.dst) (intBody h o 2 false 1 2 (fun a b _ => a ^^^ b)) s
def execNot (h : Hdr) (o : FA) (s : State) :=
  runI (.not h o) h (isS o.dst) (intBody h o 1 false 1 2 (fun a _ _ => 2 ^ tyBits (intTy h) - 1 - a)) s

/-- a × 2^b on w bits; 0 when b ≥ w. -/
def shlBits (w a b : Nat) : Nat := if w ≤ b then 0 else a * 2 ^ b % 2 ^ w
/-- The w bits of a shifted right by b, filled with zero. -/
def shrBits (w a b : Nat) : Nat := if w ≤ b then 0 else a / 2 ^ b
/-- The same filled with bit w − 1, by min(b, w − 1). -/
def sraBits (w a b : Nat) : Nat := lowBits w (signExt a w / (2 ^ (if b < w then b else w - 1) : Nat))
/-- Rotation left by b mod w. -/
def rotBits (w a b : Nat) : Nat := (a * 2 ^ (b % w) + a / 2 ^ (w - b % w)) % 2 ^ w

def execShl (h : Hdr) (o : FA) (s : State) := runI (.shl h o) h (isS o.dst) (intBody h o 2 true 1 2 (fun a b _ => shlBits (tyBits (intTy h)) a b)) s
def execShr (h : Hdr) (o : FA) (s : State) := runI (.shr h o) h (isS o.dst) (intBody h o 2 true 1 2 (fun a b _ => shrBits (tyBits (intTy h)) a b)) s
def execSra (h : Hdr) (o : FA) (s : State) := runI (.sra h o) h (isS o.dst) (intBody h o 2 true 1 2 (fun a b _ => sraBits (tyBits (intTy h)) a b)) s
def execRot (h : Hdr) (o : FA) (s : State) := runI (.rot h o) h (isS o.dst) (intBody h o 2 true 1 2 (fun a b _ => rotBits (tyBits (intTy h)) a b)) s
def execClz (h : Hdr) (o : FA) (s : State) := runI (.clz h o) h (isS o.dst) (intBody h o 1 false 2 3 (fun a _ _ => leadZeros (tyBits (intTy h)) a)) s
def execPopc (h : Hdr) (o : FA) (s : State) := runI (.popc h o) h (isS o.dst) (intBody h o 1 false 2 3 (fun a _ _ => popCount (tyBits (intTy h)) a)) s
def execBrev (h : Hdr) (o : FA) (s : State) := runI (.brev h o) h (isS o.dst) (intBody h o 1 false 2 3 (fun a _ _ => bitRev (tyBits (intTy h)) a)) s

/-! Bit fields (07 R191). -/

def fieldPos (o : FA) : Nat := o.imm.toNat % 128
def fieldLen (h : Hdr) (o : FA) : Nat := min (o.imm.toNat / 256 % 128) (tyBits (intTy h) - fieldPos o)

def bfxBits (h : Hdr) (o : FA) (a : Nat) : Nat :=
  let f := a / 2 ^ fieldPos o % 2 ^ fieldLen h o
  if tySigned (intTy h) then lowBits (tyBits (intTy h)) (signExt f (fieldLen h o)) else f

def bfiBits (h : Hdr) (o : FA) (a b : Nat) : Nat := putBits a (fieldPos o + fieldLen h o - 1) (fieldPos o) b

def execBfx (h : Hdr) (o : FA) (s : State) := runI (.bfx h o) h (isS o.dst) (intBody h o 1 false 2 3 (fun a _ _ => bfxBits h o a)) s
def execBfi (h : Hdr) (o : FA) (s : State) := runI (.bfi h o) h (isS o.dst) (intBody h o 2 false 2 3 (fun a b _ => bfiBits h o a b)) s

/-! Division (07 R190). -/

/-- Clock at which an operation of the iterative unit lands; members of one issue share it. -/
def unitDone (e : Env) (m : Mach) (c : Ctx) (lat : Nat) : Nat × Mach :=
  let k := schedKeyOf (grpOf m c.g)
  let sc := schedOf m k
  if sc.unitSn = c.sn then (sc.unitFree, m)
  else
    let t := max e.now sc.unitFree + lat
    (t, updSched m k (fun a => { a with unitFree := t, unitSn := c.sn }))

/-- A result of variable latency: no sooner than `tm`, later by a free delay (06 R182). -/
def landVar (m : Mach) (c : Ctx) (h : Hdr) (o : FA) (ty : NTy) (tm n : Nat) : BRes :=
  let f := nextFree m
  ok (land f.2 (tm + Config.delay f.1) (wrA c h o ty n) (tokA c o.dst))

def divBody (h : Hdr) (o : FA) (f : Int → Int → Int) (e : Env) (c : Ctx) (m : Mach) : BRes :=
  let ty := intTy h
  let r := read3 e m c ty ty ty o.sa o.sb (.v 0)
  let b := intVal ty r.2.2.1
  if b = 0 then trapOf r.1 cDIVZ
  else
    let u := unitDone e r.1 c (latOf ty 20 36)
    landVar u.2 c h o ty u.1 (fitInt h (f (intVal ty r.2.1) b))

def execDiv (h : Hdr) (o : FA) (s : State) := runI (.div h o) h (isS o.dst) (divBody h o Int.tdiv) s
def execRem (h : Hdr) (o : FA) (s : State) := runI (.rem h o) h (isS o.dst) (divBody h o (fun a b => a - b * Int.tdiv a b)) s

/-! Comparison, selection, address and carry (07 R192, R193). -/

/-- Lands a predicate with its taint at clock `tm`. -/
def landP (m : Mach) (c : Ctx) (tm : Nat) (dst : Opnd) (q : Bool × Bool) : BRes :=
  match dst with
  | .p n => ok (land m tm [.p c.g c.lane n.toNat q.1 q.2] c.tok)
  | _ => ok (land m tm [] c.tok)

def cmpBody (h : Hdr) (o : FA) (e : Env) (c : Ctx) (m : Mach) : BRes :=
  let ty := intTy h
  let r := read3 e m c ty ty ty o.sa o.sb (.v 0)
  landP r.1 c (e.now + 1) o.dst (combineP r.1 c (o.md.toNat % 4) o.sc (condInt (fnHi h) (intVal ty r.2.1) (intVal ty r.2.2.1)))

def execCmp (h : Hdr) (o : FA) (s : State) := runI (.cmp h o) h false (cmpBody h o) s

def selBody (h : Hdr) (o : FA) (e : Env) (c : Ctx) (m : Mach) : BRes :=
  let ty := intTy h
  let r := read3 e m c ty ty ty o.sa o.sb (.v 0)
  landA e r.1 c h o ty (latOf ty 1 2) (if (predSrc r.1 c o.sc).1 then r.2.1 else r.2.2.1)

def execSel (h : Hdr) (o : FA) (s : State) := runI (.sel h o) h (isS o.dst) (selBody h o) s

def execLea (h : Hdr) (o : FA) (s : State) :=
  runI (.lea h o) h (isS o.dst) (exactBody h o 2 1 2 (fun a b _ => a + b * (2 ^ (o.md.toNat % 8) : Nat) + signExt o.imm.toNat 16)) s

def addcBody (h : Hdr) (o : FA) (e : Env) (c : Ctx) (m : Mach) : BRes :=
  let ty := intTy h
  let r := read3 e m c ty ty ty o.sa o.sb (.v 0)
  let cin := carryIn r.1 c o.sc
  let sum := r.2.1 + r.2.2.1 + cin.1
  let m1 := if bitOf o.md.toNat 3 then
      land r.1 (e.now + 1) ((if isS o.dst then c.lanes else [c.lane]).map (fun l => RegWr.p c.g l (o.md.toNat % 8) (decide (2 ^ tyBits ty ≤ sum)) cin.2)) []
    else r.1
  landA e m1 c h o ty (latOf ty 1 2) (sum % 2 ^ tyBits ty)

def execAddc (h : Hdr) (o : FA) (s : State) := runI (.addc h o) h (isS o.dst) (addcBody h o) s

/-! Moves (07 R194, R195). -/

/-- The bits of IMM32 as `movi` writes them. -/
def moviBits (h : Hdr) (imm : BitVec 32) : Nat :=
  if intTy h == .s64 then lowBits 64 (signExt imm.toNat 32) else imm.toNat % 2 ^ tyBits (intTy h)

def moviBody (h : Hdr) (o : FI) (e : Env) (c : Ctx) (m : Mach) : BRes :=
  ok (land m (e.now + latOf (intTy h) 1 2) (wrReg c (intTy h) o.dst (moviBits h o.imm)) (tokA c o.dst))

def execMovi (h : Hdr) (o : FI) (s : State) := runI (.movi h o) h (isS o.dst) (moviBody h o) s

def movwBody (o : FW) (e : Env) (c : Ctx) (m : Mach) : BRes := ok (land m (e.now + 2) (wrReg c .n64 o.dst o.imm.toNat) (tokA c o.dst))

def execMovw (h : Hdr) (o : FW) (s : State) := runI (.movw h o) h (isS o.dst) (movwBody o) s

def movBody (h : Hdr) (o : FA) (e : Env) (c : Ctx) (m : Mach) : BRes :=
  let ty := intTy h
  match o.dst, o.sa with
  | .p _, .p k => landP m c (e.now + 1) o.dst (predV m c.g c.lane k.toNat, predT m c.g c.lane k.toNat)
  | .p _, a => let r := readOp e m c ty a; landP r.1 c (e.now + latOf ty 1 2) o.dst (r.2 != 0, false)
  | _, a => let r := readOp e m c ty a; landA e r.1 c h o ty (latOf ty 1 2) r.2

def execMov (h : Hdr) (o : FA) (s : State) := runI (.mov h o) h (isS o.dst) (movBody h o) s

/-! Conversion (07 R196). -/

def cvtBody (h : Hdr) (o : FA) (e : Env) (c : Ctx) (m : Mach) : BRes :=
  let d := (tyOfCode (fnLo h)).getD .s32
  let sT := (tyOfCode o.md.toNat).getD .s32
  let r := readOp e m c sT o.sa
  let mode := modeOf (fnHi h) (bitsOf (grpOf m c.g).mode.toNat 2 0)
  if tyFloat sT then
    if isPoison sT r.2 then
      if pcvOn m c.g then trapOf r.1 cPCONV else landA e r.1 c h o d 4 (if tySigned d then 2 ^ (tyBits d - 1) else 0)
    else landA e r.1 c h o d 4 (floatToInt sT d mode r.2)
  else
    let x := intVal sT r.2
    if tyFloat d then landA e r.1 c h o d 4 (roundDy d mode (decide (x < 0)) x.natAbs 0 false)
    else landA e r.1 c h o d 4 (if fnHi h = 1 then satTo d x else wrapTo d x)

def execCvt (h : Hdr) (o : FA) (s : State) := runI (.cvt h o) h (isS o.dst) (cvtBody h o) s

end Sys2Proof.Machine
end

