-- ==== Sys2Proof/Machine/FloatAlu.lean ====
section
/-! DEFINITION. Floating point (spec/07 R197 to R202). -/
namespace Sys2Proof.Machine
open Sys2Proof

def fltTy (h : Hdr) : NTy := (floatTyOf (fnLo h)).getD .f32

/-- Mode(FN) of a group (05 R129). -/
def modeFn (m : Mach) (g : Nat) (h : Hdr) : RMode := modeOf (fnHi h) (bitsOf (grpOf m g).mode.toNat 2 0)

/-- The first poison operand in order (05 R144), as the result: unchanged, or new INVALID poison when its quiet bit is clear (R141). -/
def carryPoison (e : Env) (m : Mach) (c : Ctx) (ty : NTy) (p : Nat) : Mach × Nat :=
  if quietBit ty p then (m, p) else poisonVal e m c.g c.lane c.pc 0 0 ty

/-- The result of a float operation: poison first, then INVALID, then the rounded value (07 R197). -/
def settleF (e : Env) (m : Mach) (c : Ctx) (ty : NTy) (srcs : List Nat) (v : Option Nat) : Mach × Nat :=
  match srcs.find? (isPoison ty) with
  | some p => carryPoison e m c ty p
  | none => match v with
    | some n => (m, n)
    | none => poisonVal e m c.g c.lane c.pc 0 0 ty

/-- The operands that an instruction of `n` sources uses. -/
def used (n a b d : Nat) : List Nat := [a, b, d].take n

/-- A rounding float instruction; `f` gives the rounded bits from the mode and the operand bits. -/
def fltBody (h : Hdr) (o : FA) (n l32 l64 : Nat) (f : RMode → Nat → Nat → Nat → Option Nat) (e : Env) (c : Ctx) (m : Mach) : BRes :=
  let ty := fltTy h
  let r := read3 e m c ty ty ty o.sa (if n < 2 then .v 0 else o.sb) (if n < 3 then .v 0 else o.sc)
  let v := settleF e r.1 c ty (used n r.2.1 r.2.2.1 r.2.2.2) (f (modeFn m c.g h) r.2.1 r.2.2.1 r.2.2.2)
  landA e v.1 c h o ty (latOf ty l32 l64) v.2

/-- The same by an exact value. -/
def fltExact (h : Hdr) (o : FA) (n l32 l64 : Nat) (f : RMode → XVal → XVal → XVal → XVal) : Env → Ctx → Mach → BRes :=
  let ty := fltTy h
  fltBody h o n l32 l64 (fun md a b d => roundX ty md (f md (decodeF ty a).exact (decodeF ty b).exact (decodeF ty d).exact))

def execFadd (h : Hdr) (o : FA) (s : State) := runI (.fadd h o) h (isS o.dst) (fltExact h o 2 4 8 (fun md a b _ => xAdd md a b)) s
def execFsub (h : Hdr) (o : FA) (s : State) := runI (.fsub h o) h (isS o.dst) (fltExact h o 2 4 8 (fun md a b _ => xAdd md a (xNeg b))) s
def execFmul (h : Hdr) (o : FA) (s : State) := runI (.fmul h o) h (isS o.dst) (fltExact h o 2 4 8 (fun _ a b _ => xMul a b)) s
def execFma (h : Hdr) (o : FA) (s : State) := runI (.fma h o) h (isS o.dst) (fltExact h o 3 4 8 (fun md a b d => xAdd md (xMul a b) d)) s
def execFrcp (h : Hdr) (o : FA) (s : State) := runI (.frcp h o) h (isS o.dst) (fltExact h o 1 12 24 (fun _ a _ _ => xDiv xOne a)) s
def execFrsq (h : Hdr) (o : FA) (s : State) := runI (.frsq h o) h (isS o.dst) (fltExact h o 1 12 24 (fun _ a _ _ => xRsqrt a)) s

def execFex2 (h : Hdr) (o : FA) (s : State) :=
  runI (.fex2 h o) h (isS o.dst) (fltBody h o 1 12 24 (fun md a _ _ => some (exp2Bits (fltTy h) md (decodeF (fltTy h) a)))) s

/-- log2: ±0 gives −∞, +∞ gives +∞, a negative operand is invalid (07 R198). -/
def flg2Bits (ty : NTy) (md : RMode) (a : Nat) : Option Nat :=
  match decodeF ty a with
  | .fin neg m ex => if m = 0 then some (infBits ty + signBit ty) else if neg then none else some (log2Bits ty md m ex)
  | .inf neg => if neg then none else some (infBits ty)
  | .nan _ _ _ => none

def execFlg2 (h : Hdr) (o : FA) (s : State) :=
  runI (.flg2 h o) h (isS o.dst) (fltBody h o 1 12 24 (fun md a _ _ => flg2Bits (fltTy h) md a)) s

/-- sin and cos of any finite value (07 R198). -/
def trigBits (ty : NTy) (md : RMode) (co : Bool) (a : Nat) : Option Nat :=
  match decodeF ty a with
  | .fin neg m ex => if m = 0 then some (if co then roundDy ty md false 1 0 false else a) else some (sinBits ty md co neg m ex)
  | _ => none

def execFsin (h : Hdr) (o : FA) (s : State) := runI (.fsin h o) h (isS o.dst) (fltBody h o 1 12 24 (fun md a _ _ => trigBits (fltTy h) md false a)) s
def execFcos (h : Hdr) (o : FA) (s : State) := runI (.fcos h o) h (isS o.dst) (fltBody h o 1 12 24 (fun md a _ _ => trigBits (fltTy h) md true a)) s

/-- a × 2^b; an exponent beyond ±20000 is beyond every format. -/
def fsclBody (h : Hdr) (o : FA) (e : Env) (c : Ctx) (m : Mach) : BRes :=
  let ty := fltTy h
  let r := read3 e m c ty .s32 ty o.sa o.sb (.v 0)
  let k := max (-20000) (min 20000 (signExt r.2.2.1 32))
  let v := settleF e r.1 c ty [r.2.1] (roundX ty (modeFn m c.g h) (xScale k (decodeF ty r.2.1).exact))
  landA e v.1 c h o ty (latOf ty 4 8) v.2

def execFscl (h : Hdr) (o : FA) (s : State) := runI (.fscl h o) h (isS o.dst) (fsclBody h o) s

/-! Division and square root use the iterative unit (07 R198). -/

def iterBody (h : Hdr) (o : FA) (n : Nat) (f : XVal → XVal → XVal) (e : Env) (c : Ctx) (m : Mach) : BRes :=
  let ty := fltTy h
  let r := read3 e m c ty ty ty o.sa (if n < 2 then .v 0 else o.sb) (.v 0)
  let v := settleF e r.1 c ty (used n r.2.1 r.2.2.1 0) (roundX ty (modeFn m c.g h) (f (decodeF ty r.2.1).exact (decodeF ty r.2.2.1).exact))
  let u := unitDone e v.1 c (match tyBits ty with | 64 => 28 | 32 => 14 | _ => 10)
  landVar u.2 c h o ty u.1 v.2

def execFdiv (h : Hdr) (o : FA) (s : State) := runI (.fdiv h o) h (isS o.dst) (iterBody h o 2 xDiv) s
def execFsqrt (h : Hdr) (o : FA) (s : State) := runI (.fsqrt h o) h (isS o.dst) (iterBody h o 1 (fun a _ => xSqrt a)) s

/-! Instructions that do not round. -/

/-- Smaller or larger under the order in which −0 lies below +0; the first poison unchanged (07 R199). -/
def fminBits (ty : NTy) (big : Bool) (a b : Nat) : Nat :=
  if isPoison ty a then a else if isPoison ty b then b
  else if big then (if orderKey ty a < orderKey ty b then b else a) else (if orderKey ty b < orderKey ty a then b else a)

def fclpBits (ty : NTy) (a b d : Nat) : Nat :=
  if isPoison ty a then a else if isPoison ty b then b else if isPoison ty d then d
  else if orderKey ty d < orderKey ty b then d else fminBits ty false (fminBits ty true a b) d

def plainF (h : Hdr) (o : FA) (n : Nat) (f : Nat → Nat → Nat → Nat) (e : Env) (c : Ctx) (m : Mach) : BRes :=
  let ty := fltTy h
  let r := read3 e m c ty ty ty o.sa (if n < 2 then .v 0 else o.sb) (if n < 3 then .v 0 else o.sc)
  landA e r.1 c h o ty 2 (f r.2.1 r.2.2.1 r.2.2.2)

def execFmin (h : Hdr) (o : FA) (s : State) := runI (.fmin h o) h (isS o.dst) (plainF h o 2 (fun a b _ => fminBits (fltTy h) false a b)) s
def execFmax (h : Hdr) (o : FA) (s : State) := runI (.fmax h o) h (isS o.dst) (plainF h o 2 (fun a b _ => fminBits (fltTy h) true a b)) s
def execFclp (h : Hdr) (o : FA) (s : State) := runI (.fclp h o) h (isS o.dst) (plainF h o 3 (fclpBits (fltTy h))) s

/-- The sign bit cleared or inverted; poison unchanged (05 R144). -/
def execFabs (h : Hdr) (o : FA) (s : State) :=
  runI (.fabs h o) h (isS o.dst) (plainF h o 1 (fun a _ _ => if isPoison (fltTy h) a then a else magBits (fltTy h) a)) s
def execFneg (h : Hdr) (o : FA) (s : State) :=
  runI (.fneg h o) h (isS o.dst) (plainF h o 1 (fun a _ _ => if isPoison (fltTy h) a then a else a ^^^ signBit (fltTy h))) s

/-- A poison operand writes false, tainted (07 R200). -/
def fcmpBody (h : Hdr) (o : FA) (e : Env) (c : Ctx) (m : Mach) : BRes :=
  let ty := fltTy h
  let r := read3 e m c ty ty ty o.sa o.sb (.v 0)
  if isPoison ty r.2.1 || isPoison ty r.2.2.1 then landP r.1 c (e.now + 2) o.dst (false, true)
  else landP r.1 c (e.now + 2) o.dst (combineP r.1 c (o.md.toNat / 8) o.sc
    (condOrd (o.md.toNat % 8) (xCmp (decodeF ty r.2.1).exact (decodeF ty r.2.2.1).exact)))

def execFcmp (h : Hdr) (o : FA) (s : State) := runI (.fcmp h o) h false (fcmpBody h o) s

/-- Class mask (07 R201). -/
def fclsMask (ty : NTy) (a : Nat) : Nat :=
  if isPoison ty a then 1
  else
    let sub := magBits ty a / 2 ^ manBits ty = 0
    let z := magBits ty a = 0
    let inf := magBits ty a = infBits ty
    if isNeg ty a then (if inf then 2 else if z then 16 else if sub then 8 else 4)
    else (if inf then 256 else if z then 32 else if sub then 64 else 128)

def fclsBody (h : Hdr) (o : FA) (e : Env) (c : Ctx) (m : Mach) : BRes :=
  let r := readOp e m c (fltTy h) o.sa
  landA e r.1 c h o .n32 2 (fclsMask (fltTy h) r.2)

def execFcls (h : Hdr) (o : FA) (s : State) := runI (.fcls h o) h (isS o.dst) (fclsBody h o) s

/-- A poison pattern converted to another format (05 R144), or new INVALID poison when its quiet bit is clear. -/
def convPoison (e : Env) (m : Mach) (c : Ctx) (src dst : NTy) (p : Nat) : Mach × Nat :=
  match decodeF src p with
  | .nan q k i => if q then (m, poisonBits dst k i) else poisonVal e m c.g c.lane c.pc 0 0 dst
  | _ => (m, p)

/-- Two-element dot product into f32 with one rounding (07 R201). -/
def fdot2Body (h : Hdr) (o : FA) (e : Env) (c : Ctx) (m : Mach) : BRes :=
  let ty := fltTy h
  let r := read3 e m c .s32 .s32 .f32 o.sa o.sb o.sc
  let el := [r.2.1 % 2 ^ 16, r.2.1 / 2 ^ 16, r.2.2.1 % 2 ^ 16, r.2.2.1 / 2 ^ 16]
  let x := fun i => (decodeF ty (lget el i 0)).exact
  let v : Mach × Nat :=
    match el.find? (isPoison ty) with
    | some p => convPoison e r.1 c ty .f32 p
    | none => settleF e r.1 c .f32 [r.2.2.2] (roundX .f32 (modeFn m c.g h)
        (xAdd (modeFn m c.g h) (xAdd (modeFn m c.g h) (xMul (x 0) (x 2)) (xMul (x 1) (x 3))) (decodeF .f32 r.2.2.2).exact))
  landA e v.1 c h o .f32 4 v.2

def execFdot2 (h : Hdr) (o : FA) (s : State) := runI (.fdot2 h o) h (isS o.dst) (fdot2Body h o) s

/-! Rounding to integral values and conversion between formats (07 R202). -/

def frndBits (ty : NTy) (md : RMode) (a : Nat) : Nat :=
  match decodeF ty a with
  | .fin neg m ex => if 0 ≤ ex ∨ m = 0 then a else roundDy ty md neg (roundAt md neg m ex false 0) 0 false
  | _ => a

def frndBody (h : Hdr) (o : FA) (e : Env) (c : Ctx) (m : Mach) : BRes :=
  let ty := fltTy h
  let r := readOp e m c ty o.sa
  let v := settleF e r.1 c ty [r.2] (some (frndBits ty (modeFn m c.g h) r.2))
  landA e v.1 c h o ty 4 v.2

def execFrnd (h : Hdr) (o : FA) (s : State) := runI (.frnd h o) h (isS o.dst) (frndBody h o) s

def fcvtBody (h : Hdr) (o : FA) (e : Env) (c : Ctx) (m : Mach) : BRes :=
  let d := fltTy h
  let sT := (floatTyOf o.md.toNat).getD .f32
  let r := readOp e m c sT o.sa
  let v : Mach × Nat := if isPoison sT r.2 then convPoison e r.1 c sT d r.2
    else (r.1, (roundX d (modeFn m c.g h) (decodeF sT r.2).exact).getD 0)
  landA e v.1 c h o d 4 v.2

def execFcvt (h : Hdr) (o : FA) (s : State) := runI (.fcvt h o) h (isS o.dst) (fcvtBody h o) s

end Sys2Proof.Machine
end

