-- ==== Sys2Proof/Machine/GraphOps.lean ====
section
/-! DEFINITION. Standing-graph tables: fields of table entries, node descriptors and blocks, and the error bound (spec/02 R47, R75, 05 R157, R158, 14 R350). -/
namespace Sys2Proof.Machine
open Sys2Proof

/-- The number that 64-bit words hold, first word lowest. -/
def wordsNat : List Nat → Nat
  | [] => 0
  | w :: r => w % 2 ^ 64 + 2 ^ 64 * wordsNat r

def goneGraph : Graph :=
  { part := 0, entry := [], nodes := [], desc := [], running := false, starting := false, stopping := false, accn := 0, ebnd := 0, seq := 0, drop := 0,
    wmark := 0, prov := none, sent := [0, 0, 0, 0], rcvd := [0, 0, 0, 0], disturbed := [false, false, false, false], blocks := [],
    pool := [0, 0, 0, 0, 0, 0, 0, 0], teams := [], probe := none, lastProbe := 0, prev := none, settled := false, due := none }

def graphOf (m : Mach) (g : Nat) : Graph := (tget m.graphs g).getD goneGraph
def updGraph (m : Mach) (g : Nat) (f : Graph → Graph) : Mach := { m with graphs := tupd m.graphs g f }

/-- Fields of a graph's table entry by bit position (14 R350). -/
def gfield (gr : Graph) (hi lo : Nat) : Nat := bitsOf (wordsNat gr.entry) hi lo
def gHome (gr : Graph) : Nat := gfield gr 209 208
def gElim (gr : Graph) : Nat := gfield gr 191 160
def gProbe (gr : Graph) : Nat := gfield gr 207 192
def gNodes (gr : Graph) : Nat := gfield gr 135 128 + 1

/-- Fields of a node descriptor by bit position (02 R47). -/
def nfield (gr : Graph) (n hi lo : Nat) : Nat := bitsOf (wordsNat (lget gr.nodes n [])) hi lo
def nThresh (gr : Graph) (n : Nat) : Nat := nfield gr n 319 288
def nTimer (gr : Graph) (n : Nat) : Nat := nfield gr n 255 240
def nBlk (gr : Graph) (n : Nat) : Nat := nfield gr n 239 228
def nDlim (gr : Graph) (n : Nat) : Nat := nfield gr n 227 220
def nAgel (gr : Graph) (n : Nat) : Nat := nfield gr n 219 215
def nSum (gr : Graph) (n : Nat) : Bool := bitOf (wordsNat (lget gr.nodes n [])) 214
def nFix (gr : Graph) (n : Nat) : Bool := bitOf (wordsNat (lget gr.nodes n [])) 213
def nLval (gr : Graph) (n : Nat) : Bool := bitOf (wordsNat (lget gr.nodes n [])) 212
def nNrb (gr : Graph) (n : Nat) : Bool := bitOf (wordsNat (lget gr.nodes n [])) 211
def nDies (gr : Graph) (n : Nat) : Nat := nfield gr n 210 207
def nRsz (gr : Graph) (n : Nat) : Nat := nfield gr n 206 203
def nQxe (gr : Graph) (n : Nat) : Bool := bitOf (wordsNat (lget gr.nodes n [])) 131
def nBudg (gr : Graph) (n : Nat) : Nat := nfield gr n 136 132

/-- Key of a block: node and block number. -/
def blkKey (node blk : Nat) : Nat := 4096 * node + blk

def goneBlock : Block :=
  { res := 0, raise := 0, pend := [], run := none, taken := 0, held := false, waiting := none, hres := none, active := false, ver := 0, timer := none,
    lapsed := false, readyAt := none, lastDisp := 0 }

def blockOf (gr : Graph) (k : Nat) : Block := (tget gr.blocks k).getD goneBlock
def updBlock (m : Mach) (g k : Nat) (f : Block → Block) : Mach :=
  updGraph m g (fun gr => { gr with blocks := tset gr.blocks k (f (blockOf gr k)) })

/-- Dies of a mask. -/
def maskDies (mask : Nat) : List Nat := (List.range 4).filter (bitOf mask)

/-- Home die of a block (02 R45). -/
def blockDie (gr : Graph) (node blk : Nat) : Nat :=
  let ds := maskDies (nDies gr node)
  lget ds (blk % max 1 ds.length) 0

/-- The node and block exist in the graph. -/
def inGraph (gr : Graph) (node blk : Nat) : Bool := decide (node < gNodes gr) && decide (blk ≤ nBlk gr node)

/-- Adds an amount to the graph's error bound, rounded up, unless it would rise above the limit (02 R75, 05 R158). -/
def ebndAdd (m : Mach) (g : Nat) (x : XVal) : Option Mach :=
  let gr := graphOf m g
  match roundX .f32 .rup (xAdd .rup (decodeF .f32 gr.ebnd.toNat).exact x) with
  | some n =>
    if xCmp (decodeF .f32 n).exact (decodeF .f32 (gElim gr)).exact == .gt then none
    else some (updGraph m g (fun a => { a with ebnd := BitVec.ofNat 32 n }))
  | none => none

/-- The graph that record instructions of a team act on (09 R286). -/
def teamGraph (m : Mach) (team : Nat) : Option Nat := (teamOf m team).graph

end Sys2Proof.Machine
end

