-- ==== Sys2Proof/Machine/NarrowAlu.lean ====
section
/-! DEFINITION. Narrow formats in registers (spec/07 R203 to R207). -/
namespace Sys2Proof.Machine
open Sys2Proof

def fmOf (m : Mach) (g k : Nat) : Word := lget (grpOf m g).fm k 0

/-- The format that a narrow instruction names, at its width class. -/
def narrowFmt (m : Mach) (c : Ctx) (h : Hdr) (o : FA) : Option NFmt := nfmtOf (fmOf m c.g (h.fn.toNat % 8)) (narrowW o)

/-- Number of a vector operand. -/
def vNo : Opnd → Nat
  | .v n => n.toNat
  | _ => 0

/-- A container in a quad of vector registers (07 R203). -/
def quadOf (m : Mach) (c : Ctx) (o : Opnd) : Nat := ofBytes ((List.range 4).flatMap (fun i => toBytes 4 (regV m c.g c.lane (vNo o + i))))

/-- Byte `k` of a register. -/
def byteOf (n k : Nat) : Nat := bitsOf n (8 * k + 7) (8 * k)

/-- Writes of a container to a quad. -/
def wrQuad (c : Ctx) (o : Opnd) (n : Nat) : List RegWr :=
  (List.range 4).map (fun i => RegWr.v c.g c.lane (vNo o + i) (BitVec.ofNat 32 (n / 2 ^ (32 * i))) c.sn)

def nsclBody (h : Hdr) (o : FA) (e : Env) (c : Ctx) (m : Mach) : BRes :=
  match narrowFmt m c h o with
  | none => trapOf m cFMT
  | some f =>
    let a := regV m c.g c.lane (vNo o.sa)
    let sb := if isPoison .f32 a then 0xFF else nScaleByte f (decodeF .f32 (magBits .f32 a)).exact
    let k := o.imm.toNat % 4
    landA e m c h o .n32 4 (putBits (regV m c.g c.lane (vNo o.dst)) (8 * k + 7) (8 * k) sb)

def execNscl (h : Hdr) (o : FA) (s : State) := runI (.nscl h o) h false (nsclBody h o) s

/-- A dispatch of a node with NRB (05 R157). -/
def nrbGraph (m : Mach) (g : Nat) : Option Nat :=
  match (grpOf m g).disp with
  | some d => if nNrb (graphOf m d.graph) d.node then some d.graph else none
  | none => none

/-- What the elements packed so far leave: the machine, the provenance of the first poison, the codes, and the exact sum of the rounding errors. -/
structure PackAcc where
  m : Mach
  prov : Option (Nat × Nat)
  codes : List Nat
  err : XVal

/-- Poison of a kind that the device generates for a block, unless the block is poisoned already (05 R145). -/
def packPoison (e : Env) (c : Ctx) (kind : Nat) (a : PackAcc) : PackAcc :=
  match a.prov with
  | some _ => a
  | none => let r := genPoison e a.m c.g c.lane c.pc kind 0; { a with m := r.1, prov := some (kind, r.2) }

/-- One element of `npck`: its code, and its provenance when it is poison (07 R205, 05 R134). -/
def packElem (e : Env) (c : Ctx) (f : NFmt) (md : RMode) (sc : Nat) (a : PackAcc) (x : Nat) : PackAcc :=
  match decodeF .f32 x with
  | .nan q kind ix =>
    let b := if q then { a with prov := some (a.prov.getD (kind, ix)) } else packPoison e c 0 a
    { b with codes := b.codes ++ [0] }
  | v =>
    match nSettle f md sc v.exact with
    | .overflow => let b := packPoison e c 6 a; { b with codes := b.codes ++ [0] }
    | .code n => { a with codes := a.codes ++ [n], err := xAdd .rne a.err (nError f sc n v.exact) }

/-- The rounding error of a conversion by a node with NRB goes to the graph's error bound; a bound that it would pass poisons the block (05 R157, R158). DEDUCED: the sum is exact, and the rounding of R157 is that of the addition of 02 R75 (entry 64 of the assumption log). -/
def packBound (e : Env) (c : Ctx) (a : PackAcc) : PackAcc :=
  match nrbGraph a.m c.g with
  | none => a
  | some g =>
    match ebndAdd a.m g a.err with
    | some m1 => { a with m := m1 }
    | none => packPoison e c 7 a

def npckBody (h : Hdr) (o : FA) (e : Env) (c : Ctx) (m : Mach) : BRes :=
  match narrowFmt m c h o with
  | none => trapOf m cFMT
  | some f =>
    let w := narrowW o
    let k := o.imm.toNat % 4
    let pos := o.imm.toNat / 4 % 64
    let cnt := o.imm.toNat / 256 % 64
    let kf := h.fn.toNat % 8
    let vs := regV m c.g c.lane (vNo o.sb)
    let sc := byteOf vs k
    if sc = 0xFF then ok (land m (e.now + 4) [] c.tok)
    else
      let old := if cnt = nPer w then 0 else quadOf m c o.dst
      let chk := if cnt = nPer w then ContCheck.good else contCheck old sc kf
      if chk = .mismatch then trapOf m cFMT
      else
        let st : Mach × Option (Nat × Nat) :=
          if chk = .memuc then let r := genPoison e m c.g c.lane c.pc 1 0; (r.1, some (1, r.2)) else (m, none)
        let xs := (List.range cnt).map (fun i => regV m c.g c.lane (vNo o.sa + i))
        let r := packBound e c (xs.foldl (packElem e c f (modeFn m c.g h) sc) { m := st.1, prov := st.2, codes := [], err := .dy false 0 0 false })
        let codes := (List.range (nPer w)).map (fun i => if pos ≤ i ∧ i < pos + cnt then lget r.codes (i - pos) 0 else contElem w old i)
        let elems := contJoin w codes + (if cnt = nPer w then 0 else old % 2 ^ 120 / 2 ^ (w * nPer w) * 2 ^ (w * nPer w))
        let q := match r.prov with
          | some (kind, ix) => contPoison elems kind ix
          | none => contSeal elems kf
        let scw := match r.prov with
          | some _ => [RegWr.v c.g c.lane (vNo o.sb) (BitVec.ofNat 32 (putBits vs (8 * k + 7) (8 * k) 0xFF)) c.sn]
          | none => []
        ok (land r.m (e.now + 4) ((if h.ws then [] else wrQuad c o.dst q ++ scw) ++ wrLatch c .n32 o.lt.toNat [c.lane] (q % 2 ^ 32)) c.tok)

def execNpck (h : Hdr) (o : FA) (s : State) := runI (.npck h o) h false (npckBody h o) s

/-- Writes of a range of results, the first of them to the latch as well. -/
def wrRange (c : Ctx) (h : Hdr) (o : FA) (xs : List Nat) : List RegWr :=
  (if h.ws then [] else xs.zipIdx.map (fun (x, i) => RegWr.v c.g c.lane (vNo o.dst + i) (BitVec.ofNat 32 x) c.sn))
    ++ wrLatch c .n32 o.lt.toNat [c.lane] (xs.headD 0)

def nunpBody (h : Hdr) (o : FA) (e : Env) (c : Ctx) (m : Mach) : BRes :=
  match narrowFmt m c h o with
  | none => trapOf m cFMT
  | some f =>
    let w := narrowW o
    let pos := o.imm.toNat / 4 % 64
    let cnt := o.imm.toNat / 256 % 64
    let sc := byteOf (regV m c.g c.lane (vNo o.sb)) (o.imm.toNat % 4)
    let q := quadOf m c o.sa
    match contCheck q sc (h.fn.toNat % 8) with
    | .poisoned kind ix => ok (land m (e.now + 4) (wrRange c h o (List.replicate cnt (poisonBits .f32 kind ix))) c.tok)
    | .mismatch => trapOf m cFMT
    | .memuc =>
      let r := poisonVal e m c.g c.lane c.pc 1 0 .f32
      ok (land r.1 (e.now + 4) (wrRange c h o (List.replicate cnt r.2)) c.tok)
    | .good =>
      let xs := (List.range cnt).map (fun i => (roundX .f32 (modeFn m c.g h) (nValue f sc (contElem w q (pos + i)))).getD 0)
      ok (land m (e.now + 4) (wrRange c h o xs) c.tok)

def execNunp (h : Hdr) (o : FA) (s : State) := runI (.nunp h o) h false (nunpBody h o) s

/-- Poison that a container yields, as f32 bits. -/
def contF32 (e : Env) (m : Mach) (c : Ctx) (k : ContCheck) : Option (Mach × Nat) :=
  match k with
  | .poisoned kind ix => some (m, poisonBits .f32 kind ix)
  | .memuc => some (poisonVal e m c.g c.lane c.pc 1 0 .f32)
  | _ => none

/-- The exact dot product of two containers with their scales (07 R207). -/
def contDot (f : NFmt) (w ca cb qa qb : Nat) : XVal :=
  (List.range (nPer w)).foldl (fun s i => xAdd .rne s (xMul (nValue f ca (contElem w qa i)) (nValue f cb (contElem w qb i)))) (.dy false 0 0 false)

def ndotBody (h : Hdr) (o : FA) (e : Env) (c : Ctx) (m : Mach) : BRes :=
  match narrowFmt m c h o with
  | none => trapOf m cFMT
  | some f =>
    let w := narrowW o
    let vs := regV m c.g c.lane (vNo o.sc)
    let ca := byteOf vs (o.imm.toNat % 4)
    let cb := byteOf vs (o.imm.toNat / 4 % 4)
    let qa := quadOf m c o.sa
    let qb := quadOf m c o.sb
    let ka := contCheck qa ca (h.fn.toNat % 8)
    let kb := contCheck qb cb (h.fn.toNat % 8)
    let acc := regV m c.g c.lane (vNo o.dst)
    if ka = .mismatch ∨ kb = .mismatch then trapOf m cFMT
    else
      let v : Mach × Nat := match contF32 e m c ka with
        | some r => r
        | none => match contF32 e m c kb with
          | some r => r
          | none => settleF e m c .f32 [acc] (roundX .f32 (modeFn m c.g h) (xAdd (modeFn m c.g h) (decodeF .f32 acc).exact (contDot f w ca cb qa qb)))
      landA e v.1 c h o .n32 6 v.2

def execNdot (h : Hdr) (o : FA) (s : State) := runI (.ndot h o) h false (ndotBody h o) s

end Sys2Proof.Machine
end

