-- ==== Sys2Proof/Machine/PoisonOps.lean ====
section
/-! DEFINITION. Poison instructions (spec/07 R208 to R211). -/
namespace Sys2Proof.Machine
open Sys2Proof

/-- `pchk`: never tainted (07 R208). -/
def pchkBody (h : Hdr) (o : FA) (e : Env) (c : Ctx) (m : Mach) : BRes :=
  let r := readOp e m c (fltTy h) o.sa
  landP r.1 c (e.now + 2) o.dst (isPoison (fltTy h) r.2, false)

def execPchk (h : Hdr) (o : FA) (s : State) := runI (.pchk h o) h false (pchkBody h o) s

/-- Provenance word: bit 31, kind and index as carried (07 R208). -/
def provWord (ty : NTy) (n : Nat) : Nat :=
  match decodeF ty n with
  | .nan _ k i => 2 ^ 31 + k * 2 ^ 18 + i
  | _ => 0

def pchkProvBody (h : Hdr) (o : FA) (e : Env) (c : Ctx) (m : Mach) : BRes :=
  let r := readOp e m c (fltTy h) o.sa
  landA e r.1 c h o .n32 2 (provWord (fltTy h) r.2)

def execPchkProv (h : Hdr) (o : FA) (s : State) := runI (.pchkProv h o) h (isS o.dst) (pchkProvBody h o) s

def pmrkBody (h : Hdr) (o : FA) (e : Env) (c : Ctx) (m : Mach) : BRes :=
  let r := poisonVal e m c.g c.lane c.pc 4 0 (fltTy h)
  landA e r.1 c h o (fltTy h) 2 r.2

def execPmrk (h : Hdr) (o : FA) (s : State) := runI (.pmrk h o) h (isS o.dst) (pmrkBody h o) s

def pfixBody (h : Hdr) (o : FA) (e : Env) (c : Ctx) (m : Mach) : BRes :=
  let ty := fltTy h
  let r := read3 e m c ty ty ty o.sa o.sb (.v 0)
  landA e r.1 c h o ty 2 (if isPoison ty r.2.1 then r.2.2.1 else r.2.1)

def execPfix (h : Hdr) (o : FA) (s : State) := runI (.pfix h o) h (isS o.dst) (pfixBody h o) s

/-- Where the first word of a format-A result goes besides its destination. -/
def latchA (c : Ctx) (o : FA) : Latch := { lt := o.lt.toNat, run := c.run, lanes := if isS o.dst then c.lanes else [c.lane] }

/-- Sends a message of the acting member, its order at a scope (04 R109). -/
def sendOwn (e : Env) (m : Mach) (c : Ctx) (scope dst : Nat) (acq rel wr : Bool) (op : Nat) (b : Body) : Mach :=
  send e m c.core dst false (some c.ref) [c.lane] scope acq rel wr op b

/-- The same at device scope. -/
def sendThr (e : Env) (m : Mach) (c : Ctx) (dst : Nat) (acq rel wr : Bool) (op : Nat) (b : Body) : Mach := sendOwn e m c 3 dst acq rel wr op b

/-- Sends a message of the whole set, its order at a scope (04 R109, 06 R174). -/
def sendSet (e : Env) (m : Mach) (c : Ctx) (scope dst : Nat) (acq rel wr : Bool) (op : Nat) (b : Body) : Mach :=
  send e m c.core dst false (some c.ref) c.lanes scope acq rel wr op b

/-- Sends the message of a format-M access, its order at the scope that the instruction names: of the acting member, or of the set when a scalar register receives the result (04 R110, 06 R174). -/
def sendM (e : Env) (m : Mach) (c : Ctx) (o : FM) (dst : Nat) (acq rel wr : Bool) (op : Nat) (b : Body) : Mach :=
  send e m c.core dst false (some c.ref) (if isS o.d then c.lanes else [c.lane]) o.scope.toNat acq rel wr op b

/-- Writes of 32-bit words to consecutive registers from an operand. -/
def wrWords (c : Ctx) (dst : Opnd) (xs : List Nat) : List RegWr :=
  xs.zipIdx.map (fun (x, i) => match dst with
    | .s n => RegWr.s c.g (n.toNat + i) (BitVec.ofNat 32 x)
    | d => RegWr.v c.g c.lane (vNo d + i) (BitVec.ofNat 32 x) c.sn)

/-- `plog`: eight words of the team's log (07 R211). -/
def plogBody (h : Hdr) (o : FA) (e : Env) (c : Ctx) (m : Mach) : BRes :=
  let r := readOp e m c .n32 o.sa
  let base := (teamOf m c.team).polb
  if base = 0 then ok (land r.1 (e.now + 2) ((if h.ws then [] else wrWords c o.dst (List.replicate 8 0)) ++ wrLatch c .n32 o.lt.toNat (if isS o.dst then c.lanes else [c.lane]) 0) (tokA c o.dst))
  else match checkAddr e r.1 c ((base + 32 * (r.2 % 4096) : Nat) : Int) 32 32 0 false with
    | .ok sa =>
      let p := openOp r.1 1 (e.now + 2) (tokA c o.dst)
      ok (send e p.2 c.core (homeOf sa) false (some c.ref) (if isS o.dst then c.lanes else [c.lane]) 3 false false false p.1 (.plogRead sa (if h.ws then .t 0 else o.dst) (some (latchA c o)) c.pc (base + 32 * (r.2 % 4096))))
    | .stop out => { m := r.1, out := out }
    | _ => trapAt r.1 cPROT (base + 32 * (r.2 % 4096))

def execPlog (h : Hdr) (o : FA) (s : State) := runI (.plog h o) h (isS o.dst) (plogBody h o) s

end Sys2Proof.Machine
end

