-- ==== Sys2Proof/Machine/CrossLane.lean ====
section
/-! DEFINITION. Cross-lane instructions (spec/07 R212 to R216, 05 R139). They act on the contributing members together. -/
namespace Sys2Proof.Machine
open Sys2Proof

def Ctx.at (c : Ctx) (lane : Nat) : Ctx := { c with lane := lane }

/-- Reads an operand for every contributing member, in lane order. -/
def readLanes (e : Env) (c : Ctx) (ty : NTy) (o : Opnd) (m : Mach) : Mach × List (Nat × Nat) :=
  c.lanes.foldl (fun acc l => let r := readOp e acc.1 (c.at l) ty o; (r.1, acc.2 ++ [(l, r.2)])) (m, [])

/-- The value of a lane, when it contributes. -/
def laneVal (xs : List (Nat × Nat)) (l : Nat) : Option Nat := xs.lookup l

/-- Lands one value per member. -/
def landLanes (e : Env) (m : Mach) (c : Ctx) (h : Hdr) (o : FA) (ty : NTy) (lat : Nat) (f : Nat → Nat) (more : List RegWr) : BRes :=
  ok (land m (e.now + lat) (c.lanes.flatMap (fun l => wrA (c.at l) h o ty (f l)) ++ more) c.toks)

/-- Validity predicate of IMM16 for a member (07 R213). -/
def wrValid (c : Ctx) (imm : BitVec 16) (l : Nat) (b : Bool) : List RegWr :=
  if bitOf imm.toNat 3 then [.p c.g l (imm.toNat % 8) b false] else []

/-- Source lane of `shfl` by mode (07 R213); none for a lane below 0. -/
def shflLane (mode j b : Nat) : Option Nat :=
  match mode with
  | 0 => some b
  | 1 => if b ≤ j then some (j - b) else none
  | 2 => some (j + b)
  | _ => some (j ^^^ b)

def shflBody (h : Hdr) (o : FA) (e : Env) (c : Ctx) (m : Mach) : BRes :=
  let ty := (laneTy h).getD .s32
  let a := readLanes e c ty o.sa m
  let b := readLanes e c .n32 o.sb a.1
  let src := fun l => (shflLane (fnHi h) l ((laneVal b.2 l).getD 0)).bind (fun k => laneVal a.2 k)
  landLanes e b.1 c h o ty (latOf ty 6 8) (fun l => (src l).getD 0) (c.lanes.flatMap (fun l => wrValid c o.imm l (src l).isSome))

def execShfl (h : Hdr) (o : FA) (s : State) := runI (.shfl h o) h true (shflBody h o) s

/-- Number with bit j set for each lane j of a list. -/
def laneMask (ls : List Nat) : Nat := ls.foldl (fun a l => a + 2 ^ l) 0

def voteBody (h : Hdr) (o : FA) (e : Env) (c : Ctx) (m : Mach) : BRes :=
  let ps := c.lanes.map (fun l => predSrc m (c.at l) o.sa)
  let on := c.lanes.filter (fun l => (predSrc m (c.at l) o.sa).1)
  if fnHi h = 3 then
    if isS o.dst then landA e m c h o .n32 2 (laneMask on) else landLanes e m c h o .n32 2 (fun _ => laneMask on) []
  else
    let q := match fnHi h with
      | 0 => ps.all (·.1)
      | 1 => ps.any (·.1)
      | _ => ps.all (·.1) || ps.all (fun p => !p.1)
    let t := ps.any (·.2)
    match o.dst with
    | .p n => ok (land m (e.now + 2) (c.lanes.map (fun l => RegWr.p c.g l n.toNat q t)) c.toks)
    | _ => ok (land m (e.now + 2) [] c.toks)

def execVote (h : Hdr) (o : FA) (s : State) := runI (.vote h o) h true (voteBody h o) s

def blotBody (h : Hdr) (o : FA) (e : Env) (c : Ctx) (m : Mach) : BRes :=
  let on := c.lanes.filter (fun l => (predSrc m (c.at l) o.sa).1)
  landLanes e m c h o .n32 4 (fun l => (on.filter (fun k => decide (k < l))).length) []

def execBlot (h : Hdr) (o : FA) (s : State) := runI (.blot h o) h true (blotBody h o) s

/-! Reductions. -/

/-- Identity of an operation (05 R139). -/
def redIdentity (ty : NTy) (op : Nat) : Nat :=
  match op with
  | 1 => if tyFloat ty then infBits ty else wrapTo ty (tyMax ty)
  | 2 => if tyFloat ty then infBits ty + signBit ty else wrapTo ty (tyMin ty)
  | 3 => 2 ^ tyBits ty - 1
  | _ => 0

/-- An integer operation on bits: add, min, max, and, or, xor by code. -/
def intOp (ty : NTy) (op a b : Nat) : Nat :=
  match op with
  | 0 => wrapTo ty (intVal ty a + intVal ty b)
  | 1 => if intVal ty a ≤ intVal ty b then a else b
  | 2 => if intVal ty a ≤ intVal ty b then b else a
  | 3 => a &&& b
  | 4 => a ||| b
  | _ => a ^^^ b

/-- One step of a reduction for lane `l` (05 R139, 07 R215). -/
def redStep (e : Env) (c : Ctx) (ty : NTy) (op : Nat) (md : RMode) (l : Nat) (m : Mach) (a b : Nat) : Mach × Nat :=
  if tyFloat ty then
    if op = 0 then settleF e m (c.at l) ty [a, b] (roundX ty md (xAdd md (decodeF ty a).exact (decodeF ty b).exact))
    else (m, fminBits ty (op == 2) a b)
  else (m, intOp ty op a b)

/-- Steps (lane written, first operand, second operand) of `redx`, in order (05 R139). -/
def redSteps : List (Nat × Nat × Nat) :=
  [1, 2, 4, 8, 16].flatMap (fun d => (List.range (32 / (2 * d))).map (fun i => (2 * d * i, 2 * d * i, 2 * d * i + d)))

/-- Steps of `scan`. -/
def scanSteps : List (Nat × Nat × Nat) :=
  [1, 2, 4, 8, 16].flatMap (fun d => (List.range (32 - d)).map (fun i => (31 - i, 31 - i - d, 31 - i)))

def reduceLanes (e : Env) (c : Ctx) (ty : NTy) (op : Nat) (md : RMode) (steps : List (Nat × Nat × Nat)) (m : Mach) (xs : List (Nat × Nat)) : Mach × List Nat :=
  let v0 := (List.range 32).map (fun l => (laneVal xs l).getD (redIdentity ty op))
  steps.foldl (fun acc (j, a, b) =>
    let r := redStep e c ty op md j acc.1 (lget acc.2 a 0) (lget acc.2 b 0)
    (r.1, setAt acc.2 j r.2)) (m, v0)

def redTy (h : Hdr) : NTy := (tyOfCode (fnLo h)).getD .s32
def redMode (m : Mach) (c : Ctx) (o : FA) : RMode := modeOf (o.md.toNat % 16) (bitsOf (grpOf m c.g).mode.toNat 2 0)

def redxBody (h : Hdr) (o : FA) (e : Env) (c : Ctx) (m : Mach) : BRes :=
  let ty := redTy h
  let a := readLanes e c ty o.sa m
  let r := reduceLanes e c ty (fnHi h) (redMode m c o) redSteps a.1 a.2
  landLanes e r.1 c h o ty (latOf ty 10 12) (fun _ => r.2.headD 0) []

def execRedx (h : Hdr) (o : FA) (s : State) := runI (.redx h o) h true (redxBody h o) s

def scanBody (h : Hdr) (o : FA) (e : Env) (c : Ctx) (m : Mach) : BRes :=
  let ty := redTy h
  let a := readLanes e c ty o.sa m
  let r := reduceLanes e c ty (fnHi h) (redMode m c o) scanSteps a.1 a.2
  landLanes e r.1 c h o ty (latOf ty 12 14)
    (fun l => if bitOf o.md.toNat 4 then (if l = 0 then redIdentity ty (fnHi h) else lget r.2 (l - 1) 0) else lget r.2 l 0) []

def execScan (h : Hdr) (o : FA) (s : State) := runI (.scan h o) h true (scanBody h o) s

def sredBody (h : Hdr) (o : FA) (e : Env) (c : Ctx) (m : Mach) : BRes :=
  let ty := redTy h
  let a := readLanes e c ty o.sa m
  let r := reduceLanes e c ty (fnHi h) (redMode m c o) redSteps a.1 a.2
  landA e r.1 c h o ty (latOf ty 10 12) (r.2.headD 0)

def execSred (h : Hdr) (o : FA) (s : State) := runI (.sred h o) h true (sredBody h o) s

/-! Lane reads, writes and matches (07 R216). -/

def rdlBody (h : Hdr) (o : FA) (e : Env) (c : Ctx) (m : Mach) : BRes :=
  let ty := (laneTy h).getD .s32
  let a := readLanes e c ty o.sa m
  let b := readOp e a.1 c .n32 o.sb
  let v := laneVal a.2 b.2
  ok (land b.1 (e.now + latOf ty 4 6) (wrA c h o ty (v.getD 0) ++ c.lanes.flatMap (fun l => wrValid c o.imm l v.isSome)) c.toks)

def execRdl (h : Hdr) (o : FA) (s : State) := runI (.rdl h o) h true (rdlBody h o) s

def wrlBody (h : Hdr) (o : FA) (e : Env) (c : Ctx) (m : Mach) : BRes :=
  let ty := (laneTy h).getD .s32
  let a := readOp e m c ty o.sa
  let b := readOp e a.1 c .n32 o.sb
  ok (land b.1 (e.now + latOf ty 4 6) (if c.lanes.contains b.2 then wrA (c.at b.2) h o ty a.2 else []) c.toks)

def execWrl (h : Hdr) (o : FA) (s : State) := runI (.wrl h o) h true (wrlBody h o) s

def mtchBody (h : Hdr) (o : FA) (e : Env) (c : Ctx) (m : Mach) : BRes :=
  let ty := (laneTy h).getD .s32
  let a := readLanes e c ty o.sa m
  landLanes e a.1 c h o .n32 (latOf ty 8 10) (fun l => laneMask ((a.2.filter (fun p => some p.2 == laneVal a.2 l)).map (·.1))) []

def execMtch (h : Hdr) (o : FA) (s : State) := runI (.mtch h o) h true (mtchBody h o) s

end Sys2Proof.Machine
end

