-- ==== Sys2Proof/Machine/CtlRegs.lean ====
section
/-! DEFINITION. Control and identity registers (spec/07 R217 to R220). -/
namespace Sys2Proof.Machine
open Sys2Proof

/-- Reads a control register (07 R217). -/
def readCreg (m : Mach) (c : Ctx) (i : Nat) : Word :=
  let gr := grpOf m c.g
  if i = 0 then gr.mode else if i = 1 then gr.pctl
  else if i < 0x10 then lget gr.fm (i - 8) 0
  else if i < 0x20 then shapeOf m c.core (i - 0x10)
  else if i = 0x20 then gr.cause
  else if i = 0x21 then BitVec.ofNat 32 (teamOf m c.team).polb
  else BitVec.ofNat 32 ((teamOf m c.team).polb % 2 ^ 56 / 2 ^ 32)

def getcBody (h : Hdr) (o : FA) (e : Env) (c : Ctx) (m : Mach) : BRes := landA e m c h o .n32 2 (readCreg m c o.imm.toNat).toNat

def execGetc (h : Hdr) (o : FA) (s : State) := runI (.getc h o) h (isS o.dst) (getcBody h o) s

/-- A shape that `setc` refuses (07 R218). -/
def tcBad (w : Word) : Bool := decide (5 ≤ tcEw w) || decide (16384 < tcRows w * tcCols w * ewBytes (tcEw w))

def setcBody (o : FA) (e : Env) (c : Ctx) (m : Mach) : BRes :=
  let i := o.imm.toNat
  let r := readOp e m c .n32 o.sa
  let w : Word := BitVec.ofNat 32 r.2
  if i = 0 then
    if 5 ≤ r.2 % 8 then trapOf r.1 cFMT else ok (land r.1 (e.now + 2) [.creg c.g 0 (w &&& 0xEFF0FF07)] c.tok)
  else if i = 1 then ok (land r.1 (e.now + 2) [.creg c.g 1 (w &&& 7)] c.tok)
  else if i < 0x10 then ok (land r.1 (e.now + 2) [.creg c.g i (w &&& 0x0003FF7F)] c.tok)
  else if tcBad w then trapOf r.1 cFMT
  else if !tileHeld r.1 c.team (i - 0x10) then trapOf r.1 cPROT
  else ok (land r.1 (e.now + 2) [.tc c.core (i - 0x10) (w &&& 0x000FFF3F)] c.tok)

def execSetc (h : Hdr) (o : FA) (s : State) := runI (.setc h o) h false (setcBody o) s

/-- Standing teams of a graph (02 R50). -/
def standingTeams (m : Mach) (g : Option Nat) : List Team := (m.teams.filter (fun (_, t) => t.standing && !t.gone && g.isSome && t.graph == g)).map (·.2)

/-- Number of standing teams of a graph, or of teams of a grid (07 R219). -/
def teamsAround (m : Mach) (t : Team) : Nat :=
  match t.grid with
  | some g => ((tget m.grids g).map (·.nteam)).getD 0
  | none => (standingTeams m t.graph).length

/-- Index of a team in its grid, of a standing team among those of its graph by shelf mark (07 R219). -/
def teamIx (m : Mach) (t : Team) : Nat :=
  if t.standing then (standingTeams m t.graph).countP (fun u => decide ((u.marks.headD (0, 0)).1 < (t.marks.headD (0, 0)).1)) else t.tix

/-- Identity values by item (07 R219). -/
def idVal (e : Env) (m : Mach) (c : Ctx) (item : Nat) : Nat :=
  let gr := grpOf m c.g
  let t := teamOf m c.team
  match item with
  | 0 => c.lane
  | 1 => 32 * gr.gteam + c.lane
  | 2 => (thrOf m c.g c.lane).v.length
  | 3 => gr.gi / 24
  | 4 => gr.gi % 24
  | 5 => gr.gi
  | 6 => gr.gteam
  | 7 => gr.role
  | 8 => teamIx m t
  | 9 => markOf e.sys t.part gr.core
  | 10 => t.ngrp
  | 11 => teamsAround m t
  | _ => t.spoff

def getidBody (h : Hdr) (o : FA) (e : Env) (c : Ctx) (m : Mach) : BRes := landA e m c h o .n32 2 (idVal e m c o.imm.toNat)

def execGetid (h : Hdr) (o : FA) (s : State) := runI (.getid h o) h (isS o.dst) (getidBody h o) s

/-- Counters (07 R220). -/
def clkBody (h : Hdr) (o : FA) (e : Env) (c : Ctx) (m : Mach) : BRes :=
  match o.imm.toNat with
  | 0 => landA e m c h o .n64 2 (e.now % 2 ^ 64)
  | 1 => landA e m c h o .n64 2 (e.clk.pcnt % 2 ^ 64)
  | _ => landA e m c h o .n32 2 (grpOf m c.g).icnt.toNat

def execClk (h : Hdr) (o : FA) (s : State) := runI (.clk h o) h (isS o.dst) (clkBody h o) s

end Sys2Proof.Machine
end

