-- ==== Sys2Proof/Machine/Fetch.lean ====
section
/-! DEFINITION. Fetch lines: well-formedness, the code cache, fetch and decoding (spec/06 R160 to R164, R180 rows 1 to 4). -/
namespace Sys2Proof.Machine
open Sys2Proof

def lineSlot (l i : Nat) : Nat := l / 2 ^ (32 + 96 * i) % 2 ^ 96
def slotOp (s : Nat) : Nat := s / 2 ^ 88 % 256
def lineCont (l i : Nat) : Bool := i != 0 && bitOf l (19 + i)
def linePair (l i : Nat) : Bool := i != 0 && bitOf l (15 + i)

/-- Starts of instructions with their lengths, scanning from slot `i`; none when CONT or the end of the line does not fit (06 R164 rules 2 and 3). -/
def scanLine (l : Nat) : Nat → Nat → Option (List (Nat × Nat))
  | 0, _ => some []
  | f + 1, i =>
    if 5 ≤ i then some []
    else
      let n := slotsOf (slotOp (lineSlot l i))
      if lineCont l i || decide (5 < i + n) || !(List.range (n - 1)).all (fun k => lineCont l (i + 1 + k)) then none
      else (scanLine l f (i + n)).map (fun r => (i, n) :: r)

/-- Slots from `i` on, as the decoder takes them. -/
def slotsFrom (l i : Nat) : List Nat := (List.range (5 - i)).map (fun k => lineSlot l (i + k))

def instrAt (l i : Nat) : Option Instr :=
  match decode (slotsFrom l i) with
  | .ok x => some x
  | .error _ => none

/-- A range of registers, each as an operand. -/
def regRange (o : Opnd) (k : Nat) : List Opnd :=
  match o with
  | .v n => (List.range k).map (fun i => Opnd.v (BitVec.ofNat 8 (n.toNat + i)))
  | .s n => (List.range k).map (fun i => Opnd.s (BitVec.ofNat 8 (n.toNat + i)))
  | o => [o]

/-- A validity predicate named in IMM16 (07 R213). -/
def validDst (imm : BitVec 16) : List Opnd := if bitOf imm.toNat 3 then [.p (BitVec.ofNat 3 imm.toNat)] else []

/-- Destinations of an instruction of port X or M (06 R164 rule 6). -/
def destsOf : Instr → List Opnd
  | .setc _ _ => []
  | .cmp _ o | .fcmp _ o | .pchk _ o => [o.dst]
  | .npck _ o => regRange o.dst 4 ++ [o.sb]
  | .nunp _ o => regRange o.dst (o.imm.toNat / 256 % 64)
  | .plog _ o => regRange o.dst 8
  | .addc h o => regRange o.dst (wOf (intTyOf (fnLo h))) ++ (if bitOf o.md.toNat 3 then [.p (BitVec.ofNat 3 o.md.toNat)] else [])
  | .shfl h o | .rdl h o => regRange o.dst (wOf (laneTy h)) ++ validDst o.imm
  | .wrl h o => regRange o.dst (wOf (laneTy h))
  | .redx h o | .scan h o | .sred h o | .cvt h o => regRange o.dst (wOf (tyOfCode (fnLo h)))
  | .add h o | .sub h o | .mul h o | .mulh h o | .mad h o | .div h o | .rem h o | .neg h o | .abs h o | .min h o | .max h o | .and h o
  | .or h o | .xor h o | .not h o | .shl h o | .shr h o | .sra h o | .rot h o | .clz h o | .popc h o | .brev h o | .bfx h o | .bfi h o
  | .sel h o | .lea h o | .mov h o => regRange o.dst (wOf (intTyOf (fnLo h)))
  | .movi h o => regRange o.dst (wOf (intTyOf (fnLo h)))
  | .fadd h o | .fsub h o | .fmul h o | .fma h o | .fmin h o | .fmax h o | .fabs h o | .fneg h o | .fdiv h o | .fsqrt h o | .frcp h o
  | .frsq h o | .fex2 h o | .flg2 h o | .fsin h o | .fcos h o | .frnd h o | .fscl h o | .fclp h o | .fcvt h o | .pmrk h o | .pfix h o =>
      regRange o.dst (wOf (floatTyOf (fnLo h)))
  | .fcls _ o | .fdot2 _ o | .nscl _ o | .ndot _ o | .pchkProv _ o | .vote _ o | .blot _ o | .mtch _ o | .getc _ o | .getid _ o => [o.dst]
  | .clk _ o => regRange o.dst (if o.imm.toNat < 2 then 2 else 1)
  | .ld _ o | .ldv _ o => regRange o.d (widthRegs o.width.toNat)
  | .ldt _ o => [o.d]
  | .atom h o => regRange o.d (wOf (atomTy (fnLo h)))
  | .cas h o => regRange o.d (if h.fn == 7 then 2 else 1)
  | .mwt _ o => [o.dst]
  | _ => []

/-- A slot with every operand field of no meaning replaced by a constant, so that its destination can be read: what a refused instruction names counts too (06 R164 rule 6). -/
def mendSlot (s : Nat) : Nat :=
  let flds := match fmtOf (slotOp s) with | some .a => [54, 44, 34, 24] | _ => [54, 44, 34]
  let s1 := flds.foldl (fun s k => if (opndOfBits (bitsOf s (k + 9) k)).isNone then putBits s (k + 9) k 768 else s) s
  if fmtOf (slotOp s) == some .i then putBits s1 33 32 0 else s1

/-- Destinations that a one-slot instruction names, be it legal or not. -/
def destsAt (s : Nat) : List Opnd :=
  match hdrOf s with
  | some (h, op) => (match parseSlots op h (mendSlot s) 0 0 with | .ok i => destsOf i | .error _ => [])
  | none => []

def portX (op : Nat) : Bool := decide (op ≤ 0x63)
def portM (op : Nat) : Bool := decide (0x80 ≤ op) && decide (op ≤ 0x90)

/-- One pair is made of two one-slot instructions of ports X and M with different destinations (06 R164 rules 4 to 6). -/
def pairOk (l i : Nat) (st : List (Nat × Nat)) : Bool :=
  st.contains (i, 1) && st.contains (i - 1, 1) && !linePair l (i - 1)
    && ((portX (slotOp (lineSlot l i)) && portM (slotOp (lineSlot l (i - 1)))) || (portM (slotOp (lineSlot l i)) && portX (slotOp (lineSlot l (i - 1)))))
    && !(destsAt (lineSlot l (i - 1))).any (fun d => (destsAt (lineSlot l i)).contains d)

/-- A well-formed line (06 R164). -/
def lineWf (l : Nat) : Bool :=
  l % 2 ^ 11 == 0 &&
  match scanLine l 5 0 with
  | none => false
  | some st => (List.range 5).all (fun i =>
      (!linePair l i || pairOk l i st) && (!lineTgt l i || (st.any (fun (k, _) => k == i) && !linePair l i)))

/-- Outcome of a line fetch (06 R162). -/
inductive LineRes where
  | line (l : Nat)
  | range
  | miss
  | forbid
  | parity
  deriving DecidableEq, Repr

/-- Fetches the line of a code address for a core, from the cluster's code cache or from the home; one refetch on a failed parity check. -/
def fetchLine (e : Env) (m : Mach) (core part pc : Nat) : Mach × LineRes :=
  let va := pc / 64 * 64
  match regionOf va with
  | .paged =>
    match xlate e m core part va 64 3 false with
    | .ok sa =>
      let cl := clusterOf core
      match tget (clusOf m cl).code sa with
      | some b =>
        if linePar (ofBytes b) then (m, .line (ofBytes b))
        else if linePar (lineAt m sa) then (m, .line (lineAt m sa)) else (m, .parity)
      | none =>
        if linePar (lineAt m sa) then ({ updClus m cl (fun c => { c with code := cacheAdd 1024 m.free c.code sa (toBytes 64 (lineAt m sa)) }) with free := m.free + 1 }, .line (lineAt m sa))
        else (m, .parity)
    | .forbid => (m, .forbid)
    | .miss => (m, .miss)
    | _ => (m, .forbid)
  | _ => (m, .range)

/-- What stands at a code address. -/
inductive Fetched where
  | one (i : Instr) (next : Nat)
  | two (i j : Instr) (next : Nat)
  | bad
  deriving DecidableEq, Repr

/-- Length in slots of the instruction at a slot. -/
def slotLen (l i : Nat) : Nat := slotsOf (slotOp (lineSlot l i))

/-- Reads the instruction, or the pair, that starts at a slot of a well-formed line; `solo` leaves out the partner (06 R179). -/
def readSlot (l pc : Nat) (solo : Bool) : Fetched :=
  let i := pc % 8
  if 5 ≤ i || bitsOf pc 5 3 != 0 || lineCont l i then .bad
  else
    let n := slotLen l i
    if linePair l (i + 1) && decide (i < 4) && n == 1 then
      if solo then (match instrAt l i with | some a => .one a (pcAfter pc 2) | none => .bad)
      else match instrAt l i, instrAt l (i + 1) with
        | some a, some b => .two a b (pcAfter pc 2)
        | _, _ => .bad
    else match instrAt l i with
      | some a => .one a (pcAfter pc n)
      | none => .bad

/-- Every check of rows 3 and 4 that does not depend on the mode. -/
def decodeAt (l pc : Nat) (solo : Bool) : Fetched :=
  if !lineWf l then .bad
  else match readSlot l pc solo with
    | .one a n => if legal a then .one a n else .bad
    | .two a b n => if legal a && legal b then .two a b n else .bad
    | .bad => .bad

/-- The frame of a program instruction. -/
def hdrOfInstr : Instr → Option Hdr
  | .add h _ | .sub h _ | .mul h _ | .mulh h _ | .mad h _ | .div h _ | .rem h _ | .neg h _ | .abs h _ | .min h _ | .max h _ | .and h _
  | .or h _ | .xor h _ | .not h _ | .shl h _ | .shr h _ | .sra h _ | .rot h _ | .clz h _ | .popc h _ | .brev h _ | .bfx h _ | .bfi h _
  | .cmp h _ | .sel h _ | .lea h _ | .addc h _ | .movi h _ | .movw h _ | .cvt h _ | .mov h _ | .fadd h _ | .fsub h _ | .fmul h _
  | .fma h _ | .fmin h _ | .fmax h _ | .fabs h _ | .fneg h _ | .fcmp h _ | .fdiv h _ | .fsqrt h _ | .frcp h _ | .frsq h _ | .fex2 h _
  | .flg2 h _ | .fsin h _ | .fcos h _ | .frnd h _ | .fcls h _ | .fscl h _ | .fclp h _ | .fdot2 h _ | .fcvt h _ | .nscl h _ | .npck h _
  | .nunp h _ | .ndot h _ | .pchk h _ | .pchkProv h _ | .pmrk h _ | .pfix h _ | .plog h _ | .shfl h _ | .vote h _ | .blot h _ | .redx h _
  | .scan h _ | .sred h _ | .rdl h _ | .wrl h _ | .mtch h _ | .getc h _ | .setc h _ | .getid h _ | .clk h _ | .bra h _ | .brx h _
  | .call h _ | .cali h _ | .ret h _ | .cvb h _ | .cvbCur h _ | .cvw h _ | .exit h _ | .yield h _ | .nop h _ | .loop h _ | .ld h _
  | .st h _ | .ldt h _ | .stt h _ | .ldv h _ | .pfx h _ | .atom h _ | .cas h _ | .red h _ | .rfl h _ | .fence h _ | .mon h _ | .mwt h _
  | .qwait h _ | .wake h _ | .bar h _ | .bsc h _ | .arrvSet h _ | .arrvAdd h _ | .awt h _ | .qpush h _ | .qpop h _ | .lend h _
  | .claim h _ | .send h _ | .cpy h _ | .cpym h _ | .rfet h _ | .rfett h _ | .cseal h _ | .mma h _ | .mmsp h _ | .tzro h _ | .tmov h _
  | .kbnd h _ | .trmxGet h _ | .trmxPut h _ | .ralc h _ | .rput h _ | .rputIn h _ | .rget h _ | .rdon h _ | .rsd h _ | .post h _
  | .snap h _ | .nest h _ | .nred h _ | .xcon h _ | .trap h _ | .tret h _ | .tclr h _ | .brk h _ | .park h _ | .tres h _ | .tresW h _
  | .plcw h _ | .xinv h _ | .swap h _ | .fcal h _ | .diag h _ => some h
  | _ => none

/-- Members of a set stop at a fetch: parity, address, translation or form (06 R162, R180). DESIGN CHOICE: a fetch has no ea, so the address that a translation fails for, and FADDR of XLATE or PROT after a refusal, is that of the line. -/
def fetchStop (e : Env) (m : Mach) (cu : Cur) (r : LineRes) : Mach :=
  let line := cu.pc / 64 * 64
  let gr := grpOf m cu.g
  match r with
  | .parity => failAll e m cu cLINEPAR line
  | .range => failAll e m cu cRANGE cu.pc
  | .miss => { endIssue e (cu.lanes.foldl (fun m l => waitWalk e m cu.g l line 3 cu.pc (progOf (thrOf m cu.g l)) (thrOf m cu.g l).solo) m) cu 1 true with cur := none }
  | .forbid => { endIssue e (cu.lanes.foldl (fun m l => parkFault e m cu.g l line 3 cu.pc (progOf (thrOf m cu.g l)) (thrOf m cu.g l).solo) m) cu 1 true with cur := none }
  | .line _ => if (gr.th.length) = 0 then { m with cur := none } else failAll e m cu cILLOP 0

end Sys2Proof.Machine
end

