-- ==== Sys2Proof/Machine/Control.lean ====
section
/-! DEFINITION. Control flow (spec/08 R225 to R232). -/
namespace Sys2Proof.Machine
open Sys2Proof

/-- The tokens of an instruction without a result fall one clock after issue. -/
def done1 (e : Env) (c : Ctx) (m : Mach) : BRes := ok (land m (e.now + 1) [] c.tok)

/-- Legality of a target (06 R166): the outcome for the member, `done` when the transfer may be made. -/
def checkTarget (e : Env) (m : Mach) (c : Ctx) (t : Nat) : Mach × Out :=
  if !tgtShape t then (m, .cause cILLTGT t 0 false 0)
  else
    let f := fetchLine e m c.core c.part t
    match f.2 with
    | .line l => if lineTgt l (t % 8) then (f.1, .done) else (f.1, .cause cILLTGT t 0 false 0)
    | .range => (f.1, .cause cILLTGT t 0 false 0)
    | .miss => (f.1, .walk t 3 0)
    | .forbid => (f.1, .fault t 3 0)
    | .parity => (f.1, .cause cLINEPAR (t / 64 * 64) 0 false 0)

/-- Direct target (06 R167). -/
def directTarget (c : Ctx) (o : FC) : Nat := lowBits 56 ((c.pc / 64 * 64 : Nat) + signExt o.loff.toNat 24 * 64) + o.slot.toNat

/-- The transfer of 08 R226 to the 64-bit target `t`; `hi` bits above the address must be zero. -/
def transfer (e : Env) (c : Ctx) (h : Hdr) (t hi : Nat) (m : Mach) (k : Mach → BRes) : BRes :=
  if taintTrap m c.g c.lane h then trapOf m cPBRANCH
  else if hi ≠ 0 then trapAt m cILLTGT (t % 2 ^ 56)
  else
    let r := checkTarget e m c (t % 2 ^ 56)
    match r.2 with
    | .done => k r.1
    | o => { m := r.1, out := o }

def goTo (m : Mach) (c : Ctx) (t : Nat) : Mach := updThr m c.g c.lane (fun th => { th with pc := t })

def braBody (h : Hdr) (o : FC) (e : Env) (c : Ctx) (m : Mach) : BRes :=
  transfer e c h (directTarget c o) 0 m (fun m => done1 e c (goTo m c (directTarget c o)))

def execBra (h : Hdr) (o : FC) (s : State) := runI (.bra h o) h false (braBody h o) s

/-- `brx` and `ret` are one transfer (08 R227). -/
def indirectBody (h : Hdr) (o : FC) (e : Env) (c : Ctx) (m : Mach) : BRes :=
  let t := (readOp e m c .n64 o.src).2
  transfer e c h t (t / 2 ^ 56) m (fun m => done1 e c (goTo m c t))

def execBrx (h : Hdr) (o : FC) (s : State) := runI (.brx h o) h false (indirectBody h o) s
def execRet (h : Hdr) (o : FC) (s : State) := runI (.ret h o) h false (indirectBody h o) s

/-- Writes the link and goes to the target, or claims the missing registers first (08 R227, 01 R30). -/
def callTo (e : Env) (c : Ctx) (o : FC) (t budget : Nat) (m : Mach) : BRes :=
  let b := (thrOf m c.g c.lane).v.length
  if b < budget then
    let m1 := updThr m c.g c.lane (fun th => { th with wait := .claim, pc := c.pc, resume := t })
    ok (updTeam { m1 with serial := m1.serial + 1 } c.team (fun tm => { tm with claims := tm.claims ++
      [{ id := m.serial, who := [c.ref], n := budget - b, tm := e.now, call := some (linkOf o, t, c.next), toks := c.tok }] }))
  else ok (land (goTo m c t) (e.now + 1) (wrReg c .n64 (linkOf o) c.next) c.tok)

def callBody (h : Hdr) (o : FC) (e : Env) (c : Ctx) (m : Mach) : BRes :=
  transfer e c h (directTarget c o) 0 m (callTo e c o (directTarget c o) (8 * (o.aux.toNat % 32)))

def execCall (h : Hdr) (o : FC) (s : State) := runI (.call h o) h false (callBody h o) s

def caliBody (h : Hdr) (o : FC) (e : Env) (c : Ctx) (m : Mach) : BRes :=
  let t := (readOp e m c .n64 o.src).2
  transfer e c h t (t / 2 ^ 61) m (callTo e c o (t % 2 ^ 56) (8 * (t / 2 ^ 56 % 32)))

def execCali (h : Hdr) (o : FC) (s : State) := runI (.cali h o) h false (caliBody h o) s

/-- Counts down and branches (08 R228). With a scalar counter all members go one way. -/
def loopBody (h : Hdr) (o : FC) (e : Env) (c : Ctx) (m : Mach) : BRes :=
  let n := (((readOp e m c .n32 o.src).2 : Int) - 1) % (2 ^ 32 : Int)
  let who := if isS o.src then c.lanes else [c.lane]
  let t := directTarget c o
  let fin := fun (m : Mach) => ok (land m (e.now + 1) (wrReg c .n32 o.src n.toNat) (if isS o.src then c.toks else c.tok))
  if n = 0 then fin m
  else transfer e c h t 0 m (fun m => fin (who.foldl (fun m l => updThr m c.g l (fun th => { th with pc := t })) m))

def execLoop (h : Hdr) (o : FC) (s : State) := runI (.loop h o) h (isS o.src) (loopBody h o) s

/-! Convergence barriers (08 R229, R230). -/

def setCb (m : Mach) (g k : Nat) (mask : Word) : Mach := updGrp m g (fun a => { a with cbm := setAt a.cbm k mask })

def cvbBody (o : FC) (e : Env) (c : Ctx) (m : Mach) : BRes :=
  ok (land (setCb m c.g (o.aux.toNat % 4) (BitVec.ofNat 32 (readOp e m c .n32 o.src).2)) (e.now + 1) [] c.toks)

def execCvb (h : Hdr) (o : FC) (s : State) := runI (.cvb h o) h true (cvbBody o) s

/-- The mask of the members whose guard is true. -/
def cvbCurBody (o : FC) (e : Env) (c : Ctx) (m : Mach) : BRes :=
  ok (land (setCb m c.g (o.aux.toNat % 4) (BitVec.ofNat 32 (c.lanes.foldl (fun a l => a + 2 ^ l) 0))) (e.now + 1) [] c.toks)

def execCvbCur (h : Hdr) (o : FC) (s : State) := runI (.cvbCur h o) h true (cvbCurBody o) s

def cvwBody (o : FC) (e : Env) (c : Ctx) (m : Mach) : BRes :=
  let k := o.aux.toNat % 4
  if bitOf (lget (grpOf m c.g).cbm k 0).toNat c.lane then
    let m1 := updGrp m c.g (fun a => { a with cba := lupd a.cba k (fun w => w ||| BitVec.ofNat 32 (2 ^ c.lane)) })
    done1 e c (updThr m1 c.g c.lane (fun t => { t with wait := .cvw k, pc := c.pc, resume := c.next }))
  else done1 e c m

def execCvw (h : Hdr) (o : FC) (s : State) := runI (.cvw h o) h false (cvwBody o) s

/-- The barrier is satisfied: every expected lane waits there or has no live thread (08 R230). -/
def cvwDone (gr : Group) (k : Nat) : Bool :=
  gr.th.any (fun t => t.wait == .cvw k) &&
  gr.th.zipIdx.all (fun (t, j) => !bitOf (lget gr.cbm k 0).toNat j || !live t || t.wait == .cvw k)

/-! The end of a thread (08 R231) and of a run (R232). -/

/-- Starts a flush of slots, in the order in which they drain (04 R121, R122). -/
def startFlush (m : Mach) (slots : List Nat) (toks : List TokRef) (bar : Option (Nat × Nat)) : Mach :=
  { m with serial := m.serial + 1, flushes := tset m.flushes m.serial { slots := slots, g := slots.headD 0, out := 0, ackAt := 0, toks := toks, bar := bar } }

def exitThr (t : Thread) : Thread := { t with st := .exited, wait := .none, mon := none, vecAt := none, step := false }

/-- Ends a thread; the last of a group flushes its slot (04 R121). -/
def endThread (m : Mach) (g lane : Nat) : Mach :=
  let m1 := updThr m g lane exitThr
  if !liveGrp (grpOf m1 g) && !(grpOf m1 g).ab.isEmpty then startFlush m1 [g] [] none else m1

def exitBody (_e : Env) (c : Ctx) (m : Mach) : BRes := ok (endThread m c.g c.lane)

def execExit (h : Hdr) (o : FC) (s : State) := runI (.exit h o) h false exitBody s

/-- The run that issues `yield` has reached its length, and ends with this issue (08 R232). -/
def yieldBody (e : Env) (c : Ctx) (m : Mach) : BRes :=
  done1 e c (updSched m (schedKeyOf (grpOf m c.g)) (fun sc => { sc with run := sc.run.map (fun r => { r with n := 16 }) }))

def execYield (h : Hdr) (o : FC) (s : State) := runI (.yield h o) h false yieldBody s

def nopBody (e : Env) (c : Ctx) (m : Mach) : BRes := done1 e c m

def execNop (h : Hdr) (o : FC) (s : State) := runI (.nop h o) h false nopBody s

end Sys2Proof.Machine
end

