-- ==== Sys2Proof/Machine/MemoryOps.lean ====
section
/-! DEFINITION. Loads, stores, tile moves and prefetch (spec/08 R233 to R239, 03 R92). -/
namespace Sys2Proof.Machine
open Sys2Proof

/-- Bytes of a width code (06 R175). -/
def widthBytes (w : Nat) : Nat := 2 ^ min w 4

def isAcq (o : FM) : Bool := bitOf o.order.toNat 0
def isRel (o : FM) : Bool := bitOf o.order.toNat 1

/-- Tokens of a format-M instruction: of the member, or of every member of a uniform one. -/
def tokM (c : Ctx) (o : FM) : List TokRef := if isS o.d then c.toks else c.tok

/-- A read of one location into registers (08 R234). -/
def ldBody (h : Hdr) (o : FM) (e : Env) (c : Ctx) (m : Mach) : BRes :=
  let n := widthBytes o.width.toNat
  let a := effAddr e m c o
  match checkAddr e a.1 c a.2 n n 0 (o.width == 3) with
  | .ok sa =>
    let p := openOp a.1 1 (e.now + 2) (tokM c o)
    ok (sendM e p.2 c o (homeOf sa) (isAcq o) false false p.1 (.load sa n (h.fn == 1) o.d none c.pc a.2.toNat))
  | .metaw f =>
    let p := openOp a.1 1 (e.now + 2) (tokM c o)
    ok (sendM e p.2 c o (homeOf (f * 16384)) (isAcq o) false false p.1 (.metaRead f o.d c.pc a.2.toNat))
  | .trig _ => { m := a.1, out := .fault (lowBits 56 a.2) 0 0 }
  | .stop out => { m := a.1, out := out }

def execLd (h : Hdr) (o : FM) (s : State) := runI (.ld h o) h (isS o.d) (ldBody h o) s

/-- Data of a store: the low bytes of D (08 R235). -/
def storeData (e : Env) (m : Mach) (c : Ctx) (w : Nat) (d : Opnd) : Mach × Nat :=
  if w = 4 then
    match d with
    | .s n => (m, ofBytes ((List.range 4).flatMap (fun i => toBytes 4 (regS m c.g (n.toNat + i)))))
    | d => (m, quadOf m c d)
  else readOp e m c (if w = 3 then .s64 else .s32) d

def stBody (o : FM) (e : Env) (c : Ctx) (m : Mach) : BRes :=
  let w := o.width.toNat
  let n := widthBytes w
  let a := effAddr e m c o
  let r := checkAddr e a.1 c a.2 n n 1 (o.width == 3)
  match r with
  | .stop out => { m := a.1, out := out }
  | .metaw _ => trapAt a.1 cPROT (lowBits 56 a.2)
  | _ =>
    let d := storeData e a.1 c w o.d
    let x := d.2 % 2 ^ (8 * n)
    if pstOn m c.g && storePoison (8 * n) x then trapAt d.1 cPSTORE (lowBits 56 a.2)
    else
      let p := openOp d.1 1 (e.now + 2) c.tok
      match r with
      | .trig k => ok (sendOwn e p.2 c o.scope.toNat (feHome (coreDie c.core)) false (isRel o) true p.1 (.trigger c.part k))
      | .ok sa => ok (sendOwn e p.2 c o.scope.toNat (homeOf sa) false (isRel o) true p.1 (.store [(sa, toBytes n x)] false true))
      | _ => ok p.2

def execSt (h : Hdr) (o : FM) (s : State) := runI (.st h o) h false (stBody o) s

/-! Segments of a range of bytes. -/

/-- Splits a range at 4 KiB boundaries and translates each piece; pieces that stand together in one frame are joined. -/
def segsGo (e : Env) (m : Mach) (c : Ctx) (kind : Nat) : Nat → Nat → Nat → Except Out (List (Nat × Nat))
  | 0, _, _ => .ok []
  | f + 1, va, n =>
    if n = 0 then .ok []
    else
      let k := min n (4096 - va % 4096)
      match checkAddr e m c (va : Int) 1 k kind false with
      | .ok sa =>
        match segsGo e m c kind f (va + k) (n - k) with
        | .error o => .error o
        | .ok [] => .ok [(sa, k)]
        | .ok ((sb, j) :: r) => if sb = sa + k ∧ sa / 16384 = sb / 16384 then .ok ((sa, k + j) :: r) else .ok ((sa, k) :: (sb, j) :: r)
      | .stop o => .error o
      | _ => .error (.cause cPROT va 0 false 0)

/-- The whole range lies in one region, and in one slice (03 R82). -/
def segs (e : Env) (m : Mach) (c : Ctx) (va n kind : Nat) : Except Out (List (Nat × Nat)) :=
  match regionOf va with
  | .pad _ off | .own off => if 2 ^ 20 < off + n then .error (.cause cRANGE va 0 false 0) else segsGo e m c kind (n / 4096 + 2) va n
  | _ => segsGo e m c kind (n / 4096 + 2) va n

/-! Tile addresses (08 R236, 03 R92). -/

structure TileGeo where
  k : Nat
  rows : Nat
  cols : Nat
  eb : Nat
  a : Int
  st : Int
  tr : Nat
  deriving DecidableEq, Repr

/-- Shape at issue, first address, stride and transposition. -/
def tileGeo (e : Env) (m : Mach) (c : Ctx) (h : Hdr) (o : FM) (tr : Nat) : TileGeo :=
  let k := tileNo o.d
  let tc := shapeOf m c.core k
  let eb := ewBytes (tcEw tc)
  let str := bitOf h.fn.toNat 3
  let base : Int := readBase e m c o.base
  let off := signExt o.off.toNat 24
  let idx := signExt (readOp e m c .s32 o.index).2 32
  let nat : Int := if tr = 0 then (tcCols tc * eb : Nat) else (tcRows tc * eb : Nat)
  { k := k, rows := tcRows tc, cols := tcCols tc, eb := eb, a := if str then base + off else base + idx + off, st := if str then idx else nat, tr := tr }

/-- Memory rows of a move: address, bytes, place in the tile and step between elements there. -/
def tileRows (t : TileGeo) : List (Int × Nat × Nat) :=
  if t.tr = 0 then (List.range t.rows).map (fun (i : Nat) => (t.a + (i : Int) * t.st, t.cols * t.eb, i * t.cols * t.eb))
  else (List.range t.cols).map (fun (j : Nat) => (t.a + (j : Int) * t.st, t.rows * t.tr, j * t.eb))

/-- Step in the tile between elements of one memory row. -/
def tileStep (t : TileGeo) : Nat := if t.tr = 0 then t.eb else t.cols * t.eb

/-- Element bytes in memory. -/
def tileMemEb (t : TileGeo) : Nat := if t.tr = 0 then t.eb else t.tr

/-- The slice window that an address lies in (03 R77): the mark's, or the alias window. -/
def windowOf (va : Nat) : Option Nat :=
  match regionOf va with
  | .pad _ _ | .own _ => some (va / 2 ^ 20)
  | _ => none

/-- A row of a move does not lie in the window of the first byte: the access would run into another slice (03 R82). -/
def strayRow (t : TileGeo) (r : Int × Nat × Nat) : Bool :=
  windowOf r.1.toNat != windowOf t.a.toNat || windowOf (r.1.toNat + r.2.1 - 1) != windowOf t.a.toNat

/-- Checks that do not depend on translation: allocation, transposing conditions, alignment, range (08 R223, R236, 03 R92). -/
def tileCheck (m : Mach) (c : Ctx) (t : TileGeo) : Option Out :=
  let bad := fun k => some (Out.cause k (lowBits 56 t.a) 0 false 0)
  if !tileHeld m c.team t.k then some (.cause cPROT 0 0 false 0)
  else if (t.tr = 1 && (t.rows % 16 != 0 || t.cols % 16 != 0)) || (t.tr = 2 && (t.rows % 8 != 0 || t.cols % 8 != 0 || t.eb != 2)) then some (.cause cFMT 0 0 false 0)
  else if t.a < 0 || decide ((2 ^ 56 : Int) ≤ t.a) then bad cRANGE
  else if t.a % (t.eb : Int) != 0 || t.st % (t.eb : Int) != 0 then bad cMISAL
  else if (tileRows t).any (fun r => decide (r.1 < 0) || decide ((2 ^ 56 : Int) < r.1 + r.2.1) || strayRow t r) then bad cRANGE
  else none

/-- A failure of a check before translation. -/
def plainCause : Except Out (List (Nat × Nat)) → Option Out
  | .error (.cause k a i n _) => some (.cause k a i n 0)
  | _ => none

/-- Translates memory rows from row `p` on; the rows before a fault of translation are given with it, and any other failure leaves none (08 R223, R224). -/
def tileSegs (e : Env) (m : Mach) (c : Ctx) (kind : Nat) (rs : List (Int × Nat × Nat)) (p : Nat) : List (Nat × List (Nat × Nat)) × Option Out :=
  let xs := (rs.zipIdx.drop p).map (fun (r, i) => (i, r.2.2, segs e m c r.1.toNat r.2.1 kind))
  match xs.findSome? (fun (_, _, x) => plainCause x) with
  | some o => ([], some (withProg o p))
  | none => xs.foldl (fun acc (i, off, x) =>
    match acc.2, x with
    | some _, _ => acc
    | none, .ok l => (acc.1 ++ [(off, l)], none)
    | none, .error o => (acc.1, some (withProg o i))) ([], none)

/-- Pieces of one memory row with their places in the tile. -/
def rowPieces (t : TileGeo) (off : Nat) (l : List (Nat × Nat)) : List (Nat × Nat × Nat) :=
  (l.foldl (fun acc (sa, n) => (acc.1 + n, acc.2 ++ [(sa, n, off + acc.1 / tileMemEb t * tileStep t)])) (0, ([] : List (Nat × Nat × Nat)))).2

/-- An operation of a tile load, HIMAG starting at false for the whole tile (05 R153). -/
def openTile (m : Mach) (n tm : Nat) (c : Ctx) (k : Nat) (first : Bool) : Nat × Mach :=
  let p := openOp m n tm c.toks
  (p.1, { p.2 with ops := tupd p.2.ops p.1 (fun o => { o with land := { o.land with wr := if first then [RegWr.himag c.core k true false] else [] } }) })

/-- The tokens of an access that stops partway through: what has been performed counts on them, and what is left counts on them from the first stop until it has been performed after replay (08 R224). -/
def partToks (c : Ctx) (toks : List TokRef) (m : Mach) : Mach := (if c.prog = 0 then toks ++ toks else toks).foldl tokRise m

/-- A stop by a failure of translation, after which the access is replayed (08 R223 check 5). -/
def replays : Out → Bool
  | .walk _ _ _ | .fault _ _ _ => true
  | _ => false

/-- The end of a replay: the issue counts the access on the tokens, which have counted what was left since the first stop. -/
def replayToks (c : Ctx) (toks : List TokRef) (m : Mach) : Mach := if c.prog = 0 then m else toks.foldl tokFall m

/-- Pieces that lie in one frame after one another are read as one: no reader sees a part of a whole tile store (08 R237). -/
def byFrame : List (Nat × Nat × Nat) → List (List (Nat × Nat × Nat))
  | [] => []
  | r :: l =>
    match byFrame l with
    | (q :: g) :: s => if r.1 / 16384 = q.1 / 16384 then (r :: q :: g) :: s else [r] :: (q :: g) :: s
    | s => [r] :: s

/-- Sends the read of some pieces of a tile load. -/
def tileSend (e : Env) (m : Mach) (c : Ctx) (o : FM) (t : TileGeo) (op : Nat) (l : List (Nat × Nat × Nat)) : Mach :=
  let m1 := sendSet e m c o.scope.toNat (homeOf ((l.map (·.1)).headD 0)) (isAcq o) false false op (.tileRead l c.core t.k (tileStep t) (tileMemEb t) t.eb c.pc t.a.toNat)
  if t.tr = 0 then m1 else { m1 with flight := m1.flight.map (fun x => if x.id = m.serial then { x with back := x.back + 4 } else x) }

/-- A tile load, frame by frame. Rows before a fault are loaded, and count on the token (08 R224, 16 R370). A transposing load completes 4 clocks later (03 R92). -/
def ldtBody (h : Hdr) (o : FM) (e : Env) (c : Ctx) (m : Mach) : BRes :=
  let t := tileGeo e m c h o (bitsOf h.fn.toNat 5 4)
  match tileCheck m c t with
  | some out => { m := m, out := out }
  | none =>
    let p := if t.tr = 0 then c.prog else 0
    let s := tileSegs e m c 0 (tileRows t) p
    let rows := if t.tr ≠ 0 && s.2.isSome then [] else s.1
    let msgs := byFrame (rows.flatMap (fun (off, l) => rowPieces t off l))
    let q := openTile m msgs.length (e.now + 2) c t.k (p = 0)
    let m1 := if msgs.isEmpty then m else msgs.foldl (fun m l => tileSend e m c o t q.1 l) q.2
    match s.2 with
    | none => if msgs.isEmpty then ok (land m (e.now + 2) [] c.toks) else ok (replayToks c c.toks m1)
    | some out => { m := if msgs.isEmpty then m1 else partToks c c.toks m1, out := if t.tr = 0 then out else withProg out 0 }

def execLdt (h : Hdr) (o : FM) (s : State) := runI (.ldt h o) h true (ldtBody h o) s

/-- Bytes of row `i` of a tile. -/
def tileRowBytes (m : Mach) (c : Ctx) (t : TileGeo) (off n : Nat) : List Byte := tileBytes m c.core t.k off n

/-- Element data of a tile that PSTORE checks: widths of 16 bits or more (05 R149). -/
def tilePoison (m : Mach) (c : Ctx) (t : TileGeo) (ew : Nat) : Bool :=
  match ew with
  | 1 | 2 | 3 => (List.range (t.rows * t.cols)).any (fun i => storePoison (8 * t.eb) (ofBytes (tileBytes m c.core t.k (i * t.eb) t.eb)))
  | _ => false

/-- All bytes of the rows lie in one frame. -/
def oneFrame (l : List (Nat × Nat)) : Bool :=
  match l with
  | [] => true
  | (a, _) :: _ => l.all (fun (b, n) => b / 16384 == a / 16384 && (b + n - 1) / 16384 == a / 16384)

/-- A tile store. Translation comes before the check of its data (08 R223). DEDUCED: poison data is refused as a whole, so a store of it that a later row parks has stored no row yet. -/
def sttBody (h : Hdr) (o : FM) (e : Env) (c : Ctx) (m : Mach) : BRes :=
  let t := tileGeo e m c h o 0
  let aon := bitOf h.fn.toNat 4
  match tileCheck m c t with
  | some out => { m := m, out := out }
  | none =>
    let rs := tileRows t
    if aon && !oneFrame (rs.map (fun r => (r.1.toNat, r.2.1))) then trapAt m cMISAL (lowBits 56 t.a)
    else
      let p := if aon then 0 else c.prog
      let s := tileSegs e m c 1 rs p
      let pst := pstOn m c.g && tilePoison m c t (tcEw (shapeOf m c.core t.k))
      match aon, s.2 with
      | true, some out => { m := m, out := withProg out 0 }
      | true, none =>
        let pcs := s.1.flatMap (fun (off, l) => rowPieces t off l)
        if !oneFrame (pcs.map (fun r => (r.1, r.2.1))) then trapAt m cMISAL (lowBits 56 t.a)
        else if pst then trapAt m cPSTORE (lowBits 56 t.a)
        else
          let q := openOp m 1 (e.now + 2) c.toks
          ok (sendSet e q.2 c o.scope.toNat (homeOf ((pcs.map (·.1)).headD 0)) false (isRel o) true q.1
            (.store (pcs.map (fun r => (r.1, tileRowBytes m c t r.2.2 r.2.1))) true true))
      | false, fail =>
        if pst && p = 0 then (match fail with | some out => { m := m, out := withProg out 0 } | none => trapAt m cPSTORE (lowBits 56 t.a))
        else
          let pcs := s.1.flatMap (fun (off, l) => rowPieces t off l)
          let q := openOp m pcs.length (e.now + 2) c.toks
          let m1 := if pcs.isEmpty then m else pcs.foldl (fun m r =>
            sendSet e m c o.scope.toNat (homeOf r.1) false (isRel o) true q.1 (.store [(r.1, tileRowBytes m c t r.2.2 r.2.1)] false true)) q.2
          match fail with
          | none => if pcs.isEmpty then ok (land m (e.now + 2) [] c.toks) else ok (replayToks c c.toks m1)
          | some out => { m := if pcs.isEmpty then m1 else partToks c c.toks m1, out := out }

def execStt (h : Hdr) (o : FM) (s : State) := runI (.stt h o) h true (sttBody h o) s

/-- `ldv` at a tile: every byte of one frame, read in one step at its home (08 R238). -/
def ldvTile (h : Hdr) (o : FM) (e : Env) (c : Ctx) (m : Mach) : BRes :=
  let t := tileGeo e m c h o (bitsOf h.fn.toNat 5 4)
  match tileCheck m c t with
  | some out => { m := m, out := out }
  | none =>
    let rs := tileRows t
    if !oneFrame (rs.map (fun r => (r.1.toNat, r.2.1))) then trapAt m cMISAL (lowBits 56 t.a)
    else
      let s := tileSegs e m c 0 rs 0
      match s.2 with
      | some out => { m := m, out := withProg out 0 }
      | none =>
        let pcs := s.1.flatMap (fun (off, l) => rowPieces t off l)
        if !oneFrame (pcs.map (fun r => (r.1, r.2.1))) then trapAt m cMISAL (lowBits 56 t.a)
        else
          let q := openTile m 1 (e.now + 2) c t.k true
          ok (tileSend e q.2 c o t q.1 pcs)

/-- A register `ldv` is a load: an aligned access of at most 16 bytes lies in one frame and is read in one step. -/
def ldvBody (h : Hdr) (o : FM) : Env → Ctx → Mach → BRes := if o.width == 5 then ldvTile h o else ldBody h o

def execLdv (h : Hdr) (o : FM) (s : State) := runI (.ldv h o) h (isS o.d || o.width == 5) (ldvBody h o) s

/-! Prefetch (08 R239). -/

/-- Fills lines of the Retrieval unit's cache, which holds 256 KiB: 4,096 lines (04 R114, 00 R2). -/
def fillRetr (m : Mach) (cl sa n : Nat) : Mach :=
  (List.range (n / 64)).foldl (fun m i =>
    let l := sa / 64 * 64 + 64 * i
    if (tget (clusOf m cl).retr l).isSome then m
    else { updClus m cl (fun c => { c with retr := cacheAdd 4096 m.free c.retr l (memRead m.mem l 64) }) with free := m.free + 1 }) m

/-- Lines that HINT 2 fills: of the access, or of the whole frame at width 5; none for another hint (08 R239). -/
def pfxLines (o : FM) (sa : Nat) : Nat × Nat :=
  if o.hint != 2 then (sa, 0) else if o.width == 5 then (sa / 16384 * 16384, 16384) else (sa, 64)

/-- Clocks until lines are filled. -/
def pfxFill (m : Mach) (cl : Nat) (r : Nat × Nat) : Nat :=
  if (List.range (r.2 / 64)).all (fun i => (tget (clusOf m cl).retr (r.1 / 64 * 64 + 64 * i)).isSome) then 2 else latency (retrUnit cl) (homeOf r.1) + Config.delay m.free

/-- A prefetch: on a miss of the translation a walk, which installs the translation and fills the lines at its end. -/
def pfxBody (o : FM) (e : Env) (c : Ctx) (m : Mach) : BRes :=
  let a := effAddr e m c o
  let al := if o.width == 5 then 1 else widthBytes o.width.toNat
  match checkAddr e a.1 c a.2 al al 0 false with
  | .ok sa =>
    let r := pfxLines o sa
    let m1 : Mach := { fillRetr a.1 (clusterOf c.core) r.1 r.2 with free := a.1.free + 1 + r.2 }
    ok (land m1 (e.now + pfxFill a.1 (clusterOf c.core) r) [] c.tok)
  | .stop (.walk va _ _) => ok (joinWalk e a.1 (coreDie c.core) c.part va [] [{ core := c.core, va := va, frame := o.hint == 2 && o.width == 5, lines := o.hint == 2, toks := c.tok }] [])
  | _ => ok (land a.1 (e.now + 2) [] c.tok)

def execPfx (h : Hdr) (o : FM) (s : State) := runI (.pfx h o) h false (pfxBody o) s

end Sys2Proof.Machine
end

