-- ==== Sys2Proof/Machine/Atomics.lean ====
section
/-! DEFINITION. Atomics, the atomic buffer, fences, monitors and queued waits (spec/08 R240 to R250, 04 R114, R115, R120 to R124, 05 R150). -/
namespace Sys2Proof.Machine
open Sys2Proof

/-- A context that names only a team's thread and an instruction, for the poison log. -/
def logCtx (g lane pc : Nat) : Ctx :=
  { g := g, core := 0, team := 0, part := 0, lane := lane, lanes := [lane], set := [lane], pc := pc, next := pc, hm := false, pair := false, run := 0,
    sn := 0, progs := [], te := none }

/-- op(old, b) of 08 R240: codes 0 to 6 add, min, max, and, or, xor, exch. -/
def atomVal (e : Env) (m : Mach) (c : Ctx) (ty : NTy) (op old b : Nat) : Mach × Nat :=
  if op = 6 then (m, b)
  else if tyFloat ty then
    if op = 0 then settleF e m c ty [old, b] (roundX ty .rne (xAdd .rne (decodeF ty old).exact (decodeF ty b).exact))
    else (m, fminBits ty (op == 2) old b)
  else (m, intOp ty op old b)

def atomTyOf (h : Hdr) : NTy := (atomTy (fnLo h)).getD .s32

def atomBody (h : Hdr) (o : FM) (e : Env) (c : Ctx) (m : Mach) : BRes :=
  let ty := atomTyOf h
  let b := readOp e m c ty o.d
  let a := effAddr e b.1 c o
  match checkAddr e a.1 c a.2 (tyBits ty / 8) (tyBits ty / 8) 2 false with
  | .ok sa =>
    if pstOn m c.g && storePoison (tyBits ty) b.2 then trapAt a.1 cPSTORE (lowBits 56 a.2)
    else
      let p := openOp a.1 1 (e.now + 2) (tokM c o)
      ok (sendM e p.2 c o (homeOf sa) (isAcq o) (isRel o) true p.1 (.atom sa (fnHi h) ty (BitVec.ofNat 64 b.2) (some o.d) c.g c.lane c.pc a.2.toNat))
  | .stop out => { m := a.1, out := out }
  | _ => trapAt a.1 cPROT (lowBits 56 a.2)

def execAtom (h : Hdr) (o : FM) (s : State) := runI (.atom h o) h (isS o.d) (atomBody h o) s

/-- The register operand `k` places above. -/
def opndUp (o : Opnd) (k : Nat) : Opnd :=
  match o with
  | .v n => .v (BitVec.ofNat 8 (n.toNat + k))
  | .s n => .s (BitVec.ofNat 8 (n.toNat + k))
  | o => o

def casTy (h : Hdr) : NTy := if h.fn == 7 then .n64 else .n32

def casBody (h : Hdr) (o : FM) (e : Env) (c : Ctx) (m : Mach) : BRes :=
  let ty := casTy h
  let n := tyBits ty / 8
  let a := effAddr e m c o
  match checkAddr e a.1 c a.2 n n 2 false with
  | .ok sa =>
    let x := (readOp e a.1 c ty o.d).2
    let y := (readOp e a.1 c ty (opndUp o.d (n / 4))).2
    if pstOn m c.g && storePoison (tyBits ty) y then trapAt a.1 cPSTORE (lowBits 56 a.2)
    else
      let p := openOp a.1 1 (e.now + 2) (tokM c o)
      ok (sendM e p.2 c o (homeOf sa) (isAcq o) (isRel o) true p.1 (.cas sa n (BitVec.ofNat 64 x) (BitVec.ofNat 64 y) o.d c.pc (lowBits 56 a.2)))
  | .stop out => { m := a.1, out := out }
  | _ => trapAt a.1 cPROT (lowBits 56 a.2)

def execCas (h : Hdr) (o : FM) (s : State) := runI (.cas h o) h (isS o.d) (casBody h o) s

/-! The atomic buffer (04 R121, R122; 08 R243, R244). -/

/-- Sends every entry of a group's slot in order, as updates of flush `fl`, and empties the slot. Each entry is one atomic update and one store (04 R121, 08 R243). The updates are those of no thread: lane 32 stands for contributions to a dispatch, lane 33 for others (09 R290). -/
def drainSlot (e : Env) (m : Mach) (g fl : Nat) : Mach :=
  let gr := grpOf m g
  updGrp (gr.ab.foldl (fun m a =>
      let sa := a.sa + (if a.half = 1 then 4 else 0)
      let l := if a.disp then 32 else 33
      send e m gr.core (homeOf sa) false (some { g := g, lane := l }) [l] 3 false false true fl (.atom sa a.op a.ty a.acc none g a.lane a.pc 0)) m)
    g (fun gr => { gr with ab := [] })

/-- A thread that belongs to its group's dispatch (02 R65, R67). -/
def inDispatch (m : Mach) (c : Ctx) : Bool := (grpOf m c.g).disp.isSome && !(thrOf m c.g c.lane).rdon

/-- The entry that a contribution goes to has its doubleword, half, operation and type. -/
def sameEnt (dw half op : Nat) (ty : NTy) (a : ABEnt) : Bool := a.sa == dw && a.half == half && a.op == op && a.ty == ty

/-- The slot must drain first: a conflicting entry, or no room for a new one. -/
def redDrains (ab : List ABEnt) (dw half op : Nat) (ty : NTy) : Bool :=
  ab.any (fun a => a.sa == dw && !(a.op == op && a.ty == ty)) || (!ab.any (sameEnt dw half op ty) && decide (64 ≤ ab.length))

/-- Adds a contribution to the slot. -/
def redAdd (e : Env) (m : Mach) (c : Ctx) (ty : NTy) (op dw half b : Nat) : Mach :=
  match (grpOf m c.g).ab.find? (sameEnt dw half op ty) with
  | some a =>
    let r := atomVal e m c ty op a.acc.toNat b
    updGrp r.1 c.g (fun gr => { gr with ab := gr.ab.map (fun x => if sameEnt dw half op ty x then { x with acc := BitVec.ofNat 64 r.2, disp := x.disp || inDispatch m c } else x) })
  | none => updGrp m c.g (fun gr => { gr with ab := gr.ab ++ [{ sa := dw, half := half, op := op, ty := ty, acc := BitVec.ofNat 64 b, lane := c.lane, pc := c.pc, disp := inDispatch m c }] })

def redBody (h : Hdr) (o : FM) (e : Env) (c : Ctx) (m : Mach) : BRes :=
  let ty := atomTyOf h
  let b := readOp e m c ty o.d
  let a := effAddr e b.1 c o
  let n := tyBits ty / 8
  match checkAddr e a.1 c a.2 n n 2 false with
  | .ok sa =>
    let dw := sa / 8 * 8
    let half := if n = 8 then 2 else sa / 4 % 2
    let ab := (grpOf m c.g).ab
    if redDrains ab dw half (fnHi h) ty then
      let m1 : Mach := { a.1 with
        serial := a.1.serial + 1
        flushes := tset a.1.flushes a.1.serial { slots := [], g := c.g, out := ab.length, ackAt := 0, toks := c.tok, bar := none } }
      ok (redAdd e (drainSlot e m1 c.g a.1.serial) c ty (fnHi h) dw half b.2)
    else ok (land (redAdd e a.1 c ty (fnHi h) dw half b.2) (e.now + 2) [] c.tok)
  | .stop out => { m := a.1, out := out }
  | _ => trapAt a.1 cPROT (lowBits 56 a.2)

def execRed (h : Hdr) (o : FM) (s : State) := runI (.red h o) h false (redBody h o) s

/-- `rfl` drains the slot of the group for all its members (08 R244). -/
def rflBody (e : Env) (c : Ctx) (m : Mach) : BRes :=
  if (grpOf m c.g).ab.isEmpty then ok (land m (e.now + 2) [] c.toks) else ok (startFlush m [c.g] c.toks none)

def execRfl (h : Hdr) (o : FM) (s : State) := runI (.rfl h o) h true rflBody s

/-! Waiting. -/

/-- The member waits at the instruction; the operation `op` holds what its end delivers. -/
def waitThr (w : Wait) (op : Nat) (c : Ctx) (t : Thread) : Thread :=
  { t with wait := w, wop := op, pc := c.pc, resume := c.next, solo := c.pair }

/-- One member waits, with an operation that delivers its token. -/
def waitFor (e : Env) (w : Wait) (c : Ctx) (m : Mach) (lane : Nat) : Mach :=
  let p := openOp m 1 (e.now + 2) (c.tokOf lane)
  updThr p.2 c.g lane (waitThr w p.1 c)

/-- Least clocks that an sc fence takes (04 R114). -/
def fenceClocks (kind scope : Nat) : Nat := if kind = 3 then (if scope = 2 then 36 else if 3 ≤ scope then 144 else 0) else 0

/-- The members wait; the sweep of the clock ends the wait (08 R245). -/
def fenceBody (h : Hdr) (o : FM) (e : Env) (c : Ctx) (m : Mach) : BRes :=
  let kind := h.fn.toNat % 4
  let sc := o.scope.toNat
  let m1 := if 1 ≤ sc && !(grpOf m c.g).ab.isEmpty then startFlush m [c.g] [] none else m
  ok (c.lanes.foldl (fun m l =>
    updThr (waitFor e (.fence kind sc) c m l) c.g l (fun t => { t with readyAt := max t.readyAt (e.now + fenceClocks kind sc) })) m1)

def execFence (h : Hdr) (o : FM) (s : State) := runI (.fence h o) h true (fenceBody h o) s

/-! Monitors (08 R246, R247; 04 R123). -/

/-- Sets the thread's monitor and sends it to the home (08 R246). -/
def armMon (e : Env) (m : Mach) (c : Ctx) (mon : Mon) (op : Nat) : Mach :=
  let m1 := updThr m c.g c.lane (fun t => { t with mon := some { mon with sn := m.serial } })
  sendThr e { m1 with serial := m.serial + 1 } c mon.home false false false op (.monArm m.serial)

def monBody (h : Hdr) (o : FM) (e : Env) (c : Ctx) (m : Mach) : BRes :=
  let ty := atomTyOf h
  let n := tyBits ty / 8
  let a := effAddr e m c o
  match checkAddr e a.1 c a.2 n n 0 false with
  | .ok sa =>
    let d := readOp e a.1 c ty o.d
    let p := openOp d.1 1 (e.now + 2) c.tok
    ok (armMon e p.2 c { sn := 0, va := a.2.toNat, sa := sa, home := homeOf sa, b64 := n == 8, signed := tySigned ty, cond := fnHi h,
                         val := BitVec.ofNat 64 d.2, acq := isAcq o, scope := o.scope.toNat, awt := false, armed := false, poll := none, sat := none, learn := [] } p.1)
  | .stop out => { m := a.1, out := out }
  | _ => trapAt a.1 cPROT (lowBits 56 a.2)

def execMon (h : Hdr) (o : FM) (s : State) := runI (.mon h o) h false (monBody h o) s

/-- A pair destination that a b64 monitor needs is even and exists (08 R247, 06 R171). -/
def pairDst (o : Opnd) : Bool :=
  match o with
  | .v n => n.toNat % 2 == 0
  | .s n => n.toNat % 2 == 0
  | _ => false

/-- A wait of a monitor: with a scalar destination the first member waits for the set. -/
def waitMon (e : Env) (w : Wait) (c : Ctx) (dst : Opnd) (m : Mach) : Mach :=
  if isS dst then
    let p := openOp m 1 (e.now + 2) c.toks
    c.lanes.foldl (fun m l => updThr m c.g l (waitThr (if l = c.lane then w else .answer) p.1 c)) p.2
  else waitFor e w c m c.lane

def mwtBody (o : FI) (e : Env) (c : Ctx) (m : Mach) : BRes :=
  match (thrOf m c.g c.lane).mon with
  | none => trapOf m cWAITTO
  | some mon =>
    if mon.b64 && !pairDst o.dst then trapOf m cILLOP
    else if mon.b64 && decide ((thrOf m c.g c.lane).v.length < vTop 2 o.dst) then trapOf m cBUDGET
    else ok (waitMon e (.mwt (if o.imm == 0xFFFFFFFF then none else some (e.now + o.imm.toNat)) o.dst) c o.dst m)

def execMwt (h : Hdr) (o : FI) (s : State) := runI (.mwt h o) h (isS o.dst) (mwtBody o) s

/-! Queued waits (08 R248, R249; 04 R124). -/

def qwaitBody (o : FM) (e : Env) (c : Ctx) (m : Mach) : BRes :=
  let a := effAddr e m c o
  match checkAddr e a.1 c a.2 8 8 2 false with
  | .ok sa => ok (sendThr e (waitFor e .qwait c a.1 c.lane) c (homeOf sa) false false false 0 (.qwait sa))
  | .stop out => { m := a.1, out := out }
  | _ => trapAt a.1 cPROT (lowBits 56 a.2)

def execQwait (h : Hdr) (o : FM) (s : State) := runI (.qwait h o) h false (qwaitBody o) s

def wakeBody (o : FM) (e : Env) (c : Ctx) (m : Mach) : BRes :=
  let a := effAddr e m c o
  match checkAddr e a.1 c a.2 8 8 2 false with
  | .ok sa =>
    let n := readOp e a.1 c .n32 o.d
    if n.2 = 0 || 65535 < n.2 then trapAt n.1 cRANGE (lowBits 56 a.2)
    else
      let p := openOp n.1 1 (e.now + 2) c.tok
      ok (sendOwn e p.2 c o.scope.toNat (homeOf sa) false true true p.1 (.wake sa n.2))
  | .stop out => { m := a.1, out := out }
  | _ => trapAt a.1 cPROT (lowBits 56 a.2)

def execWake (h : Hdr) (o : FM) (s : State) := runI (.wake h o) h false (wakeBody o) s

end Sys2Proof.Machine
end

