-- ==== Sys2Proof/Machine/Sync.lean ====
section
/-! DEFINITION. Barriers, broadcasts, arrival words, hand queues, register lending and messages (spec/08 R251 to R260, 01 R25 to R31, 03 R93 to R101). -/
namespace Sys2Proof.Machine
open Sys2Proof

/-- The barrier that an instruction names: 0 to 3 of the team, 4 of the grid (08 R252). -/
def barOf (h : Hdr) (imm : BitVec 16) : Nat := if h.fn == 0x10 then 4 else imm.toNat % 4

/-- Every performing member waits, each with an operation of its own. -/
def waitAll (e : Env) (w : Wait) (c : Ctx) (m : Mach) : Mach := c.lanes.foldl (waitFor e w c) m

def barBody (h : Hdr) (o : FA) (e : Env) (c : Ctx) (m : Mach) : BRes := ok (waitAll e (.bar (barOf h o.imm)) c m)

def execBar (h : Hdr) (o : FA) (s : State) := runI (.bar h o) h true (barBody h o) s

/-- Where a format-A result goes that its end delivers: the destination register, unless WS is 1, and the latch (06 R170, R172). -/
def dstA (h : Hdr) (o : FA) : Opnd := if h.ws then .t 0 else o.dst

def bscBody (h : Hdr) (o : FA) (e : Env) (c : Ctx) (m : Mach) : BRes :=
  ok (waitAll e (.bsc (barOf h o.imm) (dstA h o) (some (latchA c o)) (readOp e m c .s32 o.sa).2 (readOp e m c .n32 o.sb).2) c m)

def execBsc (h : Hdr) (o : FA) (s : State) := runI (.bsc h o) h true (bscBody h o) s

/-! Arrival words (08 R254, R255). -/

/-- Checks of an arrival word: range, alignment, and the scratchpad or alias window (08 R254). -/
def arrAddr (e : Env) (m : Mach) (c : Ctx) (a : Nat) : AddrRes :=
  match regionOf a with
  | .pad _ _ | .own _ => checkAddr e m c (a : Int) 8 8 2 false
  | _ => .stop (.cause (if a < 2 ^ 56 && a % 8 ≠ 0 then cMISAL else cRANGE) (a % 2 ^ 56) 0 false 0)

/-- One update of an arrival word by a member. -/
def arrBody (o : FA) (rel : Bool) (f : Nat → Nat → Body) (e : Env) (c : Ctx) (m : Mach) : BRes :=
  let a := readOp e m c .n64 o.sa
  let n := readOp e a.1 c .n32 o.sb
  match arrAddr e n.1 c a.2 with
  | .ok sa =>
    if 0x0FFFFFFF < n.2 then trapAt n.1 cRANGE (a.2 % 2 ^ 56)
    else
      let p := openOp n.1 1 (e.now + 2) c.tok
      ok (sendThr e p.2 c (homeOf sa) false rel true p.1 (f sa n.2))
  | .stop out => { m := n.1, out := out }
  | _ => trapAt n.1 cRANGE (a.2 % 2 ^ 56)

def execArrvSet (h : Hdr) (o : FA) (s : State) := runI (.arrvSet h o) h false (arrBody o false .arrSet) s

def execArrvAdd (h : Hdr) (o : FA) (s : State) := runI (.arrvAdd h o) h false (arrBody o true (fun sa n => .arrInc sa n 0)) s

/-- `awt`: the thread's monitor tests the generation of the word (08 R255). -/
def awtBody (h : Hdr) (o : FA) (e : Env) (c : Ctx) (m : Mach) : BRes :=
  let a := readOp e m c .n64 o.sa
  let g := readOp e a.1 c .n32 o.sb
  match checkAddr e g.1 c (a.2 : Int) 8 8 0 false with
  | .ok sa =>
    ok (armMon e (waitMon e (.awt (dstA h o) (some (latchA c o))) c o.dst g.1) c
      { sn := 0, va := a.2, sa := sa, home := homeOf sa, b64 := true, signed := false, cond := 0, val := BitVec.ofNat 64 (g.2 % 256), acq := true, scope := 3,
        awt := true, armed := false, poll := none, sat := none, learn := [] } 0)
  | .stop out => { m := g.1, out := out }
  | _ => trapAt g.1 cPROT (a.2 % 2 ^ 56)

def execAwt (h : Hdr) (o : FA) (s : State) := runI (.awt h o) h (isS o.dst) (awtBody h o) s

/-! Hand queues (08 R256, 03 R100, R101). -/

/-- Storage address of the header of hand queue `k` of a team: in the slice of the core of group 0 (03 R100). -/
def queueAt (e : Env) (m : Mach) (team k : Nat) : Nat :=
  let tm := teamOf m team
  sliceAddr e m ((teamCores e.sys tm).headD 0) (tm.spoff + 16 * bitsOf (lget tm.qrec k 0) 31 16)

/-- The group's role is attached to queue `k`, as producer or as consumer (01 R17, 14 R341). -/
def attached (m : Mach) (c : Ctx) (k : Nat) (producer : Bool) : Bool :=
  let tm := teamOf m c.team
  bitOf tm.qmask k && bitOf (lget tm.qrec k 0) ((if producer then 0 else 4) + (grpOf m c.g).role)

/-- The set waits for one operation. -/
def waitSet (e : Env) (w : Wait) (c : Ctx) (m : Mach) : Nat × Mach :=
  let p := openOp m 1 (e.now + 2) c.toks
  (p.1, c.lanes.foldl (fun m l => updThr m c.g l (waitThr w p.1 c)) p.2)

def qpushBody (o : FA) (e : Env) (c : Ctx) (m : Mach) : BRes :=
  let k := o.imm.toNat % 8
  if !attached m c k true then trapOf m cPROT
  else
    let sa := queueAt e m c.team k
    let p := waitSet e .qpush c m
    ok (sendSet e p.2 c 1 (homeOf sa) false true true p.1 (.push sa c.team k (BitVec.ofNat 64 (readOp e m c .n64 o.sa).2)))

def execQpush (h : Hdr) (o : FA) (s : State) := runI (.qpush h o) h true (qpushBody o) s

def qpopBody (h : Hdr) (o : FA) (e : Env) (c : Ctx) (m : Mach) : BRes :=
  let k := o.imm.toNat % 8
  if !attached m c k false then trapOf m cPROT
  else
    let sa := queueAt e m c.team k
    let p := waitSet e .qpop c m
    ok (sendSet e p.2 c 1 (homeOf sa) true false false p.1 (.pop sa c.team k (dstA h o) (some (latchA c o)) c.pc 0))

def execQpop (h : Hdr) (o : FA) (s : State) := runI (.qpop h o) h true (qpopBody h o) s

/-! Register budgets (08 R257, R258; 01 R27 to R29). -/

/-- Gives back the top `n` registers; writes of issues before `sn` to them are dropped. -/
def lendThr (n sn : Nat) (t : Thread) : Thread :=
  { t with v := t.v.take (t.v.length - n), lends := t.lends ++ [(sn, t.v.length - n)] }

def lendBody (o : FA) (e : Env) (c : Ctx) (m : Mach) : BRes :=
  let n := (readOp e m c .n32 o.sa).2
  if n % 8 ≠ 0 || c.lanes.any (fun l => decide ((thrOf m c.g l).v.length < n + 8)) then trapOf m cBUDGET
  else ok (land (c.lanes.foldl (fun m l => updThr m c.g l (lendThr n c.sn)) m) (e.now + 2) [] c.toks)

def execLend (h : Hdr) (o : FA) (s : State) := runI (.lend h o) h true (lendBody o) s

def claimBody (o : FA) (e : Env) (c : Ctx) (m : Mach) : BRes :=
  let n := (readOp e m c .n32 o.sa).2
  if n % 8 ≠ 0 || c.lanes.any (fun l => decide (248 < (thrOf m c.g l).v.length + n)) then trapOf m cBUDGET
  else
    let m1 := c.lanes.foldl (fun m l => updThr m c.g l (waitThr .claim 0 c)) m
    ok (updTeam { m1 with serial := m1.serial + 1 } c.team (fun tm => { tm with claims := tm.claims ++
      [{ id := m1.serial, who := c.lanes.map (fun l => { g := c.g, lane := l }), n := n, tm := e.now, call := none, toks := c.toks }] }))

def execClaim (h : Hdr) (o : FA) (s : State) := runI (.claim h o) h true (claimBody o) s

/-! Messages (08 R259). -/

/-- The low bytes of a range of registers. -/
def payloadBytes (e : Env) (m : Mach) (c : Ctx) (o : Opnd) (n : Nat) : List Byte :=
  ((List.range (ceilDiv n 4)).flatMap (fun i => toBytes 4 (readOp e m c .n32 (opndUp o i)).2)).take n

/-- Number of a predicate operand. -/
def predNo : Opnd → Nat
  | .p n => n.toNat
  | _ => 7

def sendBody (o : FA) (e : Env) (c : Ctx) (m : Mach) : BRes :=
  let r := readOp e m c .n32 o.sa
  if 4096 ≤ r.2 then trapOf r.1 cRANGE
  else match placeCore e.sys c.part r.2 with
    | none => trapOf r.1 cRANGE
    | some k =>
      let p := openOp r.1 1 (e.now + 2) c.tok
      ok (sendOwn e p.2 c o.md.toNat k false true true p.1
        (.ring k (o.imm.toNat % 8) (markOf e.sys c.part c.core) (payloadBytes e r.1 c o.sb (bitsOf o.imm.toNat 13 8)) (predNo o.dst)))

def execSend (h : Hdr) (o : FA) (s : State) := runI (.send h o) h false (sendBody o) s

end Sys2Proof.Machine
end

