-- ==== Sys2Proof/Machine/Engines.lean ====
section
/-! DEFINITION. Copies, retrieval and sealing (spec/09 R261 to R276, 03 R88 to R91, 05 R153). -/
namespace Sys2Proof.Machine
open Sys2Proof

/-! The HIMAG rule (05 R153). -/

/-- A magnitude at or above 2 to the `k`; infinities and poison count. -/
def hiX (k : Int) : XVal → Bool
  | .dy _ m e _ => xCmp (.dy false m e false) (.dy false 1 k false) != .lt
  | _ => true

/-- An element of a type. -/
def hiTy (ty : NTy) (n : Nat) : Bool :=
  if tyFloat ty then
    match decodeF ty n with
    | .fin _ m e => hiX (fBias ty - 3) (.dy false m e false)
    | _ => true
  else decide ((2 ^ (tyBits ty - 4) : Nat) ≤ (intVal ty n).natAbs)

/-- Largest unbiased exponent of a finite value of a narrow format. -/
def nEmax (f : NFmt) : Int :=
  match nDecode f (nMaxCode f) with
  | .dy _ m e _ => e + (Nat.log2 m : Int)
  | _ => 0

def hiNarrow (f : NFmt) (code : Nat) : Bool := hiX (nEmax f - 3) (nDecode f code)

/-- A format register at its own width. -/
def fmFmt (w : Word) : Option NFmt := nfmtOf w (bitsOf w.toNat 6 6 + bitsOf w.toNat 5 3 + bitsOf w.toNat 2 0)

/-- A container without its block scale, under the register that its TAG names. DESIGN CHOICE: under a register that is not usable, which decodes no element, the container counts as below the threshold. -/
def hiCont (fms : List Word) (n : Nat) : Bool :=
  match fmFmt (lget fms (if bitOf n 123 then bitsOf n 122 120 else 0) 0) with
  | some f => (List.range (nPer (nWidth f))).any (fun i => hiNarrow f (contElem (nWidth f) n i))
  | none => false

/-- Type by the element width of a tile. -/
def ewTy (w : Nat) : NTy := match w with | 0 => .s8 | 1 => .f16 | 2 => .f32 | _ => .f64

/-- An element of a tile of width code `w`. -/
def hiEw (fms : List Word) (w n : Nat) : Bool := if w = 4 then hiCont fms n else hiTy (ewTy w) n

/-- Whole elements among bytes of a tile of width code `w`. -/
def hiBytes (fms : List Word) (w : Nat) (b : List Byte) : Bool :=
  (List.range (b.length / ewBytes w)).any (fun i => hiEw fms w (ofBytes ((b.drop (i * ewBytes w)).take (ewBytes w))))

/-! Layout cards (03 R88 to R91). -/

structure Card where
  base : Nat
  ext : List Nat
  str : List Int
  ndim : Nat
  efmt : Nat
  spar : Nat
  dec : Nat
  blke : Nat
  aux0 : Nat
  aux1 : Nat
  nnz : Nat
  deriving DecidableEq, Repr

/-- The fields of the 128 bytes of a card (03 R88). -/
def cardOf (n : Nat) : Card :=
  { base := bitsOf n 55 0, ext := (List.range 5).map (fun d => bitsOf n (95 + 32 * d) (64 + 32 * d)),
    str := (List.range 5).map (fun d => signExt (bitsOf n (255 + 32 * d) (224 + 32 * d)) 32), ndim := bitsOf n 386 384, efmt := bitsOf n 399 392,
    spar := bitsOf n 403 400, dec := bitsOf n 407 404, blke := bitsOf n 415 408, aux0 := bitsOf n 471 416, aux1 := bitsOf n 535 480, nnz := bitsOf n 575 544 }

/-- Element format of a card (03 R89). -/
inductive EKind where
  | ty (t : NTy)
  | narrow (k : Nat)
  deriving DecidableEq, Repr

def ekindOf (c : Nat) : Option EKind :=
  if c < 4 then (tyOfCode (8 + c)).map .ty
  else if 0x10 ≤ c ∧ c < 0x18 then (tyOfCode (c - 0x10)).map .ty
  else if 0x20 ≤ c ∧ c < 0x28 then some (.narrow (c - 0x20))
  else none

/-- Element bytes, 16 for containers. -/
def ekBytes : EKind → Nat
  | .ty t => tyBits t / 8
  | .narrow _ => 16

def isNarrow : EKind → Bool
  | .narrow _ => true
  | _ => false

/-- Checks 2 to 6 of 03 R90. -/
def cardBad (n : Nat) : Bool :=
  let c := cardOf n
  match ekindOf c.efmt with
  | none => true
  | some k =>
    bitsOf n 991 960 == 0 || crc32c ((toBytes 128 n).take 124) != bitsOf n 1023 992
      || bitsOf n 959 576 != 0 || bitsOf n 391 387 != 0 || bitsOf n 63 56 != 0 || bitsOf n 479 472 != 0 || bitsOf n 543 536 != 0
      || (!(c.dec == 1 || c.dec == 2 || c.dec == 5) && c.nnz != 0) || (c.dec != 2 && c.blke != 0) || decide (5 < c.dec) || decide (1 < c.spar)
      || decide (c.ndim < 1) || decide (5 < c.ndim) || decide (6 < c.blke) || (List.range 5).any (fun d => decide (c.ndim ≤ d) && lget c.ext d 1 != 1)
      || (c.dec == 4 && !isNarrow k) || (isNarrow k && !(c.dec == 4 || (c.dec == 5 && c.spar == 0)))

/-- What the Retrieval unit refuses besides (09 R272). -/
def cardRefused (c : Card) : Bool :=
  let off := fun (k : Int) => (c.base : Int) % k != 0 || (List.range 5).any (fun d => 1 ≤ d && lget c.str d 0 % k != 0)
  ((c.dec == 1 || c.dec == 2 || c.dec == 5) && c.ndim != 2)
    || (c.dec == 2 && (lget c.ext 0 0 % 2 ^ c.blke != 0 || lget c.ext 1 0 % 2 ^ c.blke != 0))
    || (c.dec == 3 && off 128) || (c.dec == 4 && off 16)

/-- The card cache of a cluster holds the verified card at an address (03 R91): a failure of its bytes in memory does not reach it. -/
def cardCached (m : Mach) (cl handle sa : Nat) : Bool := (clusOf m cl).cards.contains (handle, sa, (frameOf m (sa / 16384)).1.toNat)

/-- Reads a card: CARD, a stop of the address checks, or the card (03 R90). -/
def readCard (e : Env) (m : Mach) (c : Ctx) (handle : Nat) : Except Out Card :=
  if handle % 128 ≠ 0 then .error (.cause cCARD (handle % 2 ^ 56) 0 false 0)
  else match checkAddr e m c (handle : Int) 128 128 0 false with
    | .ok sa =>
      let n := readNat m sa 128
      if (!cardCached m (clusterOf c.core) handle sa && (seenKind m 1000 sa 128).isSome) || cardBad n || cardRefused (cardOf n) then .error (.cause cCARD handle 0 false 0) else .ok (cardOf n)
    | .stop o => .error o
    | _ => .error (.cause cPROT (handle % 2 ^ 56) 0 false 0)

/-- The card cache of a cluster keeps 16 verified cards by handle, with the address and VER of each (03 R91). DESIGN CHOICE: a new card takes the place of the one used longest ago. -/
def noteCard (e : Env) (m : Mach) (c : Ctx) (handle : Nat) : Mach :=
  match checkAddr e m c (handle : Int) 128 128 0 false with
  | .ok sa => updClus m (clusterOf c.core) (fun a => { a with cards := ((handle, sa, (frameOf m (sa / 16384)).1.toNat) :: a.cards.filter (fun p => p.1 != handle)).take 16 })
  | _ => m

/-- Cached cards whose frame has a new VER are dropped (03 R91). -/
def dropCards (m : Mach) : Mach :=
  m.clusters.foldl (fun m (k, c) =>
    if c.cards.all (fun p => (frameOf m (p.2.1 / 16384)).1.toNat == p.2.2) then m
    else updClus m k (fun c => { c with cards := c.cards.filter (fun p => (frameOf m (p.2.1 / 16384)).1.toNat == p.2.2) })) m

/-- Aligned words that an engine or the device reads at a home: a failed word is delivered as f32 poison with a log entry (05 R151). -/
def engRead (e : Env) (m : Mach) (c : Ctx) (sa n : Nat) : Mach × Nat :=
  let r := (List.range (n / 4)).foldl (fun (a : Mach × List Byte) i =>
    match seenKind a.1 c.core (sa + 4 * i) 4 with
    | none => (a.1, a.2 ++ memRead a.1.mem (sa + 4 * i) 4)
    | some k => let p := genPoison e a.1 c.g c.lane c.pc k 0; (p.1, a.2 ++ toBytes 4 (poisonBits .f32 k p.2))) (m, [])
  (r.1, ofBytes r.2)

/-! Reads through the cache of the Retrieval unit (04 R114). -/

/-- Bytes of one piece, from the lines of the cache. -/
def retrPiece (cl : Nat) (acc : Mach × List Byte) (p : Nat × Nat) : Mach × List Byte :=
  let l0 := p.1 / 64 * 64
  let m1 := fillRetr acc.1 cl l0 (64 * ((p.1 + p.2 - 1) / 64 - p.1 / 64 + 1))
  let b := (List.range p.2).map (fun i =>
    let a := p.1 + i
    lget ((tget (clusOf m1 cl).retr (a / 64 * 64)).getD []) (a % 64) 0)
  (m1, acc.2 ++ b)

/-- Reads `n` bytes at an address, with the kind of the first byte that fails its check. -/
def retrRead (e : Env) (c : Ctx) (m : Mach) (a : Int) (n : Nat) : Except Out (Mach × Nat × Option Nat) :=
  if a < 0 ∨ (2 ^ 56 : Int) ≤ a then .error (.cause cRANGE (lowBits 56 a) 0 false 0)
  else match segs e m c a.toNat n 0 with
    | .error o => .error o
    | .ok ps =>
      let r := ps.foldl (retrPiece (clusterOf c.core)) (m, [])
      .ok (r.1, ofBytes r.2, ps.findSome? (fun (sa, k) => seenKind m 1000 sa k))

/-- Added latency of the lines that a cluster's cache got between two states. -/
def retrMiss (m0 m1 : Mach) (cl : Nat) : Nat :=
  maxN (((clusOf m1 cl).retr.filter (fun (k, _) => (tget (clusOf m0 cl).retr k).isNone)).map (fun (k, _) => latency (retrUnit cl) (homeOf k)))

/-! Where an element lies (09 R272, R273). -/

inductive Loc where
  | absent
  | bad
  | elem (a : Int)
  | cont (a sc : Int) (k : Nat)
  deriving DecidableEq, Repr

/-- The first position from `k` on, in at most `f` positions, whose index is `t`. -/
def findPos (e : Env) (c : Ctx) (aux t : Nat) : Nat → Nat → Mach → Except Out (Mach × Option Nat × Bool)
  | 0, _, m => .ok (m, none, false)
  | f + 1, k, m =>
    match retrRead e c m ((aux + 4 * k : Nat) : Int) 4 with
    | .error o => .error o
    | .ok (m1, x, b) => if b.isSome then .ok (m1, none, true) else if x = t then .ok (m1, some k, false) else findPos e c aux t f (k + 1) m1

/-- Place of the sum of coordinates from dimension `d0` on. -/
def strided (cd : Card) (idx : List Nat) (d0 : Nat) : Int :=
  (cd.base : Int) + ((List.range 5).map (fun d => if d0 ≤ d then ((lget idx d 0 : Nat) : Int) * lget cd.str d 0 else 0)).foldl (· + ·) 0

/-- The row of CSR and BSR: the position of column `col`, below `lim`. -/
def rowFind (e : Env) (c : Ctx) (cd : Card) (row col lim : Nat) (m : Mach) : Except Out (Mach × Option Nat × Bool) :=
  match retrRead e c m ((cd.aux0 + 4 * row : Nat) : Int) 4 with
  | .error o => .error o
  | .ok (m1, a, b1) =>
    match retrRead e c m1 ((cd.aux0 + 4 * row + 4 : Nat) : Int) 4 with
    | .error o => .error o
    | .ok (m2, b, b2) => if b1.isSome || b2.isSome then .ok (m2, none, true) else findPos e c cd.aux1 col (min b lim - a) a m2

def contLoc (cd : Card) (w : Nat) (idx : List Nat) : Loc :=
  let n := nPer w
  let a := strided cd idx 1 + 16 * ((lget idx 0 0 / n : Nat) : Int)
  .cont a ((cd.aux0 : Int) + (a - cd.base) / 16) (lget idx 0 0 % n)

/-- The kept value of a 2:4 line, when position `p` of group `g` is kept (09 R273). -/
def keptOf (hdr p g : Nat) : Option Nat :=
  let p0 := hdr % 4
  let p1 := hdr / 4 % 4
  if p0 < p1 then (if p = p0 then some (2 * g) else if p = p1 then some (2 * g + 1) else none) else none

def locate (e : Env) (c : Ctx) (cd : Card) (ek : EKind) (w : Nat) (idx : List Nat) (m : Mach) : Except Out (Mach × Loc) :=
  let i0 := lget idx 0 0
  let i1 := lget idx 1 0
  if (List.range 5).any (fun d => decide (lget cd.ext d 0 ≤ lget idx d 0)) then .ok (m, .absent)
  else match cd.dec with
    | 0 => .ok (m, .elem (strided cd idx 0))
    | 1 =>
      match rowFind e c cd i1 i0 cd.nnz m with
      | .error o => .error o
      | .ok (m1, _, true) => .ok (m1, .bad)
      | .ok (m1, none, _) => .ok (m1, .absent)
      | .ok (m1, some k, _) => .ok (m1, .elem ((cd.base : Int) + (k : Int) * lget cd.str 0 0))
    | 2 =>
      let b := 2 ^ cd.blke
      match rowFind e c cd (i1 / b) (i0 / b) (ceilDiv cd.nnz (b * b)) m with
      | .error o => .error o
      | .ok (m1, _, true) => .ok (m1, .bad)
      | .ok (m1, none, _) => .ok (m1, .absent)
      | .ok (m1, some k, _) =>
        let s := k * (b * b) + i1 % b * b + i0 % b
        if cd.nnz ≤ s then .ok (m1, .absent) else .ok (m1, .elem ((cd.base + s * ekBytes ek : Nat) : Int))
    | 3 =>
      let q := 96 / ekBytes ek
      let line := strided cd idx 1 + 128 * ((i0 / (2 * q) : Nat) : Int)
      let u := i0 % (2 * q)
      match retrRead e c m (line + ((u / 8 : Nat) : Int)) 1 with
      | .error o => .error o
      | .ok (m1, _, some _) => .ok (m1, .bad)
      | .ok (m1, b, none) =>
        match keptOf (b / 16 ^ (u / 4 % 2) % 16) (u % 4) (u / 4) with
        | some v => .ok (m1, .elem (line + 32 + ((v * ekBytes ek : Nat) : Int)))
        | none => .ok (m1, .absent)
    | 4 => .ok (m, contLoc cd w idx)
    | _ =>
      if cd.nnz ≤ i1 * lget cd.ext 0 0 + i0 then .ok (m, .absent)
      else .ok (m, if isNarrow ek then contLoc cd w idx else .elem (strided cd idx 0))

/-! Delivery of an element (09 R274). -/

/-- Rounding mode of a retrieval. -/
def retrMode (m : Mach) (c : Ctx) (o : FE) : RMode := modeOf (bitsOf o.ctl.toNat 11 8) (bitsOf (grpOf m c.g).mode.toNat 2 0)
def retrCvt (o : FE) : Bool := bitOf o.ctl.toNat 16

/-- Width in bits of a delivered element. -/
def outBits (ek : EKind) (cvt : Bool) : Nat :=
  match ek with
  | .ty t => if !cvt && tyBits t = 64 then 64 else 32
  | .narrow _ => 32

/-- Poison of a kind as delivered: the f32 pattern under CVT 1, else the pattern of a load of the element's width (05 R146, R151). -/
def badElem (e : Env) (m : Mach) (c : Ctx) (ek : EKind) (cvt : Bool) (kind : Nat) : Mach × Nat :=
  let r := genPoison e m c.g c.lane c.pc kind 0
  (r.1, if cvt then poisonBits .f32 kind r.2 else match ek with
    | .ty t => loadPoison (tyBits t) kind r.2
    | .narrow _ => 0xFF)

/-- base + v × step, exactly and then rounded (09 R274). -/
def kvzOf (md : RMode) (base step : Nat) (v : XVal) : Option Nat :=
  roundX .f32 md (xAdd md (decodeF .f32 base).exact (xMul v (decodeF .f32 step).exact))

/-- Poison of the pair, then INVALID, then the value. -/
def kvzSettle (e : Env) (m : Mach) (c : Ctx) (md : RMode) (base step : Nat) (v : XVal) : Mach × Nat :=
  settleF e m c .f32 [base, step] (kvzOf md base step v)

/-- An element of a wide type; a kvz code under CVT 0 stays as stored. -/
def wideElem (e : Env) (m : Mach) (c : Ctx) (t : NTy) (cvt : Bool) (md : RMode) (kv : Option (Nat × Nat)) (n : Nat) : Mach × Nat :=
  if !cvt then (m, if (t == .s8 || t == .s16) && kv.isNone then (regWords t n).headD 0 |>.toNat else n)
  else if t == .f32 && kv.isNone then (m, n)
  else if tyFloat t && isPoison t n then convPoison e m c t .f32 n
  else
    let x := if tyFloat t then (decodeF t n).exact else xInt (intVal t n)
    match kv with
    | some (b, s) => kvzSettle e m c md b s x
    | none => (m, (roundX .f32 md x).getD 0)

/-- An element of a container, after the check of 05 R136; FMT for a TAG mismatch. -/
def narrowElem (e : Env) (m : Mach) (c : Ctx) (f : NFmt) (k sc n j : Nat) (cvt : Bool) (md : RMode) (kv : Option (Nat × Nat)) : Except Out (Mach × Nat) :=
  match contCheck n sc k with
  | .mismatch => .error (.cause cFMT 0 0 false 0)
  | .poisoned kind ix => .ok (m, if cvt then poisonBits .f32 kind ix else contElem (nWidth f) n j)
  | .memuc => if cvt then .ok (poisonVal e m c.g c.lane c.pc 1 0 .f32) else .ok (m, contElem (nWidth f) n j)
  | .good =>
    let code := contElem (nWidth f) n j
    if !cvt then .ok (m, code)
    else match kv with
      | some (b, s) => .ok (kvzSettle e m c md b s (nValue f sc code))
      | none => .ok (m, (roundX .f32 md (nValue f sc code)).getD 0)

/-- The pair (base, step) of a kvz row. -/
def kvzPair (e : Env) (c : Ctx) (cd : Card) (i1 : Nat) (m : Mach) : Except Out (Mach × Option (Nat × Nat) × Option Nat) :=
  if cd.dec = 5 then
    match retrRead e c m ((cd.aux1 + 8 * i1 : Nat) : Int) 8 with
    | .error o => .error o
    | .ok (m1, x, b) => .ok (m1, some (x % 2 ^ 32, x / 2 ^ 32), b)
  else .ok (m, none, none)

/-- Reads and delivers one element. -/
def deliver (e : Env) (c : Ctx) (cd : Card) (ek : EKind) (cvt : Bool) (md : RMode) (idx : List Nat) (m : Mach) : Except Out (Mach × Nat) :=
  let f := match ek with | .narrow k => (fmFmt (fmOf m c.g k)) | _ => none
  let w := (f.map nWidth).getD 8
  match locate e c cd ek w idx m with
  | .error o => .error o
  | .ok (m1, .absent) => .ok (m1, 0)
  | .ok (m1, .bad) => .ok (badElem e m1 c ek cvt 1)
  | .ok (m1, l) =>
    match (if cvt then kvzPair e c cd (lget idx 1 0) m1 else .ok (m1, if cd.dec = 5 then some (0, 0) else none, none)) with
    | .error o => .error o
    | .ok (m2, _, some k) => .ok (badElem e m2 c ek cvt k)
    | .ok (m2, kv, none) =>
      match l, ek with
        | .elem a, .ty t =>
          match retrRead e c m2 a (tyBits t / 8) with
          | .error o => .error o
          | .ok (m3, _, some k) => .ok (badElem e m3 c ek cvt k)
          | .ok (m3, n, none) => .ok (wideElem e m3 c t cvt md kv n)
        | .cont a sc j, .narrow k =>
          match retrRead e c m2 sc 1 with
          | .error o => .error o
          | .ok (m3, s, b1) =>
            match retrRead e c m3 a 16 with
            | .error o => .error o
            | .ok (m4, n, b2) =>
              match b1 <|> b2, f with
              | some kind, _ => .ok (badElem e m4 c ek cvt kind)
              | none, some f => narrowElem e m4 c f k s n j cvt md kv
              | none, none => .ok (m4, 0)
        | _, _ => .ok (m2, 0)

/-- FMT of a narrow format register that 05 R132 refuses. -/
def fmRefused (m : Mach) (g : Nat) (ek : EKind) : Bool :=
  match ek with
  | .narrow k => (fmFmt (fmOf m g k)).isNone
  | _ => false

/-- Coordinates from the registers at an operand; zero above NDIM. -/
def coords (e : Env) (m : Mach) (c : Ctx) (o : Opnd) (nd : Nat) : List Nat :=
  (List.range 5).map (fun d => if d < nd then (readOp e m c .n32 (opndUp o d)).2 else 0)

/-- The place of a register range lies in the file: s0 to s95, v0 to v255 (06 R171). -/
def rangeFits (o : Opnd) (k : Nat) : Bool :=
  match o with
  | .s n => decide (n.toNat + k ≤ 96)
  | .v n => decide (n.toNat + k ≤ 256)
  | _ => true

/-- Elements from `i` on, as register values, until one stops. -/
def rfetElems (e : Env) (c : Ctx) (cd : Card) (ek : EKind) (cvt : Bool) (md : RMode) (idx : List Nat) : Nat → Nat → Mach → Mach × List (Nat × Nat) × Option Out
  | 0, _, m => (m, [], none)
  | f + 1, i, m =>
    match deliver e c cd ek cvt md (setAt idx 0 (lget idx 0 0 + i)) m with
    | .error o => (m, [], some (withProg o i))
    | .ok (m1, x) => let r := rfetElems e c cd ek cvt md idx f (i + 1) m1; (r.1, (i, x) :: r.2.1, r.2.2)

/-- Clock at which a retrieval of `n` elements lands (09 R275). -/
def retrLand (e : Env) (m0 m : Mach) (c : Ctx) (n : Nat) : Nat :=
  e.now + 20 + 2 * n + retrMiss m0 m (clusterOf c.core) + Config.delay m.free

/-- Checks 1 and 2 of R275, which hold for every member. -/
def rfetCheck (e : Env) (o : FE) (c : Ctx) (m : Mach) : Except Out (Card × EKind) :=
  match readCard e m c (readOp e m c .n64 o.sa).2 with
  | .error out => .error out
  | .ok cd =>
    let ek := (ekindOf cd.efmt).getD (.ty .s32)
    let mm := bitsOf o.ctl.toNat 4 0 + 1
    if fmRefused m c.g ek then .error (.cause cFMT 0 0 false 0)
    else if outBits ek (retrCvt o) = 64 && (vNo o.dst % 2 == 1 || decide (256 < vNo o.dst + 2 * mm)) then .error (.cause cFMT 0 0 false 0)
    else if !rangeFits o.sb cd.ndim then .error (.cause cILLOP 0 0 false 0)
    else .ok (cd, ek)

/-- A retrieval that stops partway keeps what it has read; after a failure of translation its token stays pending until the replay has ended (08 R224, 09 R275). -/
def retrStop (c : Ctx) (m : Mach) (tm : Nat) (wr : List RegWr) (toks : List TokRef) (none_ : Bool) (out : Out) : BRes :=
  if none_ || !replays out then { m := land m tm wr [], out := out } else { m := partToks c toks (land m tm wr toks), out := out }

def rfetBody (o : FE) (e : Env) (c : Ctx) (m : Mach) : BRes :=
  match rfetCheck e o c m with
  | .error out => { m := m, out := out }
  | .ok (cd, ek) =>
    let mm := bitsOf o.ctl.toNat 4 0 + 1
    let wide := outBits ek (retrCvt o) = 64
    if (thrOf m c.g c.lane).v.length < max (vTop cd.ndim o.sb) (vTop (if wide then 2 * mm else mm) o.dst) then trapOf m cBUDGET
    else
      let h := (readOp e m c .n64 o.sa).2
      let r := rfetElems e c cd ek (retrCvt o) (retrMode m c o) (coords e m c o.sb cd.ndim) (mm - c.prog) c.prog (noteCard e m c h)
      let wr := r.2.1.flatMap (fun (i, x) =>
        if wide then wrReg c .n64 (opndUp o.dst (2 * i)) x else wrReg c .n32 (opndUp o.dst i) x)
      let tm := retrLand e m r.1 c mm
      let m1 : Mach := { r.1 with free := r.1.free + 1 }
      match r.2.2 with
      | none => ok (replayToks c c.tok (land m1 tm wr c.tok))
      | some out => retrStop c m1 tm wr c.tok (r.2.1.isEmpty) out

def execRfet (h : Hdr) (o : FE) (s : State) := runI (.rfet h o) h false (rfetBody o) s

/-- Element widths of a retrieved tile agree (09 R275). -/
def rfettFits (ek : EKind) (cvt : Bool) (ew : Nat) : Bool :=
  if cvt then ew == 2
  else match ek with
    | .ty t => decide (ew < 4) && ewBytes ew == tyBits t / 8
    | .narrow _ => false

/-- One row of a retrieved tile. -/
def rfettRow (e : Env) (c : Ctx) (cd : Card) (ek : EKind) (cvt : Bool) (md : RMode) (idx : List Nat) : Nat → Nat → Mach → Except Out (Mach × List Nat)
  | 0, _, m => .ok (m, [])
  | f + 1, j, m =>
    match deliver e c cd ek cvt md (setAt idx 0 (lget idx 0 0 + j)) m with
    | .error o => .error o
    | .ok (m1, x) =>
      match rfettRow e c cd ek cvt md idx f (j + 1) m1 with
      | .error o => .error o
      | .ok (m2, xs) => .ok (m2, x :: xs)

/-- Rows from `i` on, until one stops. -/
def rfettRows (e : Env) (c : Ctx) (cd : Card) (ek : EKind) (cvt : Bool) (md : RMode) (idx : List Nat) (cols : Nat) : Nat → Nat → Mach → Mach × List (Nat × List Nat) × Option Out
  | 0, _, m => (m, [], none)
  | f + 1, i, m =>
    match rfettRow e c cd ek cvt md (setAt idx 1 (lget idx 1 0 + i)) cols 0 m with
    | .error o => (m, [], some (withProg o i))
    | .ok (m1, xs) => let r := rfettRows e c cd ek cvt md idx cols f (i + 1) m1; (r.1, (i, xs) :: r.2.1, r.2.2)

/-- HIMAG of a retrieved element (05 R153). -/
def hiElem (ek : EKind) (cvt : Bool) (x : Nat) : Bool :=
  if cvt then hiTy .f32 x else match ek with
    | .ty t => hiTy t x
    | .narrow _ => true

def rfettBody (o : FE) (e : Env) (c : Ctx) (m : Mach) : BRes :=
  let k := tileNo o.dst
  let tc := shapeOf m c.core k
  let h := (readOp e m c .n64 o.sa).2
  if !tileHeld m c.team k then trapOf m cPROT
  else match readCard e m c h with
    | .error out => { m := m, out := out }
    | .ok cd =>
      let ek := (ekindOf cd.efmt).getD (.ty .s32)
      if fmRefused m c.g ek || !rfettFits ek (retrCvt o) (tcEw tc) then trapOf m cFMT
      else if !rangeFits o.sb cd.ndim then trapOf m cILLOP
      else
        let eb := ewBytes (tcEw tc)
        let r := rfettRows e c cd ek (retrCvt o) (retrMode m c o) (coords e m c o.sb cd.ndim) (tcCols tc) (tcRows tc - c.prog) c.prog (noteCard e m c h)
        let hi := r.2.1.any (fun (_, xs) => xs.any (hiElem ek (retrCvt o)))
        let wr := r.2.1.map (fun (i, xs) => RegWr.tile c.core k (i * tcCols tc * eb) (xs.flatMap (toBytes eb))) ++ [RegWr.himag c.core k (c.prog == 0) hi]
        let tm := retrLand e m r.1 c (tcRows tc)
        let m1 : Mach := { r.1 with free := r.1.free + 1 }
        match r.2.2 with
        | none => ok (replayToks c c.toks (land m1 tm wr c.toks))
        | some out => retrStop c m1 tm wr c.toks (r.2.1.isEmpty) out

def execRfett (h : Hdr) (o : FE) (s : State) := runI (.rfett h o) h true (rfettBody o) s

/-! Sealing (09 R276). -/

def csealBody (o : FE) (e : Env) (c : Ctx) (m : Mach) : BRes :=
  let a := readOp e m c .n64 o.sa
  match checkAddr e a.1 c (a.2 : Int) 128 128 2 false with
  | .ok sa =>
    let p := openOp a.1 1 (e.now + 2) (if isS o.dst then c.toks else c.tok)
    ok (send e p.2 c.core (homeOf sa) false (some c.ref) (if isS o.dst then c.lanes else [c.lane]) 3 false true true p.1 (.seal sa (if o.dst == .v 0 then none else some o.dst) c.pc a.2))
  | .stop out => { m := a.1, out := out }
  | _ => trapAt a.1 cPROT (a.2 % 2 ^ 56)

def execCseal (h : Hdr) (o : FE) (s : State) := runI (.cseal h o) h (isS o.dst) (csealBody o) s

/-! Copies (09 R265 to R270). -/

structure Slice where
  sadr : Nat
  dadr : Nat
  sstr : Int
  dstr : Int
  rbytes : Nat
  rows : Nat
  deriving DecidableEq, Repr

/-- The fields of a slice descriptor (09 R266). -/
def sliceOf (n : Nat) : Slice :=
  { sadr := bitsOf n 63 0, dadr := bitsOf n 127 64, sstr := signExt (bitsOf n 159 128) 32, dstr := signExt (bitsOf n 191 160) 32,
    rbytes := bitsOf n 223 192, rows := bitsOf n 235 224 }

/-- First bytes of the rows of a slice; none when it is empty. -/
def sliceRows (s : Slice) : List (Int × Int) :=
  if s.rbytes = 0 then [] else (List.range s.rows).map (fun (i : Nat) => ((s.sadr : Int) + (i : Int) * s.sstr, (s.dadr : Int) + (i : Int) * s.dstr))

/-- Check 5 of R266 for a row of `n` bytes. -/
def rowBad (e : Env) (c : Ctx) (a : Int) (n : Nat) : Bool :=
  if a < 0 || decide ((2 ^ 56 : Int) < a + n) then true
  else match regionOf a.toNat, regionOf (a.toNat + n - 1) with
    | .range, _ => true
    | _, .range => true
    | .pad k _, .pad j _ => j != k || (placeCore e.sys c.part k).isNone
    | .pad _ _, _ => true
    | _, .pad _ _ => true
    | .own _, .own _ => false
    | .own _, _ => true
    | _, .own _ => true
    | _, _ => false

def inMeta (a : Int) (n : Nat) : Bool :=
  match regionOf a.toNat, regionOf (a.toNat + n - 1) with
  | .metaw _, _ => true
  | _, .metaw _ => true
  | _, _ => false

def inPad (a : Nat) : Bool :=
  match regionOf a with
  | .pad _ _ => true
  | .own _ => true
  | _ => false

/-- A completion object: an address, or none. -/
def compObj (e : Env) (m : Mach) (c : Ctx) (o : Opnd) : Option Nat :=
  match o with
  | .s _ => some (readOp e m c .n64 o).2
  | _ => none

/-- Instance `i` of a channel in one clock: an instance that has its N slices starts in this clock, and a further slice of the clock opens another (09 R267). -/
def chanKey (ch i : Nat) : Nat := ch + 16 * i

/-- The instance of a channel that is open. -/
def openChan (t : Team) (ch : Nat) : Nat × Option Chan :=
  let l := t.chans.filter (fun (k, _) => k % 16 == ch)
  match l.find? (fun (_, x) => decide (x.slices.length < x.n)) with
  | some (k, x) => (k, some x)
  | none => (chanKey ch (match l.map (·.1 / 16) with | [] => 0 | i => maxN i + 1), none)

/-- Checks 2 to 7 of R266; the cause of the first that fails. -/
def cpyCheck (e : Env) (m : Mach) (c : Ctx) (n : Nat) (col arr : Option Nat) (want : Nat × Option Nat × Option Nat × Dword) (ch : Nat) : Option Nat :=
  let s := sliceOf n
  let rs := sliceRows s
  if bitsOf n 255 236 ≠ 0 || bitsOf n 127 120 ≠ 0 || bitsOf n 63 56 ≠ 0 || 0x00FFFFFC < s.rbytes then some cRANGE
  else if s.sadr % 4 ≠ 0 || s.dadr % 4 ≠ 0 || s.sstr % 4 ≠ 0 || s.dstr % 4 ≠ 0 || s.rbytes % 4 ≠ 0 || col.any (fun a => a % 8 != 0) || arr.any (fun a => a % 8 != 0) then some cMISAL
  else if arr.any (fun a => !inPad a) then some cRANGE
  else if rs.any (fun r => rowBad e c r.1 s.rbytes || rowBad e c r.2 s.rbytes) || (col.toList ++ arr.toList).any (fun (a : Nat) => rowBad e c (a : Int) 8) then some cRANGE
  else if rs.any (fun r => inMeta r.2 s.rbytes) || col.any (fun (a : Nat) => inMeta (a : Int) 8) then some cPROT
  else match (openChan (teamOf m c.team) ch).2 with
    | some x => if (x.n, x.col, x.arr, x.stamp) == want then none else some cRANGE
    | none => none

/-- Inserts a slice in the order of clock, mark and group index (09 R267). -/
def insSlice (k : Nat) (g : Nat) (l : List Nat) : List (Nat × List Nat) → List (Nat × List Nat)
  | [] => [(g, k :: l)]
  | (h, x) :: r => if x.headD 0 ≤ k then (h, x) :: insSlice k g l r else (g, k :: l) :: (h, x) :: r

/-- Tokens of one group. -/
def toksOf (g : Nat) (l : List TokRef) : List TokRef := l.filter (fun t => t.g == g)

/-- A slice goes to an instance of the same terms that is full but began to fill up in this clock, when it is counted before one that stands there; that one goes on in its place (09 R267). -/
def bumpSlice (x : Chan) (key g : Nat) (l : List Nat) (toks : List TokRef) : Chan × Nat × Nat × List Nat × List TokRef :=
  let all := insSlice key g l x.slices
  match all.drop x.n with
  | (h, k :: r) :: _ =>
    let ts := x.toks ++ toks
    ({ x with slices := all.take x.n, toks := if h = g then x.toks else ts.filter (fun t => t.g != h) }, k, h, r, if h = g then toks else toksOf h ts)
  | _ => (x, key, g, l, toks)

/-- Adds a slice to the open instance of its channel, or opens one (09 R267). -/
def addSlice (m : Mach) (team ch : Nat) (x0 : Chan) (key g : Nat) (l : List Nat) (toks : List TokRef) : Mach :=
  let full := ((teamOf m team).chans.filter (fun (k, x) => k % 16 == ch && decide (x.n ≤ x.slices.length)
    && (x.n, x.col, x.arr, x.stamp) == (x0.n, x0.col, x0.arr, x0.stamp)))
  let r := full.foldl (fun (a : Mach × Nat × Nat × List Nat × List TokRef) (k, x) =>
    let b := bumpSlice x a.2.1 a.2.2.1 a.2.2.2.1 a.2.2.2.2
    (updTeam a.1 team (fun t => { t with chans := tset t.chans k b.1 }), b.2)) (m, key, g, l, toks)
  let o := openChan (teamOf r.1 team) ch
  let x := o.2.getD x0
  updTeam r.1 team (fun t => { t with chans := tset t.chans o.1 { x with slices := insSlice r.2.1 r.2.2.1 r.2.2.2.1 x.slices, toks := x.toks ++ r.2.2.2.2 } })

def cpyBody (o : FE) (e : Env) (c : Ctx) (m : Mach) : BRes :=
  let d := (readOp e m c .n64 o.sa).2
  match checkAddr e m c (d : Int) 32 32 0 false with
  | .ok sa =>
    let r := engRead e m c sa 32
    let n := r.2
    let col := compObj e m c o.sb
    let arr := compObj e m c o.sc
    let nn := bitsOf o.ctl.toNat 23 16 + 1
    let ch := bitsOf o.ctl.toNat 15 12
    let stamp : Dword := BitVec.ofNat 64 (bitsOf o.ext.toNat 63 0)
    match cpyCheck e r.1 c n col arr (nn, col, arr, stamp) ch with
    | some k => trapAt r.1 k d
    | none =>
      let key := (e.now * 4096 + markOf e.sys c.part c.core) * 64 + (grpOf m c.g).gi
      let x0 : Chan := { n := nn, col := col, arr := arr, stamp := stamp, slices := [], toks := [] }
      ok (addSlice r.1 c.team ch x0 key c.g ([c.core, n, c.lane, c.pc, m.serial, c.lanes.foldl (fun a l => a + 2 ^ l) 0] ++ knowOf m (some c.ref) c.lanes (.monArm 0)) c.toks)
  | .stop out => { m := m, out := out }
  | _ => trapAt m cPROT (d % 2 ^ 56)

def execCpy (h : Hdr) (o : FE) (s : State) := runI (.cpy h o) h true (cpyBody o) s

/-- Address of an offset in the slice of a mark (03 R77). -/
def padVa (mark off : Nat) : Nat := 0xF0000000000000 + mark * 2 ^ 20 + off

/-- A word of completion control: an offset, none, or refused (09 R270). -/
def ctlWord (w : Nat) : Except Unit (Option Nat) :=
  if bitsOf w 30 20 ≠ 0 || bitsOf w 19 0 % 8 ≠ 0 then .error () else .ok (if bitOf w 31 then some (bitsOf w 19 0) else none)

/-- The copy of a `cpym`. -/
def cpymCopy (c : Ctx) (m : Mach) (src off len : Nat) (marks : List Nat) (col arr : Option Nat) (stamp : Nat) : Copy :=
  { cluster := clusterOf c.core, team := c.team, part := c.part, g := c.g, lane := c.lane, pc := c.pc, core := c.core,
    know := knowOf m (some c.ref) c.lanes (.monArm 0), keep := [], after := c.lanes.map (fun l => ({ g := c.g, lane := l }, m.serial)), todo := [{ core := c.core, src := src, dst := off, len := len }], next := 0,
    out := 0, incs := 0, marks := marks, arrs := arr.toList.flatMap (fun a => marks.map (fun k => padVa k a)),
    cols := col.toList.flatMap (fun a => marks.map (fun k => padVa k a)), colSent := false, colOut := 0, stamp := stamp % 2 ^ 61, poison := false,
    toks := c.toks, old := [], blocked := false, ended := false, xcon := none }

def cpymBody (o : FE) (e : Env) (c : Ctx) (m : Mach) : BRes :=
  let src := (readOp e m c .n64 o.sa).2
  let off := (readOp e m c .n32 o.sb).2
  let len := bitsOf o.ctl.toNat 19 0
  let smb := bitsOf o.ext.toNat 95 84
  let marks := ((List.range 16).filter (bitOf (bitsOf o.ext.toNat 83 68))).map (fun k => smb + k)
  let ctl := match o.sc with | .s _ => (readOp e m c .n64 o.sc).2 | _ => 0
  if src % 4 ≠ 0 || off % 4 ≠ 0 then trapAt m cMISAL (src % 2 ^ 56)
  else match ctlWord (ctl % 2 ^ 32), ctlWord (ctl / 2 ^ 32) with
    | .ok col, .ok arr =>
      if marks.any (fun k => decide (0xFFF < k) || (placeCore e.sys c.part k).isNone) || decide (2 ^ 20 < off + len) || rowBad e c (src : Int) len then trapAt m cRANGE (src % 2 ^ 56)
      else ok { m with serial := m.serial + 1, copies := tset m.copies m.serial (cpymCopy c m src off len marks col arr (bitsOf o.ext.toNat 63 0)) }
    | _, _ => trapAt m cRANGE (src % 2 ^ 56)

def execCpym (h : Hdr) (o : FE) (s : State) := runI (.cpym h o) h true (cpymBody o) s

end Sys2Proof.Machine
end

