-- ==== Sys2Proof/Machine/Tiles.lean ====
section
/-! DEFINITION. Matrix postings, tile moves, row access and key bounds (spec/09 R277 to R284, 05 R156). -/
namespace Sys2Proof.Machine
open Sys2Proof

/-- Element `i` of a tile of width code `w`. -/
def tileElem (m : Mach) (core k w i : Nat) : Nat := ofBytes (tileBytes m core k (i * ewBytes w) (ewBytes w))

/-! Postings (09 R277 to R281). -/

/-- Element width in bits of an operand format below 8, and its width code (09 R277, R278). -/
def fmtBits (f : Nat) : Nat := match f with | 0 | 1 => 8 | 2 | 3 => 16 | _ => 32
def fmtEw (f : Nat) : Nat := match f with | 0 | 1 => 0 | 2 | 3 => 1 | _ => 2

/-- K of a pass (09 R278). -/
def passK (f w acols : Nat) (sparse : Bool) : Nat :=
  if 8 ≤ f then acols * nPer w
  else if sparse then acols * (fmtBits f / 8) / 128 * (2 * (96 / (fmtBits f / 8))) else acols

/-- A container of A or B whose TAG names another format register (09 R278). -/
def tagBad (m : Mach) (core t sc off rows cols k : Nat) : Bool :=
  (List.range rows).any (fun i => (List.range cols).any (fun j =>
    contCheck (tileElem m core t 4 (i * cols + j)) (tileElem m core sc 0 (i * 64 + off + j)) k == .mismatch))

/-- A posting that raises FMT (09 R278). -/
def postBad (m : Mach) (c : Ctx) (f w : Nat) (sparse : Bool) (tc ta tb sc : Nat) : Bool :=
  let A := shapeOf m c.core ta
  let B := shapeOf m c.core tb
  let C := shapeOf m c.core tc
  let S := shapeOf m c.core sc
  let ew := if 8 ≤ f then 4 else fmtEw f
  tcEw A != ew || tcEw B != ew
    || (sparse && tcCols A * (fmtBits f / 8) % 128 != 0)
    || tcCols B != (if sparse then passK f w (tcCols A) true else tcCols A)
    || tcEw C != 2 || tcRows C != tcRows A || tcCols C != tcRows B
    || (decide (8 ≤ f) && (tcEw S != 0 || tcCols S != 64 || decide (tcRows S < max (tcRows A) (tcRows B)) || decide (32 < tcCols A)
        || (nfmtOf (fmOf m c.g (f % 8)) w).isNone
        || tagBad m c.core ta sc 0 (tcRows A) (tcCols A) (f % 8) || tagBad m c.core tb sc 32 (tcRows B) (tcCols B) (f % 8)))

/-- The frame of a `.zs` posting and its VER, when ZF says that A is zero; an outcome when the read stops (09 R280). -/
def zeroSkip (e : Env) (m : Mach) (c : Ctx) (zs : Bool) (o : Opnd) : Except Out (Option (Nat × Nat)) :=
  if !zs then .ok none
  else
    let a := (readOp e m c .n64 o).2
    if 2 ^ 56 ≤ a then .error (.cause cRANGE (a % 2 ^ 56) 0 false 0)
    else if a % 16384 ≠ 0 then .error (.cause cMISAL a 0 false 0)
    else match metaFrame e m c.core c.part (a / 16384) with
      | none => .error (.cause cRANGE a 0 false 0)
      | some k => .ok (if (frameOf m k).2 then some (k, (frameOf m k).1.toNat) else none)

/-- The reservation of a posting: shapes, format register and mode as they stand (09 R279). -/
def mkReq (e : Env) (m : Mach) (c : Ctx) (o : FA) (f w : Nat) (sparse z : Bool) (sc : Option Nat) (zs : Option (Nat × Nat)) : MReq :=
  let A := shapeOf m c.core (tileNo o.sa)
  let B := shapeOf m c.core (tileNo o.sb)
  { g := c.g, lane := c.lane, pc := c.pc, tm := e.now, pri := o.md.toNat / 8, fmt := f, sparse := sparse, z := z, c := tileNo o.dst, a := tileNo o.sa, b := tileNo o.sb, sc := sc,
    m := tcRows A, n := tcRows B, k := passK f w (tcCols A) sparse, acols := tcCols A, w := w, fm := fmOf m c.g (f % 8),
    rows := (List.range (tcRows A)).filter (fun i => c.lanes.contains (i % 32)), zs := zs, mode := (grpOf m c.g).mode, toks := c.toks, xc := none }

/-- A posting takes an entry of the reservation table, and its group no longer waits for one (09 R281). -/
def postTo (g : Nat) (q : MReq) (c : Cluster) : Cluster := { c with table := c.table ++ [q], mwait := c.mwait.filter (· != g) }

/-- Posts a pass: allocation, alignment, FMT, then the metadata word. -/
def postBody (h : Hdr) (o : FA) (sparse : Bool) (e : Env) (c : Ctx) (m : Mach) : BRes :=
  let f := fnLo h
  let narrow := 8 ≤ f
  let w := if narrow then o.md.toNat % 8 + 3 else fmtBits f
  let ts := [tileNo o.dst, tileNo o.sa, tileNo o.sb] ++ (if narrow then [tileNo o.sc] else [])
  let zs := !sparse && bitOf h.fn.toNat 5
  let r := zeroSkip e m c zs o.sc
  let misal := match r with | .error (.cause k a _ _ _) => if k = cMISAL then some a else none | _ => none
  if ts.any (fun t => !tileHeld m c.team t) then trapOf m cPROT
  else match misal with
    | some a => trapAt m cMISAL a
    | none =>
      if postBad m c f w sparse (tileNo o.dst) (tileNo o.sa) (tileNo o.sb) (tileNo o.sc) then trapOf m cFMT
      else match r with
        | .error out => { m := m, out := out }
        | .ok z =>
          ok (updClus m (clusterOf c.core) (postTo c.g (mkReq e m c o f w sparse (bitOf h.fn.toNat 4) (if narrow then some (tileNo o.sc) else none) z)))

def execMma (h : Hdr) (o : FA) (s : State) := runI (.mma h o) h true (postBody h o false) s

def execMmsp (h : Hdr) (o : FA) (s : State) := runI (.mmsp h o) h true (postBody h o true) s

/-! Tile moves (09 R282). -/

def tzroBody (o : FA) (e : Env) (c : Ctx) (m : Mach) : BRes :=
  let k := tileNo o.dst
  if !tileHeld m c.team k then trapOf m cPROT
  else ok (land m (e.now + 2) [.tile c.core k 0 (List.replicate 16384 0), .himag c.core k true false] c.toks)

def execTzro (h : Hdr) (o : FA) (s : State) := runI (.tzro h o) h true (tzroBody o) s

def tmovBody (o : FA) (e : Env) (c : Ctx) (m : Mach) : BRes :=
  let k := tileNo o.dst
  let a := tileNo o.sa
  if !tileHeld m c.team k || !tileHeld m c.team a then trapOf m cPROT
  else ok (land m (e.now + 4) [.tile c.core k 0 (tileBytes m c.core a 0 16384), .himag c.core k true (lget (coreOf m c.core).himag a false)] c.toks)

def execTmov (h : Hdr) (o : FA) (s : State) := runI (.tmov h o) h true (tmovBody o) s

/-! Row access (09 R283). -/

/-- Row, first element and shape of a `trmx` on tile `k`; the outcome when it stops. -/
def trmxCheck (m : Mach) (c : Ctx) (o : FA) (k : Nat) (reg : Opnd) : Option Out :=
  let tc := shapeOf m c.core k
  let mm := o.imm.toNat % 32 + 1
  let bad := fun x => some (Out.cause x 0 0 false 0)
  if tcEw tc = 3 && o.lt.toNat % 2 == 1 then bad cILLOP
  else if !tileHeld m c.team k then bad cPROT
  else if tcCols tc < bitsOf o.imm.toNat 15 8 + mm then bad cRANGE
  else if tcEw tc = 4 then bad cFMT
  else if tcEw tc = 3 && (vNo reg % 2 == 1 || decide (256 < vNo reg + 2 * mm)) then bad cFMT
  else none

/-- Row of the member. -/
def trmxRow (c : Ctx) (o : FA) : Nat := c.lane + 32 * (o.md.toNat % 2)

def trmxGetBody (h : Hdr) (o : FA) (e : Env) (c : Ctx) (m : Mach) : BRes :=
  let k := tileNo o.sa
  let tc := shapeOf m c.core k
  match trmxCheck m c o k o.dst with
  | some out => { m := m, out := out }
  | none =>
    let mm := o.imm.toNat % 32 + 1
    let xs := (List.range mm).map (fun i =>
      if tcRows tc ≤ trmxRow c o then 0 else tileElem m c.core k (tcEw tc) (trmxRow c o * tcCols tc + bitsOf o.imm.toNat 15 8 + i))
    let wr := xs.zipIdx.flatMap (fun (x, i) => if tcEw tc = 3 then wrReg c .n64 (opndUp o.dst (2 * i)) x else wrReg c .n32 (opndUp o.dst i) x)
    ok (land m (e.now + 6) ((if h.ws then [] else wr) ++ wrLatch c (if tcEw tc = 3 then .n64 else .n32) o.lt.toNat [c.lane] (xs.headD 0)) c.tok)

def execTrmxGet (h : Hdr) (o : FA) (s : State) := runI (.trmxGet h o) h false (trmxGetBody h o) s

def trmxPutBody (o : FA) (e : Env) (c : Ctx) (m : Mach) : BRes :=
  let k := tileNo o.dst
  let tc := shapeOf m c.core k
  match trmxCheck m c o k o.sa with
  | some out => { m := m, out := out }
  | none =>
    let mm := o.imm.toNat % 32 + 1
    let eb := ewBytes (tcEw tc)
    let xs := (List.range mm).map (fun i =>
      (if tcEw tc = 3 then (readOp e m c .n64 (opndUp o.sa (2 * i))).2 else (readOp e m c .n32 (opndUp o.sa i)).2) % 2 ^ (8 * eb))
    if tcRows tc ≤ trmxRow c o then ok (land m (e.now + 6) [] c.tok)
    else ok (land m (e.now + 6)
      [.tile c.core k ((trmxRow c o * tcCols tc + bitsOf o.imm.toNat 15 8) * eb) (xs.flatMap (toBytes eb)),
       .himag c.core k false (xs.any (hiEw [] (tcEw tc)))] c.tok)

def execTrmxPut (h : Hdr) (o : FA) (s : State) := runI (.trmxPut h o) h false (trmxPutBody o) s

/-! Key bounds (09 R284, 05 R156). -/

/-- n × exp(x) rounded toward +∞, for x below 0. -/
def massBits (n : Nat) : XVal → Nat
  | .dy true k e _ =>
    if 12 < e + (Nat.log2 k : Int) then roundDy .f32 .rup false 1 (-20000) true
    else
      let x := dyFix true k e 1200
      let q := x / ln2Fix 1200
      let r := x - q * ln2Fix 1200
      zivRound .f32 .rup q (fun p => (n : Int) * expFix p (if p ≤ 1200 then r / (2 ^ (1200 - p) : Nat) else r * (2 ^ (p - 1200) : Nat))) 6 128
  | .inf _ => 0
  | _ => 0

/-- One rounded step toward +∞ in f32; none for an invalid one. -/
def upF (x : XVal) : Option Nat := roundX .f32 .rup x

/-- The bound b of R156; none when a step is invalid. -/
def keyBound (q kx kn : List Nat) (sg : Nat) : Option Nat :=
  let ex := fun n => (decodeF .f32 n).exact
  let s := (q.zip (kx.zip kn)).foldl (fun acc (a, x, n) =>
    match acc, upF (xMul (ex a) (ex x)), upF (xMul (ex a) (ex n)) with
    | some t, some u, some v => upF (xAdd .rup (ex t) (ex (fminBits .f32 true u v)))
    | _, _, _ => none) (some 0)
  s.bind (fun t => upF (xMul (ex sg) (ex t)))

/-- b lies below m less the margin. -/
def keySkips (b mx kmrg : Nat) : Bool :=
  xCmp (decodeF .f32 b).exact (xAdd .rne (decodeF .f32 mx).exact (.dy true kmrg (-3) false)) == .lt

def f32MinusOne : Nat := 0xBF800000

/-- The result for the member, with the error bound added at issue. -/
def kbndVal (e : Env) (c : Ctx) (o : FA) (m : Mach) : Mach × Nat :=
  let tq := tileNo o.sa
  let ts := tileNo o.sb
  let cols := tcCols (shapeOf m c.core tq)
  let row := c.lane + 32 * (o.md.toNat % 2)
  let blk := bitsOf o.imm.toNat 15 8
  let nk := bitsOf o.imm.toNat 7 0 + 1
  let get := fun t r => (List.range cols).map (fun d => tileElem m c.core t 2 (r * cols + d))
  let q := get tq row
  let kx := get ts (2 * blk)
  let kn := get ts (2 * blk + 1)
  let mx := (readOp e m c .f32 o.sc).2
  let sg := (readOp e m c .f32 (opndUp o.sc 1)).2
  let mode := (grpOf m c.g).mode.toNat
  if tcRows (shapeOf m c.core tq) ≤ row then (m, f32MinusOne)
  else match (q ++ kx ++ kn ++ [mx, sg]).find? (isPoison .f32) with
    | some p => carryPoison e m c .f32 p
    | none =>
      match keyBound q kx kn sg with
      | none => (m, f32MinusOne)
      | some b =>
        if bitsOf mode 15 8 = 0 || bitOf mode 31 || !keySkips b mx (bitsOf mode 15 8) then (m, f32MinusOne)
        else
          let mass := massBits nk (xAdd .rne (decodeF .f32 b).exact (xNeg (decodeF .f32 mx).exact))
          match (grpOf m c.g).disp with
          | none => (m, mass)
          | some d => match ebndAdd m d.graph (decodeF .f32 mass).exact with
            | some m1 => (m1, mass)
            | none => (m, f32MinusOne)

def kbndBody (h : Hdr) (o : FA) (e : Env) (c : Ctx) (m : Mach) : BRes :=
  let Q := shapeOf m c.core (tileNo o.sa)
  let S := shapeOf m c.core (tileNo o.sb)
  if !tileHeld m c.team (tileNo o.sa) || !tileHeld m c.team (tileNo o.sb) then trapOf m cPROT
  else if tcEw Q != 2 || tcEw S != 2 || tcCols Q != tcCols S || decide (tcRows S < 2 * bitsOf o.imm.toNat 15 8 + 2) then trapOf m cFMT
  else
    let r := kbndVal e c o m
    landA e r.1 c h o .f32 8 r.2

def execKbnd (h : Hdr) (o : FA) (s : State) := runI (.kbnd h o) h (isS o.dst) (kbndBody h o) s

end Sys2Proof.Machine
end

