-- ==== Sys2Proof/Machine/Records.lean ====
section
/-! DEFINITION. Record instructions (spec/09 R285 to R293, 02 R51 to R67). -/
namespace Sys2Proof.Machine
open Sys2Proof

/-- The current graph of the team, or PROT (09 R286). -/
def withGraph (m : Mach) (c : Ctx) (k : Nat → BRes) : BRes :=
  match teamGraph m c.team with
  | some g => k g
  | none => trapOf m cPROT

/-- `ralc`: the Catalogue of the core's die decides (09 R287). -/
def ralcBody (o : FA) (e : Env) (c : Ctx) (m : Mach) : BRes :=
  withGraph m c (fun g =>
    let node := (readOp e m c .n32 o.sa).2
    let n := (readOp e m c .n32 o.sb).2
    if n < 1 || 32 < n || gNodes (graphOf m g) ≤ node then trapOf m cRANGE
    else
      let p := openOp m 1 (e.now + 2) c.toks
      ok (sendSet e p.2 c 3 (catHome (coreDie c.core)) false false false p.1 (.ralc g node n (predNo o.dst) c.lanes)))

def execRalc (h : Hdr) (o : FA) (s : State) := runI (.ralc h o) h true (ralcBody o) s

/-- An edge from `a` into `b` that iterates a fixed point (02 R48). -/
def feedback (gr : Graph) (a b : Nat) : Bool :=
  nFix gr b && decide (nfield gr b 158 151 ≤ a) && decide (a ≤ nfield gr b 150 143) && decide (b ≤ a)

/-- Depth of a derived record (02 R67). -/
def newDepth (m : Mach) (c : Ctx) (gr : Graph) (node : Nat) : Nat :=
  if !inDispatch m c then 0
  else
    let src := regS m c.g 0 % 256
    let d := regS m c.g 7
    if src < node || feedback gr src node then d else d + 1

/-- Bytes of a record: the header with the fields that the device fills, then the payload (02 R51). -/
def recordBytes (accn wgt depth len blk node : Nat) (payload : List Byte) : List Byte :=
  toBytes 16 (pack [(8, node), (12, blk), (4, len), (8, depth), (32, wgt), (64, accn)]) ++ payload

/-- The member waits for the outcome (09 R288). -/
def rputBody (o : FA) (isIn : Bool) (e : Env) (c : Ctx) (m : Mach) : BRes :=
  withGraph m c (fun g =>
    let h := quadOf m c o.sa
    let len := o.imm.toNat % 16
    let node := bitsOf h 7 0
    let depth := if isIn then 0 else newDepth m c (graphOf m g) node
    let accn := if isIn || !(teamOf m c.team).standing then 0 else (grpOf m c.g).accn
    let data := recordBytes accn (bitsOf h 63 32) depth len (bitsOf h 19 8) node (payloadBytes e m c o.sb (16 * len))
    let m1 := waitFor e .answer c m c.lane
    ok (sendThr e m1 c (catHome (coreDie c.core)) false true false (thrOf m1 c.g c.lane).wop (.rput g data depth isIn (predNo o.dst))))

def execRput (h : Hdr) (o : FA) (s : State) := runI (.rput h o) h false (rputBody o false) s

def execRputIn (h : Hdr) (o : FA) (s : State) := runI (.rputIn h o) h false (rputBody o true) s

/-- `rget`: a relaxed load of the window slot of record i (09 R289). -/
def rgetBody (h : Hdr) (o : FA) (e : Env) (c : Ctx) (m : Mach) : BRes :=
  withGraph m c (fun _ =>
    match (if inDispatch m c then (grpOf m c.g).disp else none) with
    | none => trapOf m cPROT
    | some d =>
      let r := readOp e m c .n32 o.sa
      let words := 4 * (o.imm.toNat % 16 + 1)
      let slot := 16 * (d.rsz + 1)
      let n := min (4 * words) slot
      if regS m c.g 1 ≤ r.2 then
        ok (land r.1 (e.now + 8) ((if h.ws then [] else wrWords c o.dst (List.replicate words 0)) ++ wrLatch c .n32 o.lt.toNat [c.lane] 0) c.tok)
      else
        let sa := sliceAddr e m c.core ((d.base + r.2 * slot) % 2 ^ 20)
        let p := openOp r.1 1 (e.now + 2) c.tok
        let zero := if h.ws then [] else (List.range (words - n / 4)).map (fun i => RegWr.v c.g c.lane (vNo o.dst + n / 4 + i) 0 c.sn)
        let m1 : Mach := { p.2 with ops := tupd p.2.ops p.1 (fun x => { x with land := { x.land with wr := zero } }) }
        ok (sendThr e m1 c (homeOf sa) false false false p.1 (.load sa n false (if h.ws then .t 0 else o.dst) (some (latchA c o)) c.pc
          (padVa (markOf e.sys c.part c.core) ((d.base + r.2 * slot) % 2 ^ 20)))))

def execRget (h : Hdr) (o : FA) (s : State) := runI (.rget h o) h false (rgetBody h o) s

/-- `rdon`: the member's part in its dispatch ends (09 R290). -/
def rdonBody (e : Env) (c : Ctx) (m : Mach) : BRes :=
  withGraph m c (fun _ =>
    let m1 := if inDispatch m c then updThr m c.g c.lane (fun t => { t with rdon := true, rdonSn := m.serial }) else m
    ok (land m1 (e.now + 2) [] c.tok))

def execRdon (h : Hdr) (o : FA) (s : State) := runI (.rdon h o) h false rdonBody s

/-- Node and block of a target (09 R285). -/
def targetNode (t : Nat) : Nat := t % 256
def targetBlk (t : Nat) : Nat := t / 256 % 4096

/-- A target outside the graph: above bit 19, or not in it. -/
def targetBad (gr : Graph) (t : Nat) : Bool := decide (2 ^ 20 ≤ t) || !inGraph gr (targetNode t) (targetBlk t)

/-- A negative weight, including −0, that is not poison (02 R54, R59). -/
def wgtBad (w : Nat) : Bool := isNeg .f32 w && !isPoison .f32 w

/-- Counts a record or post sent from a die (02 R70). -/
def countSent (m : Mach) (g d : Nat) : Mach := updGraph m g (fun gr => { gr with sent := lupd gr.sent d (· + 1), settled := false })

def rsdBody (o : FA) (e : Env) (c : Ctx) (m : Mach) : BRes :=
  withGraph m c (fun g =>
    let gr := graphOf m g
    let t := readOp e m c .n32 o.sa
    let w := readOp e t.1 c .f32 o.sb
    if wgtBad w.2 || targetBad gr t.2 then trapOf w.1 cRANGE
    else
      let p := openOp w.1 1 (e.now + 2) c.tok
      let m1 := countSent p.2 g (coreDie c.core)
      ok (send e m1 c.core (catHome (blockDie gr (targetNode t.2) (targetBlk t.2))) true (some c.ref) [c.lane] 3 false true false p.1
        (.rsd g (targetNode t.2) (targetBlk t.2) (BitVec.ofNat 32 w.2))))

def execRsd (h : Hdr) (o : FA) (s : State) := runI (.rsd h o) h false (rsdBody o) s

/-- `post`: a result word of the grid, at its Front End (09 R292). -/
def postBodyOf (o : FA) (e : Env) (c : Ctx) (m : Mach) : BRes :=
  match (teamOf m c.team).grid with
  | none => trapOf m cPROT
  | some g =>
    let x := readOp e m c .s32 o.sa
    let p := openOp x.1 1 (e.now + 2) c.toks
    ok (sendSet e p.2 c 3 (feHome (((tget m.grids g).map (·.die)).getD 0)) false true true p.1 (.post g (o.imm.toNat % 4) (BitVec.ofNat 32 x.2)))

def execPost (h : Hdr) (o : FA) (s : State) := runI (.post h o) h true (postBodyOf o) s

/-- The graph of a `snap`: the one named, when it may be read, or the team's (09 R286). -/
def snapGraph (m : Mach) (c : Ctx) (imm : Nat) : Except Nat Nat :=
  if bitOf imm 6 then
    match tget m.graphs (imm % 64) with
    | none => .error cRANGE
    | some gr => if gr.part = c.part then .ok (imm % 64) else .error cPROT
  else match teamGraph m c.team with
    | some g => .ok g
    | none => .error cPROT

def snapBody (h : Hdr) (o : FA) (e : Env) (c : Ctx) (m : Mach) : BRes :=
  match snapGraph m c o.imm.toNat with
  | .error k => trapOf m k
  | .ok g =>
    let gr := graphOf m g
    let t := readOp e m c .n32 o.sa
    if targetBad gr t.2 then trapOf t.1 cRANGE
    else
      let p := openOp t.1 1 (e.now + 2) (tokA c o.dst)
      ok (send e p.2 c.core (catHome (blockDie gr (targetNode t.2) (targetBlk t.2))) false (some c.ref) (if isS o.dst then c.lanes else [c.lane]) 3 true false false p.1
        (.snap g (targetNode t.2) (targetBlk t.2) (if h.ws then .t 0 else o.dst) (some (latchA c o))))

def execSnap (h : Hdr) (o : FA) (s : State) := runI (.snap h o) h (isS o.dst) (snapBody h o) s

end Sys2Proof.Machine
end

