-- ==== Sys2Proof/Machine/Access.lean ====
section
/-! DEFINITION. Reads that deliver failed bytes as poison, and stores of threads, which leave read-only words of registered rings and wait queues alone (spec/05 R146, R151, 03 R96, 08 R248). -/
namespace Sys2Proof.Machine
open Sys2Proof

/-- Offset of the header of a registered inbox ring (16 R380): bit 15 valid, bits 13:0 in units of 64 bytes. -/
def ringAt (w : Word) : Option Nat := if bitOf w.toNat 15 then some (64 * bitsOf w.toNat 13 0) else none

/-- Header addresses of the hand queues that stand in a slice (03 R100). -/
def queueHdrs (e : Env) (m : Mach) : List Nat :=
  m.teams.flatMap (fun (k, t) => if t.gone then [] else ((List.range 8).filter (bitOf t.qmask)).map (queueAt e m k))

/-- Queue words at which threads wait (08 R248). -/
def busyWords (m : Mach) : List (Nat × Nat) := (m.queues.filter (fun (_, q) => !q.isEmpty)).map (fun (k, _) => (k, 8))

/-- Runs of bytes that no store of a thread changes: TAIL and RFSD of a registered ring (03 R96), HEAD, TAIL, COUNT and ALLOW of a hand queue (03 R100, 00 R6), and a queue word while threads wait (08 R248). -/
def readOnly (e : Env) (m : Mach) (sa n : Nat) : List (Nat × Nat) :=
  ((match skind sa with
    | .slice c => (coreOf m c).ring.filterMap (fun w => (ringAt w).map (fun h => (sliceBase c + h + 4, 6)))
    | _ => [])
    ++ (queueHdrs e m).flatMap (fun h => [(h, 8), (h + 12, 2)])
    ++ busyWords m).filter (fun (a, k) => overlaps a k sa n)

/-- The runs of a run of bytes that lie outside some ranges. -/
def outside (ro : List (Nat × Nat)) : Nat → List Byte → List (Nat × List Byte)
  | _, [] => []
  | a, b :: r =>
    if ro.any (fun (x, n) => decide (x ≤ a) && decide (a < x + n)) then outside ro (a + 1) r
    else match outside ro (a + 1) r with
      | (k, l) :: s => if k = a + 1 then (a, b :: l) :: s else (a, [b]) :: (k, l) :: s
      | [] => [(a, [b])]

/-- One run of bytes of a thread's store: the bytes that it may change, as runs. -/
def writable (e : Env) (m : Mach) (a : Nat) (l : List Byte) : List (Nat × List Byte) :=
  match readOnly e m a l.length with
  | [] => if l.isEmpty then [] else [(a, l)]
  | ro => outside ro a l

/-- Bytes of storage take new values, and a failed check of them ends. -/
def putRun (m : Mach) (r : Nat × List Byte) : Mach := { m with
  mem := memWrite m.mem r.1 r.2
  bad := m.bad.filter (fun (x, _) => decide (x < r.1) || decide (r.1 + r.2.length ≤ x)) }

/-- ALLOW of a hand queue is CAP less COUNT (03 R100): a store to CAP moves it. -/
def keepAllow (e : Env) (m : Mach) (rows : List (Nat × List Byte)) : Mach :=
  ((queueHdrs e m).filter (fun h => rows.any (fun (a, l) => overlaps a l.length (h + 14) 1))).foldl (fun m h =>
    { m with mem := memSet m.mem (h + 13) (BitVec.ofNat 8 ((memGet m.mem (h + 14)).toNat - (memGet m.mem (h + 12)).toNat)) }) m

/-- A store made by a thread (03 R86). One store without `.aon` is one run; an `.aon` store is one update. -/
def threadStore (e : Env) (m : Mach) (rows : List (Nat × List Byte)) (aon : Bool) : Mach :=
  let runs := rows.flatMap (fun (a, l) => writable e m a l)
  keepAllow e
    (if aon then
      let z := match rows with
        | [] => false
        | (a, _) :: _ => coversZero a (rows.flatMap (·.2))
      (match runs with
       | [] => m
       | (a, _) :: _ => touchFrame z (runs.foldl putRun m) (a / 16384))
    else
      let fs := (runs.flatMap (fun (a, l) => framesOf a l.length)).eraseDups
      fs.foldl (touchFrame false) (runs.foldl putRun m)) rows

/-- A read of bytes that have failed with a kind makes a log entry and sets MEMUC of the group (05 R146, R151). -/
def loadAs (e : Env) (m : Mach) (c : Ctx) (kind : Option Nat) (sa n va : Nat) : Mach × Nat :=
  match kind with
  | none => (m, readNat m sa n)
  | some k =>
    let r := genPoison e (setCause m c.g cMEMUC) c.g c.lane c.pc k va
    (r.1, if n = 16 then ofBytes ((List.range 4).flatMap (fun _ => toBytes 4 (poisonBits .f32 k r.2))) else loadPoison (8 * n) k r.2)

/-- A read at a home. -/
def loadChk (e : Env) (m : Mach) (c : Ctx) (sa n va : Nat) : Mach × Nat := loadAs e m c (badKind m sa n) sa n va

end Sys2Proof.Machine
end

