-- ==== Sys2Proof/Machine/Dot.lean ====
section
/-! DEFINITION. The arithmetic of matrix passes (spec/05 R138, R144, R153 to R155): K-groups, poison, and the errors of over-scaled passes. -/
namespace Sys2Proof.Machine
open Sys2Proof

/-- An operand element: an exact value, poison with its quiet bit, kind and index, or poison of a kind that its consumption generates. -/
inductive EV where
  | x (v : XVal)
  | nan (quiet : Bool) (kind ix : Nat)
  | fresh (kind : Nat)
  deriving DecidableEq, Repr

/-- An element of a wide type. -/
def evOf (ty : NTy) (n : Nat) : EV :=
  if tyFloat ty then
    match decodeF ty n with
    | .nan q k i => .nan q k i
    | v => .x v.exact
  else .x (xInt (intVal ty n))

def evX : EV → XVal
  | .x v => v
  | _ => .dy false 0 0 false

def evNan : EV → Bool
  | .x _ => false
  | _ => true

/-- An element of a container with its scale; a block of which PAR fails is consumed as new poison of kind MEMUC (05 R136). The TAG has been checked at posting: DEDUCED, a container of `xcon` whose TAG no longer fits when it is consumed counts as INVALID. -/
def evCont (f : NFmt) (k sc n j : Nat) : EV :=
  match contCheck n sc k with
  | .poisoned kind ix => .nan true kind ix
  | .mismatch => .fresh 0
  | .memuc => .fresh 1
  | .good => .x (nValue f sc (contElem (nWidth f) n j))

/-- The exact sum of products of one K-group. -/
def groupSum (l : List (EV × EV)) : XVal := l.foldl (fun s (a, b) => xAdd .rne s (xMul (evX a) (evX b))) (.dy false 0 0 false)

/-- Updates an f32 accumulator group by group; none for an invalid sum (05 R138). -/
def groupsF : Nat → List (EV × EV) → Nat → Option Nat
  | 0, _, acc => some acc
  | f + 1, l, acc =>
    if l.isEmpty then some acc
    else match roundX .f32 .rne (xAdd .rne (decodeF .f32 acc).exact (groupSum (l.take 16))) with
      | some n => groupsF f (l.drop 16) n
      | none => none

/-- A poison element as f32: carried, or new INVALID poison. -/
def evPoison (e : Env) (m : Mach) (c : Ctx) : EV → Mach × Nat
  | .nan true k i => (m, poisonBits .f32 k i)
  | .fresh k => poisonVal e m c.g c.lane c.pc k 0 .f32
  | _ => poisonVal e m c.g c.lane c.pc 0 0 .f32

/-- One accumulator element: A's first poison, B's, then the accumulator's own, else the sum (05 R144). -/
def accF (e : Env) (m : Mach) (c : Ctx) (acc : Nat) (l : List (EV × EV)) : Mach × Nat :=
  match (l.map (·.1) ++ l.map (·.2)).find? evNan with
  | some v => evPoison e m c v
  | none =>
    if isPoison .f32 acc then carryPoison e m c .f32 acc
    else match groupsF (l.length / 16 + 1) l acc with
      | some n => (m, n)
      | none => poisonVal e m c.g c.lane c.pc 0 0 .f32

/-- The integer value of an element. -/
def evInt : EV → Int
  | .x (.dy neg m ex _) => let k : Int := (m * 2 ^ ex.toNat : Nat); if neg then -k else k
  | _ => 0

/-- An s32 accumulator. -/
def accI (acc : Nat) (l : List (EV × EV)) : Nat := wrapTo .s32 (l.foldl (fun s (a, b) => s + evInt a * evInt b) (intVal .s32 acc))

/-! Modes of a pass (05 R153 to R155). -/

/-- The less relaxed of AMAX and the predictor's entry; 0 EXACT, 1 SPECULATIVE, 2 TOLERANT. -/
def passMode (mode : Word) (entry : Nat) (disp : Bool) : Nat :=
  if bitOf mode.toNat 31 then 0
  else
    let k := min (min 2 (bitsOf mode.toNat 30 29)) (if entry = 3 then 0 else entry)
    if k = 2 && !disp then 1 else k

/-- Weight of bit `i` of an accumulator element, as a power of two. -/
def bitWeight (isInt : Bool) (x i : Nat) : Int :=
  if isInt then (i : Int)
  else max 1 (bitsOf x 30 23 : Int) - 150 + i

/-- Bits of an element that a tolerated error may flag: weights below 2^(TBND − 127). -/
def tolBits (mode : Word) (isInt : Bool) (x : Nat) : List Nat :=
  let tb := bitsOf mode.toNat 27 20
  if tb = 0 then [] else (List.range (if isInt then 32 else 23)).filter (fun i => decide (bitWeight isInt x i < (tb : Int) - 127))

/-- What over-scaling does to the accumulators: replays, and the elements after a tolerated error or with rows poisoned. The errors that occur are free values. -/
structure PassRes where
  m : Mach
  accs : List Nat
  replays : Nat

/-- Flips of one element by a free word, with the weights of the flagged bits. -/
def flipElem (mode : Word) (isInt : Bool) (w : Word) (x : Nat) : Nat × List Int :=
  let bs := (tolBits mode isInt x).filter (fun i => bitOf w.toNat i)
  (bs.foldl (fun y i => y ^^^ 2 ^ i) x, bs.map (bitWeight isInt x))

/-- A pass with a tolerated error: every element with its flagged bits, and the magnitude added to the bound; none when nothing is flagged or the limit forbids it. -/
def tolerate (m : Mach) (graph : Nat) (mode : Word) (isInt : Bool) (accs : List Nat) : Option (Mach × List Nat) :=
  let fl := accs.zipIdx.map (fun (x, i) => flipElem mode isInt (Config.freeWord (m.free + i)) x)
  let mag := (fl.flatMap (·.2)).foldl (fun s w => xAdd .rne s (.dy false 1 w false)) (.dy false 0 0 false)
  (ebndAdd { m with free := m.free + accs.length } graph mag).map (fun m1 => (m1, fl.map (·.1)))

/-- Replays, then poison of kind MPASS in the affected rows (05 R154). `row` gives the row of an element. -/
def replayPass (e : Env) (m : Mach) (c : Ctx) (row : Nat → Nat) (accs : List Nat) : PassRes :=
  let r := Config.passErrors m.free % 5
  let m1 : Mach := { m with free := m.free + 1 }
  if r < 4 then { m := m1, accs := accs, replays := r }
  else
    let s := accs.zipIdx.foldl (fun (acc : Mach × List Nat) (x, i) =>
      if Config.pick (m1.free + row i) then let p := poisonVal e acc.1 c.g c.lane c.pc 5 0 .f32; (p.1, acc.2 ++ [p.2]) else (acc.1, acc.2 ++ [x])) (m1, [])
    { m := { s.1 with free := m1.free + 256 }, accs := s.2, replays := 3 }

/-- The outcome of a pass in its mode. -/
def passOutcome (e : Env) (m : Mach) (c : Ctx) (k : Nat) (mode : Word) (isInt : Bool) (row : Nat → Nat) (accs : List Nat) : PassRes :=
  if k = 0 then { m := m, accs := accs, replays := 0 }
  else if k = 2 && Config.pick m.free then
    match (grpOf m c.g).disp with
    | some d => match tolerate { m with free := m.free + 1 } d.graph mode isInt accs with
      | some (m1, l) => { m := m1, accs := l, replays := 0 }
      | none => replayPass e { m with free := m.free + 1 } c row accs
    | none => replayPass e { m with free := m.free + 1 } c row accs
  else replayPass e { m with free := m.free + 1 } c row accs

end Sys2Proof.Machine
end

