-- ==== Sys2Proof/Machine/Contract.lean ====
section
/-! DEFINITION. Contraction (spec/09 R298 to R302). -/
namespace Sys2Proof.Machine
open Sys2Proof

/-- Index that runs along dimension `d` of an operand: 0 A, 1 B, 2 C (09 R299). -/
def xMap (n op d : Nat) : Nat := bitsOf n (384 + 15 * op + 3 * d + 2) (384 + 15 * op + 3 * d)
def xExt (n x : Nat) : Nat := bitsOf n (192 + 32 * x + 31) (192 + 32 * x)
def xAcc (n : Nat) : Nat := bitsOf n 433 432
def xKset (n x : Nat) : Bool := bitOf n (440 + x)

/-- Indices that an operand of `nd` dimensions uses, by dimension. -/
def xIdx (n op nd : Nat) : List Nat := (List.range nd).map (xMap n op)

/-- Check 2 of R300. -/
def xBad (n : Nat) (ca cb cc : Card) : Bool :=
  let ia := xIdx n 0 ca.ndim
  let ib := xIdx n 1 cb.ndim
  let ic := xIdx n 2 cc.ndim
  let used := fun x => ia.contains x || ib.contains x || ic.contains x
  bitsOf n 1023 446 != 0 || bitsOf n 439 434 != 0 || bitsOf n 431 429 != 0
    || decide (2 ≤ xAcc n)
    || [(0, ca.ndim), (1, cb.ndim), (2, cc.ndim)].any (fun (op, nd) => (List.range 5).any (fun d =>
        xMap n op d == 6 || (decide (d < nd) && xMap n op d == 7) || (decide (nd ≤ d) && xMap n op d != 7)))
    || !ia.Nodup || !ib.Nodup || !ic.Nodup
    || ic.any (fun x => !ia.contains x && !ib.contains x)
    || (List.range 6).any (fun x => xKset n x != ((ia.contains x || ib.contains x) && !ic.contains x))
    || (List.range 6).any (fun x => xKset n x && !(ia.contains x && ib.contains x))
    || (List.range 6).any (fun x => if used x then xExt n x == 0 else xExt n x != 0)
    || (List.range cc.ndim).any (fun d => decide (lget cc.ext d 0 < xExt n (xMap n 2 d)))

/-- Formats that a matrix pass accepts. -/
def xFmtOk : EKind → Bool
  | .ty t => t == .s8 || t == .n8 || t == .f16 || t == .g16 || t == .f32
  | .narrow _ => true

def xIntFam : EKind → Bool
  | .ty t => t == .s8 || t == .n8
  | .narrow _ => false

def ekOf (cd : Card) : EKind := (ekindOf cd.efmt).getD (.ty .s32)

/-- Check 3 of R300. -/
def xFmtBad (ca cb cc : Card) : Bool :=
  cc.dec != 0 || (if xIntFam (ekOf ca) then ekOf cc != .ty .s32 else !(ekOf cc == .ty .f32 || ekOf cc == .ty .f16 || ekOf cc == .ty .g16))
    || ca.efmt != cb.efmt || !xFmtOk (ekOf ca) || cb.dec == 3

/-- Reads the 128 bytes of a card that passed its checks. -/
def cardBits (e : Env) (m : Mach) (c : Ctx) (h : Nat) : Nat :=
  match checkAddr e m c (h : Int) 128 128 0 false with
  | .ok sa => readNat m sa 128
  | _ => 0

/-! Tuples and coordinates (09 R299, R301). -/

/-- Value of index `x` in a tuple. -/
def tupVal (t : List (Nat × Nat)) (x : Nat) : Nat := (t.lookup x).getD 0

/-- All tuples of the given indices, the first index fastest. -/
def tuples (n : Nat) : List Nat → List (List (Nat × Nat))
  | [] => [[]]
  | x :: r => (tuples n r).flatMap (fun t => (List.range (xExt n x)).map (fun i => (x, i) :: t))

/-- Coordinates of an operand at a tuple. -/
def xCoords (n op nd : Nat) (t : List (Nat × Nat)) : List Nat := (List.range 5).map (fun d => if d < nd then tupVal t (xMap n op d) else 0)

/-- Containers of a narrow operand, by address with the place of the scale byte. -/
def xConts (n op : Nat) (cd : Card) (f : NFmt) : List (Int × Int) :=
  ((tuples n ((List.range 6).filter (fun x => (xIdx n op cd.ndim).contains x))).map (fun t =>
    match contLoc cd (nWidth f) (xCoords n op cd.ndim t) with
    | .cont a sc _ => (a, sc)
    | _ => (0, 0))).eraseDups

/-- A container of an operand is tagged for another format register (05 R136); one that no translation serves yet is looked at when it is consumed. -/
def xTagBad (e : Env) (m : Mach) (c : Ctx) (n op : Nat) (cd : Card) : Bool :=
  match ekOf cd with
  | .ty _ => false
  | .narrow k =>
    match fmFmt (fmOf m c.g k) with
    | none => false
    | some f => (xConts n op cd f).any (fun (a, sc) =>
        match checkAddr e m c a 16 16 0 false, checkAddr e m c sc 1 1 0 false with
        | .ok sa, .ok ss => contCheck (readNat m sa 16) (readNat m ss 1) k == .mismatch
        | _, _ => false)

/-- Forks the engine thread of a contraction (09 R298, R300); without a microcode image it raises ILLOP (19 R418). -/
def xconBody (o : FE) (e : Env) (c : Ctx) (m : Mach) : BRes :=
  let a := (readOp e m c .n64 o.sa).2
  let f := bitsOf o.ctl.toNat 3 0
  let k := bitsOf o.ctl.toNat 7 4
  if !e.sys.dev.images.contains 3 then trapOf m cILLOP
  else if (List.range k).any (fun i => !tileHeld m c.team (f + i)) then trapOf m cPROT
  else match checkAddr e m c (a : Int) 128 128 0 false with
    | .stop out => { m := m, out := out }
    | .ok sa =>
      let r := engRead e m c sa 128
      let m := r.1
      let n := r.2
      let ha := bitsOf n 55 0
      let hb := bitsOf n 119 64
      let hc := bitsOf n 183 128
      match readCard e m c ha, readCard e m c hb, readCard e m c hc with
      | .error out, _, _ => { m := m, out := out }
      | _, .error out, _ => { m := m, out := out }
      | _, _, .error out => { m := m, out := out }
      | .ok ca, .ok cb, .ok cc =>
        if xBad n ca cb cc then trapAt m cRANGE a
        else if xFmtBad ca cb cc || fmRefused m c.g (ekOf ca) || xTagBad e m c n 0 ca || xTagBad e m c n 1 cb then trapOf m cFMT
        else
          let cards := [cardBits e m c ha, cardBits e m c hb, cardBits e m c hc]
          let x : XCon := { block := n, cards := cards, tile := f, cnt := k, mode := (grpOf m c.g).mode, fm := (grpOf m c.g).fm,
                            blk := 0, kpos := 0, accs := [], nexts := [], hia := false, hib := false, posted := false }
          ok { [ha, hb, hc].foldl (fun m h => noteCard e m c h) m with
                      serial := m.serial + 1,
                      copies := tset m.copies m.serial { cpymCopy c m 0 0 0 [] none none 0 with todo := [], xcon := some x } }
    | _ => trapAt m cPROT a

def execXcon (h : Hdr) (o : FE) (s : State) := runI (.xcon h o) h true (xconBody o) s

/-! The result (09 R301). -/

/-- A decoded operand as the family of the pass takes it: integers exactly. DESIGN CHOICE: the spec states no integer for a kvz value of an integer card that is not integral; it is a free value. -/
def xTake (isInt : Bool) (v : EV) : EV :=
  match isInt, v with
  | true, .x (.dy neg m ex _) =>
    if 0 ≤ ex then v
    else if m % 2 ^ (-ex).toNat = 0 then .x (.dy neg (m / 2 ^ (-ex).toNat) 0 false)
    else .x (xInt (Config.wholeOf neg m ex))
  | true, .x _ | true, .nan _ _ _ | true, .fresh _ => .x (xInt (Config.wholeOf false 0 0))
  | false, v => v

/-- One operand element, through the Retrieval unit's cache (09 R272, R274), and whether it reaches the threshold of HIMAG (05 R153). -/
def xElem (e : Env) (c : Ctx) (cd : Card) (fm : List Word) (md : RMode) (idx : List Nat) (m : Mach) : Except Out (Mach × EV × Bool) :=
  let ek := ekOf cd
  let f := match ek with | .narrow k => fmFmt (lget fm k 0) | _ => none
  match locate e c cd ek ((f.map nWidth).getD 8) idx m with
  | .error o => .error o
  | .ok (m1, .absent) => .ok (m1, .x (.dy false 0 0 false), false)
  | .ok (m1, .bad) => .ok (m1, .fresh 1, true)
  | .ok (m1, l) =>
    match kvzPair e c cd (lget idx 1 0) m1 with
    | .error o => .error o
    | .ok (m2, kv, kb) =>
      let poison : Mach → Nat → Mach × EV × Bool := fun m kind =>
        let r := genPoison e m c.g c.lane c.pc kind 0
        (r.1, (match ek, kb with
          | .ty t, none => evOf t (loadPoison (tyBits t) kind r.2)
          | _, none => .nan true kind (r.2 % 32)
          | _, some _ => .nan true kind r.2), true)
      let fin : Mach → EV → Bool → Mach × EV × Bool := fun m v hi =>
        match kv, v with
        | some (b, s), .x x => let r := kvzSettle e m c md b s x; (r.1, xTake (xIntFam ek) (evOf .f32 r.2), hiTy .f32 r.2)
        | _, _ => (m, v, hi)
      match kb, l, ek with
      | some kind, _, _ => .ok (poison m2 kind)
      | none, .elem a, .ty t =>
        match retrRead e c m2 a (tyBits t / 8) with
        | .error o => .error o
        | .ok (m3, _, some kind) => .ok (poison m3 kind)
        | .ok (m3, n, none) => .ok (fin m3 (evOf t n) (hiTy t n))
      | none, .cont a sc j, .narrow k =>
        match retrRead e c m2 sc 1 with
        | .error o => .error o
        | .ok (m3, s, b1) =>
          match retrRead e c m3 a 16 with
          | .error o => .error o
          | .ok (m4, n, b2) =>
            match b1 <|> b2, f with
            | some kind, _ => .ok (poison m4 kind)
            | none, some f => .ok (fin m4 (evCont f k s n j) (contCheck n s k != .good || hiNarrow f (contElem (nWidth f) n j)))
            | none, none => .ok (m4, .fresh 0, true)
      | none, _, _ => .ok (m2, .x (.dy false 0 0 false), false)

/-- What reading one chunk of K for a tuple of C's indices has found: the pairs, and the high marks of A and B. -/
structure XPairs where
  m : Mach
  l : List (EV × EV)
  hia : Bool
  hib : Bool

/-- The pairs of a part of the K sequence at one tuple of C's indices. -/
def xPairs (e : Env) (c : Ctx) (x : XCon) (ca cb : Card) (md : RMode) (t : List (Nat × Nat)) : List (List (Nat × Nat)) → XPairs → Except Out XPairs
  | [], s => .ok s
  | k :: r, s =>
    match xElem e c ca x.fm md (xCoords x.block 0 ca.ndim (t ++ k)) s.m with
    | .error o => .error o
    | .ok (m1, a, ha) =>
      match xElem e c cb x.fm md (xCoords x.block 1 cb.ndim (t ++ k)) m1 with
      | .error o => .error o
      | .ok (m2, b, hb) => xPairs e c x ca cb md t r { m := m2, l := s.l ++ [(a, b)], hia := s.hia || ha, hib := s.hib || hb }

/-- C's element as an accumulator. -/
def xStart (e : Env) (c : Ctx) (x : XCon) (cc : Card) (t : List (Nat × Nat)) (m : Mach) : Except Out (Mach × Nat) :=
  let ty := match ekOf cc with | .ty t => t | _ => .f32
  if xAcc x.block = 1 then .ok (m, 0)
  else match retrRead e c m (strided cc (xCoords x.block 2 cc.ndim t) 0) (tyBits ty / 8) with
    | .error o => .error o
    | .ok (m1, n, b) =>
      let r : Mach × Nat := match b with
        | some kind => let p := genPoison e m1 c.g c.lane c.pc kind 0; (p.1, loadPoison (tyBits ty) kind p.2)
        | none => (m1, n)
      if ty == .f16 || ty == .g16 then
        .ok (if isPoison ty r.2 then convPoison e r.1 c ty .f32 r.2 else (r.1, (roundX .f32 .rne (decodeF ty r.2).exact).getD 0))
      else .ok r

/-- The accumulators of a block of C. -/
def xStarts (e : Env) (c : Ctx) (x : XCon) (cc : Card) : List (List (Nat × Nat)) → Mach → Except Out (Mach × List Nat)
  | [], m => .ok (m, [])
  | t :: r, m =>
    match xStart e c x cc t m with
    | .error o => .error o
    | .ok (m1, a) =>
      match xStarts e c x cc r m1 with
      | .error o => .error o
      | .ok (m2, l) => .ok (m2, a :: l)

/-- One accumulator after a chunk of K. Above its 32 bits it carries whose poison it holds, 2 for A's, 1 for B's: poison of A anywhere in the K sequence comes before B's, and B's before the accumulator's own (05 R144, 09 R301). -/
def xStep (e : Env) (c : Ctx) (isInt : Bool) (m : Mach) (acc : Nat) (l : List (EV × EV)) : Mach × Nat :=
  if isInt then (m, accI acc l)
  else match acc / 2 ^ 32, (l.map (·.1)).find? evNan, (l.map (·.2)).find? evNan with
    | 2, _, _ => (m, acc)
    | _, some v, _ => let r := evPoison e m c v; (r.1, r.2 + 2 * 2 ^ 32)
    | 1, none, _ => (m, acc)
    | _, none, some v => let r := evPoison e m c v; (r.1, r.2 + 2 ^ 32)
    | _, none, none => accF e m c acc l

/-- The accumulators of a block after a chunk of K, with the high marks of its operands. -/
def xChunk (e : Env) (c : Ctx) (x : XCon) (ca cb : Card) (md : RMode) (ks : List (List (Nat × Nat))) : List (List (Nat × Nat) × Nat) → Mach → Except Out (Mach × List Nat × Bool × Bool)
  | [], m => .ok (m, [], false, false)
  | (t, acc) :: r, m =>
    match xPairs e c x ca cb md t ks { m := m, l := [], hia := false, hib := false } with
    | .error o => .error o
    | .ok s =>
      let v := xStep e c (xIntFam (ekOf ca)) s.m acc s.l
      match xChunk e c x ca cb md ks r v.1 with
      | .error o => .error o
      | .ok (m3, l, ha, hb) => .ok (m3, v.2 :: l, s.hia || ha, s.hib || hb)

/-- An accumulator in C's format. -/
def xOut (e : Env) (m : Mach) (c : Ctx) (ty : NTy) (md : RMode) (n : Nat) : Mach × Nat :=
  if ty == .f16 || ty == .g16 then (if isPoison .f32 n then convPoison e m c .f32 ty n else (m, (roundX ty md (decodeF .f32 n).exact).getD 0)) else (m, n)

/-- Places of C's elements of `n` bytes, after every check of the writes. -/
def xPlaces (e : Env) (c : Ctx) (m : Mach) (n : Nat) : List (Int × Nat) → Except Out (List (Nat × List Byte))
  | [] => .ok []
  | (a, v) :: r =>
    match checkAddr e m c a 1 n 1 false with
    | .ok sa => (match xPlaces e c m n r with
      | .error o => .error o
      | .ok l => .ok ((sa, toBytes n v) :: l))
    | .stop o => .error o
    | _ => .error (.cause cPROT (lowBits 56 a) 0 false 0)

/-- Elements that follow each other, as runs of a packet each (09 R268). -/
def xRuns : List (Nat × List Byte) → List (Nat × List Byte)
  | [] => []
  | (a, b) :: r =>
    match xRuns r with
    | (a1, b1) :: s => if a1 = a + b.length && a / 256 == (a1 + b1.length - 1) / 256 then (a, b ++ b1) :: s else (a, b) :: (a1, b1) :: s
    | [] => [(a, b)]

/-! The expansion (09 R302). -/

/-- Tuples of C's indices in C's linear order, and contracted tuples in the order of R301. -/
def xTuples (x : XCon) : List (List (Nat × Nat)) := tuples x.block (xIdx x.block 2 (cardOf (lget x.cards 2 0)).ndim)
def xKs (x : XCon) : List (List (Nat × Nat)) := tuples x.block ((List.range 6).filter (xKset x.block))

/-- The block of C at hand: up to 64 × 64 elements. -/
def xBlock (x : XCon) : List (List (Nat × Nat)) := ((xTuples x).drop (4096 * x.blk)).take 4096

/-- Width in bits of the operands of a contraction. -/
def xBits (x : XCon) : Nat :=
  match ekOf (cardOf (lget x.cards 0 0)) with
  | .ty t => tyBits t
  | .narrow k => ((fmFmt (lget x.fm k 0)).map nWidth).getD 8

/-- Length of a chunk of K: what a tile of 64 rows holds. -/
def xLen (x : XCon) : Nat :=
  match ekOf (cardOf (lget x.cards 0 0)) with
  | .ty t => 256 / (tyBits t / 8)
  | .narrow _ => 16 * nPer (xBits x)

/-- The chunk of K at hand. -/
def xPart (x : XCon) : List (List (Nat × Nat)) := ((xKs x).drop x.kpos).take (xLen x)

/-- The posting of a chunk, at priority 0. -/
def xReq (e : Env) (cp : Copy) (x : XCon) (k : Nat) : MReq :=
  let fmt := match ekOf (cardOf (lget x.cards 0 0)) with
    | .ty .s8 => 0 | .ty .n8 => 1 | .ty .f16 => 2 | .ty .g16 => 3 | .ty _ => 4 | .narrow i => 8 + i
  let mm := ceilDiv x.accs.length 64
  { g := cp.g, lane := cp.lane, pc := cp.pc, tm := e.now, pri := 0, fmt := fmt, sparse := false, z := false, c := x.tile, a := x.tile + 1, b := x.tile + 2, sc := none,
    m := mm, n := min 64 x.accs.length, k := (xPart x).length, acols := 0, w := xBits x, fm := 0, rows := List.range mm, zs := none, mode := x.mode, toks := [], xc := some k }

/-- Element words of C's block as they are stored, with their addresses. -/
def xFinal (e : Env) (c : Ctx) (x : XCon) (m : Mach) : Mach × List (Int × Nat) :=
  let cc := cardOf (lget x.cards 2 0)
  let ty := match ekOf cc with | .ty t => t | _ => .f32
  let md := rmodeOf (bitsOf x.mode.toNat 2 0)
  ((xBlock x).zip x.accs).foldl (fun (acc : Mach × List (Int × Nat)) (t, n) =>
    let r := xOut e acc.1 c ty md (n % 2 ^ 32); (r.1, acc.2 ++ [(strided cc (xCoords x.block 2 cc.ndim t) 0, r.2)])) (m, [])

/-- Bytes of an element of C. -/
def xSize (x : XCon) : Nat := match ekOf (cardOf (lget x.cards 2 0)) with | .ty t => tyBits t / 8 | _ => 4

/-- A pass of a contraction as the matrix engine runs it (05 R153 to R155): the accumulators after its errors, and its replays. -/
def xPass (e : Env) (c : Ctx) (x : XCon) (cl : Nat) (m : Mach) : PassRes :=
  let entry := lget (clusOf m cl).pred ((if xBits x ≤ 8 then 4 else 0) + (if x.hia then 2 else 0) + (if x.hib then 1 else 0)) 0
  let p := passOutcome e m c (passMode x.mode (if e.sys.dev.images.contains 4 then entry else 0) (grpOf m c.g).disp.isSome) x.mode
    (xIntFam (ekOf (cardOf (lget x.cards 0 0)))) (fun i => i / 64) (x.nexts.map (· % 2 ^ 32))
  { p with accs := (x.nexts.zip p.accs).map (fun (o, n) => n + o / 2 ^ 32 * 2 ^ 32) }

/-- The scratch tiles at the end: zero, with the reset shape (09 R298). -/
def xZero (c : Ctx) (x : XCon) : List RegWr :=
  (List.range x.cnt).flatMap (fun i => [.tile c.core (x.tile + i) 0 (List.replicate 16384 0), .tc c.core (x.tile + i) tcReset, .himag c.core (x.tile + i) true false])

end Sys2Proof.Machine
end

