-- ==== Sys2Proof/Machine/System.lean ====
section
/-! DEFINITION. System instructions (spec/16 R372 to R383, 18 R404). -/
namespace Sys2Proof.Machine
open Sys2Proof

def trapBody (o : FS) (_e : Env) (_c : Ctx) (m : Mach) : BRes := { m := m, out := .cause cSWTRAP 0 o.sys.toNat true 0 }

def execTrap (h : Hdr) (o : FS) (s : State) := runI (.trap h o) h false (trapBody o) s

/-- The end of an instruction of class VAR without a result in registers: what it lands, with its tokens, at an open time of 2 clocks or more after issue (06 R182). -/
def doneVar (e : Env) (c : Ctx) (m : Mach) (wr : List RegWr) : BRes :=
  ok (land { m with free := m.free + 1 } (e.now + 2 + Config.delay m.free) wr c.tok)

/-- BRK or STEP while STOPALL is 1 sends a stop over the BSN (16 R372). -/
def sendStop (e : Env) (m : Mach) (team : Nat) : Mach :=
  if (entOf m (teamOf m team).ent).stopall && (teamOf m team).stopAt.isNone then updTeam m team (fun t => { t with stopAt := some (e.now + bsnDie) }) else m

def brkBody (o : FS) (e : Env) (c : Ctx) (m : Mach) : BRes := { m := sendStop e m c.team, out := .cause cBRK 0 o.sys.toNat true 0 }

def execBrk (h : Hdr) (o : FS) (s : State) := runI (.brk h o) h false (brkBody o) s

/-- Where a saved PC stands (16 R376). -/
def startAt (e : Env) (m : Mach) (c : Ctx) (pc : Nat) : Mach × Option Out :=
  if !tgtShape pc then (m, none)
  else
    let f := fetchLine e m c.core c.part pc
    match f.2 with
    | .line l =>
      if lineWf l && ((scanLine l 5 0).getD []).any (fun (k, _) => k == pc % 8) then (f.1, some .done) else (f.1, none)
    | .range => (f.1, none)
    | .miss => (f.1, some (.walk (pc / 64 * 64) 3 0))
    | .forbid => (f.1, some (.fault (pc / 64 * 64) 3 0))
    | .parity => (f.1, some (.cause cLINEPAR (pc / 64 * 64) 0 false 0))

/-- SPC of a trap record. -/
def savedPc (t : Thread) : Nat := (lget t.trec 10 0).toNat + bitsOf (lget t.trec 11 0).toNat 23 0 * 2 ^ 32

/-- Every handler token is zero. -/
def htokZero (t : Thread) : Bool := t.htok.all (· == 0)

/-- `tret` once the line at the saved PC has been looked at: a double fault without a cause, a wait for the handler tokens, or the return (16 R366, R376). -/
def tretFrom (e : Env) (c : Ctx) (spc : Nat) (r : Mach × Option Out) : BRes :=
  match r.2 with
  | none => doneVar e c (doubleFault e r.1 c.g c.lane 31 c.pc c.pc (spc % 2 ^ 56)) []
  | some .done =>
    if htokZero (thrOf r.1 c.g c.lane) then doneVar e c (updThr r.1 c.g c.lane (tretThr (runState r.1 c.team))) []
    else doneVar e c (updThr r.1 c.g c.lane (waitThr .tret 0 c)) []
  | some out => { m := r.1, out := out }

/-- `tret` returns to the saved PC of the trap record. -/
def tretBody (e : Env) (c : Ctx) (m : Mach) : BRes :=
  tretFrom e c (savedPc (thrOf m c.g c.lane)) (startAt e m c (savedPc (thrOf m c.g c.lane)))

def execTret (h : Hdr) (o : FS) (s : State) := runI (.tret h o) h false tretBody s

/-- `tclr` clears bits of CAUSE when it lands (16 R377). -/
def tclrBody (o : FS) (e : Env) (c : Ctx) (m : Mach) : BRes :=
  doneVar e c m [.causeClear c.g (BitVec.ofNat 32 (bitsOf o.sys.toNat 22 0))]

def execTclr (h : Hdr) (o : FS) (s : State) := runI (.tclr h o) h false (tclrBody o) s

def parkBody (e : Env) (c : Ctx) (m : Mach) : BRes := doneVar e c (updThr m c.g c.lane (fun t => { t with st := .heldPark })) []

def execPark (h : Hdr) (o : FS) (s : State) := runI (.park h o) h false parkBody s

/-- DBGC as it reads (16 R372). -/
def dbgcOf (en : Entry) : Nat := (if en.stopall then 1 else 0) + (if en.stopped then 2 else 0)

def tresBody (o : FS) (e : Env) (c : Ctx) (m : Mach) : BRes :=
  let x := if o.sys.toNat = 0 then dbgcOf (entOf m (teamOf m c.team).ent) else (lget (thrOf m c.g c.lane).trec o.sys.toNat 0).toNat
  ok (land m (e.now + 4) (wrReg c .n32 o.dst x) c.tok)

def execTres (h : Hdr) (o : FS) (s : State) := runI (.tres h o) h false (tresBody o) s

/-- What a write leaves in a word of the trap record (16 R379). -/
def trecWord (k old x : Nat) : Nat :=
  if k = 5 then putBits old 20 5 (bitsOf x 20 5) else if k = 11 then x % 2 ^ 24 else x

def tresWBody (o : FS) (e : Env) (c : Ctx) (m : Mach) : BRes :=
  let a := readOp e m c .s32 o.sa
  let k := o.sys.toNat
  if k = 0 then
    let m1 := if bitOf a.2 2 then updTeam a.1 c.team (fun t => { t with resumeAt := some (e.now + 4 + bsnDie) }) else a.1
    ok (land m1 (e.now + 4) [.dbgc c.team (BitVec.ofNat 32 a.2)] c.tok)
  else ok (land a.1 (e.now + 4) [.trec c.g c.lane k (BitVec.ofNat 32 (trecWord k (lget (thrOf a.1 c.g c.lane).trec k 0).toNat a.2))] c.tok)

def execTresW (h : Hdr) (o : FS) (s : State) := runI (.tresW h o) h false (tresWBody o) s

/-! Registers of network interfaces (16 R380). -/

/-- The core that PLACE names: RANGE above row or column 11, PROT outside the partition. -/
def placeOf (e : Env) (c : Ctx) (place : Nat) : Except Nat Nat :=
  let k := coreId (bitsOf place 9 8) (bitsOf place 7 4) (bitsOf place 3 0)
  if 11 < bitsOf place 7 4 || 11 < bitsOf place 3 0 then .error cRANGE
  else if corePart e.sys k ≠ c.part then .error cPROT
  else .ok k

def plcwBody (o : FS) (e : Env) (c : Ctx) (m : Mach) : BRes :=
  match placeOf e c o.place.toNat with
  | .error k => trapOf m k
  | .ok k =>
    let a := readOp e m c .s32 o.sa
    let p := openOp a.1 1 (e.now + 2) c.toks
    ok (sendSet e p.2 c 3 k false false true p.1 (.nireg k o.sys.toNat (BitVec.ofNat 32 a.2)))

def execPlcw (h : Hdr) (o : FS) (s : State) := runI (.plcw h o) h true (plcwBody o) s

def diagBody (o : FS) (e : Env) (c : Ctx) (m : Mach) : BRes :=
  match placeOf e c o.place.toNat with
  | .error k => trapOf m k
  | .ok k =>
    let p := openOp m 1 (e.now + 2) c.toks
    ok (sendSet e p.2 c 3 k false false false p.1 (.niread k o.sys.toNat o.dst))

def execDiag (h : Hdr) (o : FS) (s : State) := runI (.diag h o) h true (diagBody o) s

/-! Invalidation (16 R381, 18 R404). -/

/-- A cache lies within a reach from a core: 0 the cluster and its cores, 1 the die, 2 the device. -/
def inReach (reach cluster : Nat) (t : TEnt) : Bool :=
  let cl := match t.lvl with | 0 => clusterOf t.unit | 1 => t.unit | _ => t.unit * 36
  if reach = 0 then t.lvl != 2 && cl == cluster else reach == 2 || cl / 36 == cluster / 36

/-- Drops covered entries, of one partition or of all, and starts the walks within reach again. -/
def invalidate (e : Env) (m : Mach) (part : Option Nat) (a n reach cluster : Nat) : Mach :=
  let hit := fun (p va size : Nat) => part.all (· == p) && overlaps va size a (4096 * n)
  { m with
    tlb := m.tlb.filter (fun t => !(inReach reach cluster t && hit t.part t.va t.size))
    walks := m.walks.map (fun w =>
      if hit w.part (w.page * 4096) 4096 && (reach == 2 || w.die == cluster / 36) && w.due.isSome then startSlot e m w else w)
    free := m.free + 1 }

def xinvBody (o : FS) (e : Env) (c : Ctx) (m : Mach) : BRes :=
  let a := (readOp e m c .n64 o.sa).2 % 2 ^ 56
  let n := (readOp e m c .n32 o.sb).2
  if a % 4096 ≠ 0 then trapOf m cMISAL
  else if n = 0 || 2 ^ 20 < n then trapOf m cRANGE
  else
    let p := openOp m 1 (e.now + 2) c.toks
    ok (sendSet e p.2 c 3 c.core false false false p.1 (.inval none a n (bitsOf o.sys.toNat 1 0) (clusterOf c.core)))

def execXinv (h : Hdr) (o : FS) (s : State) := runI (.xinv h o) h true (xinvBody o) s

/-- The invalidation register of a die starts an invalidation (18 R404); a control core that writes it is noted by `ownInval`. -/
def startInval (e : Env) (m : Mach) (d part va pages reach : Nat) : Mach :=
  send e m (feHome d) (feHome d) false none [] 3 false false false 0 (.inval (some part) va pages reach (36 * d))

/-- Invalidations sent since a serial are those of a control core: they wait for its earlier writes (18 R404). -/
def ownInval (cc n : Nat) (m : Mach) : Mach :=
  { m with flight := m.flight.map (fun x => match x.body with
      | .inval _ _ _ _ _ => if n ≤ x.id then { x with thr := some (ctlRef cc), who := [0] } else x
      | _ => x) }

/-- An invalidation that a die's register started is not over. -/
def invalBusy (m : Mach) (d : Nat) : Bool :=
  m.flight.any (fun x => match x.body with | .inval (some _) _ _ _ cl => cl == 36 * d | _ => false)

/-! Suspension and calls (16 R382, R383). -/

def swapBody (o : FS) (e : Env) (c : Ctx) (m : Mach) : BRes :=
  let r := readOp e m c .s32 o.sa
  ok (suspendTeam e (land r.1 (e.now + 2) [] c.toks) c.team 1 (BitVec.ofNat 32 r.2) c.pc 0)

def execSwap (h : Hdr) (o : FS) (s : State) := runI (.swap h o) h true (swapBody o) s

/-- The set waits for its reply; the call enters the queue of the die. -/
def fcalBody (o : FS) (e : Env) (c : Ctx) (m : Mach) : BRes :=
  let a := readOp e m c .s32 o.sa
  let d := coreDie c.core
  let m1 := c.lanes.foldl (fun m l => updThr m c.g l (waitThr .fcal 0 c)) a.1
  let m2 := updTeam m1 c.team (fun t => { t with fcalOut := t.fcalOut ++ [(c.g, o.dst, c.lanes.map (fun l => { g := c.g, lane := l }), c.toks)] })
  ok (setIntr (updDie m2 d (fun x => { x with
    fcal := x.fcal ++ [(bitsOf o.sys.toNat 15 0, markOf e.sys c.part c.core, (grpOf m c.g).gteam, BitVec.ofNat 32 a.2)] })) d 3)

def execFcal (h : Hdr) (o : FS) (s : State) := runI (.fcal h o) h true (fcalBody o) s

end Sys2Proof.Machine
end

