-- ==== Sys2Proof/Machine/Perform.lean ====
section
/-! DEFINITION. When a message may be performed at its home, and what it does there (spec/04 R108 to R124, 03 R86, R94 to R101, 05 R146, R151, 08 R233 to R260, 16 R380). -/
namespace Sys2Proof.Machine
open Sys2Proof

/-! Order (03 R104, 04 R108, R111, R115, R116). -/

/-- The same message with its storage addresses moved. -/
def moveBody (f : Nat → Nat) : Body → Body
  | .load sa w sx d l pc va => .load (f sa) w sx d l pc va
  | .tileRead rows c k st eb tb pc va => .tileRead (rows.map (fun r => (f r.1, r.2))) c k st eb tb pc va
  | .store rows a p => .store (rows.map (fun r => (f r.1, r.2))) a p
  | .packet c i sa d ep => .packet c i (f sa) d ep
  | .atom sa op ty b d g l pc va => .atom (f sa) op ty b d g l pc va
  | .cas sa w x y d pc va => .cas (f sa) w x y d pc va
  | .metaRead fr d pc va => .metaRead (f (fr * 16384) / 16384) d pc va
  | .qwait sa => .qwait (f sa)
  | .wake sa n => .wake (f sa) n
  | .arrSet sa n => .arrSet (f sa) n
  | .arrInc sa n c => .arrInc (f sa) n c
  | .push sa t k x => .push (f sa) t k x
  | .pop sa t k d l pc va => .pop (f sa) t k d l pc va
  | .seal sa d pc va => .seal (f sa) d pc va
  | .plogRead sa d l pc va => .plogRead (f sa) d l pc va
  | .colophon sa s c => .colophon (f sa) s c
  | .ctlLoad cc sa n sx fp rd => .ctlLoad cc (f sa) n sx fp rd
  | b => b

/-- Arrived before: by clock, then by serial. -/
def arrivedBefore (x y : Msg) : Bool := decide (x.due < y.due) || (x.due == y.due && decide (x.id < y.id))

def sameFlow (x y : Msg) : Bool := x.src == y.src && x.dst == y.dst && x.recCls == y.recCls

/-- Allowance and count of a hand queue (03 R100). -/
def queueHdr (m : Mach) (sa : Nat) : Nat × Nat × Nat × Nat :=
  let n := readNat m sa 16
  (bitsOf n 119 112, bitsOf n 103 96, bitsOf n 63 32, bitsOf n 31 0)

/-- A push waits while no allowance is left, a pop while no entry is there. -/
def queueWaits (m : Mach) : Body → Bool
  | .push sa _ _ _ => let h := queueHdr m sa; decide (h.1 ≤ h.2.1)
  | .pop sa _ _ _ _ _ _ => (queueHdr m sa).2.1 == 0
  | _ => false

/-- Fields of the header of an inbox ring (03 R96). -/
structure RingHdr where
  head : Nat
  tail : Nat
  rfsd : Nat
  size : Nat
  allow : Nat
  deriving DecidableEq, Repr

def ringHdr (m : Mach) (sa : Nat) : RingHdr :=
  let n := readNat m sa 16
  { head := bitsOf n 31 0, tail := bitsOf n 63 32, rfsd := bitsOf n 79 64, size := bitsOf n 83 80, allow := bitsOf n 127 96 }

/-- Storage that a message touches at its home: with the header and the entries of a ring, and the word of a monitor. -/
def msgAddrs (e : Env) (m : Mach) (x : Msg) : List (Nat × Nat) :=
  match x.body with
  | .ring core k _ _ _ => (match ringAt (lget (coreOf m core).ring k 0) with
    | some off => let h := ringHdr m (sliceAddr e m core off); [(sliceAddr e m core off, 16), (sliceAddr e m core (off + 64 + 64 * (h.tail % 2 ^ h.size)), 64)]
    | none => [])
  | .monArm _ => (match x.thr with | some r => (match (thrOf m r.g r.lane).mon with | some mo => [(mo.sa, 8)] | none => []) | none => [])
  | b => bodyAddrs b

/-! Banks (03 R81). -/

/-- Banks and rows that runs of bytes use, each with the clocks that earlier rows of its bank take. -/
def bankUse (l : List (Nat × Nat)) : List (Nat × Nat × Nat) :=
  match l with
  | [(sa, n)] => (bankRowsOf sa n).zipIdx.map (fun (b, i) => (b.1, b.2, i / 256))
  | l => (l.flatMap (fun r => bankRowsOf r.1 r.2)).eraseDups.foldl (fun acc b => acc ++ [(b.1, b.2, acc.countP (fun x => x.1 == b.1))]) []

/-- Banks of its home that a message uses. -/
def msgBanks (e : Env) (m : Mach) (x : Msg) : List (Nat × Nat × Nat) := if x.dst < 576 then bankUse (msgAddrs e m x) else []

/-- Another row of a bank that the access needs is served in the clock in which the access needs it: each bank performs one access per clock (03 R81). -/
def bankBusy (e : Env) (m : Mach) (x : Msg) : Bool :=
  match (coreOf m x.dst).banks.filter (fun r => decide (e.now ≤ r.2.2)) with
  | [] => false
  | l => (msgBanks e m x).any (fun b => l.any (fun r => r.1 == b.1 && r.2.1 != b.2.1 && r.2.2 == e.now + b.2.2))

/-- The banks that a performed access uses, in this clock and the next. -/
def useBanks (e : Env) (m : Mach) (x : Msg) : Mach :=
  match msgBanks e m x with
  | [] => m
  | l => updCore m x.dst (fun c => { c with banks := c.banks.filter (fun r => decide (e.now ≤ r.2.2)) ++ l.map (fun b => (b.1, b.2.1, e.now + b.2.2)) })

/-! Order of the accesses of one agent (04 R108, R112, R115). -/

/-- Two messages are accesses of one agent: threads by their lanes, a Front End by its unit. -/
def sameAgent (x : Msg) (src : Nat) (thr : Option TRef) (who : List Nat) : Bool :=
  match x.thr, thr with
  | some r, some q => r.g == q.g && x.who.any who.contains
  | none, none => x.src == src && decide (1300 ≤ src) && decide (src < 1400)
  | _, _ => false

def sameMsgAgent (x y : Msg) : Bool := sameAgent x y.src y.thr y.who

/-- A push or pop that has arrived and waits does not hold back other messages of its flow, nor does an access that waits for its bank hold back those of other agents, but for a release. -/
def parked (e : Env) (m : Mach) (x y : Msg) : Bool :=
  decide (y.due ≤ e.now) && (queueWaits m y.body || (!x.rel && !sameMsgAgent x y && bankBusy e m y))

/-- Pushes of one queue are first-in first-out, and so are pops. -/
def queueTurn (e : Env) (m : Mach) (x : Msg) : Bool :=
  match x.body with
  | .push sa _ _ _ => !m.flight.any (fun y => match y.body with | .push sb _ _ _ => sa == sb && decide (y.due ≤ e.now) && arrivedBefore y x | _ => false)
  | .pop sa _ _ _ _ _ _ => !m.flight.any (fun y => match y.body with | .pop sb _ _ _ _ _ _ => sa == sb && decide (y.due ≤ e.now) && arrivedBefore y x | _ => false)
  | _ => true

/-- Ranges of storage whose packets are deferred: outgoing allocations until they have been copied, and images while their allocation is copied back (16 R388, R389). -/
def deferRanges (e : Env) (m : Mach) : List (Nat × Nat) :=
  m.teams.flatMap (fun (_, t) =>
    match t.susp with
    | .spilling | .draining _ | .copying _ => (teamCores e.sys t).map (fun c => (sliceBase c + t.spoff, t.spsz))
    | .copyback _ => (teamCores e.sys t).zipIdx.map (fun (_, i) => (imageBase m t i + 0x200000 + t.spoff, t.spsz))
    | _ => [])

/-- An update that the spill engine drains (16 R387). DEDUCED: it is performed in its slice before the copy begins, and is neither deferred nor held up by the deferral queue, for the copy waits for its acknowledgement (04 R122; entry 41 of the assumption log). -/
def ofSpill (m : Mach) (x : Msg) : Bool := x.thr.any (fun r => decide (32 ≤ r.lane) && !isCtl r && (teamOf m (grpOf m r.g).team).susp == .draining x.op)

/-- A packet for an outgoing allocation. -/
def mustDefer (e : Env) (m : Mach) (x : Msg) : Bool :=
  !ofSpill m x && (msgAddrs e m x).any (fun (a, n) => (deferRanges e m).any (fun (b, k) => overlaps a n b k))

/-- An earlier message of the flow stands before it; a release that is not yet injected stands only before those of its own thread. -/
def flowBlocked (e : Env) (m : Mach) (x : Msg) : Bool :=
  m.flight.any (fun y => decide (y.id < x.id) && sameFlow y x && y.stage != .deferred && (y.stage != .waiting || sameMsgAgent x y) && !parked e m x y && !(ofSpill m x && mustDefer e m y))

/-- An earlier acquire of the thread has not been performed. -/
def acqBlocked (m : Mach) (x : Msg) : Bool := x.thr.isSome && m.flight.any (fun y => y.acq && decide (y.id < x.id) && sameMsgAgent x y)

/-- An `arrv.add` of a thread (08 R254), or an invalidation (18 R404): what every earlier write of its thread must have been performed for. -/
def afterWrites : Body → Bool
  | .arrInc _ _ copy => copy == 0
  | .inval _ _ _ _ _ => true
  | _ => false

/-- A release waits until every earlier write of its agent, homed on the issuing die elsewhere than its own home, has been acknowledged (04 R115); an `arrv.add` or an invalidation until every earlier write has been performed (08 R254, 18 R404). -/
def relWaits (m : Mach) (x : Msg) : Bool :=
  if afterWrites x.body && x.thr.isSome then m.flight.any (fun y => y.wr && decide (y.id < x.id) && sameMsgAgent x y)
  else x.rel
    && (m.flight.any (fun y => y.wr && decide (y.id < x.id) && y.dieTo == x.die && !(y.dst == x.dst && y.recCls == x.recCls) && sameMsgAgent x y)
      || m.acks.any (fun y => y.wr && decide (y.id < x.id) && y.dieTo == x.die && !(y.dst == x.dst && y.recCls == x.recCls) && sameAgent x y.src y.thr y.who))

/-- Bytes of storage that two messages both touch. -/
def touchSame (x y : Body) : Bool := (bodyAddrs x).any (fun (a, n) => (bodyAddrs y).any (fun (b, k) => overlaps a n b k))

/-- A write that can still be applied: its interface has not cut it off (18 R412). -/
def canApply (m : Mach) (y : Msg) : Bool := y.wr && y.stage != .cut && y.stage != .unsent && !queueWaits m y.body

/-- Writes that happen before the access, by the releases that its die or its thread has received, have not all been applied: of a message from another die those homed on the receiving die (04 R116), of any other those to its own bytes (04 R112). A push that waits in its queue has applied nothing yet and holds nothing back. -/
def vcBlocked (m : Mach) (x : Msg) : Bool :=
  if x.die != x.dieTo then
    m.flight.any (fun y => y.dieTo == x.dieTo && decide (y.id < x.id) && serBefore y.epoch (lget x.vc y.die 0) && canApply m y)
  else
    m.flight.any (fun y => y.dieTo == x.dieTo && decide (y.id < x.id) && serBefore y.epoch (lget x.know y.die 0) && canApply m y && touchSame x.body y.body)

/-- Messages of a path between dies that stand in the causal buffer of the receiving die (04 R116). -/
def bufferFull (m : Mach) (x : Msg) : Bool := decide (256 ≤ (m.flight.filter (fun y => y.stage == .held && y.die == x.die && y.dieTo == x.dieTo)).length)

/-- The causal buffer of the path is full and an earlier packet waits for a place in it: the path is back-pressured (04 R116). DEDUCED: it holds back packets issued after the one that waits, for that one may itself wait for an earlier packet of the path. -/
def backPressed (e : Env) (m : Mach) (x : Msg) : Bool :=
  x.die != x.dieTo && x.stage == .flight && bufferFull m x
    && m.flight.any (fun y => y.die == x.die && y.dieTo == x.dieTo && y.stage == .flight && decide (y.due ≤ e.now) && decide (y.id < x.id) && arrivedBefore y x && vcBlocked m y)

/-- The home recalls lines that the host holds before a device access (19 R425). -/
def hostBlocked (m : Mach) (x : Msg) : Bool :=
  (bodyAddrs x.body).any (fun (a, n) => m.hostLines.any (fun l => overlaps (64 * l) 64 a n))

/-- The core that a message is for, when it is one. -/
def msgCore (x : Msg) : Option Nat := if x.dst < 576 then some x.dst else none

/-- The message would be performed but for the causal buffer of R116. -/
def arrived (e : Env) (m : Mach) (x : Msg) : Bool :=
  decide (x.due ≤ e.now) && (x.stage == .flight || x.stage == .held || x.stage == .free) && !flowBlocked e m x && !acqBlocked m x

/-- The message may be performed at its home. -/
def performable (e : Env) (m : Mach) (x : Msg) : Bool :=
  arrived e m x && x.stage != .held && !vcBlocked m x && !backPressed e m x && !hostBlocked m x && !queueWaits m x.body && queueTurn e m x && !bankBusy e m x

def msgOf (m : Mach) (id : Nat) : Option Msg := m.flight.find? (fun x => x.id == id)

def dropMsg (m : Mach) (id : Nat) : Mach := { m with flight := m.flight.filter (fun x => x.id != id) }

/-- Vector clocks meet at the home, and at the issuing die with the response (04 R116); an acquire of die scope or wider makes later retrievals read anew (04 R114). -/
def mergeClocks (m : Mach) (x : Msg) : Mach :=
  let m1 := updDie m x.dieTo (fun d => { d with vc := vcMerge d.vc x.vc })
  let m2 := updDie m1 x.die (fun d => { d with vc := vcMerge d.vc (dieOf m1 x.dieTo).vc })
  if x.acq && decide (2 ≤ x.scope) && x.src < 576 then updClus m2 (clusterOf x.src) (fun c => { c with retr := [] }) else m2

/-! Scopes, and what an acquire learns (04 R109, R111, R112). -/

/-- Least scope that, issued by one agent, contains the other: the same group, team or die, or the device (04 R109). -/
def scopeFor (m : Mach) (die : Nat) (thr : Option TRef) (team : Option Nat) (die2 : Nat) (thr2 : Option TRef) (team2 : Option Nat) : Nat :=
  let tm := fun (t : Option TRef) (k : Option Nat) => match t with | some r => if isCtl r then none else some (grpOf m r.g).team | none => k
  if thr.isSome && thr.map (·.g) == thr2.map (·.g) then 0
  else if (tm thr team).isSome && tm thr team == tm thr2 team2 then 1
  else if die == die2 then 2 else 3

/-- Team of an engine thread that sends a message (04 R109). -/
def engTeam (m : Mach) (b : Body) : Option Nat :=
  match b with
  | .packet k _ _ _ _ | .colophon _ _ k | .arrInc _ _ k => (tget m.copies k).map (·.team)
  | _ => none

/-- Releases that reading some applied writes, latest first, brings, each with the scope that the acquire needs: a read-modify-write hands on what it follows (04 R111). With nothing left that could be missed, the home's clock stands for every release before. -/
def sources (m : Mach) (die : Nat) (thr : Option TRef) (home : Nat) : List Past → List (Nat × List Nat)
  | [] => [(0, (dieOf m home).vc)]
  | p :: r =>
    let need := scopeFor m die thr none p.die p.thr p.team
    (match p.relAt with
     | some sc => if need ≤ sc then [(need, p.vc)] else []
     | none => []) ++ (if p.rmw then sources m die thr home r else [])

/-- The entry of a list that stands for a scope, with a clock merged in. -/
def potAdd (l : List (List Nat)) (need : Nat) (vc : List Nat) : List (List Nat) :=
  (List.range 5).map (fun i => if i = need then vcMerge (lget l i [0, 0, 0, 0]) vc else lget l i [0, 0, 0, 0])

/-- What a read learns: an acquire at once, a relaxed read for a later acquiring fence (04 R111). -/
def gainThr (acq : Bool) (scope : Nat) (l : List (Nat × List Nat)) (t : Thread) : Thread :=
  l.foldl (fun t s =>
    if acq && decide (s.1 ≤ scope) then learnThr s.2 t else { t with pot := potAdd t.pot s.1 s.2 }) t

/-- What a control core learns, as a thread does. -/
def gainCtl (acq : Bool) (scope : Nat) (l : List (Nat × List Nat)) (c : CtlCore) : CtlCore :=
  l.foldl (fun c s => if acq && decide (s.1 ≤ scope) then { c with know := vcMerge c.know s.2 } else { c with pot := potAdd c.pot s.1 s.2 }) c

/-- The agents of a message learn, and their messages that come after it carry what they have learnt (04 R112, R116). -/
def gain (m : Mach) (x : Msg) (l : List (Nat × List Nat)) : Mach :=
  match x.thr with
  | none => m
  | some r =>
    let m1 := if isCtl r then updCtl m (ctlNo r) (gainCtl x.acq x.scope l) else x.who.foldl (fun m k => updThr m r.g k (gainThr x.acq x.scope l)) m
    if x.acq then
      { m1 with flight := m1.flight.map (fun y =>
          if decide (x.id < y.id) && sameMsgAgent x y then { y with vc := vcMerge y.vc (dieOf m1 x.die).vc, know := vcMerge y.know (knowOf m1 y.thr y.who y.body) } else y) }
    else m1

/-! What a read may miss (04 R108, R112, R113). -/

/-- The write touches one of some ranges. -/
def touches (p : Past) (rs : List (Nat × Nat)) : Bool := rs.any (fun r => overlaps p.sa p.old.length r.1 r.2)

/-- The read returns the write or a later one: its own, one that its thread has seen, or one that happens before it (04 R108, R112). -/
def mustSee (x : Msg) (p : Past) : Bool :=
  sameAgent x 0 p.thr p.who || x.thr.any (fun r => p.seen.any (fun q => q.g == r.g && x.who.contains q.lane)) || serBefore p.epoch (lget x.know p.die 0)

/-- The read happens before the write, and does not return it (04 R112). -/
def mustMiss (x : Msg) (p : Past) : Bool := !sameAgent x 0 p.thr p.who && serBefore x.epoch (lget p.vc x.die 0)

/-- How many of the applied writes the read sees: at least those that it must, none that it must not, and of the others a free number. -/
def cutOf (x : Msg) (k : Nat) (l : List Past) : Nat :=
  let lo := l.length - (l.reverse.takeWhile (fun p => !mustSee x p)).length
  let hi := lo + ((l.drop lo).takeWhile (fun p => !mustMiss x p)).length
  hi - Config.stale k % (hi - lo + 1)

/-- The bytes of storage before some applied writes, the latest first. -/
def undo (mem : Memory) (l : List Past) : Memory := l.foldl (fun a p => memWrite a p.sa p.old) mem

/-- A read of some ranges as one: the machine in which its agents have seen and learnt what they read, and storage as the read sees it when it misses a write. A read of failed bytes misses nothing. -/
def viewPart (x : Msg) (acc : Mach × Option Memory) (rs : List (Nat × Nat)) : Mach × Option Memory :=
  let m := acc.1
  match m.past.filter (touches · rs) with
  | [] => (gain m x [(0, (dieOf m x.dieTo).vc)], acc.2)
  | l =>
    let c := if rs.any (fun r => (badKind m r.1 r.2).isSome) then l.length else cutOf x m.free l
    let rest := l.drop c
    let m1 : Mach := { m with free := m.free + 1, past := m.past.map (fun p =>
      match x.thr with
      | some r => if touches p rs && !rest.contains p then { p with seen := p.seen ++ x.who.map (fun k => { g := r.g, lane := k }) } else p
      | none => p) }
    let u := undo m.mem rest.reverse
    (gain m1 x (sources m1 x.die x.thr x.dieTo (l.take c).reverse),
      if rest.isEmpty then acc.2 else some (rs.foldl (fun a r => memWrite a r.1 (memRead u r.1 r.2)) (acc.2.getD m.mem)))

/-- The 8-byte words of a range, cut to it. -/
def wordsIn (r : Nat × Nat) : List (Nat × Nat) :=
  (List.range ((r.1 + r.2 + 7) / 8 - r.1 / 8)).map (fun i =>
    let a := max r.1 (8 * (r.1 / 8 + i))
    (a, min (r.1 + r.2) (8 * (r.1 / 8 + i) + 8) - a))

/-- A read of some ranges. The 8-byte parts of a wide access may be seen apart, unless a write to them is one whole tile store (03 R82, 08 R237). -/
def viewRead (m : Mach) (x : Msg) (rs : List (Nat × Nat)) : Mach × Option Memory :=
  let l := m.past.filter (touches · rs)
  if l.isEmpty || l.any (·.aon) then viewPart x (m, none) rs
  else (rs.flatMap wordsIn).foldl (fun a r => viewPart x a [r]) (m, none)

/-- What a function reads from storage as a read sees it, with what it changes besides. -/
def asSeen {α : Type} (v : Mach × Option Memory) (f : Mach → Mach × α) : Mach × α :=
  match v.2 with
  | none => f v.1
  | some mem => let r := f { v.1 with mem := mem }; ({ r.1 with mem := v.1.mem }, r.2)

/-- A write that has been applied, until every read sees it. -/
def pastOf (m : Mach) (x : Msg) (r : Nat × Nat) : Past :=
  { sa := r.1, old := memRead m.mem r.1 r.2, thr := x.thr, who := x.who, team := engTeam m x.body, die := x.die, epoch := x.epoch, vc := x.know,
    rmw := (match x.body with | .atom _ _ _ _ _ _ _ _ _ | .cas _ _ _ _ _ _ _ | .arrInc _ _ _ => true | _ => false),
    aon := (match x.body with | .store _ a _ => a | _ => false),
    relAt := if x.rel then some x.scope else x.frel, seen := [], sc := [], till := 0 }

/-- The message changes storage: a `cas` does when its comparison holds. -/
def applies (m : Mach) (x : Msg) : Bool :=
  x.wr && (match x.body with | .cas sa w ex _ _ _ _ => readNat m sa w == ex.toNat | _ => true)

/-- Notes the writes of a message, from the machine before it was performed. -/
def notePast (e : Env) (m0 m : Mach) (x : Msg) : Mach :=
  if applies m0 x then { m with free := m.free + 1, past := m.past ++ (msgAddrs e m0 x).map (fun r => { pastOf m0 x r with till := e.now + Config.delay m.free }) } else m

/-- An applied write is forgotten once no read may miss it. -/
def dropPast (e : Env) (m : Mach) : Mach :=
  match m.past with
  | [] => m
  | l => { m with past := l.filter (fun p => decide (e.now < p.till)
      || m.flight.any (fun x => !x.wr && mustMiss x p && (bodyAddrs x.body).any (fun (a, n) => overlaps p.sa p.old.length a n))) }

/-- Acknowledgements and responses that are back are forgotten. -/
def dropAcks (e : Env) (m : Mach) : Mach :=
  match m.acks with
  | [] => m
  | l => { m with acks := l.filter (fun a => decide (e.now < a.at_)) }

/-- Notes the acknowledgement or response of a message until it is back (04 R115, R116). -/
def noteAck (e : Env) (m : Mach) (x : Msg) : Mach :=
  { m with acks := m.acks ++
      (if x.back = 0 then [] else [{ id := x.id, src := x.src, dst := x.dst, recCls := x.recCls, die := x.die, dieTo := x.dieTo, thr := x.thr, who := x.who, wr := x.wr, at_ := e.now + x.back }]) }

/-- Every write that a die has sent to another has been acknowledged, and its causal buffers are empty (04 R116). -/
def drained (m : Mach) (d : Nat) : Bool :=
  !m.flight.any (fun x => (x.stage == .held && x.dieTo == d) || (x.wr && x.die == d && x.dieTo != d)) && !m.acks.any (fun a => a.wr && a.die == d && a.dieTo != d)

/-- An access that reads the latest value, or no storage: its agents have seen what was applied, and an acquire learns from it. -/
def attend (m : Mach) (x : Msg) : Mach :=
  match x.thr, (bodyAddrs x.body) with
  | some r, rs =>
    let l := (m.past.filter (touches · rs)).reverse
    let m1 : Mach := { m with past := m.past.map (fun p => if touches p rs then { p with seen := p.seen ++ x.who.map (fun k => { g := r.g, lane := k }) } else p) }
    gain m1 x (match x.body with
      | .atom _ _ _ _ _ _ _ _ _ | .cas _ _ _ _ _ _ _ => sources m1 x.die x.thr x.dieTo l
      | _ => [(0, (dieOf m x.dieTo).vc)])
  | none, _ => m

/-- The operation of a message has a part that comes to its core from elsewhere. -/
def markFar (m : Mach) (x : Msg) : Mach :=
  if x.src < 576 && x.src != x.dst then { m with ops := tupd m.ops x.op (fun o => { o with land := { o.land with far := some x.src } }) } else m

/-- The response lands, and the operation's part is done. -/
def respond (e : Env) (m : Mach) (x : Msg) (wr : List RegWr) : Mach := closePart (mergeClocks m x) x.op (e.now + x.back) wr []

/-- The effect has been performed at its home, and the operation's part is done (08 R235; 09 R291, R292). -/
def respondHere (e : Env) (m : Mach) (x : Msg) : Mach := closePart (mergeClocks m x) x.op e.now [] []

/-! What a message does. -/

/-- The context of a message for writes and for the log. -/
def msgCtx (x : Msg) (pc : Nat) : Ctx :=
  let t := x.thr.getD { g := 0, lane := 0 }
  { logCtx t.g t.lane pc with sn := x.id }

/-- Words to consecutive latches of every lane that a result names (06 R172). -/
def latchWrs (g : Nat) (l : Option Latch) (xs : List Word) : List RegWr :=
  match l with
  | some l => l.lanes.flatMap (fun k => xs.zipIdx.map (fun (x, i) => RegWr.x g k (l.lt + i) x l.run))
  | none => []

/-- Words to consecutive registers; none for the operand that stands for no register. -/
def wordWrs (c : Ctx) (dst : Opnd) (xs : List Nat) : List RegWr :=
  match dst with
  | .v _ | .s _ => wrWords c dst xs
  | _ => []

/-- The words of `n` bytes as loaded, with failed bytes as poison (05 R146). -/
def loadWords (e : Env) (m : Mach) (c : Ctx) (sa n : Nat) (sx : Bool) (va : Nat) : Mach × List Nat :=
  let r := loadChk e m c sa (if n ≤ 16 then n else 16) va
  if n < 4 then (r.1, [if sx then lowBits 32 (signExt r.2 (8 * n)) else r.2])
  else if n ≤ 16 then (r.1, (List.range (n / 4)).map (fun i => bitsOf r.2 (32 * i + 31) (32 * i)))
  else match badKind m sa n with
    | none => (m, (List.range (n / 4)).map (fun i => readNat m (sa + 4 * i) 4))
    | some k =>
      let p := genPoison e (setCause m c.g cMEMUC) c.g c.lane c.pc k va
      (p.1, List.replicate (n / 4) (poisonBits .f32 k p.2))

/-- A failed element of a tile load (05 R146). A container is written with PAR inverted, and its TAG as written by the device, so that its consumption finds it failed (05 R136, R151): DEDUCED for a container of another agent, see the assumption log. -/
def badTileElem (teb kind ix old : Nat) : Nat :=
  if teb < 16 then loadPoison (8 * teb) kind ix
  else putBits (putBits old 123 123 1) 127 124 (15 - contPar 30 (old % 2 ^ 120))

/-- One element as it enters a tile: `eb` bytes of memory in an element of `teb` bytes. -/
def tileElemIn (e : Env) (m : Mach) (c : Ctx) (sa eb teb va : Nat) : Mach × Nat :=
  match badKind m sa eb with
  | none => (m, readNat m sa eb)
  | some k =>
    let p := genPoison e (setCause m c.g cMEMUC) c.g c.lane c.pc k va
    (p.1, badTileElem teb k p.2 (readNat m sa eb))

/-- One run of bytes into a tile. -/
def tileRun (e : Env) (c : Ctx) (core k stride eb teb va : Nat) (acc : Mach × List RegWr) (r : Nat × Nat × Nat) : Mach × List RegWr :=
  let (sa, n, off) := r
  if stride = eb && (badKind acc.1 sa n).isNone then
    let b := memRead acc.1.mem sa n
    let hi := hiBytes (grpOf acc.1 c.g).fm (match teb with | 1 => 0 | 2 => 1 | 4 => 2 | 8 => 3 | _ => 4) b
    (acc.1, acc.2 ++ [.tile core k off b, .himag core k false hi])
  else
    (List.range (n / eb)).foldl (fun a j =>
      let x := tileElemIn e a.1 c (sa + j * eb) eb teb va
      (x.1, a.2 ++ [.tile core k (off + j * stride) (toBytes teb x.2),
        .himag core k false (hiEw (grpOf a.1 c.g).fm (match teb with | 1 => 0 | 2 => 1 | 4 => 2 | 8 => 3 | _ => 4) x.2)])) acc

/-- A drained update is acknowledged: the flush counts it (04 R122). -/
def flushAck (e : Env) (m : Mach) (x : Msg) : Mach :=
  { m with flushes := tupd m.flushes x.op (fun f =>
      { f with out := f.out - 1, ackAt := max f.ackAt (e.now + x.back) }) }

/-- A read-modify-write at its home (04 R120, R121; 08 R240). -/
def performAtom (e : Env) (m : Mach) (x : Msg) (sa op : Nat) (ty : NTy) (b : Dword) (dst : Option Opnd) (g lane pc va : Nat) : Mach :=
  let c : Ctx := { logCtx g lane pc with sn := x.id }
  let o := loadChk e m c sa (tyBits ty / 8) va
  let v := atomVal e o.1 c ty op o.2 b.toNat
  let m1 := threadStore e v.1 [(sa, toBytes (tyBits ty / 8) v.2)] false
  match dst with
  | some d => respond e m1 x (wrReg c ty d o.2)
  | none => flushAck e (mergeClocks m1 x) x

def performCas (e : Env) (m : Mach) (x : Msg) (sa w : Nat) (ex new : Dword) (dst : Opnd) (pc va : Nat) : Mach :=
  let c := msgCtx x pc
  let o := loadChk e m c sa w va
  let m1 := if o.2 = ex.toNat then threadStore e o.1 [(sa, toBytes w new.toNat)] false else o.1
  respond e m1 x (wrReg c (if w = 8 then .n64 else .n32) dst o.2)

/-! Monitors (04 R123, 08 R246, R255). -/

/-- The comparison of a monitor holds for a value. -/
def monHolds (mon : Mon) (v : Nat) : Bool :=
  if mon.awt then
    let d := (v % 256 + 256 - mon.val.toNat % 256) % 256
    decide (1 ≤ d) && decide (d ≤ 127)
  else
    let w := if mon.b64 then 64 else 32
    let f := fun (n : Nat) => if mon.signed then signExt n w else ((n % 2 ^ w : Nat) : Int)
    condInt mon.cond (f v) (f mon.val.toNat)

/-- Monitors that hold an entry at a home; those of a team that is swapped out are armed anew when it resumes (08 R250). -/
def monsAt (m : Mach) (home : Nat) : Nat :=
  (m.groups.map (fun (_, gr) => if (teamOf m gr.team).susp == .out then 0 else (gr.th.filter (fun t => match t.mon with | some mo => mo.armed && mo.poll.isNone && mo.home == home && live t | none => false)).length)).foldl (· + ·) 0

/-- Entries of a monitor table: 64 in a slice, 256 in a memory controller. -/
def monLimit (home : Nat) : Nat := if home < 1000 then 64 else 256

/-- The monitor of a thread is tested: the comparison of its word holds. -/
def monMet (m : Mach) (mo : Mon) : Bool := mo.sat.isNone && monHolds mo (readNat m mo.sa (if mo.b64 then 8 else 4))

/-- A satisfied monitor: the value that the thread may see when the response arrives, and what reading it brings (04 R123). -/
def metMon (e : Env) (m : Mach) (r : TRef) (mo : Mon) : Mon :=
  let core := (grpOf m r.g).core
  { mo with sat := some (BitVec.ofNat 64 (readNat m mo.sa (if mo.b64 then 8 else 4)), e.now + (latency core mo.home + 1) / 2),
            learn := sources m (coreDie core) (some r) (homePos mo.home).1 ((m.past.filter (touches · [(mo.sa, 8)])).reverse) }

/-- Tests the monitor of a thread. -/
def testMon (e : Env) (m : Mach) (r : TRef) : Mach :=
  match (thrOf m r.g r.lane).mon with
  | some mo =>
    if monMet m mo then
      { updThr m r.g r.lane (fun t => { t with mon := some (metMon e m r mo) }) with
        past := m.past.map (fun p => if touches p [(mo.sa, 8)] then { p with seen := p.seen ++ [r] } else p) }
    else m
  | none => m

/-- Threads whose armed monitor has a table entry. -/
def monThrs (m : Mach) : List TRef :=
  m.groups.flatMap (fun (g, gr) => gr.th.zipIdx.filterMap (fun (t, j) => if t.mon.any (fun mo => mo.armed && mo.poll.isNone) then some { g := g, lane := j } else none))

/-- Tests every armed monitor with a table entry after a write. -/
def monScan (e : Env) (m : Mach) : Mach := (monThrs m).foldl (testMon e) m

/-- A monitor arrives at its home: the current value is tested first, and a full table makes it poll. -/
def armAt (e : Env) (m : Mach) (x : Msg) (sn : Nat) : Mach :=
  match x.thr with
  | none => m
  | some r =>
    match (thrOf m r.g r.lane).mon with
    | some mo =>
      if mo.sn = sn then
        testMon e (updThr m r.g r.lane (fun t => { t with mon := some { mo with armed := true, poll := if monLimit mo.home ≤ monsAt m mo.home then some (e.now + 64) else none } })) r
      else m
    | none => m

/-! Queued waits (04 R124, 08 R248). -/

/-- The queue word of 08 R248. -/
def queueWord (e : Env) (m : Mach) (q : List TRef) : Nat :=
  match q with
  | [] => 0
  | r :: _ =>
    let gr := grpOf m r.g
    pack [(5, r.lane), (5, gr.gi % 24), (1, gr.gi / 24), (12, markOf e.sys (teamOf m gr.team).part gr.core), (9, 0), (32, q.length)]

/-- Sets the queue at a word and the word itself. -/
def setQueue (e : Env) (m : Mach) (sa : Nat) (q : List TRef) : Mach :=
  storeAt { m with queues := if q.isEmpty then tdel m.queues sa else tset m.queues sa q } sa (toBytes 8 (queueWord e m q)) false

/-- Queues kept at a home: 32 in a slice, 128 in a memory controller. -/
def queuesFull (m : Mach) (home : Nat) : Bool :=
  decide ((if home < 1000 then 32 else 128) ≤ (m.queues.filter (fun (k, _) => homeOf k == home)).length)

/-- A thread is linked, or tries again 64 clocks later. -/
def linkQueue (e : Env) (m : Mach) (sa : Nat) (r : TRef) : Mach :=
  if (thrOf m r.g r.lane).wait != .qwait then m
  else match tget m.queues sa with
    | some q => setQueue e m sa (q ++ [r])
    | none => if queuesFull m (homeOf sa) then { m with retries := m.retries ++ [(sa, r, e.now + 64)] } else setQueue e m sa [r]

/-- A thread leaves every queue. -/
def unlinkThr (e : Env) (m : Mach) (r : TRef) : Mach :=
  let m1 := { m with retries := m.retries.filter (fun x => x.2.1 != r) }
  match m1.queues.find? (fun (_, q) => q.contains r) with
  | some (k, q) => setQueue e m1 k (q.filter (· != r))
  | none => m1

/-- `wake` releases the first `n` waiters; each is ready when the release reaches it, and knows what the waker's release brings at its scope (04 R111, R124). -/
def wakeQueue (e : Env) (m : Mach) (x : Msg) (sa n : Nat) : Mach :=
  match tget m.queues sa with
  | none => m
  | some q =>
    (q.take n).foldl (fun m r =>
      let gr := grpOf m r.g
      let l := latency gr.core (homeOf sa)
      let m1 := updDie m (coreDie gr.core) (fun d => { d with vc := vcMerge d.vc (dieOf m (homePos (homeOf sa)).1).vc })
      let m2 := if scopeFor m (coreDie gr.core) (some r) none x.die x.thr none ≤ x.scope then updThr m1 r.g r.lane (learnThr x.know) else m1
      closePart m2 (thrOf m r.g r.lane).wop (e.now + (l - l / 2)) [] [r]) (setQueue e m sa (q.drop n))

/-! Arrival words and hand queues (03 R93, R94, R100, R101). -/

/-- The update of R94. -/
def arrCount (w n : Nat) : Nat :=
  let target := bitsOf w 63 36
  let c := bitsOf w 35 8 + n
  if target = 0 then pack [(8, w % 256), (28, min c 0x0FFFFFFF), (28, 0)]
  else pack [(8, (w % 256 + c / target) % 256), (28, c % target), (28, target)]

/-- A header of a hand queue with a new count of pushes, of pops and of entries; ALLOW follows (03 R100). -/
def queueSet (m : Mach) (sa head tail count : Nat) : Mach :=
  let h := queueHdr m sa
  storeAt m sa (toBytes 16 (putBits (putBits (putBits (putBits (readNat m sa 16) 31 0 head) 63 32 tail) 103 96 count) 111 104 (h.1 - count))) false

/-- A push: the entry goes behind those present. DESIGN CHOICE: the entries form a ring of CAP places that begins with entry 0 at launch; the spec numbers the entries of inbox rings only. -/
def pushQueue (m : Mach) (sa team k : Nat) (x : Dword) : Mach :=
  let h := queueHdr m sa
  queueSet (storeAt m (sa + 16 + 8 * ((lget (teamOf m team).qhd k 0 + h.2.1) % max 1 h.1)) (toBytes 8 x.toNat) false) sa h.2.2.2 (h.2.2.1 + 1) (h.2.1 + 1)

/-- A pop: the oldest entry, and the queue without it. -/
def popQueue (e : Env) (c : Ctx) (m : Mach) (sa team k va : Nat) : Mach × Nat :=
  let h := queueHdr m sa
  let i := lget (teamOf m team).qhd k 0 % max 1 h.1
  let r := loadChk e m c (sa + 16 + 8 * i) 8 va
  (updTeam (queueSet r.1 sa (h.2.2.2 + 1) h.2.2.1 (h.2.1 - 1)) team (fun t => { t with qhd := lupd t.qhd k (fun _ => (i + 1) % max 1 h.1) }), r.2)

/-! Inbox rings (03 R96 to R99). -/

/-- Entries between HEAD and TAIL. -/
def ringFill (h : RingHdr) : Nat := (h.tail + 2 ^ 32 - h.head) % 2 ^ 32

/-- The header with its entries lies in the slice. -/
def ringFits (off : Nat) (h : RingHdr) : Bool := decide (off + 64 + 64 * 2 ^ h.size ≤ 2 ^ 20)

def ringUsable (off : Nat) (h : RingHdr) : Bool :=
  decide (2 ≤ h.size) && decide (h.size ≤ 12) && decide (1 ≤ h.allow) && decide (h.allow < 2 ^ h.size) && ringFits off h

/-- Appends one entry and advances TAIL (03 R97, R98). -/
def ringAppend (e : Env) (m : Mach) (core off : Nat) (sender kind sseq : Nat) (payload : List Byte) : Mach :=
  let h := ringHdr m (sliceAddr e m core off)
  let ent := sliceAddr e m core (off + 64 + 64 * (h.tail % 2 ^ h.size))
  let m1 := storeAt m ent (toBytes 8 (pack [(32, sseq), (8, 0), (8, payload.length), (4, kind), (12, sender)]) ++ payload) false
  storeAt m1 (sliceAddr e m core (off + 4)) (toBytes 4 (h.tail + 1)) false

/-- RFSD counts a refusal. -/
def ringRefuse (e : Env) (m : Mach) (core off : Nat) : Mach :=
  let h := ringHdr m (sliceAddr e m core off)
  storeAt m (sliceAddr e m core (off + 8)) (toBytes 2 (min 65535 (h.rfsd + 1))) false

/-- A message is appended or refused. DESIGN CHOICE: where two cases of R98 hold at once, a ring with SIZE in range that does not lie within the slice is the third case whatever ALLOW is, and a header with SIZE out of range is the first case wherever it lies (entry 63 of the assumption log). -/
def ringMessage (e : Env) (m : Mach) (core k sender : Nat) (payload : List Byte) : Mach × Bool :=
  match ringAt (lget (coreOf m core).ring k 0) with
  | none => (m, false)
  | some off =>
    if 2 ^ 20 < off + 64 then (m, false)
    else
      let h := ringHdr m (sliceAddr e m core off)
      if ringUsable off h && decide (ringFill h < h.allow) then
        let key := sender * 8 + k
        let n := (tget (coreOf m core).sseq key).getD 0
        (ringAppend e (updCore m core (fun c => { c with sseq := tset c.sseq key ((n + 1) % 2 ^ 32) })) core off sender 0 n payload, true)
      else if decide (2 ≤ h.size) && decide (h.size ≤ 12) && !ringFits off h then (m, false)
      else (ringRefuse e m core off, false)

/-- A pending marker of a ring has space (03 R98). -/
def markerFits (e : Env) (m : Mach) (core k : Nat) : Option Nat :=
  match ringAt (lget (coreOf m core).ring k 0) with
  | none => none
  | some off =>
    let h := ringHdr m (sliceAddr e m core off)
    if 2 ^ 20 < off + 64 then none
    else if ringUsable off h && decide (ringFill h < 2 ^ h.size) then some off else none

/-- Appends the oldest pending marker of a ring; SSEQ from its sender begins again at 0 (18 R412). -/
def appendMarker (e : Env) (m : Mach) (core k : Nat) : Mach :=
  match (coreOf m core).markers.find? (fun x => x.2 == k), markerFits e m core k with
  | some (s, _), some off =>
    let key := s * 8 + k
    let n := (tget (coreOf m core).sseq key).getD 0
    ringAppend e (updCore m core (fun c => { c with markers := c.markers.filter (fun x => x != (s, k)), sseq := tset c.sseq key 0 })) core off s 1 n []
  | _, _ => m

/-! Registers of a network interface (16 R380). -/

/-- Groups that stand on a core. -/
def groupsOn (m : Mach) (core : Nat) : Nat := (m.groups.filter (fun (_, gr) => gr.core == core && resident (teamOf m gr.team))).length

def writeNi (m : Mach) (core reg : Nat) (x : Word) : Mach :=
  if reg < 8 then updCore m core (fun c => { c with ring := setAt c.ring reg (x &&& 0xBFFF) })
  else if bitOf x.toNat 0 then updCore m core (fun c => { c with isol := true })
  else if (clusOf m (clusterOf core)).restoreDue then m
  else updCore m core (fun c => { c with isol := false })

/-- An allocation on a core is being copied, out or back, or waits for it since the swap. -/
def allocCopied (e : Env) (m : Mach) (core : Nat) : Bool :=
  m.teams.any (fun (_, t) => (match t.susp with | .spilling | .draining _ | .copying _ | .swapped | .copyback _ => true | _ => false) && (teamCores e.sys t).contains core)

def readNi (e : Env) (m : Mach) (core reg : Nat) : Nat :=
  let c := coreOf m core
  if reg < 8 then (lget c.ring reg 0).toNat
  else match reg with
    | 8 => if c.isol then 1 else 0
    | 0x20 => (m.flight.filter (fun x => x.stage == .deferred && x.dst == core)).length
    | 0x21 => (clusOf m (clusterOf core)).fbuf.length
    | 0x22 => groupsOn m core
    | _ => if c.swapUntil.isSome || allocCopied e m core then 1 else 0

/-! Sealing (09 R276). -/

def sealCard (m : Mach) (sa : Nat) : Mach × Nat :=
  let v := (readNat m (sa + 120) 4 + 1) % 2 ^ 32
  let ver := if v = 0 then 1 else v
  (storeAt m (sa + 120) (toBytes 4 ver ++ toBytes 4 (crc32c (memRead m.mem sa 120 ++ toBytes 4 ver))) false, ver)

/-! Engines: a packet is acknowledged, an increment applied, a colophon written (09 R268 to R270). -/

def updCopy (m : Mach) (k : Nat) (f : Copy → Copy) : Mach := { m with copies := tupd m.copies k f }

/-- A payload packet has been performed: increments go from its home to the arrival words (03 R94), and what the copy has done happens before whoever joins it (04 R119). -/
def packetDone (e : Env) (m : Mach) (x : Msg) (copy idx n : Nat) : Mach :=
  match tget m.copies copy with
  | none => m
  | some cp =>
    let go := (if cp.ended then [] else cp.arrs[idx]?.toList).filterMap (fun a => match xlateWalk e m cp.core cp.part a 8 2 with | .ok sa => some sa | _ => none)
    let m0 := bumpDie m x.die
    let m1 := updCopy m0 copy (fun c => { c with out := c.out - 1, incs := c.incs + go.length, know := vcMerge (vcMerge c.know x.know) (vcOnly (dieOf m0 x.die).vc x.die) })
    go.foldl (fun m sa => send e m x.dst (homeOf sa) false none [] 3 false true true 0 (.arrInc sa n copy)) m1

/-- Words of some runs of bytes as they stand. -/
def coveredWords (m : Mach) (rows : List (Nat × List Byte)) : List (Nat × Nat) :=
  rows.flatMap (fun (a, l) => (List.range ((a + l.length + 3) / 4 - a / 4)).map (fun i => (4 * (a / 4 + i), readNat m (4 * (a / 4 + i)) 4)))

/-- Before a whole tile store is applied, copies that have begun to read keep what it replaces, unless the store happens before them: no copy sees a part of it (08 R237). -/
def keepOld (m : Mach) (x : Msg) (rows : List (Nat × List Byte)) : Mach :=
  { m with copies := m.copies.map (fun (k, c) =>
      if c.next = 0 || c.todo.isEmpty || serBefore x.epoch (lget c.know x.die 0) then (k, c)
      else (k, { c with keep := c.keep ++ (coveredWords m rows).filter (fun w => (c.keep.lookup w.1).isNone) })) }

/-! The message. -/

/-- Data that leaves for the host while it is poison in the device carries the mark of the link: the host's copy of it is failed (19 R423). -/
def hostMark (m : Mach) (sa n : Nat) (ep : Bool) : Mach :=
  if ep && homeOf sa == 1400 then { m with bad := m.bad ++ (List.range n).map (fun i => (sa + i, 2)) } else m

/-- The value of a control core's load: failed bytes as poison of their kind, with index 0. DESIGN CHOICE (entry 60): a control core has no team, so no log takes an entry and the spec gives no index. -/
def ctlBits (m : Mach) (sa n : Nat) (sx : Bool) : Nat :=
  let v := match badKind m sa n with | some k => loadPoison (8 * n) k 0 | none => readNat m sa n
  if sx then lowBits 64 (signExt v (8 * n)) else v

/-- What a message of the memory system does at its home; messages of the Catalogue and the Front End have functions of their own. -/
def performBody (e : Env) (m : Mach) (x : Msg) : Mach :=
  match x.body with
  | .load sa w sx dst latch pc va =>
    let c := msgCtx x pc
    let r := asSeen (viewRead m x [(sa, w)]) (fun m => loadWords e m c sa w sx va)
    respond e r.1 x (wordWrs c dst r.2 ++ latchWrs c.g latch [BitVec.ofNat 32 (r.2.headD 0)])
  | .tileRead rows core k stride eb teb pc va =>
    let r := asSeen (viewRead m x (rows.map (fun r => (r.1, r.2.1)))) (fun m => rows.foldl (tileRun e (msgCtx x pc) core k stride eb teb va) (m, []))
    respond e r.1 x r.2
  | .store rows aon prog => respondHere e (if prog then threadStore e (if aon then keepOld m x rows else m) rows aon else rows.foldl (fun m r => storeAt m r.1 r.2 false) m) x
  | .packet copy idx sa data ep => packetDone e (mergeClocks (hostMark (storeAt m sa data false) sa data.length ep) x) x copy idx data.length
  | .atom sa op ty b dst g lane pc va => performAtom e (attend m x) x sa op ty b dst g lane pc va
  | .cas sa w ex new dst pc va => performCas e (attend m x) x sa w ex new dst pc va
  | .metaRead f dst _ _ => respond e m x (wrReg (msgCtx x 0) .n64 dst (frameWord m f))
  | .monArm sn => respond e (armAt e m x sn) x []
  | .qwait sa => (match x.thr with | some r => linkQueue e (mergeClocks m x) sa r | none => m)
  | .wake sa n => respond e (wakeQueue e (mergeClocks m x) x sa n) x []
  | .arrSet sa n => respond e (storeAt m sa (toBytes 8 (pack [(8, readNat m sa 1), (28, 0), (28, n)])) false) x []
  | .arrInc sa n copy =>
    let m1 := storeAt m sa (toBytes 8 (arrCount (readNat m sa 8) n)) false
    if copy = 0 then respond e m1 x [] else updCopy (mergeClocks m1 x) copy (fun c => { c with incs := c.incs - 1 })
  | .push sa team k d =>
    let l := x.thr.map (fun r => (List.range 32).filterMap (fun j =>
      if (thrOf m r.g j).wait == .qpush && (thrOf m r.g j).wop == x.op then some { g := r.g, lane := j } else none))
    closePart (mergeClocks (pushQueue m sa team k d) x) x.op (e.now + x.back) [] (l.getD [])
  | .pop sa team k dst latch pc va =>
    let r := popQueue e (msgCtx x pc) (attend m x) sa team k va
    let l := x.thr.map (fun r => (List.range 32).filterMap (fun j =>
      if (thrOf m r.g j).wait == .qpop && (thrOf m r.g j).wop == x.op then some { g := r.g, lane := j } else none))
    closePart (mergeClocks r.1 x) x.op (e.now + x.back) (wrReg (msgCtx x 0) .n64 dst r.2 ++ latchWrs ((x.thr.map (·.g)).getD 0) latch (regWords .n64 r.2)) (l.getD [])
  | .ring core k sender payload pd =>
    let r := ringMessage e m core k sender payload
    let t := x.thr.getD { g := 0, lane := 0 }
    respond e r.1 x [.p t.g t.lane pd r.2 false]
  | .seal sa dst _ _ =>
    let r := sealCard m sa
    respond e r.1 x (match dst with | some d => wrReg (msgCtx x 0) .n32 d r.2 | none => [])
  | .plogRead sa dst latch pc va =>
    let c := msgCtx x pc
    let r := asSeen (viewRead m x [(sa, 32)]) (fun m => loadWords e m c sa 32 false va)
    respond e r.1 x (wordWrs c dst r.2 ++ latchWrs c.g latch [BitVec.ofNat 32 (r.2.headD 0)])
  | .colophon sa stamp copy => updCopy (mergeClocks (storeAt m sa (toBytes 8 stamp.toNat) false) x) copy (fun c => { c with colOut := c.colOut - 1 })
  | .post grid k w => respondHere e { m with grids := tupd m.grids grid (fun g => { g with res := setAt g.res k w }) } x
  | .ctlLoad cc sa n sx fp rd =>
    let r := asSeen (viewRead m x [(sa, n)]) (fun m => (m, ctlBits m sa n sx))
    pushLand (mergeClocks r.1 x) { tm := e.now + x.back, wr := [.ctl cc fp rd (BitVec.ofNat 64 r.2)], tok := [], wake := [] }
  | .nireg core reg w => respond e (writeNi m core reg w) x []
  | .niread core reg dst => respond e m x (wrReg (msgCtx x 0) .n32 dst (readNi e m core reg))
  | .inval part va n reach cl => respond e (invalidate e m part va n reach cl) x []
  | _ => m

/-- Reads with every byte of the range failing as kind LINK. -/
def linkRead (e : Env) (m : Mach) (x : Msg) : Mach :=
  let cells := (bodyAddrs x.body).flatMap (fun (a, n) => (List.range n).map (fun i => (a + i, 2)))
  { performBody e { m with bad := cells ++ m.bad } x with bad := m.bad }

/-- A message whose answer alone carries data. -/
def readsOnly : Body → Bool
  | .load _ _ _ _ _ _ _ | .tileRead _ _ _ _ _ _ _ _ | .plogRead _ _ _ _ _ | .pop _ _ _ _ _ _ _ | .ctlLoad _ _ _ _ _ _ => true
  | _ => false

/-- A message at its home; of a read whose data lost a flit the payload arrives as poison of kind LINK (05 R151). -/
def performMsg (e : Env) (m : Mach) (x : Msg) : Mach := if x.bad && readsOnly x.body then linkRead e m x else performBody e m x

/-! Integrity counters (05 R152, 19 R422). -/

/-- Die and number of the unit that checks a byte of storage: HBM stacks 0 and 1, LPDDR channels from 2, SRAM 14. Which channel serves a byte the spec does not say. -/
def errUnit (sa : Nat) : Nat × Nat :=
  match skind sa with
  | .hbm d => (d, sa / 2 ^ 14 % 2)
  | .lpddr d => (d, 2 + Config.lpddrChannel sa % 8)
  | .slice c => (coreDie c, 14)
  | _ => (0, 14)

/-- Counts at an entry of a die: corrected errors or retransmissions, and uncorrected errors or discards; both saturate. -/
def bumpErr (m : Mach) (d u a b : Nat) : Mach :=
  updDie m d (fun x => { x with errs := tset x.errs u (let o := (tget x.errs u).getD (0, 0); (min 0xFFFFFFFF (o.1 + a), min 0xFFFFFFFF (o.2 + b))) })

/-- Ranges read with failing bytes count one uncorrected error each, where the check failed in the device. -/
def noteBad (m : Mach) (rs : List (Nat × Nat)) : Mach :=
  match m.bad with
  | [] => m
  | _ => rs.foldl (fun m r => if badKind m r.1 r.2 == some 1 then (let u := errUnit r.1; bumpErr m u.1 u.2 0 1) else m) m

end Sys2Proof.Machine
end

