-- ==== Sys2Proof/Machine/Loops.lean ====
section
/-! DEFINITION. Loop nests (spec/09 R294 to R297, 05 R140). -/
namespace Sys2Proof.Machine
open Sys2Proof

def lTyOf (o : FL) : NTy := (lTy (lType o)).getD .f32

/-- Iterations of all five levels (09 R295). -/
def lCount (o : FL) : Nat := (List.range 5).foldl (fun n l => n * lExt o l) 1

/-- Indexes i0 to i4 of iteration `k`, level 0 innermost. -/
def lIdx (o : FL) : Nat → Nat → Nat → List Nat
  | 0, _, _ => []
  | f + 1, l, k => k % lExt o l :: lIdx o f (l + 1) (k / lExt o l)

/-- The base of an operand as its scalar pair holds it. -/
def lBaseVal (m : Mach) (c : Ctx) (o : FL) (i : Nat) : Nat := regS m c.g (lBase o i) + 2 ^ 32 * regS m c.g (lBase o i + 1)

/-- Address of operand `i` at iteration `k` (09 R295). -/
def lAddr (m : Mach) (c : Ctx) (o : FL) (i k : Nat) : Int :=
  ((lIdx o 5 0 k).zipIdx.map (fun (x, l) => (x : Int) * lStr o i l * (tyBits (lTyOf o) / 8 : Nat))).foldl (· + ·) (lBaseVal m c o i : Int)

/-- The members have read some bytes at their home, at once and as they stand: they have seen the latest write, and an acquiring fence may learn from it (04 R108, R111). -/
def seeNow (m : Mach) (c : Ctx) (sa n : Nat) : Mach :=
  let l := m.past.filter (touches · [(sa, n)])
  let src := sources m (coreDie c.core) (some c.ref) (homePos (homeOf sa)).1 l.reverse
  let old := fun (t : Thread) (s : Nat × List Nat) => lget t.pot s.1 [0, 0, 0, 0]
  if l.isEmpty && c.lanes.all (fun k => src.all (fun s => vcMerge (old (thrOf m c.g k) s) s.2 == old (thrOf m c.g k) s)) then m
  else c.lanes.foldl (fun m k => updThr m c.g k (gainThr false 0 src))
    { m with past := m.past.map (fun p => if touches p [(sa, n)] then { p with seen := p.seen ++ c.lanes.map (fun k => { g := c.g, lane := k }) } else p) }

/-- A write that the members perform at once: reads in flight that happen before it miss it (04 R112), and monitors are tested after it (04 R123); an isolated core performs none (18 R413). -/
def storeNow (e : Env) (m : Mach) (c : Ctx) (sa : Nat) (data : List Byte) : Mach :=
  if cutOff m c.core sa then m else
  let d := coreDie c.core
  let p : Past := { sa := sa, old := memRead m.mem sa data.length, thr := some c.ref, who := c.lanes, team := none, die := d, epoch := lget (dieOf m d).vc d 0,
                    vc := knowOf m (some c.ref) c.lanes (.monArm 0), rmw := false, aon := false, relAt := (thrOf m c.g c.lane).frel, seen := [], sc := [], till := e.now }
  let m1 := updDie (threadStore e m [(sa, data)] false) (homePos (homeOf sa)).1 (fun a => { a with vc := vcMerge a.vc (dieOf m d).vc })
  monScan e (if m.flight.any (fun x => !x.wr && mustMiss x p && touches p (bodyAddrs x.body)) then { m1 with past := m1.past ++ [p] } else m1)

/-- Reads an element after its checks. -/
def lRead (e : Env) (c : Ctx) (n : Nat) (m : Mach) (a : Int) : Except Out (Mach × Nat) :=
  match checkAddr e m c a n n 0 false with
  | .ok sa => .ok (loadAs e (seeNow m c sa n) c (seenKind m c.core sa n) sa n a.toNat)
  | .stop o => .error o
  | _ => .error (.cause cPROT (lowBits 56 a) 0 false 0)

/-- Checks of a write, with PSTORE; the storage address. -/
def lWrite (e : Env) (c : Ctx) (n : Nat) (m : Mach) (a : Int) (x : Nat) : Except Out Nat :=
  match checkAddr e m c a n n 1 false with
  | .ok sa => if pstOn m c.g && storePoison (8 * n) x then .error (.cause cPSTORE (lowBits 56 a) 0 false 0) else .ok sa
  | .stop o => .error o
  | _ => .error (.cause cPROT (lowBits 56 a) 0 false 0)

/-- The rounding mode of the group at issue. -/
def modeRM (m : Mach) (c : Ctx) : RMode := rmodeOf (bitsOf (grpOf m c.g).mode.toNat 2 0)

/-- One operation of `nest` on A, B and C (09 R295). -/
def nestOp (e : Env) (c : Ctx) (ty : NTy) (nop : Nat) (m : Mach) (a b d : Nat) : Mach × Nat :=
  let md := modeRM m c
  let ex := fun n => (decodeF ty n).exact
  if nop = 0 then (m, a)
  else if tyFloat ty then
    match nop with
    | 1 => settleF e m c ty [a, b] (roundX ty md (xAdd md (ex a) (ex b)))
    | 2 => settleF e m c ty [a, b] (roundX ty md (xAdd md (ex a) (xNeg (ex b))))
    | 3 => settleF e m c ty [a, b] (roundX ty md (xMul (ex a) (ex b)))
    | 4 => (m, fminBits ty false a b)
    | 5 => (m, fminBits ty true a b)
    | _ => settleF e m c ty [a, b, d] (roundX ty md (xAdd md (xMul (ex a) (ex b)) (ex d)))
  else
    let A := intVal ty a
    let B := intVal ty b
    (m, wrapTo ty (match nop with
      | 1 => A + B
      | 2 => A - B
      | 3 => A * B
      | 4 => if A ≤ B then A else B
      | 5 => if A ≤ B then B else A
      | _ => intVal ty d + A * B))

/-- Result of one iteration of `nest`, from its reads. -/
def nestIter (e : Env) (c : Ctx) (o : FL) (m : Mach) (k : Nat) : Except Out (Mach × Nat) :=
  let n := tyBits (lTyOf o) / 8
  match lRead e c n m (lAddr m c o 0 k) with
  | .error x => .error x
  | .ok (m1, a) =>
    match (if lNop o = 0 then .ok (m1, 0) else lRead e c n m1 (lAddr m c o 1 k)) with
    | .error x => .error x
    | .ok (m2, b) =>
      match (if lNop o = 6 then lRead e c n m2 (lAddr m c o 2 k) else .ok (m2, 0)) with
      | .error x => .error x
      | .ok (m3, d) => .ok (nestOp e c (lTyOf o) (lNop o) m3 a b d)

/-- The reads and results of a batch. -/
def batchRead (e : Env) (c : Ctx) (o : FL) : List Nat → Mach → Except Out (Mach × List (Nat × Nat))
  | [], m => .ok (m, [])
  | k :: r, m =>
    match nestIter e c o m k with
    | .error x => .error x
    | .ok (m1, v) =>
      match batchRead e c o r m1 with
      | .error x => .error x
      | .ok (m2, vs) => .ok (m2, (k, v) :: vs)

/-- The places of the writes of a batch. -/
def batchCheck (e : Env) (c : Ctx) (o : FL) (m : Mach) : List (Nat × Nat) → Except Out (List (Nat × Nat))
  | [] => .ok []
  | (k, v) :: r =>
    match lWrite e c (tyBits (lTyOf o) / 8) m (lAddr m c o 2 k) v with
    | .error x => .error x
    | .ok sa =>
      match batchCheck e c o m r with
      | .error x => .error x
      | .ok l => .ok ((sa, v) :: l)

/-- Writes in iteration order. -/
def batchWrite (e : Env) (c : Ctx) (n : Nat) (m : Mach) (l : List (Nat × Nat)) : Mach :=
  l.foldl (fun m (sa, v) => storeNow e m c sa (toBytes n v)) m

/-- Batches from iteration `k` on; a batch that fails leaves nothing (09 R297). -/
def nestGo (e : Env) (c : Ctx) (o : FL) : Nat → Nat → Mach → Mach × Option Out
  | 0, _, m => (m, none)
  | f + 1, k, m =>
    if lCount o ≤ k then (m, none)
    else
      let ks := (List.range (min 32 (lCount o - k))).map (fun i => k + i)
      match batchRead e c o ks m with
      | .error x => (m, some (withProg x k))
      | .ok (m1, vs) =>
        match batchCheck e c o m1 vs with
        | .error x => (m, some (withProg x k))
        | .ok ws => nestGo e c o f (k + 32) (batchWrite e c (tyBits (lTyOf o) / 8) m1 ws)

/-- Bases with bits above the address raise RANGE (09 R295). -/
def baseBad (m : Mach) (c : Ctx) (o : FL) (used : List Nat) : Option Nat :=
  (used.map (lBaseVal m c o)).find? (fun b => decide (2 ^ 56 ≤ b))

/-- The token falls when the last write is performed (09 R297). -/
def loopEnd (e : Env) (m : Mach) (c : Ctx) (n : Nat) : BRes :=
  ok (land { m with free := m.free + 1 } (e.now + 2 + 2 * ceilDiv n 32 + Config.delay m.free) [] c.toks)

def nestBody (o : FL) (e : Env) (c : Ctx) (m : Mach) : BRes :=
  match baseBad m c o (if lNop o = 0 then [0, 2] else [0, 1, 2]) with
  | some b => trapAt m cRANGE (b % 2 ^ 56)
  | none =>
    let r := nestGo e c o (lCount o / 32 + 1) c.prog m
    match r.2 with
    | none => loopEnd e r.1 c (lCount o)
    | some out => { m := r.1, out := out }

def execNest (h : Hdr) (o : FL) (s : State) := runI (.nest h o) h true (nestBody o) s

/-! Reductions (09 R296). -/

/-- acc op f(A, B). -/
def nredOp (e : Env) (c : Ctx) (ty : NTy) (nop : Nat) (m : Mach) (acc a b : Nat) : Mach × Nat :=
  let md := modeRM m c
  let ex := fun n => (decodeF ty n).exact
  if tyFloat ty then
    match nop with
    | 0 => settleF e m c ty [acc, a] (roundX ty md (xAdd md (ex acc) (ex a)))
    | 1 => settleF e m c ty [acc, a, b] (roundX ty md (xAdd md (ex acc) (xMul (ex a) (ex b))))
    | 2 => (m, fminBits ty false acc a)
    | 3 => (m, fminBits ty true acc a)
    | _ => settleF e m c ty [acc, a] (roundX ty md (xAdd md (ex acc) (ex (magBits ty a))))
  else
    let A := intVal ty a
    let C := intVal ty acc
    (m, wrapTo ty (match nop with
      | 0 => C + A
      | 1 => C + A * intVal ty b
      | 2 => if C ≤ A then C else A
      | 3 => if C ≤ A then A else C
      | _ => C + (A.natAbs : Int)))

/-- The innermost level of one tuple, from iteration `k` on. -/
def nredInner (e : Env) (c : Ctx) (o : FL) : Nat → Nat → Nat → Mach → Except Out (Mach × Nat)
  | 0, _, acc, m => .ok (m, acc)
  | f + 1, k, acc, m =>
    let n := tyBits (lTyOf o) / 8
    match lRead e c n m (lAddr m c o 0 k) with
    | .error x => .error x
    | .ok (m1, a) =>
      match (if lNop o = 1 then lRead e c n m1 (lAddr m c o 1 k) else .ok (m1, 0)) with
      | .error x => .error x
      | .ok (m2, b) =>
        let r := nredOp e c (lTyOf o) (lNop o) m2 acc a b
        nredInner e c o f (k + 1) r.2 r.1

/-- One tuple: read C, accumulate, write C. -/
def nredTuple (e : Env) (c : Ctx) (o : FL) (t : Nat) (m : Mach) : Except Out Mach :=
  let n := tyBits (lTyOf o) / 8
  let k := t * lExt o 0
  match lRead e c n m (lAddr m c o 2 k) with
  | .error x => .error x
  | .ok (m1, a) =>
    match nredInner e c o (lExt o 0) k a m1 with
    | .error x => .error x
    | .ok (m2, v) =>
      match lWrite e c n m2 (lAddr m c o 2 k) v with
      | .error x => .error x
      | .ok sa => .ok (storeNow e m2 c sa (toBytes n v))

/-- Tuples from `t` on. -/
def nredGo (e : Env) (c : Ctx) (o : FL) : Nat → Nat → Mach → Mach × Option Out
  | 0, _, m => (m, none)
  | f + 1, t, m =>
    match nredTuple e c o t m with
    | .error x => (m, some (withProg x t))
    | .ok m1 => nredGo e c o f (t + 1) m1

def nredBody (o : FL) (e : Env) (c : Ctx) (m : Mach) : BRes :=
  match baseBad m c o (if lNop o = 1 then [0, 1, 2] else [0, 2]) with
  | some b => trapAt m cRANGE (b % 2 ^ 56)
  | none =>
    let r := nredGo e c o (lCount o / lExt o 0 - c.prog) c.prog m
    match r.2 with
    | none => loopEnd e r.1 c (lCount o)
    | some out => { m := r.1, out := out }

def execNred (h : Hdr) (o : FL) (s : State) := runI (.nred h o) h true (nredBody o) s

end Sys2Proof.Machine
end

