-- ==== Sys2Proof/Machine/Catalogue.lean ====
section
/-! DEFINITION. Catalogues: pools, records, residuals, readiness and choice, dispatches, probes and reports (spec/02 R44 to R76, 09 R287 to R293, 13 R328 to R331). -/
namespace Sys2Proof.Machine
open Sys2Proof

/-! Accesses of the Front End and the Catalogues (14 R431). -/

/-- The frame of a metadata address that an agent names: the alias window names no slice for it (14 R431, 03 R87). -/
def agentFrame (e : Env) (m : Mach) (part f : Nat) : Option Nat :=
  match regionOf (f * 16384) with
  | .own _ => none
  | _ => metaFrame e m 0 part f

/-- Codes of R431 as FAULT codes of R335: 6 XLATE, 7 PROT, 8 RANGE. An access that may read the metadata window goes through `agentNat`. -/
def agentAddr (e : Env) (m : Mach) (part va len kind : Nat) : Except Nat Nat :=
  if 2 ^ 56 ≤ va then .error 8
  else match regionOf va with
  | .range | .own _ => .error 8
  | .metaw f =>
    if kind != 0 || len != 8 || va % 8 != 0 then .error 7
    else match agentFrame e m part f with
      | some _ => .error 7
      | none => .error 8
  | .pad _ _ =>
    match xlateWalk e m 0 part va len kind with
    | .ok sa => .ok sa
    | _ => .error 8
  | .paged =>
    match walkVa m (partOf e.sys part).root va with
    | .leaf _ pa size perm _ _ =>
      match leafRes e m part va pa size perm kind true with
      | .ok sa => .ok sa
      | _ => .error 7
    | _ => .error 6

/-- Bytes of a range, piece by piece within 4 KiB. -/
def agentRead (e : Env) (m : Mach) (part : Nat) : Nat → Nat → Nat → Except Nat (List Byte)
  | 0, _, _ => .ok []
  | f + 1, va, n =>
    if n = 0 then .ok []
    else
      let k := min n (4096 - va % 4096)
      match agentAddr e m part va k 0 with
      | .error c => .error c
      | .ok sa => match agentRead e m part f (va + k) (n - k) with
        | .error c => .error c
        | .ok r => .ok (memRead m.mem sa k ++ r)

/-- The number that `n` bytes hold; an aligned word of the metadata window is read as R87 gives it. -/
def agentNat (e : Env) (m : Mach) (part va n : Nat) : Except Nat Nat :=
  match regionOf va with
  | .metaw f =>
    if n = 8 && va % 8 = 0 then (match agentFrame e m part f with | some k => .ok (frameWord m k) | none => .error 8) else .error 7
  | _ => match agentRead e m part (n / 4096 + 2) va n with
    | .error c => .error c
    | .ok l => .ok (ofBytes l)

/-- A write at once, for the agents whose stores are not messages. -/
def agentStore (e : Env) (m : Mach) (part va : Nat) (data : List Byte) : Except Nat Mach :=
  match agentAddr e m part va data.length 1 with
  | .error c => .error c
  | .ok sa => .ok (storeAt m sa data false)

/-! The record pool (02 R52, R55). -/

/-- Size in bytes of a node's record slot. -/
def slotSize (gr : Graph) (node : Nat) : Nat := 16 * (nRsz gr node + 1)

/-- Takes a slot of a die's part of the pool, HBM first; a slot is 8 × size + part. -/
def slotTake (gr : Graph) (d size : Nat) : Option (Nat × Graph) :=
  let put := fun p => some (8 * size + p, { gr with pool := lupd gr.pool p (· + size) })
  if lget gr.pool d 0 + size ≤ (poolOf gr d true).2 then put d
  else if lget gr.pool (4 + d) 0 + size ≤ (poolOf gr d false).2 then put (4 + d)
  else none

def slotFree (gr : Graph) (slot : Nat) : Graph := { gr with pool := lupd gr.pool (slot % 8) (· - slot / 8) }

/-- Takes `n` slots or none. -/
def slotsTake (gr : Graph) (d size : Nat) : Nat → Option (List Nat × Graph)
  | 0 => some ([], gr)
  | n + 1 => match slotTake gr d size with
    | none => none
    | some (s, g1) => (slotsTake g1 d size n).map (fun (l, g2) => (s :: l, g2))

/-- Returns a group's unused reservations (02 R55). -/
def returnResv (m : Mach) (g : Nat) : Mach :=
  let gr := grpOf m g
  match teamGraph m gr.team with
  | none => m
  | some k => updGrp (updGraph m k (fun gp => (gr.resv.flatMap (·.2)).foldl slotFree gp)) g (fun a => { a with resv := [] })

/-! Arrivals at a block (02 R46, R58, R60, R76). -/

/-- f32 values from 0 up, with poison above +∞ (02 R62). -/
def resLt (a b : Word) : Bool :=
  if isPoison .f32 a.toNat then false
  else if isPoison .f32 b.toNat then true
  else xCmp (decodeF .f32 a.toNat).exact (decodeF .f32 b.toNat).exact == .lt

/-- Combination of a residual and a weight (02 R58). -/
def combine (sum : Bool) (r w : Word) : Word :=
  if isPoison .f32 r.toNat then r
  else if isPoison .f32 w.toNat then w
  else if sum then BitVec.ofNat 32 ((roundX .f32 .rne (xAdd .rne (decodeF .f32 r.toNat).exact (decodeF .f32 w.toNat).exact)).getD 0)
  else if resLt r w then w else r

/-- Kind and index of a poison f32 (02 R73). -/
def provOf (w : Word) : Nat := bitsOf w.toNat 21 0

/-- The first poison to reach a block of the graph. -/
def noteProv (gr : Graph) (w : Word) : Graph :=
  if isPoison .f32 w.toNat && gr.prov.isNone then { gr with prov := some (provOf w) } else gr

/-- A weight reaches an active block; a record is added to its pending records. -/
def applyWeight (e : Env) (gr : Graph) (k : Nat) (w : Word) (r : Option (Nat × List Byte)) : Graph :=
  let b := blockOf gr k
  let res := combine (nSum gr (k / 4096)) b.res w
  let b1 : Block := { b with
    res := res, raise := if r.isSome || resLt b.res res then e.now else b.raise, pend := b.pend ++ r.toList, held := false, active := true }
  { noteProv gr w with blocks := tset gr.blocks k b1 }

/-- Entries of a die's table of active blocks (02 R46). -/
def activeOn (m : Mach) (d : Nat) : Nat :=
  (m.graphs.map (fun (_, gr) => (gr.blocks.filter (fun (k, b) => b.active && blockDie gr (k / 4096) (k % 4096) == d)).length)).foldl (· + ·) 0

/-- Posts held on a die. -/
def heldPosts (m : Mach) (d : Nat) : Nat :=
  (m.graphs.map (fun (_, gr) => (gr.blocks.filter (fun (k, b) => b.hres.isSome && blockDie gr (k / 4096) (k % 4096) == d)).length)).foldl (· + ·) 0

/-- A block that is not active finds no entry. -/
def mustWait (m : Mach) (gr : Graph) (k : Nat) : Bool :=
  !(blockOf gr k).active && ((blockOf gr k).waiting.isSome || decide (4096 ≤ activeOn m (blockDie gr (k / 4096) (k % 4096))))

/-- Receipt of a record or post at a die (02 R70). -/
def receipt (gr : Graph) (d : Nat) : Graph :=
  { gr with rcvd := lupd gr.rcvd d (· + 1), disturbed := lupd gr.disturbed d (fun _ => true), settled := false }

/-- The weight in a record's header. -/
def recWgt (data : List Byte) : Word := BitVec.ofNat 32 (bitsOf (ofBytes (data.take 16)) 63 32)
def recKey (data : List Byte) : Nat := let h := ofBytes (data.take 16); blkKey (bitsOf h 7 0) (bitsOf h 19 8)

/-- A record reaches its block's home (02 R46, R58). -/
def recordArrives (e : Env) (m : Mach) (g : Nat) (data : List Byte) (slot : Nat) : Mach :=
  match tget m.graphs g with
  | none => m
  | some gr0 =>
    let k := recKey data
    let gr := receipt gr0 (blockDie gr0 (k / 4096) (k % 4096))
    if mustWait m gr k then
      { updGraph m g (fun _ => { noteProv gr (recWgt data) with blocks := tset gr.blocks k (let b := blockOf gr k; { b with pend := b.pend ++ [(slot, data)], waiting := some (b.waiting.getD m.serial) }) }) with
        serial := m.serial + 1 }
    else updGraph m g (fun _ => applyWeight e gr k (recWgt data) (some (slot, data)))

/-- A post waits at the Catalogue while no entry can hold it, and holds back the record class at that router (02 R46). -/
def postStuck (m : Mach) (g k : Nat) : Bool :=
  match tget m.graphs g with
  | none => false
  | some gr => mustWait m gr k && (blockOf gr k).hres.isNone && decide (1024 ≤ heldPosts m (blockDie gr (k / 4096) (k % 4096)))

/-- A post is applied or held (02 R46, R59). -/
def postArrives (e : Env) (m : Mach) (g k : Nat) (w : Word) : Mach :=
  match tget m.graphs g with
  | none => m
  | some gr0 =>
    let gr := receipt gr0 (blockDie gr0 (k / 4096) (k % 4096))
    if mustWait m gr k then
      { updGraph m g (fun _ => { noteProv gr w with blocks := tset gr.blocks k (let b := blockOf gr k; { b with
          hres := some (match b.hres with | some r => combine (nSum gr (k / 4096)) r w | none => w), waiting := some (b.waiting.getD m.serial) }) }) with
        serial := m.serial + 1 }
    else updGraph m g (fun _ => applyWeight e gr k w none)

/-- A waiting block takes an entry: its held records become pending, its held post is combined (02 R46). DEDUCED: the raise stamp of a block for which nothing is held stays. -/
def activate (e : Env) (gr : Graph) (k : Nat) : Graph :=
  let b := blockOf gr k
  let g1 := { gr with blocks := tset gr.blocks k { b with pend := [], waiting := none, hres := none, active := true } }
  let g2 := b.pend.foldl (fun g (s, d) => applyWeight e g k (recWgt d) (some (s, d))) g1
  let g3 := match b.hres with | some w => applyWeight e g2 k w none | none => g2
  if b.pend.isEmpty && b.hres.isNone then g3 else { g3 with blocks := tupd g3.blocks k (fun b => { b with raise := e.now }) }

/-! Readiness (02 R61). -/

def above (gr : Graph) (k : Nat) (b : Block) : Bool := resLt (BitVec.ofNat 32 (nThresh gr (k / 4096))) b.res

/-- The first four conditions. -/
def canReady (gr : Graph) (k : Nat) (b : Block) : Bool := b.active && b.run.isNone && !b.held && (above gr k b || !b.pend.isEmpty)

def blockReady (gr : Graph) (k : Nat) (b : Block) : Bool := canReady gr k b && (decide (32 ≤ b.pend.length) || b.lapsed)

/-- Starts and stops the timer, and notes when a block becomes ready. -/
def tickBlock (e : Env) (gr : Graph) (k : Nat) (b : Block) : Block :=
  let b1 := if canReady gr k b then (if b.timer.isNone && !b.lapsed then { b with timer := some (e.now + nTimer gr (k / 4096)) } else b)
    else { b with timer := none, lapsed := false }
  if blockReady gr k b1 then { b1 with readyAt := some (b1.readyAt.getD e.now) } else { b1 with readyAt := none }

/-- A record or post for the block is in flight (02 R68). -/
def inFlightFor (m : Mach) (g k : Nat) : Bool :=
  m.flight.any (fun x => match x.body with
    | .record h d _ | .input h d _ => h == g && recKey d == k
    | .rsd h n b _ => h == g && blkKey n b == k
    | _ => false)

/-- Conditions 1 to 3 of R68. -/
def calm (gr : Graph) (k : Nat) (b : Block) : Bool := !above gr k b && !isPoison .f32 b.res.toNat && b.pend.isEmpty && b.run.isNone && b.hres.isNone

/-- Quiet (02 R70). -/
def quiet (gr : Graph) (k : Nat) (b : Block) : Bool :=
  calm gr k b || (isPoison .f32 b.res.toNat && b.held && b.pend.isEmpty && b.run.isNone && b.hres.isNone)

def quietOn (gr : Graph) (d : Nat) : Bool :=
  gr.blocks.all (fun (k, b) => blockDie gr (k / 4096) (k % 4096) != d || quiet gr k b)

/-- Entries of the table of active blocks: a settled block leaves it. DEDUCED: a block whose residual comes to lie above a lowered threshold is active by R45 and waits for an entry as R46 says of an arrival. -/
def sweepEntry (m : Mach) (g : Nat) (gr : Graph) (k : Nat) (b : Block) : Block :=
  if b.active then (if calm gr k b && !inFlightFor m g k then { b with active := false } else b)
  else if b.waiting.isNone && above gr k b && !b.held then { b with waiting := some m.serial } else b

/-- Every clock: timers, readiness, entries of settled blocks (02 R46, R61). -/
def sweepGraph (e : Env) (m : Mach) (g : Nat) (gr : Graph) : Graph :=
  let bs := gr.blocks.map (fun (k, b) => (k, sweepEntry m g gr k (tickBlock e gr k b)))
  { gr with blocks := bs, settled := gr.settled && (List.range 4).all (quietOn { gr with blocks := bs }) }

/-! The choice (02 R62, R63; 13 R328). -/

/-- The aging period. -/
def agePeriod (gr : Graph) (node : Nat) : Nat := 2 ^ min (nAgel gr node) 20

def blockAge (e : Env) (b : Block) : Nat := e.now - max (b.readyAt.getD 0) b.lastDisp

/-- The effective key; none for poison, which lies above all. -/
def keyOf (e : Env) (gr : Graph) (k : Nat) (b : Block) : Option XVal :=
  if isPoison .f32 b.res.toNat then none
  else some (xMul (decodeF .f32 b.res.toNat).exact (.dy false 1 (min (blockAge e b / agePeriod gr (k / 4096)) 255 : Nat) false))

structure Cand where
  g : Nat
  k : Nat
  key : Option XVal
  raise : Nat

/-- The order of R62. -/
def candBefore (a b : Cand) : Bool :=
  let tie := decide (a.raise < b.raise) || (a.raise == b.raise && (decide (a.k < b.k) || (a.k == b.k && decide (a.g < b.g))))
  match a.key, b.key with
  | none, some _ => true
  | some _, none => false
  | none, none => tie
  | some x, some y => match xCmp x y with
    | .gt => true
    | .eq => tie
    | .lt => false

def insCand (a : Cand) : List Cand → List Cand
  | [] => [a]
  | b :: r => if candBefore a b then a :: b :: r else b :: insCand a r

/-- Ready blocks of a die in order. -/
def candsOn (e : Env) (m : Mach) (d : Nat) : List Cand :=
  (m.graphs.flatMap (fun (g, gr) =>
    if gr.running && !gr.starting then (gr.blocks.filter (fun (k, b) => blockDie gr (k / 4096) (k % 4096) == d && blockReady gr k b)).map
      (fun (k, b) => ({ g := g, k := k, key := keyOf e gr k b, raise := b.raise } : Cand))
    else [])).foldl (fun l c => insCand c l) []

/-- Registers of a team's share on a lane-block that every lane has free (01 R26). -/
def freeRegs (m : Mach) (t core lb lane : Nat) : Nat :=
  lget (teamOf m t).sh lb 0 -
    ((teamGroups m t).map (fun (_, gr) => if gr.core == core && gr.gi / 24 == lb then (let th := lget gr.th lane goneThread; if live th then th.v.length else 0) else 0)).foldl (· + ·) 0

/-- A team's groups hold their slots while it stands on its cores. -/
def holdsSlot (t : Team) : Bool := t.gone || resident t

/-- A group holds its slot while it has a live thread and until its slot of the atomic buffer has drained (08 R231). -/
def slotHeld (m : Mach) (g : Nat) (gr : Group) : Bool :=
  holdsSlot (teamOf m gr.team) && (liveGrp gr || !gr.ab.isEmpty || m.flushes.any (fun (_, f) => f.g == g || f.slots.contains g))

/-- The lowest free slot of a lane-block. -/
def freeSlot (m : Mach) (core lb : Nat) : Option Nat :=
  (List.range 24).find? (fun s => !m.groups.any (fun (g, gr) => gr.core == core && gr.gi == 24 * lb + s && slotHeld m g gr))

/-- A key for a group on a core: the one of its place, or a fresh one when a moved team's group has it (18 R409). -/
def newKey (m : Mach) (core gi : Nat) : Nat :=
  if (tget m.groups (groupKey core gi)).isNone then groupKey core gi else (m.groups.getLast?.map (fun (k, _) => k + 1)).getD 0 + 27648

/-- Room for a group of a budget: lowest lane-block, lowest slot (13 R328). -/
def roomOn (m : Mach) (t core need : Nat) : Option (Nat × Nat) :=
  (List.range 2).findSome? (fun lb =>
    if (List.range 32).all (fun l => decide (need ≤ freeRegs m t core lb l)) then (freeSlot m core lb).map (fun s => (lb, s)) else none)

/-- The standing team of a graph on a core that is resident there. -/
def standingOn (e : Env) (m : Mach) (g core : Nat) : Option Nat :=
  (m.teams.find? (fun (_, t) => t.standing && !t.gone && t.graph == some g && (t.susp == .no || t.susp == .swapped || (match t.susp with | .copyback _ => true | _ => false)) && (teamCores e.sys t).headD 0 == core)).map (·.1)

/-- The eligible core with room of lowest mark: team, core, lane-block and slot (02 R48, R63). -/
def placeFor (e : Env) (m : Mach) (g : Nat) (gr : Graph) (node d : Nat) : Option (Nat × Nat × Nat × Nat) :=
  (List.range (nfield gr node 190 179 + 1)).findSome? (fun i =>
    match placeCore e.sys gr.part (nfield gr node 202 191 + i) with
    | none => none
    | some c =>
      if coreDie c ≠ d then none
      else match standingOn e m g c with
        | none => none
        | some t => (roomOn m t c (8 * nBudg gr node)).map (fun (lb, s) => (t, c, lb, s)))

/-- The scalar registers of a dispatch (02 R64). -/
def dispScalars (node blk n base accn : Nat) (res : Word) (depth : Nat) : List Word :=
  [BitVec.ofNat 32 (blk * 256 + node), BitVec.ofNat 32 n, BitVec.ofNat 32 (0xF1000000000000 + base), BitVec.ofNat 32 ((0xF1000000000000 + base) / 2 ^ 32),
   BitVec.ofNat 32 accn, BitVec.ofNat 32 (accn / 2 ^ 32), res, BitVec.ofNat 32 depth] ++ List.replicate 88 0

/-- Launches the choice of a block on a core (02 R63, R64). -/
def dispatch (e : Env) (m : Mach) (g k t core lb s : Nat) : Mach :=
  let gr := graphOf m g
  let b := blockOf gr k
  let node := k / 4096
  let n := min 32 b.pend.length
  let took := b.pend.take n
  let size := slotSize gr node
  let base := nfield gr node 178 159 + (24 * lb + s) * 32 * size
  let hdr := took.map (fun (_, d) => ofBytes (d.take 16))
  let bud := 8 * nBudg gr node
  let sc := dispScalars node (k % 4096) n base (maxN (hdr.map (fun h => bitsOf h 127 64))) b.res (maxN (hdr.map (fun h => bitsOf h 31 24)))
  let th := List.replicate 32 (Thread.launch (nfield gr node 383 328) bud e.now)
  let gi := 24 * lb + s
  let grp : Group := { Group.launch core gi t gi 0 th sc e.now with
    disp := some { graph := g, node := node, blk := k % 4096, count := n, rsz := nRsz gr node, base := base,
                   launchAt := some (e.now + 12 + Config.delay m.free), recs := took, doneSn := none },
    accn := maxN (hdr.map (fun h => bitsOf h 127 64)) }
  let b1 : Block := { b with
    res := if isPoison .f32 b.res.toNat then b.res else 0, pend := b.pend.drop n, run := some (newKey m core gi), taken := b.res, timer := none, lapsed := false,
    readyAt := none, lastDisp := e.now }
  let m1 := updGraph m g (fun gr => { gr with blocks := tset gr.blocks k b1 })
  updTeam { m1 with groups := tset m1.groups (newKey m core gi) grp, free := m1.free + 1 } t (fun tm => { tm with ngrp := tm.ngrp + 1 })

/-- The choice of a die (02 R63). -/
def choose (e : Env) (m : Mach) (d : Nat) : Option (Cand × Nat × Nat × Nat × Nat) :=
  (candsOn e m d).findSome? (fun c => (placeFor e m c.g (graphOf m c.g) (c.k / 4096) d).map (fun p => (c, p)))

/-! Launch and retirement (02 R64, R65). -/

/-- Copies records to the window; bytes beyond a record read as zero. -/
def copyWindow (e : Env) (m : Mach) (core base size : Nat) (recs : List (List Byte)) : Mach :=
  recs.zipIdx.foldl (fun m (r, i) =>
    let b := (r ++ List.replicate size 0).take size
    storeAt m (sliceAddr e m core (base + i * size)) b false) m

/-- The pool slots of a dispatch's records are free again (02 R52). -/
def freeRecs (m : Mach) (d : Disp) : Mach := updGraph m d.graph (fun gr => d.recs.foldl (fun gr x => slotFree gr x.1) gr)

/-- The records stand in the window, their slots are free, and the group's threads are ready in this clock; the readiness acquires the records and posts that the dispatch took (04 R125). -/
def launchGroup (e : Env) (m : Mach) (g : Nat) (d : Disp) : Mach :=
  let core := (grpOf m g).core
  let m1 := freeRecs (copyWindow e m core d.base (16 * (d.rsz + 1)) (d.recs.map (·.2))) d
  updGrp m1 g (fun gr => { gr with
    disp := some { d with launchAt := none, recs := [] }, th := gr.th.map (fun t => { learnThr (dieOf m (coreDie core)).vc t with readyAt := e.now, lastIssue := e.now }), lastIssue := e.now, readySince := e.now })

/-- A block whose dispatch has retired: its version advances, and it is held when the dispatch was of a poisoned residual (02 R65, R76). DESIGN CHOICE: it is held also when records or posts arrived while the dispatch ran; "a new record or residual post" is one that arrives after the retirement. -/
def retireBlock (b : Block) : Block := { b with run := none, ver := b.ver + 1, taken := 0, held := isPoison .f32 b.taken.toNat }

/-- A dispatch retires with poison of kind LINK in its block's residual, logged for a team (18 R412, R413). -/
def linkPoison (e : Env) (m : Mach) (g k grp : Nat) : Mach :=
  let r := genPoison e m grp 0 0 2 0
  let w : Word := BitVec.ofNat 32 (poisonBits .f32 2 r.2)
  updGraph r.1 g (fun gr => { noteProv gr w with blocks := tupd gr.blocks k (fun b => { retireBlock b with res := w, active := true }) })

/-- Every thread has executed `rdon` or exited. -/
def dispOver (gr : Group) : Bool := gr.th.all (fun t => !live t || t.rdon)

/-- A write that a group's dispatch has yet to see performed: one that a thread issued before its `rdon` or its exit, or the update of an entry of its slot with a contribution of the dispatch (02 R65, 09 R290). -/
def ofDisp (g : Nat) (gr : Group) (x : Msg) : Bool :=
  x.wr && x.thr.any (fun r => r.g == g) && x.who.any (fun l => l == 32 || (decide (l < 32) && (let t := lget gr.th l goneThread; !t.rdon || decide (x.id < t.rdonSn))))

/-- The work of a dispatch has been performed (02 R65). -/
def dispDone (m : Mach) (g : Nat) (gr : Group) : Bool :=
  gr.disp.any (fun d => d.doneSn.isSome) && !gr.ab.any (·.disp) && !m.flight.any (ofDisp g gr)

/-- Retirement (02 R65, R76); a `snap` that sees the new version acquires it (04 R125). -/
def retire (m : Mach) (graph k g : Nat) : Mach :=
  let m1 := bumpDie (updGraph (returnResv m g) graph (fun gr => { gr with blocks := tupd gr.blocks k retireBlock })) (coreDie (grpOf m g).core)
  updGrp m1 g (fun a => { a with disp := none })

/-! Probes and reports (02 R70 to R73). -/

def sumL (l : List Nat) : Nat := l.foldl (· + ·) 0

/-- The dies answer a probe: quiet, sums, disturbed; the flags clear. Two probes in a row that succeed together settle the graph (02 R70, R71). -/
def answerProbe (e : Env) (gr : Graph) (p : Probe) : Graph :=
  let q := (List.range 4).all (quietOn gr)
  let st := sumL gr.sent
  let rc := sumL gr.rcvd
  let und := gr.disturbed.all (fun b => !b)
  let good := match gr.prev with
    | some (q0, s0, r0, _) => q0 && q && s0 == r0 && st == rc && s0 == st && und
    | none => false
  let mark := match gr.prev with | some (_, _, _, w) => w | none => 0
  let g1 := { gr with probe := none, prev := some (q, st, rc, p.mark), disturbed := [false, false, false, false] }
  if good && !gr.settled then { g1 with settled := true, due := some (e.now + 1, mark) } else g1

/-- Largest of some f32 values at or above 0. -/
def maxRes (l : List Word) : Word := l.foldl (fun a b => if resLt a b then b else a) 0

/-- Residuals of unpoisoned blocks, of one node or of all. -/
def cleanRes (gr : Graph) (node : Option Nat) : List Word :=
  (gr.blocks.filter (fun (k, b) => node.all (· == k / 4096) && !isPoison .f32 b.res.toNat)).map (·.2.res)

/-- A residual over 1 − LCON, rounded toward +∞. -/
def distQuot (a : Word) (l : Nat) : Word :=
  BitVec.ofNat 32 ((roundX .f32 .rup (xDiv (decodeF .f32 a.toNat).exact (xAdd .rne (.dy false 1 0 false) (xNeg (decodeF .f32 l).exact)))).getD (infBits .f32))

/-- DIST of R73. -/
def distOf (gr : Graph) : Word :=
  maxRes (((List.range (gNodes gr)).filter (nLval gr)).map (fun n => distQuot (maxRes (cleanRes gr (some n))) (nfield gr n 287 256)))

/-- The 64 bytes of a report (02 R73). -/
def reportOf (e : Env) (g : Nat) (gr : Graph) (mark : Nat) : Nat :=
  let poisoned := gr.blocks.any (fun (_, b) => isPoison .f32 b.res.toNat)
  let dval := (List.range (gNodes gr)).any (nLval gr)
  pack [(6, g), (2, if poisoned then 1 else 0), (1, if dval then 1 else 0), (7, 0), (16, gr.drop), (32, gr.seq + 1), (64, mark), (32, (maxRes (cleanRes gr none)).toNat),
    (32, gr.ebnd.toNat), (32, if dval then (distOf gr).toNat else 0), (32, if poisoned then gr.prov.getD 0 else 0), (64, e.clk.pcnt), (192, 0)]

def gRing (gr : Graph) : Nat := gfield gr 119 64
def gRlog (gr : Graph) : Nat := gfield gr 139 136

/-- Writes a report, or counts it as dropped; the flag says that it was written (02 R73). -/
def writeReport (e : Env) (m : Mach) (g mark : Nat) : Mach × Bool :=
  let gr := graphOf m g
  let drop := (updGraph m g (fun a => { a with due := none, drop := min 65535 (a.drop + 1) }), false)
  match agentAddr e m gr.part (gRing gr) 8 1, agentNat e m gr.part (gRing gr) 8, agentNat e m gr.part (gRing gr + 8) 8 with
  | .ok tsa, .ok tail, .ok head =>
    match agentAddr e m gr.part (gRing gr + 64 + 64 * (tail % 2 ^ gRlog gr)) 64 1 with
    | .error _ => drop
    | .ok sa =>
      if 2 ^ gRlog gr ≤ (tail + 2 ^ 64 - head) % 2 ^ 64 then drop
      else
        let m1 := storeAt m sa (toBytes 64 (reportOf e g gr mark)) false
        let m2 := storeAt m1 tsa (toBytes 8 (tail + 1)) false
        (updGraph m2 g (fun a => { a with due := none, drop := 0, seq := (a.seq + 1) % 2 ^ 32, wmark := mark }), true)
  | _, _, _ => drop

/-! Answers to threads (09 R287, R288, R293). -/

/-- Send allowances of a core toward a die's Catalogue that are in use (18 R411). -/
def allowUsed (m : Mach) (core d : Nat) : Nat := (m.flight.filter (fun x => x.recCls && x.src == core && x.dst == catHome d)).length

def allowed (m : Mach) (core d : Nat) : Bool := decide (allowUsed m core d < lget (coreOf m core).credit d 0)

/-- Decision of R54: an outcome with its cause, or the slot and the machine with the slot taken. -/
def decideRput (m : Mach) (g grp d : Nat) (data : List Byte) (depth : Nat) (isIn : Bool) : Except Nat (Nat × Mach) :=
  let gr := graphOf m g
  let h := ofBytes (data.take 16)
  let node := bitsOf h 7 0
  if !inGraph gr node (bitsOf h 19 8) || decide (nRsz gr node < bitsOf h 23 20) then .error cRANGE
  else if wgtBad (bitsOf h 63 32) then .error cRANGE
  else if !isIn && decide (nDlim gr node < depth) then .error cDEPTH
  else match tget (grpOf m grp).resv node with
    | some (s :: r) => .ok (s, updGrp m grp (fun a => { a with resv := tset a.resv node r }))
    | _ => match slotTake gr d (slotSize gr node) with
      | some (s, g1) => .ok (s, updGraph m g (fun _ => g1))
      | none => .error (if nQxe gr node then cQEXH else 32)

/-- The Catalogue to which a record goes first. -/
def recordHome (gr : Graph) (data : List Byte) (isIn : Bool) : Nat :=
  if isIn then gHome gr else let k := recKey data; blockDie gr (k / 4096) (k % 4096)

/-- Cause 32 stands for none. -/
def rputOutcome (e : Env) (m : Mach) (x : Msg) (r : TRef) (pd : Nat) (k : Option Nat) : Mach :=
  match k with
  | none => closePart m x.op (e.now + x.back + 4) [.p r.g r.lane pd true false] [r]
  | some 32 => closePart m x.op (e.now + x.back + 4) [.p r.g r.lane pd false false] [r]
  | some c => { m with serial := m.serial + 1, flight := m.flight ++ [{ x with id := m.serial, due := e.now + x.back + 4, src := x.dst, dst := x.src, acq := false, rel := false, body := .outcome pd c }] }

/-- `rput` at the Catalogue of the issuing core's die (09 R288). -/
def performRput (e : Env) (m : Mach) (x : Msg) (g : Nat) (data : List Byte) (depth : Nat) (isIn : Bool) (pd : Nat) : Mach :=
  match x.thr with
  | none => m
  | some r =>
    let d := (homePos x.dst).1
    match decideRput m g r.g d data depth isIn with
    | .error c => rputOutcome e (mergeClocks m x) x r pd (some c)
    | .ok (slot, m1) =>
      let h := recordHome (graphOf m g) data isIn
      let m2 := if isIn then m1 else countSent m1 g d
      let m3 := send e (mergeClocks m2 x) x.src (catHome h) true (some r) x.who 3 false true false 0 (if isIn then .input g data slot else .record g data slot)
      rputOutcome e m3 x r pd none

/-- A refused record's cause: the predicate is false when the thread traps at the next instruction (02 R54). -/
def performOutcome (e : Env) (m : Mach) (x : Msg) (pd c : Nat) : Mach :=
  match x.thr with
  | none => m
  | some r =>
    let t := thrOf m r.g r.lane
    if t.wait == .answer && t.wop == x.op then raise e (applyWr (closePart m x.op e.now [] []) (.p r.g r.lane pd false false)) r.g r.lane c 0 0 t.resume t.pc 0 false
    else closePart m x.op e.now [.p r.g r.lane pd false false] []

/-- `ralc`: all the slots or none, at most 64 reservations in a group (09 R287). -/
def performRalc (e : Env) (m : Mach) (x : Msg) (g node n pd : Nat) (lanes : List Nat) : Mach :=
  match x.thr with
  | none => m
  | some r =>
    let gr := graphOf m g
    let d := (homePos x.dst).1
    let have_ := sumL ((grpOf m r.g).resv.map (fun (_, l) => l.length))
    let got := if 64 < have_ + n then none else slotsTake gr d (slotSize gr node) n
    let wr := fun b => lanes.map (fun l => RegWr.p r.g l pd b false)
    match got with
    | none => closePart (mergeClocks m x) x.op (e.now + x.back + 4) (wr false) []
    | some (l, g1) =>
      let m1 := updGrp (updGraph m g (fun _ => g1)) r.g (fun a => { a with resv := tset a.resv node ((tget a.resv node).getD [] ++ l) })
      closePart (mergeClocks m1 x) x.op (e.now + x.back + 4) (wr true) []

/-- `snap` (02 R74, 09 R293). -/
def performSnap (e : Env) (m : Mach) (x : Msg) (g node blk : Nat) (dst : Opnd) (latch : Option Latch) : Mach :=
  let gr := graphOf m g
  let b := blockOf gr (blkKey node blk)
  let bound := if b.run.isSome && resLt b.res b.taken then b.taken else b.res
  let xs := [b.ver.toNat + (if b.run.isSome then 2 ^ 31 else 0), bound.toNat, gr.wmark % 2 ^ 32, gr.wmark / 2 ^ 32, gr.ebnd.toNat]
  let c := msgCtx x 0
  respond e (attend m x) x (wordWrs c dst xs ++ latchWrs c.g latch [BitVec.ofNat 32 (xs.headD 0)])

/-- An input at the home Catalogue: numbered, counted as sent, and forwarded (02 R53, R70). -/
def inputArrives (e : Env) (m : Mach) (g : Nat) (data : List Byte) (slot : Nat) : Mach :=
  match tget m.graphs g with
  | none => m
  | some gr =>
    let n := gr.accn + 1
    let d := gHome gr
    let m1 := countSent (updGraph m g (fun a => { a with accn := n })) g d
    let data1 := data.take 8 ++ toBytes 8 n ++ data.drop 16
    send e m1 (catHome d) (catHome (recordHome gr data false)) true none [] 3 false true false 0 (.record g data1 slot)

end Sys2Proof.Machine
end

