-- ==== Sys2Proof/Machine/Image.lean ====
section
/-! DEFINITION. Context images (spec/16 R386, R390 to R393): what the spill engine writes and the fill engine reads. -/
namespace Sys2Proof.Machine
open Sys2Proof

/-- Words as one number, first word lowest. -/
def catWords (l : List Word) : Nat := ofBytes (l.flatMap (fun w => toBytes 4 w.toNat))

/-- A group block (16 R391). -/
def groupBlock (gr : Group) : List Byte :=
  (gr.s ++ [gr.mode, gr.pctl] ++ gr.fm ++ [gr.cause, gr.icnt] ++ gr.cbm ++ gr.cba).flatMap (fun w => toBytes 4 w.toNat) ++ List.replicate 48 0

/-- WAIT codes of 16 R392. -/
def waitCode : Wait → Nat
  | .claim => 1
  | .cvw _ => 2
  | .bar _ | .bsc _ _ _ _ _ => 3
  | .mwt _ _ => 4
  | .qwait => 5
  | .qpush => 6
  | .qpop => 7
  | .awt _ _ => 8
  | .fcal => 9
  | _ => 0

/-- STATE codes of 16 R392. -/
def stateCode : TSt → Nat
  | .run => 0
  | .parked => 1
  | .handler => 2
  | .heldStop => 3
  | .heldPark => 4
  | .exited => 5

/-- Tokens in bits 4:0, 12:8, 20:16 and 28:24. -/
def tokWord (l : List Nat) : Nat := pack [(8, lget l 0 0), (8, lget l 1 0), (8, lget l 2 0), (8, lget l 3 0)]

/-- Arrival sequence of the thread's waiting claim: its place among the team's claims, from 1. -/
def claimSeq (t : Team) (r : TRef) : Nat :=
  match t.claims.findIdx? (fun c => c.who.contains r) with
  | some i => i + 1
  | none => 0

/-- Address of the queue word that a thread is linked at. -/
def queueOf (m : Mach) (r : TRef) : Nat := ((m.queues.find? (fun (_, q) => q.contains r)).map (·.1)).getD 0

/-- A thread block (16 R392); a waiting `mwt` holds what remains of its timeout while its team is swapped out. -/
def threadBlock (m : Mach) (r : TRef) (t : Thread) : List Byte :=
  let tm := teamOf m (grpOf m r.g).team
  let mon := t.mon
  let mcc := match mon with | some mo => mo.cond + (if mo.b64 then 8 else 0) + 16 | none => 0
  let madr := match mon with | some mo => mo.va | none => if t.wait == .qwait then queueOf m r else 0
  let mto := match t.wait with | .mwt (some d) _ => d | _ => 0xFFFFFFFF
  toBytes 64 (catWords t.trec)
    ++ toBytes 64 (pack [(64, t.pc), (8, t.v.length / 8), (4, stateCode t.st), (4, waitCode t.wait), (32, tokWord t.tok), (7, t.pv.toNat), (7, t.pt.toNat), (2, 0),
        (32, tokWord t.htok), (64, madr), (64, match mon with | some mo => mo.val.toNat | none => 0), (8, mcc), (24, if t.wait == .claim then claimSeq tm r else 0), (32, mto)])

/-- The vector block of a thread. -/
def vectorBlock (t : Thread) : List Byte := (t.v.take 256).flatMap (fun w => toBytes 4 w.toNat) ++ List.replicate (4 * (256 - t.v.length)) 0

/-- Every thread of a group waits at a barrier. -/
def atBarrier (gr : Group) (b : Nat) : Bool :=
  liveGrp gr && gr.th.all (fun t => !live t || (match t.wait with | .bar k | .bsc k _ _ _ _ => k == b | _ => false))

/-- The core block of a team's core (16 R393). -/
def coreBlock (m : Mach) (k : Nat) (core : Nat) : List Byte :=
  let c := coreOf m core
  let arr := fun (b : Nat) => (teamGroups m k).foldl (fun a (_, gr) => if gr.core == core && atBarrier gr b then a + 2 ^ gr.gi else a) 0
  (c.tc.flatMap (fun w => toBytes 4 w.toNat)) ++ List.replicate 66 0
    ++ toBytes 2 ((List.range 16).foldl (fun a i => if lget c.himag i false then a + 2 ^ i else a) 0)
    ++ toBytes 30 (pack [(48, arr 0), (48, arr 1), (48, arr 2), (48, arr 3), (48, arr 4)]) ++ List.replicate 94 0

/-- The blocks of one group on its core's image. -/
def groupWrites (m : Mach) (t : Team) (key : Nat) (gr : Group) : List (Nat × List Byte) :=
  let b := imageBase m t gr.mix
  (b + 0x200 * gr.gi, groupBlock gr) :: gr.th.zipIdx.flatMap (fun (th, j) =>
    let n := 32 * gr.gi + j
    [(b + 0x8000 + 0x80 * n, threadBlock m { g := key, lane := j } th), (b + 0x40000 + 0x400 * n, vectorBlock th)])

/-- Tiles of TILES on each core, and the core blocks. -/
def coreWrites (e : Env) (m : Mach) (k : Nat) (t : Team) : List (Nat × List Byte) :=
  (teamCores e.sys t).zipIdx.flatMap (fun (c, i) =>
    let b := imageBase m t i
    (b + 0x6000, coreBlock m k c) :: ((List.range 16).filter (bitOf t.tiles)).map (fun tk => (b + 0x1C0000 + 0x4000 * tk, tileBytes m c tk 0 16384)))

/-- The spill engine's last two steps: tiles, then blocks (16 R387). -/
def writeImage (e : Env) (m : Mach) (k : Nat) : Mach :=
  let t := teamOf m k
  let ws := coreWrites e m k t ++ (teamGroups m k).flatMap (fun (g, gr) => groupWrites m t g gr)
  ws.foldl (fun m (a, l) => storeAt m a l false) m

/-- What lands for a team that is swapped out goes into its image: the bytes that differ (16 R386). -/
def mergeImage (m0 m1 : Mach) (g : Nat) : Mach :=
  let gr := grpOf m1 g
  let t := teamOf m1 gr.team
  match t.susp with
  | .out | .resuming _ =>
    ((groupWrites m0 t g (grpOf m0 g)).zip (groupWrites m1 t g gr)).foldl (fun m ((a, x), (_, y)) =>
      (x.zip y).zipIdx.foldl (fun m ((p, q), i) => if p = q then m else storeAt m (a + i) [q] false) m) m1
  | _ => m1

/-- Groups that a landing touches. -/
def landGroups (l : Landing) : List Nat :=
  (l.wr.filterMap (fun w => match w with
    | .v g _ _ _ _ | .s g _ _ | .p g _ _ _ _ | .creg g _ _ | .causeClear g _ | .trec g _ _ _ => some g
    | _ => none) ++ l.tok.map (·.g) ++ l.wake.map (·.g)).eraseDups

/-- Applies a landing, with the images of swapped-out groups. -/
def landMerged (m : Mach) (l : Landing) : Mach := (landGroups l).foldl (mergeImage m) (applyLanding m l)

/-! The fill engine (16 R389, R392). -/

def wordsAt (m : Mach) (a n : Nat) : List Word := (List.range n).map (fun i => BitVec.ofNat 32 (readNat m (a + 4 * i) 4))

/-- State and handler mode by code; a code that is not listed leaves the thread exited. -/
def stateOf (c : Nat) : TSt × Bool :=
  match c with
  | 0 => (.run, false)
  | 1 => (.parked, false)
  | 2 => (.handler, true)
  | 3 => (.heldStop, false)
  | 4 => (.heldPark, true)
  | _ => (.exited, false)

/-- The monitor as a thread block says: address, value, condition and width from MADR, MVAL and MCC (16 R392), the rest as the thread had it; none when it is not armed or its address has no translation. DEDUCED: one that the thread did not have compares unsigned, with relaxed order. -/
def fillMon (e : Env) (m : Mach) (core part n : Nat) (old : Option Mon) : Option Mon :=
  let va := bitsOf n 223 160
  let b64 := bitOf n 291
  let mo := old.getD { sn := 0, va := va, sa := 0, home := 0, b64 := b64, signed := false, cond := 0, val := 0, acq := false, scope := 3, awt := false, armed := true, poll := none, sat := none, learn := [] }
  let fresh : Mon := { mo with va := va, b64 := b64, cond := bitsOf n 290 288, val := BitVec.ofNat 64 (bitsOf n 287 224), armed := true, poll := none, sat := none, learn := [] }
  if !bitOf n 292 then none
  else match xlateWalk e m core part va (if b64 then 8 else 4) 0 with
    | .ok sa => some { fresh with sa := sa, home := homeOf sa }
    | _ => old.bind (fun o => if o.va = va then some fresh else none)

/-- A thread as its block says. A wait that the block no longer names, or names otherwise, is entered afresh at its PC. -/
def fillThread (e : Env) (m : Mach) (core part a va : Nat) (t : Thread) : Thread :=
  let n := readNat m (a + 64) 64
  let st := stateOf (bitsOf n 75 72)
  let w := if bitsOf n 79 76 = waitCode t.wait then t.wait else .none
  let toks := fun (lo : Nat) => (List.range 4).map (fun i => bitsOf n (lo + 8 * i + 4) (lo + 8 * i))
  { t with
    pc := bitsOf n 55 0, st := st.1, hm := st.2, v := wordsAt m va (min 256 (8 * bitsOf n 71 64)), pv := BitVec.ofNat 7 (bitsOf n 118 112),
    pt := BitVec.ofNat 7 (bitsOf n 125 119), tok := toks 80, htok := toks 128, trec := wordsAt m a 16,
    wait := (match w with | .mwt (some _) d => .mwt (some (e.now + bitsOf n 351 320)) d | x => x),
    vecAt := if st.1 == .parked && t.vecAt.isSome then some e.now else none, readyAt := e.now, lastIssue := e.now,
    mon := fillMon e m core part n t.mon,
    rp := t.rp || decide (st.1 == .parked) }

/-- A group as its block says. -/
def fillGroup (e : Env) (m : Mach) (t : Team) (gr : Group) : Group :=
  let b := imageBase m t gr.mix
  let a := b + 0x200 * gr.gi
  let core := lget (teamCores e.sys t) gr.mix gr.core
  { gr with
    s := wordsAt m a 96, mode := (wordsAt m (a + 384) 1).headD 0, pctl := (wordsAt m (a + 388) 1).headD 0, fm := wordsAt m (a + 392) 8,
    cause := (wordsAt m (a + 424) 1).headD 0, icnt := (wordsAt m (a + 428) 1).headD 0, cbm := wordsAt m (a + 432) 4, cba := wordsAt m (a + 448) 4,
    core := core, lastIssue := e.now, readySince := e.now,
    th := gr.th.zipIdx.map (fun (th, j) => let n := 32 * gr.gi + j; fillThread e m core t.part (b + 0x8000 + 0x80 * n) (b + 0x40000 + 0x400 * n) th) }

/-- Tiles, shapes and HIMAG flags of the team return to its cores. -/
def fillCore (m : Mach) (t : Team) (c i : Nat) : Mach :=
  let b := imageBase m t i
  ((List.range 16).filter (bitOf t.tiles)).foldl (fun m k =>
    applyWr (applyWr (applyWr m (.tile c k 0 (memRead m.mem (b + 0x1C0000 + 0x4000 * k) 16384)))
      (.tc c k ((wordsAt m (b + 0x6000 + 4 * k) 1).headD 0))) (.himag c k true (bitOf (readNat m (b + 0x6082) 2) k))) m

/-- Claims are queued again in increasing CLSEQ (16 R392). -/
def fillClaims (m : Mach) (k : Nat) : Mach :=
  let t := teamOf m k
  let seq : Claim → Nat := fun c =>
    match c.who.head? with
    | some r => let gr := grpOf m r.g; readNat m (imageBase m t gr.mix + 0x8000 + 0x80 * (32 * gr.gi + r.lane) + 101) 3
    | none => 0
  let ins := fun (c : Claim) (l : List Claim) => l.filter (fun d => decide (seq d ≤ seq c)) ++ [c] ++ l.filter (fun d => decide (seq c < seq d))
  updTeam m k (fun t => { t with claims := t.claims.foldl (fun l c => ins c l) [] })

/-- Monitors of a team that resumes take entries of their homes' tables; one that finds its table full polls, from now on (08 R246, R250). -/
def rearmMons (e : Env) (m : Mach) (k : Nat) : Mach :=
  ((monThrs m).filter (fun r => (grpOf m r.g).team == k)).foldl (fun m r =>
    updThr m r.g r.lane (fun t => { t with mon := t.mon.map (fun mo => if monLimit mo.home < monsAt m mo.home then { mo with poll := some e.now } else mo) })) m

/-- The fill of a team's groups and claims: what goes through the shadow bank. -/
def readImage (e : Env) (m : Mach) (k : Nat) : Mach :=
  let t := teamOf m k
  let m1 := fillClaims m k
  rearmMons e { m1 with groups := m1.groups.map (fun (g, gr) => if gr.team = k then (g, fillGroup e m1 t gr) else (g, gr)) } k

/-- The tiles, shapes and flags of a team return, once the tiles of the context that it displaced have been spilled. -/
def fillTiles (e : Env) (m : Mach) (k : Nat) : Mach :=
  let t := teamOf m k
  (teamCores e.sys t).zipIdx.foldl (fun m (c, i) => fillCore m t c i) m

end Sys2Proof.Machine
end

