-- ==== Sys2Proof/Machine/EvCore.lean ====
section
/-! DEFINITION. Steps of the memory system and of waiting threads: results land, messages are performed, waits end (spec/01 R28 to R31, R37, 03 R94 to R101, 04 R108 to R124, 08 R246 to R256). -/
namespace Sys2Proof.Machine
open Sys2Proof

/-- A step of the device: it is taken when its conditions hold in the state. -/
def ev (due : Bool) (name : String) (s : State) : Host.Outcome State Fault Refusal := if due then .next s else .refused (.notDue name)

/-- The same state with another machine part. -/
def State.mapM (s : State) (f : Env → Mach → Mach) : State := s.withMach (f s.env s.m)

/-! Landing (01 R37). -/

def landDue (s : State) (k : Nat) : Bool := s.m.pending[k]?.any (fun l => decide (l.tm ≤ s.clk.now))

/-- A result lands; a response to a request of an isolated core is discarded (18 R413). -/
def landDo (k : Nat) (_e : Env) (m : Mach) : Mach :=
  match m.pending[k]? with
  | some l =>
    let m1 := { m with pending := m.pending.eraseIdx k }
    if l.far.any (fun c => (coreOf m c).isol) then m1 else landMerged m1 l
  | none => m

/-- The result that lands next: results land in the order in which they were issued. -/
def nextLand (s : State) : Option Nat := (List.range s.m.pending.length).find? (landDue s)

/-- RESULT_LAND (01 R37). -/
def execResultLand (s : State) := ev (nextLand s).isSome "RESULT_LAND" (s.mapM (landDo ((nextLand s).getD 0)))

/-! Messages at their homes. -/

/-- A packet that comes to an isolated core from another (18 R412). -/
def toIsolated (m : Mach) (x : Msg) : Bool := x.dst < 576 && x.src != x.dst && (coreOf m x.dst).isol

/-- The deferral queue of a core is full, and its router accepts nothing more of the class from its links (16 R388). -/
def deferFull (m : Mach) (x : Msg) : Bool :=
  x.dst < 576 && x.src != x.dst && !ofSpill m x && decide (64 ≤ (m.flight.filter (fun y => y.stage == .deferred && y.dst == x.dst && y.recCls == x.recCls)).length)

/-- The row of the opcode table that performs a message. -/
inductive MRow where
  | access | hand | inbox | inc | colophon | input | record | residual | answer
  deriving DecidableEq, Repr

def msgRow : Body → MRow
  | .push _ _ _ _ | .pop _ _ _ _ _ _ _ => .hand
  | .ring _ _ _ _ _ => .inbox
  | .arrInc _ _ _ => .inc
  | .colophon _ _ _ => .colophon
  | .input _ _ _ => .input
  | .record _ _ _ => .record
  | .rsd _ _ _ _ => .residual
  | .rput _ _ _ _ _ | .outcome _ _ | .ralc _ _ _ _ _ | .snap _ _ _ _ _ => .answer
  | _ => .access

/-- A record-class message finds the send allowance that it needs (18 R411). -/
def sendable (m : Mach) (x : Msg) : Bool :=
  match x.body with
  | .rput g data _ isIn _ => x.src ≥ 576 || allowed m x.src (recordHome (graphOf m g) data isIn)
  | _ => true

/-- A post that waits at its Catalogue. -/
def stuckPost (e : Env) (m : Mach) (y : Msg) : Bool :=
  match y.body with
  | .rsd g n b _ => decide (y.due ≤ e.now) && postStuck m g (blkKey n b)
  | _ => false

/-- A post that waits at its Catalogue, or a message of the record class that came to that router after one (02 R46). -/
def behindPost (e : Env) (m : Mach) (x : Msg) : Bool := x.recCls && m.flight.any (fun y => y.dst == x.dst && (y.id == x.id || arrivedBefore y x) && stuckPost e m y)

/-- A message of a row may be performed now. -/
def msgDue (s : State) (row : MRow) (id : Nat) : Bool :=
  match msgOf s.m id with
  | some x => msgRow x.body == row && performable s.env s.m x && !toIsolated s.m x && !mustDefer s.env s.m x && !deferFull s.m x && sendable s.m x && !behindPost s.env s.m x
  | none => false

/-- Bytes that a message writes. -/
def bodyRuns : Body → List (Nat × List Byte)
  | .store rows _ _ => rows
  | .packet _ _ sa d _ => [(sa, d)]
  | _ => []

/-- Two writers of which one is a copy: a word that both write ends with the value of either (04 R117). -/
def rivals : Body → Body → Bool
  | .packet a _ _ _ _, .packet b _ _ _ _ => a != b
  | .packet _ _ _ _ _, .store _ _ _ => true
  | .store _ _ _, .packet _ _ _ _ _ => true
  | _, _ => false

/-- The byte that some runs hold for an address. -/
def runByte (rs : List (Nat × List Byte)) (a : Nat) : Option Byte :=
  rs.findSome? (fun (b, l) => if b ≤ a then l[a - b]? else none)

/-- A run of a later writer, with words of an earlier one where the free choice falls on it. -/
def blendRun (k : Nat) (rs : List (Nat × List Byte)) (r : Nat × List Byte) : Nat × List Byte :=
  (r.1, r.2.zipIdx.map (fun (b, i) => match runByte rs (r.1 + i) with
    | some v => if Config.pick (k + (r.1 + i) / 4 - r.1 / 4) then v else b
    | none => b))

def blendBody (k : Nat) (rs : List (Nat × List Byte)) : Body → Body
  | .store rows a p => .store (rows.map (blendRun k rs)) a p
  | .packet c i sa d ep => .packet c i sa (blendRun k rs (sa, d)).2 ep
  | b => b

/-- Writers in flight beside the one performed (04 R117). -/
def blend (m : Mach) (x : Msg) : Mach :=
  let rs := bodyRuns x.body
  let hit := fun (y : Msg) => rivals x.body y.body && (bodyRuns y.body).any (fun (b, l) => rs.any (fun (a, d) => overlaps a d.length b l.length))
  if m.flight.any hit then
    { m with flight := m.flight.map (fun y => if hit y then { y with body := blendBody (m.free + 65536 * y.id) rs y.body } else y), free := m.free + 65536 * (m.serial + 1) }
  else m

/-- Takes a message out and performs it. -/
def msgDo (f : Env → Mach → Msg → Mach) (id : Nat) (e : Env) (m : Mach) : Mach :=
  match msgOf m id with
  | some x => blend (noteAck e (notePast e m (f e (noteBad (dropMsg (useBanks e (markFar m x) x) id) (bodyAddrs x.body)) x) x) x) x
  | none => m

def taskKey (part g : Nat) : Nat := 64 * part + g

/-- A trigger of a task graph: it starts a run of an idle graph, and is pending during one; `late` notes for the rest of the clock that one was pending already (14 R344, R355). -/
def triggerTask (sys : Sys) (part g : Nat) : Sys := { sys with tasks := tupd sys.tasks (taskKey part g) (fun t =>
  if t.node.isSome || t.pend then { t with pend := true, late := t.pend } else { t with node := some t.entry, phase := 0, ctrs := t.nodes.map (fun _ => 0) }) }

/-- A message of the memory system is performed; a trigger reaches its task graph. -/
def accessDo (id : Nat) (s : State) : State :=
  let s1 := s.mapM (msgDo performMsg id)
  match msgOf s.m id with
  | some x => (match x.body with
    | .trigger p g => { s1 with sys := triggerTask s1.sys p g, m := respondHere s.env s1.m x }
    | _ => s1)
  | none => s

/-- MEMORY_ACCESS_PERFORM (04 R108). -/
def execMemoryAccessPerform (id : Nat) (s : State) := ev (msgDue s .access id) "MEMORY_ACCESS_PERFORM" (accessDo id s)

/-- HAND_QUEUE_APPLY (03 R101). -/
def execHandQueueApply (id : Nat) (s : State) := ev (msgDue s .hand id) "HAND_QUEUE_APPLY" (s.mapM (msgDo performMsg id))

/-- INBOX_MESSAGE_ARRIVAL (03 R98). -/
def execInboxMessageArrival (id : Nat) (s : State) := ev (msgDue s .inbox id) "INBOX_MESSAGE_ARRIVAL" (s.mapM (msgDo performMsg id))

/-- ARRIVAL_INCREMENT (03 R94). -/
def execArrivalIncrement (id : Nat) (s : State) := ev (msgDue s .inc id) "ARRIVAL_INCREMENT" (s.mapM (msgDo performMsg id))

/-- COLOPHON_WRITE (03 R95). -/
def execColophonWrite (id : Nat) (s : State) := ev (msgDue s .colophon id) "COLOPHON_WRITE" (s.mapM (msgDo performMsg id))

def markerDue (s : State) (core k : Nat) : Bool := (coreOf s.m core).markers.any (fun x => x.2 == k) && (markerFits s.env s.m core k).isSome

/-- SENDER_RESET_MARKER (03 R98). -/
def execSenderResetMarker (core k : Nat) (s : State) := ev (markerDue s core k) "SENDER_RESET_MARKER" (s.mapM (fun e m => appendMarker e m core k))

def causalDue (s : State) (id : Nat) : Bool :=
  match msgOf s.m id with
  | some x => x.stage == .held && !vcBlocked s.m x
  | none => false

def setStage (m : Mach) (id : Nat) (st : Stage) : Mach := { m with flight := m.flight.map (fun x => if x.id = id then { x with stage := st } else x) }

/-- CAUSAL_BUFFER_RELEASE (04 R116). -/
def execCausalBufferRelease (id : Nat) (s : State) := ev (causalDue s id) "CAUSAL_BUFFER_RELEASE" (s.mapM (fun _ m => setStage m id .free))

/-- A cross-die packet that arrives before writes that it depends on enters the causal buffer of its path, while there is a place (04 R116). -/
def holdOne (e : Env) (m : Mach) (x : Msg) : Mach :=
  if x.stage == .flight && x.die != x.dieTo && arrived e m x && vcBlocked m x && !bufferFull m x then setStage m x.id .held else m

def holdCausal (e : Env) (m : Mach) : Mach := m.flight.foldl (holdOne e) m

/-- A message is injected now. -/
def inject (e : Env) (m : Mach) (x : Msg) : Mach :=
  { m with flight := m.flight.map (fun y => if y.id = x.id then { y with stage := .flight, due := dueOf e m x.src x.dst x.recCls (addedClocks m x.src x.thr x.body) } else y), free := m.free + 1 }

/-- A release that finds writes to wait for stands at its issuer; it goes on its way once they have been acknowledged (04 R115). What an isolated interface holds back goes when it is released (16 R380). -/
def sendOne (e : Env) (m : Mach) (x : Msg) : Mach :=
  match x.stage with
  | .flight => if relWaits m x then setStage m x.id .waiting else m
  | .waiting => if relWaits m x then m else if holdsBack m x.src x.dst then setStage m x.id .unsent else inject e m x
  | .unsent => if holdsBack m x.src x.dst then m else if relWaits m x then setStage m x.id .waiting else inject e m x
  | _ => m

def sendReleases (e : Env) (m : Mach) : Mach := m.flight.foldl (sendOne e) m

/-! Ends of waits. -/

/-- Forgets an operation: its tokens fall and nothing lands. -/
def dropOp (m : Mach) (op : Nat) : Mach :=
  match tget m.ops op with
  | some o => o.land.tok.foldl tokFall { m with ops := tdel m.ops op }
  | none => m

/-- Lanes of a group that wait for one operation. -/
def waiters (m : Mach) (g op : Nat) : List TRef :=
  (grpOf m g).th.zipIdx.filterMap (fun (t, j) => if t.wait != .none && t.wop == op then some { g := g, lane := j } else none)

/-- Ends a wait of an operation for every member. -/
def endWait (e : Env) (m : Mach) (r : TRef) (wr : List RegWr) : Mach :=
  let op := (thrOf m r.g r.lane).wop
  closePart m op e.now wr (waiters m r.g op)

/-- Applies a function to every lane of every group, in order. -/
def eachThr (f : Mach → TRef → Mach) (m : Mach) : Mach :=
  m.groups.foldl (fun m (g, gr) => (List.range gr.th.length).foldl (fun m j => f m { g := g, lane := j }) m) m

/-- The answer of a monitor brings the clock of its home and what the satisfying read learns; an acquire of die scope or wider makes later retrievals read anew (04 R111, R114, R116, R123). -/
def monAnswer (m : Mach) (r : TRef) (mo : Mon) : Mach :=
  let core := (grpOf m r.g).core
  let m1 := updDie m (coreDie core) (fun d => { d with vc := vcMerge d.vc (dieOf m (homePos mo.home).1).vc })
  let m2 := updThr m1 r.g r.lane (gainThr mo.acq mo.scope mo.learn)
  if mo.acq && decide (2 ≤ mo.scope) then updClus m2 (clusterOf core) (fun c => { c with retr := [] }) else m2

/-- A `mwt` or `awt` whose monitor is satisfied ends: the value lands and the monitor is disarmed (08 R247, R255). An answer to an isolated core is discarded, and the wait does not end by it (18 R413). -/
def endMonitor (e : Env) (m : Mach) (r : TRef) : Mach :=
  let t := thrOf m r.g r.lane
  match (if resident (teamOf m (grpOf m r.g).team) then t.mon else none) with
  | some mo =>
    let c : Ctx := { logCtx r.g r.lane t.pc with sn := m.serial }
    let lost := (coreOf m (grpOf m r.g).core).isol && mo.home != (grpOf m r.g).core
    let off := fun (m : Mach) => updThr m r.g r.lane (fun t => { t with mon := none })
    let go := fun wr => if lost then off m else endWait e (off (monAnswer m r mo)) r wr
    match mo.sat, t.wait with
    | some (v, tm), .mwt _ dst => if tm ≤ e.now then go (wrReg c (if mo.b64 then .n64 else .n32) dst v.toNat) else m
    | some (v, tm), .awt dst latch =>
      if tm ≤ e.now then go (wordWrs c dst [v.toNat % 256] ++ latchWrs r.g latch [BitVec.ofNat 32 (v.toNat % 256)]) else m
    | _, _ => m
  | none => m

/-- Flushes of a group's slot that have not been acknowledged. -/
def flushing (m : Mach) (g : Nat) : Bool := m.flushes.any (fun (_, f) => f.g == g || f.slots.contains g)

/-- An acquiring fence at die scope or wider drops the Retrieval unit's and the code cache of its cluster (04 R114, 06 R163). -/
def fenceDrops (m : Mach) (g kind sc : Nat) : Mach :=
  if kind != 1 && decide (2 ≤ sc) then updClus m (clusterOf (grpOf m g).core) (fun c => { c with retr := [], code := [] }) else m

/-- What a fence learns: an acquiring one what earlier relaxed reads would bring at its scope (04 R111). -/
def fenceGain (sc : Nat) (t : Thread) : Thread :=
  { t with know := (t.pot.take (sc + 1)).foldl vcMerge t.know, pot := t.pot.zipIdx.map (fun (v, i) => if i ≤ sc then [0, 0, 0, 0] else v) }

/-- A releasing fence makes later relaxed writes releases at its scope (04 R111): it counts as a release of its die. -/
def fenceMark (d sc : Nat) (m : Mach) (r : TRef) : Mach :=
  let m1 := bumpDie m d
  updThr m1 r.g r.lane (fun t => { t with frel := some (max sc (t.frel.getD 0)), know := vcMerge t.know (vcOnly (dieOf m1 d).vc d) })

/-- The orders of sc fences that a scope takes part in: 4 the order of the device, `d` that of die `d` (04 R114). -/
def scClasses (d sc : Nat) : List Nat := if sc = 2 then [d] else if 3 ≤ sc then [4] else []

/-- An sc fence: the writes that its thread has read or made stand in its orders, and it sees the writes that stand there (04 R114). -/
def fenceOrder (d sc : Nat) (m : Mach) (r : TRef) : Mach :=
  let cl := scClasses d sc
  { m with past := m.past.map (fun p =>
      let mine := p.seen.contains r || ofThr r p.thr p.who
      let q := if mine then { p with sc := (p.sc ++ cl).eraseDups } else p
      if p.sc.any cl.contains && !mine then { q with seen := q.seen ++ [r] } else q) }

/-- What remains to wait for before a fence of a kind ends: every earlier access performed, for an acquiring kind every read returned, and at team scope or wider the group's slot drained (04 R114, 08 R245). -/
def fenceWaits (m : Mach) (r : TRef) (k sc : Nat) : Bool :=
  outstanding m r || (k != 1 && unreturned m r) || (decide (1 ≤ sc) && flushing m r.g)

/-- The end of a fence (08 R245). -/
def endFence (e : Env) (m : Mach) (r : TRef) : Mach :=
  let t := thrOf m r.g r.lane
  match t.wait with
  | .fence k sc =>
    if t.readyAt ≤ e.now && !fenceWaits m r k sc then
      let d := coreDie (grpOf m r.g).core
      let m1 := fenceDrops m r.g k sc
      let m2 := if k = 3 then fenceOrder d sc m1 r else m1
      let m3 := if k = 1 then m2 else updThr m2 r.g r.lane (fenceGain sc)
      endWait e (if k = 0 then m3 else fenceMark d sc m3 r) r []
    else m
  | _ => m

/-- `tret` returns once the handler tokens are zero (16 R376). -/
def endTret (m : Mach) (r : TRef) : Mach :=
  let t := thrOf m r.g r.lane
  if t.wait == .tret && htokZero t then updThr m r.g r.lane (tretThr (runState m (grpOf m r.g).team)) else m

/-- MONITOR_POLL (04 R123). -/
def pollDue (s : State) (g lane : Nat) : Bool :=
  match (thrOf s.m g lane).mon with
  | some mo => mo.armed && mo.sat.isNone && mo.poll.any (fun t => decide (t ≤ s.clk.now))
  | none => false

def pollDo (g lane : Nat) (e : Env) (m : Mach) : Mach :=
  testMon e (updThr m g lane (fun t => { t with mon := t.mon.map (fun mo => { mo with poll := some (e.now + 64) }) })) { g := g, lane := lane }

def execMonitorPoll (g lane : Nat) (s : State) := ev (pollDue s g lane) "MONITOR_POLL" (s.mapM (pollDo g lane))

/-- MWT_TIMEOUT (08 R247): a timeout of 0 lapses after the first test. -/
def timeoutDue (s : State) (g lane : Nat) : Bool :=
  let t := thrOf s.m g lane
  match t.wait with
  | .mwt (some d) _ => decide (d ≤ s.clk.now) && resident (teamOf s.m (grpOf s.m g).team) && (d != t.lastIssue || t.mon.all (·.armed))
      && t.mon.all (fun mo => if d = t.lastIssue then mo.sat.isNone else mo.sat.all (fun (_, tm) => decide (s.clk.now < tm)))
  | _ => false

def timeoutDo (g lane : Nat) (e : Env) (m : Mach) : Mach :=
  let op := (thrOf m g lane).wop
  (waiters m g op).foldl (fun m r => raise e m r.g r.lane cWAITTO 0 0 (thrOf m r.g r.lane).pc (thrOf m r.g r.lane).pc 0 (thrOf m r.g r.lane).solo) (dropOp m op)

def execMwtTimeout (g lane : Nat) (s : State) := ev (timeoutDue s g lane) "MWT_TIMEOUT" (s.mapM (timeoutDo g lane))

def retryDue (s : State) (k : Nat) : Bool := s.m.retries[k]?.any (fun x => decide (x.2.2 ≤ s.clk.now))

def retryDo (k : Nat) (e : Env) (m : Mach) : Mach :=
  match m.retries[k]? with
  | some (sa, r, _) => linkQueue e { m with retries := m.retries.eraseIdx k } sa r
  | none => m

/-- The retry that is due next. -/
def nextRetry (s : State) : Option Nat := (List.range s.m.retries.length).find? (retryDue s)

/-- QWAIT_RETRY (08 R248). -/
def execQwaitRetry (s : State) := ev (nextRetry s).isSome "QWAIT_RETRY" (s.mapM (retryDo ((nextRetry s).getD 0)))

/-! Claims (01 R28 to R31). -/

/-- Core, lane-block and lane of a member. -/
def laneOf (m : Mach) (r : TRef) : Nat × Nat × Nat := let gr := grpOf m r.g; (gr.core, gr.gi / 24, r.lane)

def lanesOf (m : Mach) (c : Claim) : List (Nat × Nat × Nat) := c.who.map (laneOf m)

/-- The claim stands at the head of its team's queue on every lane that it needs. -/
def atHead (m : Mach) (t : Team) (c : Claim) : Bool :=
  (t.claims.takeWhile (fun d => d.id != c.id)).all (fun d => (lanesOf m d).all (fun l => !(lanesOf m c).contains l))

/-- It fits on every lane. -/
def claimFits (m : Mach) (team : Nat) (c : Claim) : Bool := (lanesOf m c).all (fun (co, lb, l) => decide (c.n ≤ freeRegs m team co lb l))

def claimOf (m : Mach) (id : Nat) : Option (Nat × Claim) :=
  m.teams.findSome? (fun (k, t) => (t.claims.find? (fun c => c.id == id)).map (fun c => (k, c)))

def claimDue (s : State) (id : Nat) : Bool :=
  match claimOf s.m id with
  | some (k, c) => decide (c.tm < s.clk.now) && resident (teamOf s.m k) && atHead s.m (teamOf s.m k) c && claimFits s.m k c
  | none => false

/-- The budget grows by registers that read as zero; the member issues from the next clock on. -/
def grantThr (now n : Nat) (t : Thread) : Thread := { wakeThr { t with v := t.v ++ List.replicate n 0 } with readyAt := max t.readyAt (now + 1) }

def claimDo (id : Nat) (e : Env) (m : Mach) : Mach :=
  match claimOf m id with
  | none => m
  | some (k, c) =>
    let m1 := updTeam m k (fun t => { t with claims := t.claims.filter (fun d => d.id != id) })
    let m2 := c.who.foldl (fun m r => updThr m r.g r.lane (grantThr e.now c.n)) m1
    let wr := match c.call, c.who.head? with
      | some (link, _, ret), some r => wrReg { logCtx r.g r.lane ret with sn := m.serial } .n64 link ret
      | _, _ => []
    land (land { m2 with serial := m2.serial + 1 } e.now wr []) (max e.now (c.tm + 2)) [] c.toks

/-- CLAIM_GRANT (01 R28, R29). -/
def execClaimGrant (id : Nat) (s : State) := ev (claimDue s id) "CLAIM_GRANT" (s.mapM (claimDo id))

/-- Every live thread of the team waits in a claim, and no claim can be granted (01 R31). -/
def deadlocked (m : Mach) (k : Nat) : Bool :=
  let t := teamOf m k
  !t.claims.isEmpty && resident t
    && (teamGroups m k).all (fun (_, gr) => gr.th.all (fun th => !live th || (th.wait == .claim && th.st == .run)))
    && t.claims.all (fun c => !(atHead m t c && claimFits m k c))

def deadlockDue (s : State) (k : Nat) : Bool := (teamOf s.m k).dlAt.any (fun t => decide (t ≤ s.clk.now)) && deadlocked s.m k

/-- Every claim ends with DEADLOCK at its own instruction. -/
def deadlockDo (k : Nat) (e : Env) (m : Mach) : Mach :=
  let t := teamOf m k
  let m1 := updTeam m k (fun t => { t with claims := [], dlAt := none })
  t.claims.foldl (fun m c =>
    c.who.foldl (fun m r => raise e m r.g r.lane cDEADLOCK 0 0 (thrOf m r.g r.lane).pc (thrOf m r.g r.lane).pc 0 (thrOf m r.g r.lane).solo) (c.toks.foldl tokFall m)) m1

/-- DEADLOCK_DETECT (01 R31). -/
def execDeadlockDetect (k : Nat) (s : State) := ev (deadlockDue s k) "DEADLOCK_DETECT" (s.mapM (deadlockDo k))

/-- Sets the clock of detection when the condition begins to hold, and clears it when it no longer does. -/
def watchDeadlock (e : Env) (m : Mach) : Mach :=
  m.teams.foldl (fun m (k, t) =>
    if deadlocked m k then
      (if t.dlAt.isSome then m else { updTeam m k (fun t => { t with dlAt := some (e.now + Config.deadlockDelay m.free % 65) }) with free := m.free + 1 })
    else if t.dlAt.isSome then updTeam m k (fun t => { t with dlAt := none }) else m) m

/-! Convergence barriers (08 R230) and barriers (08 R252, R253). -/

/-- The barrier was satisfied in an earlier clock: no member has arrived in this one. -/
def cvwDue (s : State) (g cb : Nat) : Bool :=
  let gr := grpOf s.m g
  cvwDone gr cb && gr.th.all (fun t => t.wait != .cvw cb || decide (t.lastIssue < s.clk.now)) && decide (gr.lastIssue < s.clk.now)

def cvwDo (g cb : Nat) (_e : Env) (m : Mach) : Mach :=
  updGrp m g (fun gr => { gr with cba := setAt gr.cba cb 0, th := gr.th.map (fun t => if t.wait == .cvw cb then wakeThr t else t) })

/-- CVW_RELEASE (08 R230). -/
def execCvwRelease (g cb : Nat) (s : State) := ev (cvwDue s g cb) "CVW_RELEASE" (s.mapM (cvwDo g cb))

/-- Teams of a grid in order of their index. -/
def gridTeams (m : Mach) (g : Nat) : List (Nat × Team) :=
  sortBy (fun a b => a.2.tix ≤ b.2.tix) (m.teams.filter (fun (_, t) => t.grid == some g))

/-- Groups that a barrier joins, by team index and then group index: barrier 8t + b is b of team t, 8g + 4 that of grid g. -/
def barGroups (m : Mach) (k : Nat) : List (Nat × Group) :=
  let of := fun t => sortBy (fun a b => a.2.gteam ≤ b.2.gteam) (teamGroups m t)
  if k % 8 = 4 then (gridTeams m (k / 8)).flatMap (fun (t, _) => of t) else of (k / 8)

def barOfKey (m : Mach) (k : Nat) : BarSt :=
  if k % 8 = 4 then ((tget m.grids (k / 8)).map (·.gbar)).getD BarSt.initial else lget (teamOf m (k / 8)).bars (k % 8) BarSt.initial

def setBar (m : Mach) (k : Nat) (b : BarSt) : Mach :=
  if k % 8 = 4 then { m with grids := tupd m.grids (k / 8) (fun g => { g with gbar := b }) }
  else updTeam m (k / 8) (fun t => { t with bars := setAt t.bars (k % 8) b })

/-- Live threads of the groups that a barrier joins. -/
def barThrs (m : Mach) (k : Nat) : List TRef :=
  (barGroups m k).flatMap (fun (g, gr) => gr.th.zipIdx.filterMap (fun (t, j) => if live t then some { g := g, lane := j } else none))

/-- Every live group has arrived, and the release that each arrival is has waited for its writes (04 R115, 15 R357): DEDUCED, the clock of an arrival is that in which its release is complete. A grid whose teams have not all started has groups to come (14 R343). -/
def barSatisfied (m : Mach) (k : Nat) : Bool :=
  let gs := (barGroups m k).filter (fun (_, gr) => liveGrp gr)
  !gs.isEmpty && gs.all (fun (_, gr) => atBarrier gr (k % 8)) && (k % 8 != 4 || ((tget m.grids (k / 8)).any (fun g => g.started == g.nteam)))
    && (barThrs m k).all (fun r => !unacked m r)

/-- A thread's release without a message: it counts on its die, and what the thread has done happens before whoever learns of it (04 R111, R116). -/
def releaseThr (m : Mach) (r : TRef) : Mach :=
  let d := coreDie (grpOf m r.g).core
  let m1 := bumpDie m d
  updThr m1 r.g r.lane (learnThr (vcOnly (dieOf m1 d).vc d))

/-- Threads and their dies learn of a clock (04 R111, R116). -/
def acquireThr (vc : List Nat) (m : Mach) (r : TRef) : Mach :=
  updDie (updThr m r.g r.lane (learnThr vc)) (coreDie (grpOf m r.g).core) (fun d => { d with vc := vcMerge d.vc vc })

/-- Departure from a barrier: what every party did before its arrival happens before what every party does next (04 R111, 15 R357). -/
def meetThrs (m : Mach) (l : List TRef) : Mach :=
  l.foldl (acquireThr (l.foldl (fun v r => vcMerge v (thrOf m r.g r.lane).know) [0, 0, 0, 0])) m

/-- Slots of groups in the order of R122: cores by shelf mark, schedulers, group indices. -/
def drainOrder (e : Env) (m : Mach) (l : List (Nat × Group)) : List Nat :=
  (sortBy (fun a b => a.1 ≤ b.1) ((l.filter (fun (_, gr) => !gr.ab.isEmpty)).map (fun (g, gr) => (markOf e.sys (teamOf m gr.team).part gr.core * 48 + gr.gi, g)))).map (·.2)

/-- Notes a satisfied barrier and starts its flush. -/
def watchBar (e : Env) (m : Mach) (k : Nat) : Mach :=
  if (barOfKey m k).sat.isSome || !barSatisfied m k then m
  else
    let m1 := (barThrs m k).foldl releaseThr m
    let sl := drainOrder e m1 (barGroups m1 k)
    if sl.isEmpty then setBar m1 k { sat := some e.now, flushed := some e.now }
    else startFlush (setBar m1 k { sat := some e.now, flushed := none }) sl [] (some (k / 8, k % 8))

def barKeys (m : Mach) : List Nat := m.teams.flatMap (fun (t, _) => (List.range 4).map (fun b => 8 * t + b)) ++ m.grids.map (fun (g, _) => 8 * g + 4)

/-- L of R252. -/
def barLatency (m : Mach) (k : Nat) : Nat := if k % 8 = 4 && ((tget m.grids (k / 8)).any (·.multi)) then bsnPkg else bsnDie

def barDue (s : State) (k : Nat) : Bool :=
  match barOfKey s.m k with
  | { sat := some a, flushed := some f } => decide (max (a + barLatency s.m k) (f + 1) ≤ s.clk.now)
  | _ => false

/-- The `bsc` of a group at a barrier: destination, value and root of its first waiting thread. -/
def bscOf (gr : Group) (b : Nat) : Option (Opnd × Nat × Nat) :=
  gr.th.findSome? (fun t => match t.wait with | .bsc k d _ v r => if k = b then some (d, v, r) else none | _ => none)

/-- The value that the root gives, or 0 (08 R253). -/
def bscValue (m : Mach) (k : Nat) (gs : List (Nat × Group)) : Nat :=
  match gs.findSome? (fun (_, gr) => bscOf gr (k % 8)) with
  | none => 0
  | some (_, _, root) =>
    let isRoot := fun (gr : Group) => if k % 8 = 4 then (teamOf m gr.team).tix == bitsOf root 23 8 && gr.gteam == bitsOf root 7 0 else gr.gteam == bitsOf root 7 0
    match gs.find? (fun (_, gr) => isRoot gr) with
    | some (_, gr) => (match bscOf gr (k % 8) with | some (_, v, _) => v | none => 0)
    | none => 0

/-- Every waiting thread departs; groups at `bsc` receive the value. -/
def barDo (k : Nat) (e : Env) (m : Mach) : Mach :=
  let gs := (barGroups m k).filter (fun (_, gr) => liveGrp gr)
  let v := bscValue m k gs
  gs.foldl (fun m (g, gr) => gr.th.zipIdx.foldl (fun m (t, j) =>
    match t.wait with
    | .bar b => if b = k % 8 then endWait e m { g := g, lane := j } [] else m
    | .bsc b d l _ _ => if b = k % 8 then endWait e m { g := g, lane := j } (wordWrs (logCtx g j t.pc) d [v] ++ latchWrs g l [BitVec.ofNat 32 v]) else m
    | _ => m) m) (setBar (meetThrs m (barThrs m k)) k BarSt.initial)

/-- BAR_DEPARTURE (08 R252). -/
def execBarDeparture (k : Nat) (s : State) := ev (barDue s k) "BAR_DEPARTURE" (s.mapM (barDo k))

/-! Flushes (04 R122). -/

def drainDue (s : State) (k : Nat) : Bool := (tget s.m.flushes k).any (fun f => !f.slots.isEmpty && f.out == 0 && decide (f.ackAt ≤ s.clk.now))

/-- The next slot drains. -/
def drainDo (k : Nat) (e : Env) (m : Mach) : Mach :=
  match tget m.flushes k with
  | some f =>
    let g := f.slots.headD 0
    let m1 := { m with flushes := tset m.flushes k { f with slots := f.slots.drop 1, g := g, out := (grpOf m g).ab.length } }
    drainSlot e m1 g k
  | none => m

/-- ATOMIC_BUFFER_DRAIN (04 R122). -/
def execAtomicBufferDrain (k : Nat) (s : State) := ev (drainDue s k) "ATOMIC_BUFFER_DRAIN" (s.mapM (drainDo k))

/-- Ends flushes whose every update has been acknowledged. -/
def endFlushes (e : Env) (m : Mach) : Mach :=
  m.flushes.foldl (fun m (k, f) =>
    if f.slots.isEmpty && f.out == 0 && decide (f.ackAt ≤ e.now) then
      let m1 := { m with flushes := tdel m.flushes k }
      let m2 := if f.toks.isEmpty then m1 else land m1 e.now [] f.toks
      match f.bar with
      | some (t, b) => setBar m2 (8 * t + b) { barOfKey m2 (8 * t + b) with flushed := some e.now }
      | none => m2
    else m) m

end Sys2Proof.Machine
end

