-- ==== Sys2Proof/Machine/EvEngine.lean ====
section
/-! DEFINITION. Steps of page walkers, copy engines, the microcode and matrix engines (spec/18 R401 to R403, 09 R263 to R270, R278 to R281, R298 to R302, 04 R117 to R119, 05 R153 to R155). -/
namespace Sys2Proof.Machine
open Sys2Proof

/-! Page walks (18 R401 to R403). -/

/-- Sets A, and D for a write, by one update of the leaf's entry (18 R401). -/
def markLeaf (m : Mach) (pte pteAt : Nat) (write : Bool) : Mach :=
  let n := pte ||| (if write then 0x60 else 0x20)
  if n = pte then m else storeAt m pteAt (toBytes 8 n) false

/-- Entries of a translation cache (18 R402). -/
def tlbCap (lvl : Nat) : Nat := match lvl with | 0 => 64 | 1 => 1024 | _ => 8192

/-- A cache above its size drops an entry. -/
def trimTlb (free : Nat) (l : List TEnt) (n : TEnt) : List TEnt :=
  let own := l.filter (fun t => t.lvl == n.lvl && t.unit == n.unit)
  if own.length ≤ tlbCap n.lvl then l else (match (own.drop 1)[Config.victim free % (own.length - 1)]? with | some t => l.erase t | none => l)

/-- Installs a leaf in the caches of a core, its cluster and its die (18 R402). -/
def installLeaf (m : Mach) (part core va pa size perm : Nat) (dirty : Bool) : Mach :=
  let ent : Nat → Nat → TEnt := fun l u => { lvl := l, unit := u, part := part, va := va, size := size, pa := pa, perm := perm, dirty := dirty }
  let new := [ent 0 core, ent 1 (clusterOf core), ent 2 (coreDie core)]
  let all := new ++ m.tlb.filter (fun t => !new.any (fun n => n.lvl == t.lvl && n.unit == t.unit && n.part == t.part && n.va == t.va && n.size == t.size))
  { m with tlb := new.foldl (trimTlb m.free) all, free := m.free + 1 }

/-- Walks for an access under a root: the machine with the translation installed; none when no valid leaf allows the access. -/
def walkFor (e : Env) (m : Mach) (root part core va kind : Nat) : Option Mach :=
  match walkVa m root va with
  | .leaf lva pa size perm pte pteAt =>
    match leafRes e m part va pa size perm kind true with
    | .ok _ | .trig _ => some (installLeaf (markLeaf m pte pteAt (isWrite kind)) part core lva pa size perm (isWrite kind || bitOf pte 6))
    | _ => none
  | _ => none

/-- One requester of a walk: it performs its instruction again, or parks with its request in the fault buffer. -/
def walkOne (e : Env) (root part : Nat) (m : Mach) (x : TRef × Nat × Nat) : Mach :=
  let (r, va, kind) := x
  let t := thrOf m r.g r.lane
  if t.wait != .walk then m
  else match walkFor e m root part (grpOf m r.g).core va kind with
    | some m1 => updThr m1 r.g r.lane replayThr
    | none => parkFault e m r.g r.lane va kind t.pc (progOf t) t.solo

def walkDue (s : State) (k : Nat) : Bool := s.m.walks[k]?.any (fun w => w.due.any (fun t => decide (t ≤ s.clk.now)))

/-- A prefetch at the end of its walk (08 R239): the translation stands in the caches, and lines are filled; its token falls then. -/
def fillOne (e : Env) (root part : Nat) (m : Mach) (f : Fill) : Mach :=
  let m1 := match walkFor e m root part f.core f.va 0 with
    | none => m
    | some m1 => (match xlate e m1 f.core part f.va 1 0 false with
        | .ok sa => if !f.lines then m1 else if f.frame then fillRetr m1 (clusterOf f.core) (sa / 16384 * 16384) 16384 else fillRetr m1 (clusterOf f.core) sa 64
        | _ => m1)
  pushLand m1 { tm := e.now, wr := [], tok := f.toks, wake := [] }

/-- An engine thread at the end of its walk: it goes on, or its request joins the fault buffer (09 R263). -/
def engOne (e : Env) (root part : Nat) (m : Mach) (r : EReq) : Mach :=
  match tget m.copies r.copy with
  | none => m
  | some cp =>
    if !cp.blocked then m
    else match walkFor e m root part r.core r.va r.kind with
      | some m1 => updCopy m1 r.copy (fun c => { c with blocked := false, next := max c.next e.now })
      | none => joinFault m cp.cluster (markOf e.sys part r.core) r.va r.kind none (some r.copy)

/-- A walk ends: every miss that joined it receives its result, and its slot is free (18 R403). -/
def walkDo (k : Nat) (e : Env) (m : Mach) : Mach :=
  match m.walks[k]? with
  | some w =>
    let m1 := w.who.foldl (walkOne e w.root w.part) { m with walks := m.walks.eraseIdx k }
    nextSlot e (w.engs.foldl (engOne e w.root w.part) (w.fills.foldl (fillOne e w.root w.part) m1)) w.die
  | none => m

/-- A physical address without a home that the walk would read. -/
def walkHole (s : State) (k : Nat) : Option Nat :=
  match s.m.walks[k]? with
  | some w => (match walkVa s.m w.root (w.page * 4096) with | .noHome pa => some pa | _ => none)
  | none => none

/-- The walk that ends next. -/
def nextWalk (s : State) : Option Nat := (List.range s.m.walks.length).find? (walkDue s)

/-- PAGE_WALK (18 R403). A walk that would read a table where no memory is stops the machine by name. -/
def execPageWalk (s : State) : Host.Outcome State Fault Refusal :=
  match nextWalk s with
  | some k => (match walkHole s k with
    | some pa => .fault (.noHome pa)
    | none => .next (s.mapM (walkDo k)))
  | none => .refused (.notDue "PAGE_WALK")

/-! Copy instances (09 R267). -/

/-- Live groups of a team without a slice in an instance. -/
def sliceless (m : Mach) (team : Nat) (x : Chan) : Nat :=
  ((teamGroups m team).filter (fun (g, gr) => liveGrp gr && !x.slices.any (fun s => s.1 == g))).length

def chanDue (s : State) (team ch : Nat) : Bool :=
  match tget (teamOf s.m team).chans ch with
  | some x => x.n == x.slices.length || decide (sliceless s.m team x < x.n - x.slices.length)
  | none => false

/-- Rows of one slice of an instance. -/
def sliceWork (l : List Nat) : List CRow :=
  let d := sliceOf (lget l 2 0)
  (sliceRows d).map (fun r => { core := lget l 1 0, src := r.1.toNat, dst := r.2.toNat, len := d.rbytes })

/-- The engine thread of a started instance; a short start sets bit 62 of the stamp (09 R269). -/
def chanCopy (m : Mach) (team : Nat) (x : Chan) : Copy :=
  let (g, l) := x.slices.headD (0, [])
  let core := lget l 1 0
  { cluster := clusterOf core, team := team, part := (teamOf m team).part, g := g, lane := lget l 3 0, pc := lget l 4 0, core := core,
    know := x.slices.foldl (fun v (_, l) => vcMerge v (l.drop 7)) [0, 0, 0, 0], keep := [],
    after := x.slices.flatMap (fun (g, l) => ((List.range 32).filter (bitOf (lget l 6 0))).map (fun j => ({ g := g, lane := j }, lget l 5 0))),
    todo := x.slices.flatMap (fun (_, l) => sliceWork l), next := 0, out := 0, incs := 0, marks := [], arrs := x.arr.toList, cols := x.col.toList, colSent := false, colOut := 0,
    stamp := x.stamp.toNat % 2 ^ 61 + (if x.slices.length < x.n then 2 ^ 62 else 0), poison := false, toks := x.toks, old := [], blocked := false, ended := false, xcon := none }

def chanDo (team ch : Nat) (_e : Env) (m : Mach) : Mach :=
  match tget (teamOf m team).chans ch with
  | some x => { updTeam m team (fun t => { t with chans := tdel t.chans ch }) with serial := m.serial + 1, copies := tset m.copies m.serial (chanCopy m team x) }
  | none => m

/-- COPY_INSTANCE_START (09 R267). -/
def execCopyInstanceStart (team ch : Nat) (s : State) := ev (chanDue s team ch) "COPY_INSTANCE_START" (s.mapM (chanDo team ch))

/-! Engine threads (09 R263, R268 to R270). -/

/-- Updates of a group's slot that a flush begun before a serial has still to perform. -/
def drainsBefore (m : Mach) (g sn : Nat) : Bool :=
  m.flight.any (fun x => decide (x.id < sn) && x.thr.any (fun r => r.g == g && decide (32 ≤ r.lane)))
    || m.flushes.any (fun (k, f) => decide (k < sn) && (f.slots.contains g || (f.g == g && decide (0 < f.out))))

/-- The accesses before the fork have been performed (04 R118). -/
def forkDone (m : Mach) (cp : Copy) : Bool :=
  cp.after.all (fun (r, sn) => !m.flight.any (fun x => ofThr r x.thr x.who && decide (x.id < sn)) && !drainsBefore m r.g sn)

/-- Writes to some ranges that happen before an access made at once have not all been applied at their homes (04 R112). -/
def hbPending (m : Mach) (know : List Nat) (rs : List (Nat × Nat)) : Bool :=
  m.flight.any (fun y => serBefore y.epoch (lget know y.die 0) && canApply m y && (bodyAddrs y.body).any (fun (a, n) => rs.any (fun (b, k) => overlaps a n b k)))

/-- An access of an engine thread that found no translation waits for a walk; one that is refused joins the fault buffer (09 R263, 16 R367). -/
def engMiss (e : Env) (m : Mach) (k : Nat) (cp : Copy) (core va kind : Nat) : Mach :=
  let m1 := updCopy m k (fun c => { c with blocked := true })
  match xlate e m core cp.part va 1 kind false with
  | .miss => joinWalk e m1 (cp.cluster / 36) cp.part va [] [] [{ copy := k, core := core, va := va, kind := kind }]
  | _ => joinFault m1 cp.cluster (markOf e.sys cp.part core) va kind none (some k)

/-- Storage pieces of an engine's access; an address without a cached translation. -/
def engPieces (e : Env) (m : Mach) (cp : Copy) (core kind : Nat) : Nat → Nat → Nat → Except Nat (List (Nat × Nat))
  | 0, _, _ => .ok []
  | f + 1, va, n =>
    if n = 0 then .ok []
    else
      let k := min n (4096 - va % 4096)
      match xlateAs (inPlace (teamOf m cp.team)) e m core cp.part va k kind false with
      | .ok sa => (engPieces e m cp core kind f (va + k) (n - k)).map (fun r => (sa, k) :: r)
      | _ => .error va

/-- One aligned word as the engine reads it: as before a whole tile store that came while it read the frame (08 R237), poison for failed bytes, and either value of a word that the copy itself overwrote (09 R268). -/
def engWord (e : Env) (cp : Copy) (acc : Mach × List Byte × Bool) (sa : Nat) : Mach × List Byte × Bool :=
  let (m, l, p) := acc
  match cp.keep.lookup sa, cp.old.lookup sa with
  | some v, _ => (m, l ++ toBytes 4 v, p)
  | none, some v => ({ m with free := m.free + 1 }, l ++ toBytes 4 (if Config.pick m.free then v else readNat m sa 4), p)
  | none, none => let r := engRead e m { logCtx cp.g cp.lane cp.pc with core := 1000 } sa 4; (r.1, l ++ toBytes 4 r.2, p || (seenKind m 1000 sa 4).isSome)

/-- Words of the pieces. -/
def wordsOf (ps : List (Nat × Nat)) : List Nat := ps.flatMap (fun (sa, n) => (List.range (n / 4)).map (fun i => sa + 4 * i))

/-- A row that is still to be read covers a part of the range. -/
def rereads (todo : List CRow) (core dst n : Nat) : Bool := todo.any (fun r => r.core == core && overlaps r.src r.len dst n)

/-- Sends one packet of at most 256 bytes, to every destination (09 R268, R270). -/
def engPacket (e : Env) (m : Mach) (k : Nat) (cp : Copy) (r : CRow) (rest : List CRow) : Mach :=
  let n := min r.len (256 - r.dst % 256)
  let dsts := if cp.marks.isEmpty then [r.dst] else cp.marks.map (fun mk => padVa mk r.dst)
  match engPieces e m cp r.core 4 3 r.src n, dsts.mapM (fun d => engPieces e m cp r.core 5 3 d n) with
  | .error va, _ => engMiss e m k cp r.core va 4
  | _, .error va => engMiss e m k cp r.core va 5
  | .ok ps, .ok ds =>
    if hbPending m cp.know ps then updCopy m k (fun c => { c with next := e.now + 1 }) else
    let rd := (wordsOf ps).foldl (engWord e cp) (noteBad m ps, [], false)
    let todo := if n < r.len then { r with src := r.src + n, dst := r.dst + n, len := r.len - n } :: rest else rest
    let keep := dsts.any (fun d => rereads todo r.core d n)
    let old := if keep then ((ds.flatMap wordsOf).filter (fun a => (cp.old.lookup a).isNone)).map (fun a => (a, readNat rd.1 a 4)) else []
    let m1 := updCopy rd.1 k (fun c => { c with todo := todo, next := e.now + 2, out := c.out + dsts.length, poison := c.poison || rd.2.2, old := c.old ++ old })
    ds.zipIdx.foldl (fun m (d, i) =>
      let sa := (d.headD (0, 0)).1
      send e m (copyUnit cp.cluster) (homeOf sa) false none [] 3 false false true 0 (.packet k i sa rd.2.1 rd.2.2)) m1

/-- The stamp that a colophon receives (03 R95, 09 R269). -/
def stampOf (cp : Copy) : Nat := cp.stamp + (if cp.ended then 2 ^ 61 else 0) + (if cp.poison then 2 ^ 63 else 0)

/-- Sends the colophons. -/
def engColophon (e : Env) (m : Mach) (k : Nat) (cp : Copy) : Mach :=
  match cp.cols.mapM (fun a => engPieces e m cp cp.core 5 2 a 8) with
  | .error va => if cp.ended then updCopy m k (fun c => { c with colSent := true }) else engMiss e m k cp cp.core va 5
  | .ok ds =>
    ds.foldl (fun m d =>
      let sa := (d.headD (0, 0)).1
      send e m (copyUnit cp.cluster) (homeOf sa) false none [] 3 false true true 0 (.colophon sa (BitVec.ofNat 64 (stampOf cp)) k))
      (updCopy m k (fun c => { c with colSent := true, colOut := ds.length }))

/-- The context of an engine thread. -/
def engCtx (m : Mach) (cp : Copy) : Ctx := { logCtx cp.g cp.lane cp.pc with core := cp.core, team := cp.team, part := cp.part, sn := m.serial }

/-- The tiles of a team that is swapped out stand in its image (16 R386, R389). -/
def tilesOut (t : Team) : Bool := match t.susp with | .out | .resuming _ | .swapped => true | _ => false

/-- A write to a tile or its shape, merged into the image while the tiles stand there (09 R263, 16 R393). -/
def tileToImage (e : Env) (m : Mach) (team : Nat) (w : RegWr) : Mach :=
  let t := teamOf m team
  let b := fun c => imageBase m t ((teamCores e.sys t).idxOf c)
  match w with
  | .tile c k off l => storeAt m (b c + 0x1C0000 + 0x4000 * k + off) l false
  | .tc c k x => storeAt m (b c + 0x6000 + 4 * k) (toBytes 4 x.toNat) false
  | .himag c k _ h => storeAt m (b c + 0x6082) (toBytes 2 (putBits (readNat m (b c + 0x6082) 2) k k (if h then 1 else 0))) false
  | w => applyWr m w

/-- Writes to tiles of a team, wherever they stand. -/
def tileWrites (e : Env) (m : Mach) (team : Nat) (l : List RegWr) : Mach :=
  if tilesOut (teamOf m team) then l.foldl (fun m w => tileToImage e m team w) m else l.foldl applyWr m

/-- Changes what a copy's contraction has reached. -/
def updXcon (m : Mach) (k : Nat) (f : XCon → XCon) : Mach := updCopy m k (fun c => { c with xcon := c.xcon.map f })

/-- An entry of the reservation table is there for a group: groups that wait come first, in their order (09 R281). -/
def tableTakes (m : Mach) (g core : Nat) : Bool :=
  let c := clusOf m (clusterOf core)
  decide (c.table.length + (if c.mwait.contains g then c.mwait.idxOf g else c.mwait.length) < 16)

/-- An access of a contraction that stops: a walk or the fault buffer, else the thread ends. -/
def xStop (e : Env) (m : Mach) (k : Nat) (cp : Copy) : Out → Mach
  | .walk va kind _ | .fault va kind _ => engMiss e m k cp cp.core va (if kind = 0 then 4 else 5)
  | _ => updCopy m k (fun c => { c with xcon := none, ended := true })

/-- The block of C is complete: its elements are stored by packets, and the next block begins (09 R302). -/
def xStore (e : Env) (m : Mach) (k : Nat) (cp : Copy) (x : XCon) : Mach :=
  let c := engCtx m cp
  let r := xFinal e c x m
  match xPlaces e c r.1 (xSize x) r.2 with
  | .error o => xStop e m k cp o
  | .ok ws =>
    let runs := xRuns ws
    let m1 := updXcon (updCopy r.1 k (fun c => { c with out := c.out + runs.length })) k (fun x => { x with blk := x.blk + 1, kpos := 0, accs := [], nexts := [] })
    runs.foldl (fun m (sa, l) => send e m (copyUnit cp.cluster) (homeOf sa) false none [] 3 false false true 0 (.packet k 0 sa l false)) m1

/-- The accumulators of the block after the chunk at hand are ready for a pass. -/
def xLoad (e : Env) (m : Mach) (k : Nat) (cp : Copy) (x : XCon) : Mach :=
  let c := engCtx m cp
  let md := rmodeOf (bitsOf x.mode.toNat 2 0)
  match xChunk e c x (cardOf (lget x.cards 0 0)) (cardOf (lget x.cards 1 0)) md (xPart x) ((xBlock x).zip x.accs) m with
  | .error o => xStop e m k cp o
  | .ok (m1, l, ha, hb) => updXcon (updCopy { m1 with free := m1.free + 1 } k (fun c => { c with next := e.now + Config.delay m1.free })) k (fun x => { x with nexts := l, hia := ha, hib := hb })

/-- One step of a contraction (09 R302): a block of C is loaded, a chunk of K is loaded and posted as a pass, the block is stored; at the end the scratch tiles are zero. -/
def engContract (e : Env) (m : Mach) (k : Nat) (cp : Copy) (x : XCon) : Mach :=
  if (xBlock x).isEmpty then updCopy (tileWrites e m cp.team (xZero (engCtx m cp) x)) k (fun c => { c with xcon := none })
  else if x.accs.isEmpty then
    match xStarts e (engCtx m cp) x (cardOf (lget x.cards 2 0)) (xBlock x) m with
    | .error o => xStop e m k cp o
    | .ok (m1, l) => updXcon m1 k (fun x => { x with accs := l })
  else if (xPart x).isEmpty then xStore e m k cp x
  else if x.nexts.isEmpty then xLoad e m k cp x
  else if tableTakes m cp.g cp.core then updXcon (updClus m cp.cluster (postTo cp.g (xReq e cp x k))) k (fun x => { x with posted := true })
  else updCopy (if (clusOf m cp.cluster).mwait.contains cp.g then m else updClus m cp.cluster (fun c => { c with mwait := c.mwait ++ [cp.g] })) k (fun c => { c with next := e.now + 1 })

/-- A contraction has something to do: no pass of it is out, and its last stores have been performed before it ends. -/
def xReady (cp : Copy) (x : XCon) : Bool := !x.posted && (!(xBlock x).isEmpty || cp.out == 0)

def engDue (s : State) (k : Nat) : Bool :=
  match tget s.m.copies k with
  | some cp => !cp.blocked && decide (cp.next ≤ s.clk.now) && forkDone s.m cp && (coreOf s.m cp.core).isol == false
      && (!cp.todo.isEmpty || cp.xcon.any (xReady cp) || (cp.xcon.isNone && cp.out == 0 && cp.incs == 0 && !cp.cols.isEmpty && !cp.colSent))
  | none => false

def engDo (k : Nat) (e : Env) (m : Mach) : Mach :=
  match tget m.copies k with
  | some cp =>
    match cp.xcon, cp.todo with
    | some x, _ => engContract e m k cp x
    | none, r :: rest => engPacket e m k cp r rest
    | none, [] => engColophon e m k cp
  | none => m

/-- ENGINE_PACKET_WRITE (09 R268): a payload packet, or the colophons after the last; a step of a contraction. -/
def execEnginePacketWrite (k : Nat) (s : State) := ev (engDue s k) "ENGINE_PACKET_WRITE" (s.mapM (engDo k))

/-- The fall of a copy's tokens is a join: its threads learn what the engine thread knew and did (04 R119). -/
def joinCopy (m : Mach) (cp : Copy) : Mach :=
  let m1 := bumpDie m (cp.cluster / 36)
  let v := vcMerge cp.know (vcOnly (dieOf m1 (cp.cluster / 36)).vc (cp.cluster / 36))
  cp.toks.foldl (fun m t => updThr m t.g t.lane (learnThr v)) m1

/-- Ends copies whose writes, increments and colophons have been acknowledged: their tokens fall (09 R269). -/
def endCopies (e : Env) (m : Mach) : Mach :=
  m.copies.foldl (fun m (k, cp) =>
    if cp.todo.isEmpty && cp.xcon.isNone && cp.out == 0 && cp.incs == 0 && cp.colOut == 0 && (cp.cols.isEmpty || cp.colSent) && decide (cp.next ≤ e.now) then
      land { joinCopy m cp with copies := tdel m.copies k } (e.now + 1) [] cp.toks
    else m) m

/-! Matrix passes (09 R278 to R281). -/

/-- Element type of the operands of a wide pass. -/
def passTy (f : Nat) : NTy := match f with | 0 => .s8 | 1 => .n8 | 2 => .f16 | 3 => .g16 | _ => .f32

/-- Element (i, k) of a plain or narrow operand tile. -/
def passElem (m : Mach) (core : Nat) (q : MReq) (t scOff i k : Nat) : EV :=
  if 8 ≤ q.fmt then
    match nfmtOf q.fm q.w with
    | some f =>
      let b := k / nPer q.w
      evCont f (q.fmt % 8) (tileElem m core (q.sc.getD 0) 0 (64 * i + scOff + b)) (tileElem m core t 4 (i * q.acols + b)) (k % nPer q.w)
    | none => .nan false 0 0
  else evOf (passTy q.fmt) (tileElem m core t (fmtEw q.fmt) (i * (if q.sparse && t == q.b then q.k else q.acols) + k))

/-- Element (i, k) of a tile of 2:4 lines (09 R273, R278). -/
def sparseElem (m : Mach) (core : Nat) (q : MReq) (i k : Nat) : EV :=
  let eb := fmtBits q.fmt / 8
  let n := 96 / eb
  let line := i * (q.acols * eb) + 128 * (k / (2 * n))
  let u := k % (2 * n)
  match keptOf (ofBytes (tileBytes m core q.a (line + u / 8) 1) / 16 ^ (u / 4 % 2) % 16) (u % 4) (u / 4) with
  | some v => evOf (passTy q.fmt) (ofBytes (tileBytes m core q.a (line + 32 + v * eb) eb))
  | none => .x (.dy false 0 0 false)

/-- The K sequence of element (i, n). -/
def passPairs (m : Mach) (core : Nat) (q : MReq) (i n : Nat) : List (EV × EV) :=
  (List.range q.k).map (fun k => (if q.sparse then sparseElem m core q i k else passElem m core q q.a 0 i k, passElem m core q q.b 32 n k))

/-- The machine with the results that earlier passes have still to land. -/
def passView (m : Mach) (cl : Nat) : Mach := (clusOf m cl).granted.foldl (fun m (_, l) => l.wr.foldl applyWr m) m

/-- Accumulators of the rows of a pass, in order. -/
def passAccs (e : Env) (c : Ctx) (v : Mach) (core : Nat) (q : MReq) (m : Mach) : Mach × List Nat :=
  q.rows.foldl (fun acc i => (List.range q.n).foldl (fun (a : Mach × List Nat) n =>
    let c0 := if q.z then 0 else tileElem v core q.c 2 (i * q.n + n)
    if q.fmt < 2 then (a.1, a.2 ++ [accI c0 (passPairs v core q i n)])
    else let r := accF e a.1 c c0 (passPairs v core q i n); (r.1, a.2 ++ [r.2])) acc) (m, [])

/-- Clocks that one run of a pass occupies the engine (09 R281). -/
def passClocks (q : MReq) : Nat :=
  let bits := if 8 ≤ q.fmt then q.w else fmtBits q.fmt
  let rate := if bits = 32 then 2048 else if bits = 16 then 8192 else if bits ≤ 4 then 65536 else 32768
  max 4 (ceilDiv (q.m * q.n * (if q.sparse then q.k / 2 else q.k)) rate)

/-- Writes of the accumulator's rows with its HIMAG (05 R153). -/
def passWrites (core : Nat) (q : MReq) (xs : List Nat) : List RegWr :=
  let isInt := decide (q.fmt < 2)
  q.rows.zipIdx.map (fun (i, j) => RegWr.tile core q.c (4 * i * q.n) (((xs.drop (j * q.n)).take q.n).flatMap (toBytes 4)))
    ++ [.himag core q.c (q.rows.length == q.m) (xs.any (hiTy (if isInt then .s32 else .f32)))]

/-- Loads A anew when VER has moved (09 R280). -/
def reloadA (e : Env) (m : Mach) (c : Ctx) (core : Nat) (q : MReq) (frame : Nat) : Mach :=
  let eb := fmtBits q.fmt / 8
  let r := tileRun e c core q.a eb eb eb 0 (m, []) (frame * 16384, q.m * q.acols * eb, 0)
  let hi := r.2.any (fun w => match w with | RegWr.himag _ _ _ b => b | _ => false)
  (r.2.filter (fun w => match w with | RegWr.himag _ _ _ _ => false | _ => true) ++ [RegWr.himag core q.a true hi]).foldl applyWr r.1

/-- A granted pass of a contraction: its accumulators, and the clocks that it takes. -/
def runXPass (e : Env) (m : Mach) (cl k : Nat) (q : MReq) : Mach × List RegWr × Nat :=
  match tget m.copies k with
  | some cp =>
    match cp.xcon with
    | some x => let p := xPass e (engCtx m cp) x cl m; (updXcon p.m k (fun x => { x with nexts := p.accs }), [], passClocks q * (1 + p.replays))
    | none => (m, [], passClocks q)
  | none => (m, [], passClocks q)

/-- The pass of a contraction has landed: the next chunk follows. -/
def xLanded (m : Mach) (q : MReq) : Mach :=
  match q.xc with
  | some k => updXcon m k (fun x => { x with accs := x.nexts, nexts := [], kpos := x.kpos + xLen x, posted := false })
  | none => m

/-- A granted pass: the machine, what lands, and the clocks that it takes. -/
def runPass (e : Env) (m : Mach) (cl : Nat) (q : MReq) : Mach × List RegWr × Nat :=
  let core := (grpOf m q.g).core
  let c := logCtx q.g q.lane q.pc
  let skip := match q.zs with | some (f, ver) => (frameOf m f).1.toNat == ver | none => false
  if skip then (m, if q.z then passWrites core q (List.replicate (q.rows.length * q.n) 0) else [], 1)
  else
    let m1 := match q.zs with | some (f, _) => reloadA e m c core q f | none => m
    let v := passView m1 cl
    let a := passAccs e c v core q m1
    let hi := fun t => if lget (coreOf v core).himag t false then 1 else 0
    let small := decide (8 ≤ q.fmt) || decide (q.fmt < 2)
    let entry := lget (clusOf v cl).pred ((if small then 4 else 0) + 2 * hi q.a + hi q.b) 0
    let mode := (grpOf v q.g).mode
    let k := passMode mode (if e.sys.dev.images.contains 4 then entry else 0) (grpOf v q.g).disp.isSome
    let p := passOutcome e a.1 c k mode (decide (q.fmt < 2)) (fun i => lget q.rows (i / max 1 q.n) 0) a.2
    (p.m, passWrites core q p.accs, passClocks q * (1 + p.replays))

/-- No entry posted earlier names the accumulator. -/
def eligible (m : Mach) (l : List MReq) (q : MReq) (i : Nat) : Bool := !(l.take i).any (fun p => p.c == q.c && (grpOf m p.g).core == (grpOf m q.g).core)

/-- Order of R281 for entries at places of the table. -/
def grantBefore (e : Env) (m : Mach) (a b : MReq) : Bool :=
  let mk := fun (q : MReq) => let gr := grpOf m q.g; markOf e.sys (teamOf m gr.team).part gr.core
  let key := fun (q : MReq) => [1000000000000 - (e.now - q.tm) / 16, 3 - q.pri, q.tm, mk q, (grpOf m q.g).gi]
  decide (key a < key b)

/-- The entry granted next, with its place. -/
def nextGrant (e : Env) (m : Mach) (cl : Nat) : Option (MReq × Nat) :=
  let l := (clusOf m cl).table
  (l.zipIdx.filter (fun (q, i) => decide (q.tm < e.now) && eligible m l q i)).foldl (fun best x =>
    match best with
    | none => some x
    | some y => if grantBefore e m x.1 y.1 then some x else some y) none

def grantDue (s : State) (cl : Nat) : Bool := decide ((clusOf s.m cl).freeAt ≤ s.clk.now) && (nextGrant s.env s.m cl).isSome

/-- The pass runs on its operands; what it produces lands 6 clocks after its last clock. -/
def grantDo (cl : Nat) (e : Env) (m : Mach) : Mach :=
  match nextGrant e m cl with
  | none => m
  | some (q, i) =>
    let m0 := updClus m cl (fun c => { c with table := c.table.eraseIdx i })
    let r := match q.xc with | some k => runXPass e m0 cl k q | none => runPass e m0 cl q
    updClus r.1 cl (fun c => { c with
      granted := c.granted ++ [(q, { tm := e.now + r.2.2 + 5, wr := r.2.1, tok := q.toks, wake := [] })], freeAt := e.now + r.2.2 })

/-- MATRIX_GRANT (09 R281). -/
def execMatrixGrant (cl : Nat) (s : State) := ev (grantDue s cl) "MATRIX_GRANT" (s.mapM (grantDo cl))

def passDue (s : State) (cl : Nat) : Bool := (clusOf s.m cl).granted.head?.any (fun (_, l) => decide (l.tm ≤ s.clk.now))

def passDo (cl : Nat) (_e : Env) (m : Mach) : Mach :=
  match (clusOf m cl).granted with
  | (q, l) :: _ => xLanded (landMerged (updClus m cl (fun c => { c with granted := c.granted.drop 1 })) l) q
  | [] => m

/-- MATRIX_PASS_COMPLETE (09 R281). -/
def execMatrixPassComplete (cl : Nat) (s : State) := ev (passDue s cl) "MATRIX_PASS_COMPLETE" (s.mapM (passDo cl))

end Sys2Proof.Machine
end

