-- ==== Sys2Proof/Machine/EvCatalogue.lean ====
section
/-! DEFINITION. Steps of the Catalogues and the Circulation units (spec/02 R46 to R76, 09 R287 to R291, 14 R349). -/
namespace Sys2Proof.Machine
open Sys2Proof

/-! Messages at a Catalogue. -/

def inputDo (e : Env) (m : Mach) (x : Msg) : Mach :=
  match x.body with
  | .input g data slot => inputArrives e (mergeClocks m x) g data slot
  | _ => m

/-- INPUT_ACCESSION (02 R53). -/
def execInputAccession (id : Nat) (s : State) := ev (msgDue s .input id) "INPUT_ACCESSION" (s.mapM (msgDo inputDo id))

def recordDo (e : Env) (m : Mach) (x : Msg) : Mach :=
  match x.body with
  | .record g data slot => recordArrives e (mergeClocks m x) g data slot
  | _ => m

/-- RECORD_ARRIVAL (02 R58). -/
def execRecordArrival (id : Nat) (s : State) := ev (msgDue s .record id) "RECORD_ARRIVAL" (s.mapM (msgDo recordDo id))

def postDo (e : Env) (m : Mach) (x : Msg) : Mach :=
  match x.body with
  | .rsd g n b w => respondHere e (postArrives e m g (blkKey n b) w) x
  | _ => m

/-- RESIDUAL_POST_APPLY (02 R59). -/
def execResidualPostApply (id : Nat) (s : State) := ev (msgDue s .residual id) "RESIDUAL_POST_APPLY" (s.mapM (msgDo postDo id))

def answerDo (e : Env) (m : Mach) (x : Msg) : Mach :=
  match x.body with
  | .rput g data depth isIn pd => performRput e m x g data depth isIn pd
  | .outcome pd c => performOutcome e m x pd c
  | .ralc g n k pd lanes => performRalc e m x g n k pd lanes
  | .snap g n b dst l => performSnap e m x g n b dst l
  | _ => m

/-- CATALOGUE_ANSWER (09 R287, R288, R293). -/
def execCatalogueAnswer (id : Nat) (s : State) := ev (msgDue s .answer id) "CATALOGUE_ANSWER" (s.mapM (msgDo answerDo id))

/-! Blocks. -/

/-- The waiting block of a die that waited first: graph, block and its place (02 R46). -/
def nextWaiting (m : Mach) (d : Nat) : Option (Nat × Nat × Nat) :=
  (m.graphs.flatMap (fun (g, gr) => gr.blocks.filterMap (fun (k, b) =>
    if blockDie gr (k / 4096) (k % 4096) == d then b.waiting.map (fun w => (g, k, w)) else none))).foldl
    (fun best x => match best with
      | none => some x
      | some y => if x.2.2 < y.2.2 then some x else some y) none

def activationDue (s : State) (d : Nat) : Bool := (nextWaiting s.m d).isSome && decide (activeOn s.m d < 4096)

def activationDo (d : Nat) (e : Env) (m : Mach) : Mach :=
  match nextWaiting m d with
  | some (g, k, _) => updGraph m g (fun gr => activate e gr k)
  | none => m

/-- BLOCK_ACTIVATION (02 R46). -/
def execBlockActivation (die : Nat) (s : State) := ev (activationDue s die) "BLOCK_ACTIVATION" (s.mapM (activationDo die))

def lapseDue (s : State) (g k : Nat) : Bool := (blockOf (graphOf s.m g) k).timer.any (fun t => decide (t ≤ s.clk.now))

/-- COALESCING_TIMER_LAPSE (02 R61): the block becomes ready in this clock. -/
def execCoalescingTimerLapse (graph blk : Nat) (s : State) :=
  ev (lapseDue s graph blk) "COALESCING_TIMER_LAPSE"
    (s.mapM (fun e m => updGraph m graph (fun gr => { gr with blocks := tupd gr.blocks blk (fun b =>
      let b1 := { b with timer := none, lapsed := true }
      if blockReady gr blk b1 then { b1 with readyAt := some (b1.readyAt.getD e.now) } else b1) })))

/-- Code of a Catalogue that has made its choice in a clock. -/
def catTurn (d : Nat) : Nat := 100000 + d

def choiceDue (s : State) (d : Nat) : Bool := s.clk.now % 2 == 0 && !s.clk.turn.contains (catTurn d) && (choose s.env s.m d).isSome

def choiceDo (d : Nat) (e : Env) (m : Mach) : Mach :=
  match choose e m d with
  | some (c, t, core, lb, sl) => dispatch e m c.g c.k t core lb sl
  | none => m

/-- CATALOGUE_CHOICE (02 R63): one in each even clock. -/
def execCatalogueChoice (die : Nat) (s : State) :=
  ev (choiceDue s die) "CATALOGUE_CHOICE" { s.mapM (choiceDo die) with clk := { s.clk with turn := s.clk.turn ++ [catTurn die] } }

/-! Launch and retirement. -/

def launchDue (s : State) (g : Nat) : Bool := (grpOf s.m g).disp.any (fun d => d.launchAt.any (fun t => decide (t ≤ s.clk.now)))

/-- A dispatch for an isolated core ends with poison of kind LINK in the block's residual (18 R413). -/
def endDispatch (e : Env) (m : Mach) (g : Nat) (d : Disp) : Mach :=
  updGrp (linkPoison e (freeRecs (returnResv m g) d) d.graph (blkKey d.node d.blk) g) g (fun gr => { gr with disp := none, th := gr.th.map (fun t => { t with st := .exited, wait := .none, vecAt := none }) })

def launchDo (g : Nat) (e : Env) (m : Mach) : Mach :=
  match (grpOf m g).disp with
  | some d => if (coreOf m (grpOf m g).core).isol then endDispatch e m g d else launchGroup e m g d
  | none => m

/-- DISPATCH_LAUNCH (02 R64). -/
def execDispatchLaunch (g : Nat) (s : State) := ev (launchDue s g) "DISPATCH_LAUNCH" (s.mapM (launchDo g))

def retireDue (s : State) (graph blk : Nat) : Bool := (blockOf (graphOf s.m graph) blk).run.any (fun g => dispDone s.m g (grpOf s.m g))

/-- DISPATCH_RETIRE (02 R65). -/
def execDispatchRetire (graph blk : Nat) (s : State) :=
  ev (retireDue s graph blk) "DISPATCH_RETIRE" (s.mapM (fun _ m => match (blockOf (graphOf m graph) blk).run with | some g => retire m graph blk g | none => m))

/-! Probes and reports. -/

def probeDue (s : State) (g : Nat) : Bool :=
  match tget s.m.graphs g with
  | some gr => gr.probe.isNone && quietOn gr (gHome gr) && (gr.lastProbe == 0 || decide (gr.lastProbe + gProbe gr ≤ s.clk.now))
  | none => false

/-- PROBE_START (02 R70): the watermark is the accession counter now (R72). -/
def execProbeStart (graph : Nat) (s : State) :=
  ev (probeDue s graph) "PROBE_START" (s.mapM (fun e m => updGraph m graph (fun gr => { gr with probe := some { start := e.now, mark := gr.accn }, lastProbe := e.now })))

def answerDue (s : State) (g : Nat) : Bool := ((tget s.m.graphs g).bind (·.probe)).any (fun p => decide (p.start + bsnPkg ≤ s.clk.now))

/-- PROBE_ANSWER (02 R70, R71): the broadcast reaches every die 72 clocks after the start. -/
def execProbeAnswer (graph : Nat) (s : State) :=
  ev (answerDue s graph) "PROBE_ANSWER" (s.mapM (fun e m => updGraph m graph (fun gr => match gr.probe with | some p => answerProbe e gr p | none => gr)))

/-- A vector's coalescing register, at its reset values until it is written (14 R349). -/
def vecOf (sys : Sys) (v : Nat) : Vec := (tget sys.vecs v).getD Vec.initial

/-- Counts one event on a vector (14 R349). -/
def countEvent (sys : Sys) (v now : Nat) : Sys :=
  let x := vecOf sys v
  { sys with vecs := tset sys.vecs v { x with pend := min 65535 (x.pend + 1), first := if x.pend = 0 then now else x.first } }

def reportDue (s : State) (g : Nat) : Bool := ((tget s.m.graphs g).bind (·.due)).any (fun (t, _) => decide (t ≤ s.clk.now))

/-- Writes the report, and counts it on the graph's vector when IEN is 1. -/
def reportDo (g : Nat) (s : State) : State :=
  let gr := graphOf s.m g
  let r := writeReport s.env s.m g ((gr.due.map (·.2)).getD 0)
  { s with m := r.1, sys := if r.2 && gfield gr 140 140 == 1 then countEvent s.sys (gfield gr 151 141) s.clk.now else s.sys }

/-- REPORT_WRITE (02 R73). -/
def execReportWrite (graph : Nat) (s : State) := ev (reportDue s graph) "REPORT_WRITE" (reportDo graph s)

end Sys2Proof.Machine
end

