-- ==== Sys2Proof/Machine/EvTrap.lean ====
section
/-! DEFINITION. Steps of traps, fault buffers, stops and single steps (spec/16 R363 to R373). -/
namespace Sys2Proof.Machine
open Sys2Proof

/-- Changes groups, with the images of those that are swapped out (16 R386). -/
def withImages (gs : List Nat) (f : Mach → Mach) (m : Mach) : Mach := gs.foldl (mergeImage m) (f m)

/-! The handler (16 R363). -/

/-- The thread is in HANDLER at the partition's trap vector, or HELD while its team is suspended in place. -/
def enterThr (tvec now : Nat) (held : Bool) (t : Thread) : Thread :=
  { t with st := if held then .heldStop else .handler, hm := true, pc := tvec, vecAt := none, readyAt := now }

def entryDue (s : State) (g lane : Nat) : Bool :=
  let t := thrOf s.m g lane
  t.st == .parked && t.vecAt.any (fun v => decide (v ≤ s.clk.now)) && resident (teamOf s.m (grpOf s.m g).team)

def entryDo (g lane : Nat) (e : Env) (m : Mach) : Mach :=
  let tm := teamOf m (grpOf m g).team
  updThr m g lane (enterThr (partOf e.sys tm.part).tvec e.now (tm.susp == .inPlace))

/-- HANDLER_ENTRY (16 R363). -/
def execHandlerEntry (g lane : Nat) (s : State) := ev (entryDue s g lane) "HANDLER_ENTRY" (s.mapM (entryDo g lane))

/-! The fault buffer (16 R369). -/

/-- Requests that wait at a buffer join it, in arrival order, as far as there is room. -/
def admitWaiting (m : Mach) (cl : Nat) : Mach :=
  (clusOf m cl).fwait.foldl (fun m r => joinFault m cl r.mark r.va r.kind r.who r.eng) (updClus m cl (fun c => { c with fwait := [] }))

/-- The state in which a thread leaves PARKED for its instruction. -/
def unpark (m : Mach) (r : TRef) : Mach :=
  let team := (grpOf m r.g).team
  updThr m r.g r.lane (fun t => if t.st == .parked then { t with
    st := (if t.hm then (if (teamOf m team).susp == .inPlace then .heldStop else .handler) else runState m team), solo := bitOf (lget t.trec 5 0).toNat 20 } else t)

/-- A requester raises the cause of the refusal with its own address. -/
def refuseThr (e : Env) (cause : Nat) (m : Mach) (x : TRef × Nat) : Mach :=
  let (r, va) := x
  let t := thrOf m r.g r.lane
  if t.st != .parked then m
  else raise e (updThr m r.g r.lane (fun t => { t with st := if t.hm then .handler else .run })) r.g r.lane cause (va % 2 ^ 56) 0 t.pc t.pc (lget t.trec 7 0).toNat
    (bitOf (lget t.trec 5 0).toNat 20)

/-- A payload packet or an increment of a copy. -/
def ofCopy (k : Nat) : Body → Bool
  | .packet j _ _ _ _ | .arrInc _ _ j => j == k
  | _ => false

/-- An engine thread ends at its failing packet: it performs nothing more but its colophon (09 R263). -/
def endEngine (e : Env) (m : Mach) (k : Nat) : Mach :=
  updCopy { m with flight := m.flight.filter (fun x => !ofCopy k x.body) } k
    (fun c => { c with todo := [], out := 0, incs := 0, xcon := none, ended := true, blocked := false, next := max c.next e.now })

/-- The requesters of an answered entry are released, in the order in which they joined: filled, they perform their instruction again or go on from their packet; refused, they raise the cause or end. A filled fetch drops the code cache of the cluster (06 R163). -/
def releaseReqs (e : Env) (m : Mach) (cl : Nat) (f : FEnt) : Mach :=
  if f.st = 2 then
    let m1 := withImages (f.who.map (·.1.g)) (fun m => f.who.foldl (fun m (r, _) => unpark m r) m) m
    let m2 := f.engines.foldl (fun m c => updCopy m c (fun cp => { cp with blocked := false, next := max cp.next e.now })) m1
    if f.kind = 3 then updClus m2 cl (fun c => { c with code := [] }) else m2
  else
    let m1 := withImages (f.who.map (·.1.g)) (fun m => f.who.foldl (refuseThr e (if f.protf then cPROT else cXLATE)) m) m
    f.engines.foldl (endEngine e) m1

/-- A pending entry is answered: its requesters are released, and it takes those that still join in this clock (R394). -/
def answerFault (e : Env) (m : Mach) (cl k st : Nat) (prot : Bool) : Mach :=
  match tget (clusOf m cl).fbuf k with
  | some f =>
    if f.st = 1 then
      let f1 := { f with st := st, protf := prot }
      updClus (releaseReqs e m cl f1) cl (fun c => { c with fbuf := tset c.fbuf k { f1 with who := [], engines := [] } })
    else m
  | none => m

/-- FAULT_FILL (16 R369): the monitor writes STATE 2. -/
def execFaultFill (cluster entry : Nat) (s : State) : Host.Outcome State Fault Refusal := .next (s.mapM (fun e m => answerFault e m cluster entry 2 false))

/-- FAULT_REFUSE (16 R369): the monitor writes STATE 3. -/
def execFaultRefuse (cluster entry : Nat) (prot : Bool) (s : State) : Host.Outcome State Fault Refusal :=
  .next (s.mapM (fun e m => answerFault e m cluster entry 3 prot))

/-- At the end of the clock, those that joined an answered entry in it are released with the others, and the entry is free in the next (R369, R394). -/
def freeAnswered (e : Env) (m : Mach) (cl : Nat) : Mach :=
  match (clusOf m cl).fbuf.filter (fun (_, f) => f.st != 1) with
  | [] => m
  | l =>
    let m1 := l.foldl (fun m (_, f) => releaseReqs e m cl f) m
    admitWaiting (updClus m1 cl (fun c => { c with fbuf := c.fbuf.filter (fun (_, f) => f.st == 1) })) cl

def freeFaults (e : Env) (m : Mach) : Mach := m.clusters.foldl (fun m (cl, _) => freeAnswered e m cl) m

/-! Stops (16 R372). -/

/-- Applies a function to every thread of a team, with the images of its groups. -/
def eachOfTeam (team : Nat) (f : Thread → Thread) (m : Mach) : Mach :=
  withImages ((teamGroups m team).map (·.1))
    (fun m => { m with groups := m.groups.map (fun (k, gr) => if gr.team = team then (k, { gr with th := gr.th.map f }) else (k, gr)) }) m

def stopDue (s : State) (team : Nat) : Bool := (teamOf s.m team).stopAt.any (fun t => decide (t ≤ s.clk.now))

/-- STOPPED becomes 1, and threads in RUN enter HELD. -/
def stopDo (team : Nat) (m : Mach) : Mach :=
  let m1 := updTeam (updEnt m (teamOf m team).ent (fun en => { en with stopped := true })) team (fun t => { t with stopAt := none })
  eachOfTeam team (fun t => if t.st == .run then { t with st := .heldStop } else t) m1

/-- STOP_ARRIVAL (16 R372). -/
def execStopArrival (team : Nat) (s : State) := ev (stopDue s team) "STOP_ARRIVAL" (s.mapM (fun _ m => stopDo team m))

/-- DBGC_RESUME (16 R372): the end of the stop travels over the BSN. -/
def execDbgcResume (team : Nat) (s : State) : Host.Outcome State Fault Refusal :=
  .next (s.mapM (fun e m => updTeam m team (fun t => { t with resumeAt := some (e.now + bsnDie) })))

def resumeDue (s : State) (team : Nat) : Bool := (teamOf s.m team).resumeAt.any (fun t => decide (t ≤ s.clk.now))

/-- STOPPED clears; threads held by the stop return, unless the team is suspended in place. -/
def resumeDo (team : Nat) (m : Mach) : Mach :=
  let m1 := updTeam (updEnt m (teamOf m team).ent (fun en => { en with stopped := false })) team (fun t => { t with resumeAt := none })
  if (teamOf m1 team).susp == .inPlace then m1 else eachOfTeam team unholdThr m1

/-- RESUME_ARRIVAL (16 R372). -/
def execResumeArrival (team : Nat) (s : State) := ev (resumeDue s team) "RESUME_ARRIVAL" (s.mapM (fun _ m => resumeDo team m))

/-! Single steps (16 R373). -/

/-- The key of the barrier of its team or grid at which a thread of a group waits. -/
def barKeyOf (m : Mach) (gr : Group) (b : Nat) : Nat := if b = 4 then 8 * (teamOf m gr.team).grid.getD 0 + 4 else 8 * gr.team + b

/-- A `qwait` of the thread has not been released: it is under way, linked, or to be tried again. -/
def queuedThr (m : Mach) (r : TRef) : Bool :=
  m.queues.any (fun (_, q) => q.contains r) || m.retries.any (fun x => x.2.1 == r)
    || m.flight.any (fun x => x.thr == some r && (match x.body with | .qwait _ => true | _ => false))

/-- A trap ends the wait of the thread (01 R43): the wait's condition does not hold yet, and no other member waits by the same operation. DEDUCED: a wait that is over, and one that stands for a whole set, ends first; so does what is no wait of R23. -/
def waitEnds (m : Mach) (r : TRef) : Bool :=
  let gr := grpOf m r.g
  let t := thrOf m r.g r.lane
  match t.wait with
  | .none | .claim => true
  | .cvw cb => !cvwDone gr cb
  | .bar b | .bsc b _ _ _ _ => (barOfKey m (barKeyOf m gr b)).sat.isNone
  | .mwt _ _ | .awt _ _ => t.mon.all (fun mo => mo.sat.isNone) && decide ((waiters m r.g t.wop).length ≤ 1)
  | .qwait => queuedThr m r
  | .qpush | .qpop => m.flight.any (fun x => x.op == t.wop) && decide ((waiters m r.g t.wop).length ≤ 1)
  | _ => false

/-- A member leaves a claim; its tokens count on it no longer. -/
def leaveClaim (r : TRef) (m : Mach) (c : Claim) : Mach :=
  let own := fun (t : TokRef) => t.g == r.g && t.lane == r.lane
  (c.toks.filter own).foldl tokFall (updTeam m (grpOf m r.g).team (fun t => { t with claims := t.claims.filterMap (fun d =>
    if d.id != c.id then some d
    else if d.who.all (· == r) then none
    else some { d with who := d.who.filter (· != r), toks := d.toks.filter (fun t => !own t) }) }))

/-- A trap takes a waiting thread out of what it waits in: the record of arrivals, the claims, the queue, the operation (01 R43, 08 R230, R250). -/
def leaveWait (e : Env) (m : Mach) (r : TRef) : Mach :=
  let t := thrOf m r.g r.lane
  let drop := fun (m : Mach) => dropOp { m with flight := m.flight.filter (fun x => x.op != t.wop) } t.wop
  match t.wait with
  | .claim => ((teamOf m (grpOf m r.g).team).claims.filter (fun c => c.who.contains r)).foldl (leaveClaim r) m
  | .cvw cb => updGrp m r.g (fun gr => { gr with cba := lupd gr.cba cb (fun w => BitVec.ofNat 32 (putBits w.toNat r.lane r.lane 0)) })
  | .bar _ | .bsc _ _ _ _ _ | .mwt _ _ => dropOp m t.wop
  | .awt _ _ => dropOp (updThr m r.g r.lane (fun t => { t with mon := none })) t.wop
  | .qwait => dropOp (unlinkThr e { m with flight := m.flight.filter (fun x => !(x.thr == some r && (match x.body with | .qwait _ => true | _ => false))) } r) t.wop
  | .qpush | .qpop => drop m
  | _ => m

/-- The clock after the one instruction that followed `tret` with HSTEP. -/
def stepDue (s : State) (g lane : Nat) : Bool :=
  let t := thrOf s.m g lane
  t.step && !t.rp && waitEnds s.m { g := g, lane := lane } && t.st == .run && decide (t.lastIssue < s.clk.now) && resident (teamOf s.m (grpOf s.m g).team)

def stepDo (g lane : Nat) (e : Env) (m : Mach) : Mach :=
  let t := thrOf m g lane
  raise e (leaveWait e (sendStop e m (grpOf m g).team) { g := g, lane := lane }) g lane cSTEP 0 0 t.pc t.pc 0 t.solo

/-- SINGLE_STEP (16 R373). -/
def execSingleStep (g lane : Nat) (s : State) := ev (stepDue s g lane) "SINGLE_STEP" (s.mapM (stepDo g lane))

end Sys2Proof.Machine
end

