-- ==== Sys2Proof/Machine/EvPreempt.lean ====
section
/-! DEFINITION. Steps of pre-emption, spilling and resumption, and the monitor's answers to a team (spec/16 R378, R383 to R393, 18 R404, 19 R430). -/
namespace Sys2Proof.Machine
open Sys2Proof

/-! The pre-emption signal (16 R384, R385). -/

/-- The signal that arrives now for a set of cores. -/
def premOf (s : State) (cores : List Nat) : Bool := s.m.prem.any (fun p => p.cores == cores && decide (p.tm ≤ s.clk.now))

/-- A waiting `mwt` keeps what remains of its timeout (08 R250). -/
def pauseThr (now : Nat) (t : Thread) : Thread :=
  match t.wait with
  | .mwt (some d) dst => { t with wait := .mwt (some (d - now)) dst }
  | _ => t

/-- Teams whose signal arrives now on one of the cores. -/
def outgoing (e : Env) (m : Mach) (cores : List Nat) : List (Nat × Team) :=
  m.teams.filter (fun (_, t) => (match t.susp with | .signalled tm => decide (tm ≤ e.now) | _ => false) && (teamCores e.sys t).any cores.contains)

/-- Clock P: no group of the set issues, runs end, latches are invalid, the outgoing context goes to the shadow bank. -/
def signalDo (cores : List Nat) (e : Env) (m : Mach) : Mach :=
  let out := outgoing e m cores
  let m1 := { m with prem := m.prem.filter (fun p => !(p.cores == cores && decide (p.tm ≤ e.now))) }
  let m2 := out.foldl (fun m (k, _) => updTeam m k (fun t => { t with susp := .spilling })) m1
  let m3 := { m2 with groups := m2.groups.map (fun (g, gr) => if out.any (fun x => x.1 == gr.team) then (g, { gr with th := gr.th.map (pauseThr e.now) }) else (g, gr)) }
  cores.foldl (fun m c =>
    let m1 := (List.range 2).foldl (fun m lb => updSched m (schedKey c lb) (fun sc => { sc with run := none, xs := [] })) m
    updCore m1 c (fun x => { x with swapUntil := some (e.now + 10), copying := x.copying || out.any (fun y => (teamCores e.sys y.2).contains c) })) m3

/-- RDR and IMGP of the marks of outgoing teams (18 R407). -/
def setRdr (sys : Sys) (part mark base : Nat) : Sys :=
  { sys with parts := tupd sys.parts part (fun p => { p with place := tupd p.place mark (fun w => putBits (putBits w 62 62 1) 51 16 (base / 2 ^ 16)) }) }

def clearRdr (sys : Sys) (part mark : Nat) : Sys :=
  { sys with parts := tupd sys.parts part (fun p => { p with place := tupd p.place mark (fun w => putBits (putBits w 62 62 0) 51 16 0) }) }

/-- Marks of a team with the images of their cores. -/
def teamMarks (m : Mach) (t : Team) : List (Nat × Nat) := t.marks.zipIdx.map (fun ((k, _), i) => (k, imageBase m t i))

def signalState (cores : List Nat) (s : State) : State :=
  let out := outgoing s.env s.m cores
  { s.mapM (signalDo cores) with sys := out.foldl (fun sys (_, t) => (teamMarks s.m t).foldl (fun sys (k, b) => setRdr sys t.part k b) sys) s.sys }

/-- PREEMPTION_SIGNAL: a signal that is due arrives (16 R385); else the Front End sends one (16 R384). -/
def execPreemptionSignal (cores : List Nat) (s : State) : Host.Outcome State Fault Refusal :=
  .next (if premOf s cores then signalState cores s else s.mapM (fun e m => preempt e m cores))

def swapDue (s : State) (core : Nat) : Bool := (coreOf s.m core).swapUntil.any (fun t => decide (t ≤ s.clk.now))

/-- The incoming context is active; its groups are ready at age 0. -/
def swapDo (core : Nat) (e : Env) (m : Mach) : Mach :=
  let m1 := updCore m core (fun c => { c with swapUntil := none })
  { m1 with groups := m1.groups.map (fun (g, gr) => if gr.core = core && resident (teamOf m gr.team) then (g, { gr with lastIssue := e.now, readySince := e.now }) else (g, gr)) }

/-- SHADOW_SWAP_COMPLETE (16 R385). -/
def execShadowSwapComplete (core : Nat) (s : State) := ev (swapDue s core) "SHADOW_SWAP_COMPLETE" (s.mapM (swapDo core))

/-! The spill engine (16 R386 to R388). -/

/-- Clocks in which a number of bytes is copied (09 R268). -/
def copyClocks (n : Nat) : Nat := ceilDiv n 256 * 2

def wrTile (core : Nat) (tiles : Nat) : RegWr → Bool
  | .tile c k _ _ => c == core && bitOf tiles k
  | _ => false

/-- A pass or load has still to write a tile of the team. -/
def tilesPending (e : Env) (m : Mach) (team : Nat) : Bool :=
  let t := teamOf m team
  (teamCores e.sys t).any (fun c =>
    let hit := fun (l : List RegWr) => l.any (wrTile c t.tiles)
    m.pending.any (fun l => hit l.wr) || m.ops.any (fun (_, o) => hit o.land.wr)
      || m.flight.any (fun x => match x.body with | .tileRead _ k tk _ _ _ _ _ => k == c && bitOf t.tiles tk | _ => false)
      || (clusOf m (clusterOf c)).table.any (fun q => (grpOf m q.g).team == team) || (clusOf m (clusterOf c)).granted.any (fun (q, _) => (grpOf m q.g).team == team))

/-- The copy of the allocation begins. -/
def beginCopy (e : Env) (m : Mach) (team : Nat) : Mach := updTeam m team (fun t => { t with susp := .copying (e.now + copyClocks t.spsz) })

def spillDue (s : State) (team : Nat) : Bool :=
  match (teamOf s.m team).susp with
  | .spilling => true
  | .draining f => (tget s.m.flushes f).isNone
  | .copied => !tilesPending s.env s.m team
  | _ => false

/-- A core's spill is over when no team of it is on its way to its image. -/
def spillingOn (e : Env) (m : Mach) (core : Nat) : Bool :=
  m.teams.any (fun (_, t) => (match t.susp with | .spilling | .draining _ | .copying _ | .copied => true | _ => false) && (teamCores e.sys t).contains core)

def endSpill (e : Env) (m : Mach) (cores : List Nat) : Mach := cores.foldl (fun m c => updCore m c (fun x => { x with copying := spillingOn e m c })) m

/-- Slots drain, the allocation is copied, then tiles and blocks are written. -/
def spillDo (team : Nat) (e : Env) (m : Mach) : Mach :=
  match (teamOf m team).susp with
  | .spilling =>
    let sl := drainOrder e m (teamGroups m team)
    if sl.isEmpty then beginCopy e m team else updTeam (startFlush m sl [] none) team (fun t => { t with susp := .draining m.serial })
  | .draining _ => beginCopy e m team
  | .copied => endSpill e (updTeam (writeImage e m team) team (fun t => { t with susp := .out })) (teamCores e.sys (teamOf m team))
  | _ => m

/-- SPILL (16 R387). -/
def execSpill (team : Nat) (s : State) := ev (spillDue s team) "SPILL" (s.mapM (spillDo team))

def deferDue (s : State) (id : Nat) : Bool :=
  match msgOf s.m id with
  | some x => arrived s.env s.m x && x.stage != .held && mustDefer s.env s.m x && decide ((s.m.flight.filter (fun y => y.stage == .deferred && y.dst == x.dst)).length < 64)
  | none => false

/-- PACKET_DEFERRAL (16 R388). -/
def execPacketDeferral (id : Nat) (s : State) := ev (deferDue s id) "PACKET_DEFERRAL" (s.mapM (fun _ m => setStage m id .deferred))

/-- Storage addresses of ranges that move: from, to, length. -/
def moved (l : List (Nat × Nat × Nat)) (sa : Nat) : Nat :=
  match l.find? (fun (a, _, n) => decide (a ≤ sa) && decide (sa < a + n)) with
  | some (a, b, _) => b + (sa - a)
  | none => sa

/-- A message to a moved range goes to its new home; a deferred one is taken up in its order of arrival. -/
def moveMsg (l : List (Nat × Nat × Nat)) (x : Msg) : Msg :=
  match (bodyAddrs x.body).find? (fun (a, _) => moved l a != a) with
  | some (a, _) =>
    let h := homeOf (moved l a)
    { x with body := moveBody (moved l) x.body, dst := h, dieTo := (homePos h).1, stage := if x.stage == .deferred then .free else x.stage }
  | none => if x.stage == .deferred && (match x.body with | .ring _ _ _ _ _ | .monArm _ => true | _ => false) then { x with stage := .free } else x

/-- Everything that names storage of moved ranges follows them: bytes, failed checks, messages, queues, monitors, atomic buffers. -/
def moveRanges (m : Mach) (l : List (Nat × Nat × Nat)) : Mach :=
  let m1 := l.foldl (fun m (a, b, n) => { storeAt m b (memRead m.mem a n) false with bad := (m.bad.filter (fun (x, _) => !(decide (b ≤ x) && decide (x < b + n)))).map (fun (x, k) => (moved l x, k)) }) m
  { m1 with
    flight := m1.flight.map (moveMsg l)
    past := m1.past.map (fun p => { p with sa := moved l p.sa })
    copies := m1.copies.map (fun (k, c) => (k, { c with old := c.old.map (fun (a, w) => (moved l a, w)), keep := c.keep.map (fun (a, w) => (moved l a, w)) }))
    queues := m1.queues.foldl (fun q (a, w) => tset q (moved l a) w) []
    retries := m1.retries.map (fun (a, x) => (moved l a, x))
    groups := m1.groups.map (fun (g, gr) => (g, { gr with
      ab := gr.ab.map (fun a => { a with sa := moved l a.sa })
      th := gr.th.map (fun t => { t with mon := t.mon.map (fun mo => { mo with sa := moved l mo.sa, home := homeOf (moved l mo.sa) }) }) })) }

/-- The allocation of a team: slice address, image address, length, for each core. -/
def allocRanges (e : Env) (m : Mach) (t : Team) : List (Nat × Nat × Nat) :=
  (teamCores e.sys t).zipIdx.map (fun (c, i) => (sliceBase c + t.spoff, imageBase m t i + 0x200000 + t.spoff, t.spsz))

def copyDue (s : State) (team : Nat) : Bool := match (teamOf s.m team).susp with | .copying tm => decide (tm ≤ s.clk.now) | _ => false

/-- ALLOCATION_COPY_COMPLETE (16 R388): the image is the home from now on. -/
def execAllocationCopyComplete (team : Nat) (s : State) :=
  ev (copyDue s team) "ALLOCATION_COPY_COMPLETE"
    (s.mapM (fun e m => updTeam (moveRanges m (allocRanges e m (teamOf m team))) team (fun t => { t with susp := .copied })))

/-! Resumption (16 R389). -/

/-- The cores have no swap in progress, and their shadow banks are free. -/
def bankFree (m : Mach) (cores : List Nat) : Bool := cores.all (fun c => (coreOf m c).swapUntil.isNone && !(coreOf m c).copying)

def resumptionDue (s : State) (team : Nat) : Bool :=
  let t := teamOf s.m team
  match t.susp with
  | .out => bankFree s.m (teamCores s.env.sys t)
  | .resuming tm => decide (tm ≤ s.clk.now) && !s.m.prem.any (fun p => decide (p.tm ≤ s.clk.now))
  | _ => false

/-- The image is filled into the shadow bank and a signal sent; the teams that stand on the cores are swapped out by it, unless one has no image. -/
def startResumption (e : Env) (m : Mach) (team : Nat) : Mach :=
  let cores := teamCores e.sys (teamOf m team)
  let m1 := preempt e m cores
  match m1.prem.getLast? with
  | some p => if m1.prem.length = m.prem.length then m1 else updTeam m1 team (fun t => { t with susp := .resuming p.tm })
  | none => m1

/-- Swapped in: the groups stand as their image says. -/
def swapIn (e : Env) (m : Mach) (team : Nat) : Mach :=
  updTeam (readImage e m team) team (fun t => { t with susp := .swapped })

/-- TEAM_RESUMPTION (16 R389). -/
def execTeamResumption (team : Nat) (s : State) :=
  ev (resumptionDue s team) "TEAM_RESUMPTION"
    (s.mapM (fun e m => match (teamOf m team).susp with | .out => startResumption e m team | _ => swapIn e m team))

/-- Tiles return and the copy-back begins once the displaced context has been spilled. -/
def beginCopyBack (e : Env) (m : Mach) : Mach :=
  m.teams.foldl (fun m (k, t) =>
    if t.susp == .swapped && (teamCores e.sys t).all (fun c => !(coreOf m c).copying) then
      updTeam (fillTiles e m k) k (fun t => { t with susp := .copyback (e.now + copyClocks t.spsz) })
    else m) m

def backDue (s : State) (team : Nat) : Bool := match (teamOf s.m team).susp with | .copyback tm => decide (tm ≤ s.clk.now) | _ => false

/-- The slice is the home again; RDR and IMGP clear. -/
def backState (team : Nat) (s : State) : State :=
  let t := teamOf s.m team
  { s.mapM (fun e m => updTeam (moveRanges m ((allocRanges e m t).map (fun (a, b, n) => (b, a, n)))) team (fun t => { t with susp := .no })) with
    sys := t.marks.foldl (fun sys (k, _) => clearRdr sys t.part k) s.sys }

/-- COPY_BACK_COMPLETE (16 R389). -/
def execCopyBackComplete (team : Nat) (s : State) := ev (backDue s team) "COPY_BACK_COMPLETE" (backState team s)

/-! What the monitor writes for a team (16 R378, R383; 19 R430; 18 R404). -/

/-- The team that holds a control entry. -/
def teamOfEntry (m : Mach) (k : Nat) : Option Nat := (m.teams.find? (fun (_, t) => t.ent == k && (entOf m k).v)).map (·.1)

/-- FCAL_REPLY (16 R383): the value goes to the oldest call of the group that waits. -/
def replyDo (entry gi : Nat) (x : Word) (e : Env) (m : Mach) : Mach :=
  match teamOfEntry m entry with
  | none => m
  | some k =>
    match (teamOf m k).fcalOut.find? (fun (g, _) => (grpOf m g).gteam == gi) with
    | none => m
    | some (g, dst, who, toks) =>
      let m1 := updTeam m k (fun t => { t with fcalOut := t.fcalOut.filter (fun y => !(y.1 == g && y.2.2.1 == who)) })
      pushLand { m1 with serial := m1.serial + 1 } { tm := e.now + 1, wr := (match dst with | .s _ => wrReg { logCtx g 0 0 with sn := m1.serial } .n32 dst x.toNat | _ => []), tok := toks, wake := who }

def execFcalReply (die team g : Nat) (value : BitVec 32) (s : State) : Host.Outcome State Fault Refusal :=
  .next (s.mapM (fun e m => if die < 4 then replyDo team g value e m else m))

/-- INVALIDATION_START (18 R404): the invalidation register of a die is written; entries of the partition within reach of the die are then dropped, and walks start again. -/
def execInvalidationStart (die : Nat) (addr : BitVec 64) (pages reach part : Nat) (s : State) : Host.Outcome State Fault Refusal :=
  .next (s.mapM (fun e m => updDie (startInval e m die part (addr.toNat % 2 ^ 56 / 4096 * 4096) pages reach) die
    (fun d => { d with invAddr := addr.toNat, invArg := pages + reach * 2 ^ 24 + part * 2 ^ 28 })))

/-- Threads held by `park` go on in handler mode. -/
def releaseParked (team : Nat) (m : Mach) : Mach :=
  eachOfTeam team (fun t => if t.st == .heldPark then { t with st := if (teamOf m team).susp == .inPlace then .heldStop else .handler } else t) m

/-- PARK_RELEASE (16 R378). -/
def execParkRelease (team : Nat) (s : State) : Host.Outcome State Fault Refusal := .next (s.mapM (fun _ m => releaseParked team m))

/-- A nonzero base completes a suspension in place as a swap-out: the threads leave HELD, and issue nothing before the signal arrives. -/
def imgbDo (team base : Nat) (e : Env) (m : Mach) : Mach :=
  let m1 := updEnt m (teamOf m team).ent (fun en => { en with imgb := base })
  if base ≠ 0 && (teamOf m1 team).susp == .inPlace then
    let stopped := (entOf m1 (teamOf m1 team).ent).stopped
    let go := fun (t : Thread) => { (if t.hm || !stopped then unholdThr t else t) with readyAt := e.now + bsnPkg + 1 }
    let m2 := updTeam (eachOfTeam team go m1) team (fun t => { t with susp := .no })
    let m3 := preempt e m2 (teamCores e.sys (teamOf m2 team))
    if m3.prem.length = m1.prem.length then { m1 with dies := m3.dies } else m3
  else m1

/-- IMGB_WRITE (19 R430). -/
def execImgbWrite (team : Nat) (value : BitVec 56) (s : State) : Host.Outcome State Fault Refusal :=
  .next (s.mapM (imgbDo team (value.toNat / 65536 * 65536)))

end Sys2Proof.Machine
end

