-- ==== Sys2Proof/Machine/EvGrid.lean ====
section
/-! DEFINITION. Grids and teams: resources, placement, the start and the end of teams (spec/14 R341 to R343, 02 R50, 19 R430, 01 R16, R26). -/
namespace Sys2Proof.Machine
open Sys2Proof

/-! Fields of a LAUNCH packet (14 R341). -/

def lpf (lp : List Nat) (hi lo : Nat) : Nat := bitsOf (wordsNat lp) hi lo

/-- Role records: groups and budget. -/
def lpRoles (lp : List Nat) : List (Nat × Nat) :=
  (List.range (lpf lp 313 312 + 1)).map (fun r => (lpf lp (320 + 32 * r + 7) (320 + 32 * r) + 1, 8 * lpf lp (320 + 32 * r + 12) (320 + 32 * r + 8)))

/-- Role and budget of each group of a team, in group order. -/
def lpGroups (lp : List Nat) : List (Nat × Nat) := (lpRoles lp).zipIdx.flatMap (fun ((n, b), r) => List.replicate n (r, b))

def lpShare (lp : List Nat) (lb : Nat) : Nat := lpf lp (271 + 16 * lb) (256 + 16 * lb)
def lpQrec (lp : List Nat) (k : Nat) : Nat := lpf lp (448 + 32 * k + 31) (448 + 32 * k)
def lpRing (lp : List Nat) (k : Nat) : Nat := lpf lp (704 + 16 * k + 15) (704 + 16 * k)

/-- Marks of a placement-map entry with nonzero counts (14 R342). -/
def mapMarks (en : Nat) : List (Nat × Nat) :=
  ((List.range 4).map (fun k => (bitsOf en (12 * k + 11) (12 * k), bitsOf en (53 + 6 * k) (48 + 6 * k)))).filter (fun x => x.2 != 0)

def mapAlt (en : Nat) : Bool := bitOf en 72

/-! Resources of a core (14 R343). -/

/-- Teams that hold resources of a core, with their keys. -/
def holders (e : Env) (m : Mach) (core : Nat) : List (Nat × Team) := m.teams.filter (fun (_, t) => resident t && (teamCores e.sys t).contains core)

/-- Share of a team on a lane of a lane-block of a core: it returns when the last thread of the team on that lane exits (11 R325); a standing team keeps it while it lives (02 R50). -/
def shareOn (e : Env) (m : Mach) (k : Nat) (t : Team) (core lb lane : Nat) : Nat :=
  if t.occ.contains (2 * (teamCores e.sys t).idxOf core + lb)
      && (t.standing || (teamGroups m k).any (fun (_, gr) => gr.core == core && gr.gi / 24 == lb && live (lget gr.th lane goneThread)))
  then lget t.sh lb 0 else 0

/-- Lane shares, tiles and scratchpad range are free on a core. -/
def resFree (e : Env) (m : Mach) (core : Nat) (lbs sh : List Nat) (tiles spoff spsz : Nat) : Bool :=
  let hs := holders e m core
  lbs.all (fun lb => (List.range 32).all (fun l => decide (sumL (hs.map (fun (k, t) => shareOn e m k t core lb l)) + lget sh lb 0 ≤ 1024)))
    && hs.all (fun (_, t) => t.tiles &&& tiles == 0 && !overlaps t.spoff t.spsz spoff spsz)
    && !(coreOf m core).copying && (coreOf m core).swapUntil.isNone && !(coreOf m core).isol

/-- The lowest free team control entry (19 R430). -/
def freeEntry (m : Mach) : Option Nat := (List.range 4096).find? (fun k => !(entOf m k).v)

/-- Lane-block and slot of each group on a core (14 R342); none when a slot is missing. -/
def slotsFor (alt : Bool) : Nat → Nat → List Nat → List Nat → Option (List (Nat × Nat))
  | _, 0, _, _ => some []
  | i, n + 1, f0, f1 =>
    if (if alt then i % 2 == 1 else f0.isEmpty) then
      match f1 with
      | [] => none
      | s :: r => (slotsFor alt (i + 1) n f0 r).map (fun l => (1, s) :: l)
    else
      match f0 with
      | [] => none
      | s :: r => (slotsFor alt (i + 1) n r f1).map (fun l => (0, s) :: l)

/-- Free slots of a lane-block in order. -/
def freeSlots (m : Mach) (core lb : Nat) : List Nat :=
  (List.range 24).filter (fun s => !m.groups.any (fun (g, gr) => gr.core == core && gr.gi == 24 * lb + s && slotHeld m g gr))

/-- Budgets of the groups on a lane-block. -/
def useOn (lb : Nat) (l : List ((Nat × Nat) × (Nat × Nat))) : Nat := sumL (l.map (fun ((b, _), (_, bud)) => if b = lb then bud else 0))

/-- The place of one core's groups, when it has the resources. -/
def placeCoreGroups (e : Env) (m : Mach) (lp : List Nat) (alt : Bool) (core : Nat) (gs : List (Nat × Nat)) : Option (List (Nat × Nat)) :=
  match slotsFor alt 0 gs.length (freeSlots m core 0) (freeSlots m core 1) with
  | none => none
  | some l =>
    let z := l.zip gs
    let lbs := (List.range 2).filter (fun lb => l.any (fun x => x.1 == lb))
    if lbs.all (fun lb => decide (useOn lb z ≤ lpShare lp lb)) && resFree e m core lbs [lpShare lp 0, lpShare lp 1] (lpf lp 255 240) (256 * lpf lp 299 288) (256 * lpf lp 311 300)
    then some l else none

/-- Cores of an entry with the index of the core and the index of its first group. -/
def entryCores (e : Env) (part en : Nat) : List (Nat × Nat × Nat × Nat) :=
  ((mapMarks en).foldl (fun (acc : List (Nat × Nat × Nat × Nat) × Nat) (mk, n) => (acc.1 ++ [((placeCore e.sys part mk).getD 576, acc.1.length, acc.2, n)], acc.2 + n)) ([], 0)).1

/-- One group of a team to be: core, index of the core, group index in the team, lane-block, slot. -/
structure GPlan where
  core : Nat
  mix : Nat
  gteam : Nat
  lb : Nat
  slot : Nat

/-- The groups of one core of an entry, placed. -/
def planCore (e : Env) (m : Mach) (lp : List Nat) (en : Nat) (x : Nat × Nat × Nat × Nat) : Option (List GPlan) :=
  let (c, i, first, n) := x
  if 576 ≤ c then none
  else (placeCoreGroups e m lp (mapAlt en) c (((lpGroups lp).drop first).take n)).map (fun (l : List (Nat × Nat)) =>
    l.zipIdx.map (fun ((lb, s), j) => { core := c, mix := i, gteam := first + j, lb := lb, slot := s }))

/-- The placement of a team now, when every core has what it needs. -/
def planTeam (e : Env) (m : Mach) (part : Nat) (lp : List Nat) (en : Nat) : Option (List GPlan) :=
  ((entryCores e part en).mapM (planCore e m lp en)).map List.flatten

/-! Teams that wait (14 R343). -/

/-- Cores that the next `n` waiting teams of an entry need; all teams of a grid begin to wait together. -/
def waitCores (s : State) (n : Nat) (w : WaitTeam) : List Nat :=
  match w.grid, w.graph with
  | some g, _ => (match tget s.m.grids g with
    | some gr => ((gr.maps.drop gr.started).take n).flatMap (fun en => (entryCores s.env gr.part en).map (·.1))
    | none => [])
  | none, some (g, mk) => (placeCore s.sys (graphOf s.m g).part mk).toList
  | none, none => []

/-- No team that began to wait earlier waits on one of its cores. -/
def waitTurn (s : State) (k : Nat) : Bool :=
  match s.sys.waiting[k]? with
  | some w => (s.sys.waiting.take k).all (fun x => (waitCores s 65535 x).all (fun c => !(waitCores s 1 w).contains c))
  | none => false

/-- Writes the header of a hand queue: CAP, ALLOW = CAP, nothing in it (14 R341, 03 R100). -/
def initQueue (e : Env) (m : Mach) (team : Nat) (lp : List Nat) (k : Nat) : Mach :=
  let sa := queueAt e m team k
  let cap := bitsOf (lpQrec lp k) 15 8
  storeAt m sa (toBytes 16 (putBits (putBits (putBits (putBits (readNat m sa 16) 119 112 cap) 111 104 cap) 103 96 0) 63 0 0)) false

/-- What a core takes over for a team: TC of its tiles at reset, a fresh code cache (06 R163). -/
def initCore (tiles : Nat) (m : Mach) (core : Nat) : Mach :=
  updClus (updCore m core (fun c => { c with tc := c.tc.zipIdx.map (fun (x, i) => if bitOf tiles i then tcReset else x) })) (clusterOf core) (fun c => { c with code := [] })

/-- Takes a control entry for a team. -/
def takeEntry (m : Mach) (k part mark : Nat) : Mach := updEnt m k (fun _ => { Entry.initial with part := part, smark := mark, v := true })

/-- The clock that a launch brings to a core: what the Front End has received, and what the core's die has (04 R116). -/
def launchKnow (m : Mach) (core : Nat) : List Nat := vcMerge (dieOf m 0).vc (dieOf m (coreDie core)).vc

/-- A group of a grid's team, as R341 starts it; its threads know what has happened before the launch. -/
def planGroup (lp : List Nat) (scal : List Word) (team now : Nat) (m : Mach) (p : GPlan) : Mach :=
  let (role, bud) := lget (lpGroups lp) p.gteam (0, 0)
  let s := List.replicate 8 (0 : Word) ++ scal
  let th := { Thread.launch (lpf lp 119 64) bud now with know := launchKnow m p.core }
  let gr := Group.launch p.core (24 * p.lb + p.slot) team p.gteam role (List.replicate 32 th) (s ++ List.replicate (96 - s.length) 0) now
  { updDie m (coreDie p.core) (fun d => { d with vc := launchKnow m p.core }) with groups := tset m.groups (newKey m p.core (24 * p.lb + p.slot)) { gr with mix := p.mix } }

/-- The team of a grid. -/
def gridTeam (gid : Nat) (g : Grid) (en ent : Nat) (plan : List GPlan) : Team :=
  { goneTeam with
    part := g.part, grid := some gid, graph := if lpf g.lp 231 231 = 1 then some (lpf g.lp 229 224) else none, tix := g.started, marks := mapMarks en, ngrp := plan.length,
    ent := ent, sh := [lpShare g.lp 0, lpShare g.lp 1], tiles := lpf g.lp 255 240, spoff := 256 * lpf g.lp 299 288, spsz := 256 * lpf g.lp 311 300, polb := lpf g.lp 183 128,
    qrec := (List.range 8).map (lpQrec g.lp), qmask := lpf g.lp 223 216, qhd := List.replicate 8 0, bars := List.replicate 4 BarSt.initial, occ := (plan.map (fun p => 2 * p.mix + p.lb)).eraseDups }

/-- The start of a team: entry, groups, hand queues, rings (14 R341). -/
def startTeam (e : Env) (m : Mach) (gid : Nat) (g : Grid) (en ent : Nat) (plan : List GPlan) : Mach :=
  let k := m.serial
  let t := gridTeam gid g en ent plan
  let m1 := takeEntry { m with serial := m.serial + 1, teams := tset m.teams k t, grids := tupd m.grids gid (fun g => { g with started := g.started + 1 }) } ent g.part ((t.marks.headD (0, 0)).1)
  let m2 := (plan.map (·.core)).eraseDups.foldl (fun m c =>
    updCore (initCore t.tiles m c) c (fun x => { x with ring := (List.range 8).map (fun i => BitVec.ofNat 32 (lpRing g.lp i)) })) m1
  let m3 := plan.foldl (planGroup g.lp g.scal k e.now) m2
  ((List.range 8).filter (bitOf t.qmask)).foldl (fun m q => initQueue e m k g.lp q) m3

/-- The waiting team of a grid with its placement. -/
def startable (s : State) (k : Nat) : Option (Nat × Grid × Nat × Nat × List GPlan) :=
  match s.sys.waiting[k]?.bind (·.grid) with
  | none => none
  | some gid =>
    match tget s.m.grids gid, freeEntry s.m with
    | some g, some ent => (planTeam s.env s.m g.part g.lp (lget g.maps g.started 0)).map (fun p => (gid, g, lget g.maps g.started 0, ent, p))
    | _, _ => none

def teamStartDue (s : State) (k : Nat) : Bool := waitTurn s k && (startable s k).isSome

def teamStartDo (k : Nat) (s : State) : State :=
  match startable s k with
  | none => s
  | some (gid, g, en, ent, plan) =>
    let s1 := { s with m := startTeam s.env s.m gid g en ent plan }
    if g.started + 1 < g.nteam then s1 else { s1 with sys := { s1.sys with waiting := s1.sys.waiting.eraseIdx k } }

/-- Place of the team that starts next among those that wait. -/
def nextStart (s : State) : Option Nat := (List.range s.sys.waiting.length).find? (teamStartDue s)

/-- TEAM_START (14 R343). -/
def execTeamStart (s : State) := ev (nextStart s).isSome "TEAM_START" (teamStartDo ((nextStart s).getD 0) s)

/-! Standing teams (02 R50). -/

/-- The standing-team record of a graph stands after its table entry. -/
def staf (gr : Graph) (hi lo : Nat) : Nat := bitsOf (wordsNat (gr.entry.drop 16)) hi lo

def standingTeam (g : Nat) (gr : Graph) (mk ent : Nat) : Team :=
  { goneTeam with
    part := gr.part, graph := some g, standing := true, marks := [(mk, 1)], ent := ent, sh := [staf gr 143 128, staf gr 159 144], tiles := staf gr 199 184,
    spoff := 256 * staf gr 171 160, spsz := 256 * staf gr 183 172, polb := staf gr 255 200, bars := List.replicate 4 BarSt.initial, occ := [0, 1] }

/-- Graph, mark, core and entry of a standing team that can be formed. -/
def formable (s : State) (k : Nat) : Option (Nat × Nat × Nat × Nat) :=
  match s.sys.waiting[k]?.bind (·.graph) with
  | none => none
  | some (g, mk) =>
    let gr := graphOf s.m g
    match placeCore s.sys gr.part mk, freeEntry s.m with
    | some c, some ent =>
      if resFree s.env s.m c [0, 1] [staf gr 143 128, staf gr 159 144] (staf gr 199 184) (256 * staf gr 171 160) (256 * staf gr 183 172) then some (g, mk, c, ent) else none
    | _, _ => none

def standingDue (s : State) (k : Nat) : Bool := waitTurn s k && (formable s k).isSome

/-- The team is formed; with the last one the graph's Catalogues may choose. -/
def standingDo (k : Nat) (s : State) : State :=
  match formable s k with
  | none => s
  | some (g, mk, c, ent) =>
    let t := standingTeam g (graphOf s.m g) mk ent
    let w := s.sys.waiting.eraseIdx k
    let m1 := initCore t.tiles (takeEntry { s.m with serial := s.m.serial + 1, teams := tset s.m.teams s.m.serial t } ent t.part mk) c
    { s with
      sys := { s.sys with waiting := w }
      m := updGraph m1 g (fun gr => { gr with teams := gr.teams ++ [s.m.serial], starting := w.any (fun x => x.graph.any (fun y => y.1 == g)) }) }

/-- Place of the standing team that is formed next. -/
def nextFormed (s : State) : Option Nat := (List.range s.sys.waiting.length).find? (standingDue s)

/-- STANDING_TEAM_FORMED (02 R50). -/
def execStandingTeamFormed (s : State) := ev (nextFormed s).isSome "STANDING_TEAM_FORMED" (standingDo ((nextFormed s).getD 0) s)

/-! Ends (01 R16, 19 R430). -/

/-- A team whose last thread has ended frees its control entry; a standing team ends when its graph has stopped and no group of it is left (02 R50). -/
def teamOver (m : Mach) (k : Nat) (t : Team) : Bool :=
  !t.gone && (teamGroups m k).all (fun (_, gr) => !liveGrp gr && gr.disp.isNone)
    && (!t.standing || t.graph.all (fun g => !(graphOf m g).running))

def endTeams (m : Mach) : Mach :=
  m.teams.foldl (fun m (k, t) =>
    if teamOver m k t then updTeam (updEnt m t.ent (fun en => { en with v := false })) k (fun t => { t with gone := true, susp := .no, stopAt := none, resumeAt := none, claims := [] }) else m) m

/-- Something still refers to a group: results and messages on their way, updates of its slot, copies, passes, its dispatch. -/
def groupRefs (m : Mach) (g : Nat) (gr : Group) : Bool :=
  gr.disp.isSome || !gr.ab.isEmpty || flushing m g || m.pending.any (fun l => (landGroups l).contains g) || m.ops.any (fun (_, o) => (landGroups o.land).contains g)
    || m.flight.any (fun x => x.thr.any (fun r => r.g == g) || (match x.body with | .atom _ _ _ _ _ k _ _ _ => k == g | _ => false))
    || m.copies.any (fun (_, c) => c.g == g || c.after.any (fun x => x.1.g == g))
    || m.clusters.any (fun (_, c) => c.table.any (fun q => q.g == g) || c.granted.any (fun (q, _) => q.g == g) || c.fwait.any (fun x => x.who.any (fun r => r.1.g == g)))
    || m.cur.any (fun c => c.g == g) || (teamOf m gr.team).chans.any (fun (_, c) => c.slices.any (fun s => s.1 == g))

/-- Groups that have ended and that nothing refers to are forgotten, and so are teams that have ended. -/
def forget (m : Mach) : Mach :=
  let m1 := m.groups.foldl (fun m (g, gr) =>
    if !liveGrp gr && !groupRefs m g gr then updTeam { m with groups := tdel m.groups g } gr.team (fun t => if t.standing then { t with ngrp := t.ngrp - 1 } else t) else m) m
  { m1 with teams := m1.teams.filter (fun (k, t) => !(t.gone && (teamGroups m1 k).isEmpty && !m1.copies.any (fun (_, c) => c.team == k))) }

/-- A write of the grid's threads that no home has performed yet: on its way, or still in an atomic-buffer slot. -/
def gridWrites (m : Mach) (k : Nat) : Bool :=
  m.flight.any (fun x => x.wr && x.thr.any (fun r => !isCtl r && (teamOf m (grpOf m r.g).team).grid == some k))
    || m.groups.any (fun (_, gr) => !gr.ab.isEmpty && (teamOf m gr.team).grid == some k)

/-- Every team has started and ended, and every effect of its threads has been performed, with those of the engine threads that they forked when a launch node started the grid (15 R356). DEDUCED: a grid of a LAUNCH packet completes with its last exit and the writes before it, for its completion is a release of them (14 R339). -/
def gridOver (m : Mach) (k : Nat) (g : Grid) : Bool :=
  !g.comp && g.started == g.nteam && m.teams.all (fun (_, t) => t.grid != some k || t.gone) && !gridWrites m k
    && !(g.node && m.copies.any (fun (_, c) => (teamOf m c.team).grid == some k))

def gridDue (s : State) (k : Nat) : Bool := (tget s.m.grids k).any (gridOver s.m k)

/-- GRID_COMPLETE (01 R16). -/
def execGridComplete (grid : Nat) (s : State) :=
  ev (gridDue s grid) "GRID_COMPLETE" (s.mapM (fun _ m => { m with grids := tupd m.grids grid (fun g => { g with comp := true }) }))

end Sys2Proof.Machine
end

