-- ==== Sys2Proof/Machine/EvFrontEnd.lean ====
section
/-! DEFINITION. Host queues and their packets (spec/14 R335 to R345, R348 to R351; 02 R47, R50). -/
namespace Sys2Proof.Machine
open Sys2Proof

/-! Time slices (14 R348). -/

/-- The slice of a partition's scheduler, of 1,024 clocks until its length is set. -/
def sliceOfPart (sys : Sys) (p : Nat) : TimeSlice := (tget sys.slice p).getD { len := 1024, cur := 0, ends := 0, due := 0 }

/-- The scheduler serves a queue (0 to 63) or task graph (64 up) now, at a level that serves (19 R417). -/
def serving (s : State) (p item : Nat) : Bool :=
  decide (2 ≤ s.sys.dev.level) && (sliceOfPart s.sys p).cur == item && decide ((sliceOfPart s.sys p).due ≤ s.clk.now)

/-- The step takes clocks that the spec leaves open. -/
def spend (p least : Nat) (s : State) : State :=
  { s with
    sys := { s.sys with slice := tset s.sys.slice p { sliceOfPart s.sys p with due := s.clk.now + least + Config.stepTime s.m.free % 2 ^ 16 } }
    m := { s.m with free := s.m.free + 1 } }

/-! Reading packets (14 R335 to R338). -/

def queueOfNo (sys : Sys) (q : Nat) : Queue := (tget sys.queues q).getD Queue.initial

def updQueue (s : State) (q : Nat) (f : Queue → Queue) : State := { s with sys := { s.sys with queues := tset s.sys.queues q (f (queueOfNo s.sys q)) } }

/-- The queue is enabled, served and not stopped (14 R335, 18 R405). -/
def queueOn (x : Queue) : Bool := x.run && x.fault == 0 && decide (6 ≤ x.qlog) && decide (x.qlog ≤ 20) && decide (x.part < 16)

/-- Address of word `i` from the next packet on: in the innermost buffer, or in the ring. -/
def pktAddr (x : Queue) (i : Nat) : Nat :=
  match x.bufs with
  | [] => x.qbase % 2 ^ 56 + 8 * ((x.qhead.toNat + i) % 2 ^ x.qlog)
  | (a, _, _) :: _ => a + 8 * i

/-- Words that stand to be read. -/
def pktAvail (x : Queue) : Nat :=
  match x.bufs with
  | [] => (x.qtail - x.qhead).toNat
  | (_, n, _) :: _ => n

def hType (h : Nat) : Nat := bitsOf h 7 0
def hLen (h : Nat) : Nat := bitsOf h 31 16
def hArg (h : Nat) : Nat := bitsOf h 63 32

/-- Every earlier packet has completed, but for those whose buffers contain this one (14 R336). -/
def ordOk (x : Queue) (h : Nat) : Bool := !bitOf h 9 || x.pkts.all (fun p => x.bufs.any (fun b => b.2.2 == p.id))

/-- Operations of a GRAPH packet (14 R345). -/
def graphOp (op : Nat) : Bool := decide (op ≤ 4) || op == 8 || op == 9

/-- ILLPKT from the header (14 R336, R337). -/
def hdrBad (h : Nat) : Bool :=
  let a := hArg h
  bitsOf h 15 10 != 0 ||
  match hType h with
  | 0 | 1 | 2 => a != 0
  | 3 => decide (2048 ≤ a)
  | 4 => decide (6 ≤ a)
  | 5 => a == 0
  | 6 => bitsOf a 31 14 != 0 || bitsOf a 7 4 != 0 || !graphOp (bitsOf a 3 0)
  | 7 | 8 => decide (64 ≤ a)
  | _ => true

/-- PKTLEN from the header. -/
def lenBad (h : Nat) : Bool :=
  match hType h with
  | 0 => hLen h == 0
  | 1 => decide (hLen h < 16)
  | 2 | 3 | 4 => hLen h != 3
  | 5 => hLen h != 2
  | 6 => hLen h != (if bitsOf (hArg h) 3 0 = 0 || bitsOf (hArg h) 3 0 = 8 then 2 else 1)
  | 7 => decide (hLen h < 3)
  | _ => hLen h != 1

/-- PKTLEN from the body. -/
def bodyLenBad (h : Nat) (ws : List Nat) : Bool :=
  match hType h with
  | 1 => hLen h != 16 + (lpf ws 239 232 + 1) / 2
  | 7 => hLen h != 1 + 2 * (bitsOf (lget ws 1 0) 23 20 + 1)
  | _ => false

/-- ILLPKT from the body: an address that is not aligned. -/
def bodyBad (h : Nat) (ws : List Nat) : Bool :=
  match hType h with
  | 2 | 3 | 4 | 5 => lget ws 1 0 % 8 != 0
  | _ => false

/-- The row that a packet takes: its type, 96 + op for GRAPH, 0 for what is not listed. -/
def rowOf (h : Nat) : Nat := if hType h = 6 then (if graphOp (bitsOf (hArg h) 3 0) then 96 + bitsOf (hArg h) 3 0 else 0) else if hType h ≤ 8 then hType h else 0

/-- The next packet: its row with its words, or the FAULT and DETAIL that stop the queue at it; none when nothing may start. -/
def peek (s : State) (q : Nat) : Option (Nat × Except (Nat × Nat) (List Nat)) :=
  let x := queueOfNo s.sys q
  if !queueOn x || pktAvail x == 0 then none
  else match agentNat s.env s.m x.part (pktAddr x 0) 8 with
    | .error c => some (0, .error (c, 0))
    | .ok h =>
      if !ordOk x h then none
      else if hdrBad h then some (rowOf h, .error (1, hType h))
      else if hType h == 5 && x.bufs.length == 4 then some (5, .error (2, 4))
      else if lenBad h then some (rowOf h, .error (3, hType h))
      else if pktAvail x < hLen h then (if x.bufs.isEmpty then none else some (rowOf h, .error (3, hType h)))
      else match (List.range (hLen h)).mapM (fun i => agentNat s.env s.m x.part (pktAddr x i) 8) with
        | .error c => some (rowOf h, .error (c, hType h))
        | .ok ws =>
          if bodyLenBad h ws then some (rowOf h, .error (3, hType h))
          else if bodyBad h ws then some (rowOf h, .error (1, hType h))
          else some (rowOf h, .ok ws)

/-- A row of the packet table may be taken. -/
def pktDue (s : State) (q row : Nat) : Bool := serving s (queueOfNo s.sys q).part q && (peek s q).any (fun x => x.1 == row)

/-- The queue stops at a packet that has not started: QHEAD stands at the top-level packet that contains it (14 R337, R338). -/
def stopAtPkt (x : Queue) (f d : Nat) : Queue :=
  if x.bufs.isEmpty then { x with fault := f, detail := d }
  else { x with
    fault := f, detail := d, qhead := x.topHead, bufs := [], tops := x.tops - 1
    pkts := x.pkts.filter (fun p => !x.bufs.any (fun b => b.2.2 == p.id)) }

/-- The queue stops at a packet that has started (14 R337). -/
def stopPast (x : Queue) (id f d step : Nat) : Queue := { x with fault := f, detail := d, step := step, pkts := x.pkts.filter (fun p => p.id != id) }

/-- Moves past a packet. -/
def pass (x : Queue) (n : Nat) : Queue :=
  match x.bufs with
  | [] => { x with topHead := x.qhead, qhead := x.qhead + BitVec.ofNat 32 n, tops := x.tops + 1 }
  | (a, k, id) :: r => { x with bufs := (a + 8 * n, k - n, id) :: r }

/-- The packet waits at a resumption point: a LAUNCH for its grid, a WAIT, an INPUT for a pool slot (14 R348). -/
def resumes (ws : List Nat) (ref : Nat) : Bool := hType (lget ws 0 0) == 1 || hType (lget ws 0 0) == 4 || (hType (lget ws 0 0) == 7 && ref == 0)

/-- Starts a packet: its number in the queue's list is the serial. STEP receives the index of a step that is a resumption point (14 R348). -/
def startPkt (s : State) (q : Nat) (ws : List Nat) (step ref : Nat) : State :=
  let s1 := updQueue s q (fun x => let y := pass x ws.length; { y with
    step := if resumes ws ref then step else y.step, pkts := y.pkts ++ [{ id := s.m.serial, words := ws, top := x.tops, lvl := x.bufs.length, parent := ((x.bufs.head?).map (·.2.2)).getD 0, step := step, ref := ref }] })
  { s1 with m := { s1.m with serial := s1.m.serial + 1 } }

/-- A packet at the ring's own level completes: the count of those completed with all before them (14 R339). -/
def countTop (x : Queue) (i : Nat) : Queue :=
  let l := x.doneTops ++ [i]
  let n := ((List.range l.length).takeWhile (fun k => l.contains (x.count + k))).length
  { x with count := x.count + n, doneTops := l.filter (fun k => decide (x.count + n ≤ k)) }

/-- Address of the completion word; 0 for none (14 R335). -/
def qdAddr (x : Queue) : Nat := x.qdadr % 2 ^ 56 / 8 * 8

/-- Completes a packet: its event, its count, and a completion word that is due. -/
def finishPkt (s : State) (q : Nat) (p : Pkt) : State :=
  let x := queueOfNo s.sys q
  let sys := if bitOf (lget p.words 0 0) 8 then countEvent s.sys x.vec s.clk.now else s.sys
  updQueue { s with sys := sys } q (fun x =>
    let y := { x with pkts := x.pkts.filter (fun r => r.id != p.id), owed := if qdAddr x = 0 then 0 else x.owed + 1 }
    if p.lvl = 0 then countTop y p.top else y)

/-- Starts a packet that completes at once. -/
def startDone (s : State) (q : Nat) (ws : List Nat) : State :=
  let s1 := startPkt s q ws 0 0
  match (queueOfNo s1.sys q).pkts.getLast? with
  | some p => finishPkt s1 q p
  | none => s1

/-- Takes the next packet of a queue. -/
def runRow (f : Nat → List Nat → State → Except (Nat × Nat) State) (q : Nat) (s : State) : State :=
  let p := (queueOfNo s.sys q).part
  match peek s q with
  | some (_, .error (c, d)) => spend p 0 (updQueue s q (fun x => stopAtPkt x c d))
  | some (_, .ok ws) =>
    (match f q ws s with
     | .error (c, d) => spend p 0 (updQueue s q (fun x => stopAtPkt x c d))
     | .ok s1 => spend p 0 s1)
  | none => s

def partOfQueue (s : State) (q : Nat) : Nat := (queueOfNo s.sys q).part

/-- A store of the Front End of die 0, release at system scope. -/
def feStore (s : State) (sa v : Nat) : State :=
  { s with m := send s.env s.m (feHome 0) (homeOf sa) false none [] 4 false true true 0 (.store [(sa, toBytes 8 v)] false false) }

/-- The message has been performed. -/
def performedMsg (m : Mach) (id : Nat) : Bool := !m.flight.any (fun x => x.id == id)

/-! Registers of a queue (14 R335, 19 R417). -/

/-- At level MONITOR a queue that would be served is refused. -/
def refuseLow (s : State) (x : Queue) : Queue := if s.sys.dev.level < 2 && x.run && x.fault == 0 then { x with fault := 7, detail := 0 } else x

/-- QTAIL_DOORBELL (14 R335). -/
def execQtailDoorbell (q : Nat) (value : BitVec 32) (s : State) : Host.Outcome State Fault Refusal :=
  .next (if s.sys.dev.level = 0 || 64 ≤ q then s else updQueue s q (fun x => refuseLow s { x with qtail := value }))

/-- RUN: a write of 1 clears a FAULT. -/
def runWrite (x : Queue) (run : Bool) : Queue := if run && x.fault != 0 then { x with run := run, fault := 0, detail := 0 } else { x with run := run }

/-- QUEUE_RUN_WRITE (14 R335). -/
def execQueueRunWrite (q : Nat) (run : Bool) (s : State) : Host.Outcome State Fault Refusal :=
  .next (if s.sys.dev.level = 0 || 64 ≤ q then s else updQueue s q (fun x => refuseLow s (runWrite x run)))

/-! Simple packets (14 R337, R338). -/

def nopDo (q : Nat) (ws : List Nat) (s : State) : Except (Nat × Nat) State := .ok (startDone s q ws)

/-- NOP_PACKET (14 R337), and the stop at a packet of no listed type. -/
def execNopPacket (q : Nat) (s : State) := ev (pktDue s q 0) "NOP_PACKET" (runRow nopDo q s)

/-- WRITE and SIGNAL store V at A. -/
def writeDo (q : Nat) (ws : List Nat) (s : State) : Except (Nat × Nat) State :=
  match agentAddr s.env s.m (partOfQueue s q) (lget ws 1 0) 8 1 with
  | .error c => .error (c, hType (lget ws 0 0))
  | .ok sa => .ok (startPkt (feStore s sa (lget ws 2 0)) q ws 0 s.m.serial)

/-- WRITE (14 R337). -/
def execWrite (q : Nat) (s : State) := ev (pktDue s q 2) "WRITE" (runRow writeDo q s)

/-- SIGNAL_PACKET (14 R337). -/
def execSignalPacket (q : Nat) (s : State) := ev (pktDue s q 3) "SIGNAL_PACKET" (runRow writeDo q s)

def waitDo (q : Nat) (ws : List Nat) (s : State) : Except (Nat × Nat) State :=
  match agentNat s.env s.m (partOfQueue s q) (lget ws 1 0) 8 with
  | .error c => .error (c, 4)
  | .ok _ => .ok (startPkt s q ws 0 0)

/-- WAIT_PACKET (14 R337). -/
def execWaitPacket (q : Nat) (s : State) := ev (pktDue s q 4) "WAIT_PACKET" (runRow waitDo q s)

/-- The buffer becomes the innermost. -/
def indirectDo (q : Nat) (ws : List Nat) (s : State) : Except (Nat × Nat) State :=
  match agentNat s.env s.m (partOfQueue s q) (lget ws 1 0) 8 with
  | .error c => .error (c, 5)
  | .ok _ => .ok (updQueue (startPkt s q ws 0 0) q (fun x => { x with bufs := (lget ws 1 0, hArg (lget ws 0 0), s.m.serial) :: x.bufs }))

/-- INDIRECT (14 R338). -/
def execIndirect (q : Nat) (s : State) := ev (pktDue s q 5) "INDIRECT" (runRow indirectDo q s)

def triggerDo (q : Nat) (ws : List Nat) (s : State) : Except (Nat × Nat) State :=
  let s1 := startDone s q ws
  .ok { s1 with sys := triggerTask s1.sys (partOfQueue s q) (hArg (lget ws 0 0)) }

/-- TRIGGER (14 R337). -/
def execTrigger (q : Nat) (s : State) := ev (pktDue s q 8) "TRIGGER" (runRow triggerDo q s)

/-- Conditions of WAIT: eq, ne, lt, le, gt, ge, unsigned. -/
def waitHolds (cc a b : Nat) : Bool := condInt cc a b

/-! INPUT (14 R340). -/

/-- Bytes of a record with the fields that the device fills at zero. -/
def inputRecord (ws : List Nat) : List Byte :=
  let r := (ws.drop 1).flatMap (toBytes 8)
  let h := ofBytes (r.take 16)
  toBytes 16 (putBits (h % 2 ^ 64) 31 24 0) ++ r.drop 16

/-- The graph is loaded by the partition. -/
def graphFor (m : Mach) (part g : Nat) : Option Graph := (tget m.graphs g).filter (fun gr => gr.part == part)

/-- Sends the record from a slot of the home die's pool; none while no slot is free. -/
def sendInput (s : State) (g : Nat) (data : List Byte) : Option State :=
  let gr := graphOf s.m g
  (slotTake gr (gHome gr) (slotSize gr (recKey data / 4096))).map (fun (slot, g1) =>
    { s with m := send s.env (updGraph s.m g (fun _ => g1)) (feHome 0) (catHome (gHome gr)) true none [] 4 false false false 0 (.input g data slot) })

def inputPktDo (q : Nat) (ws : List Nat) (s : State) : Except (Nat × Nat) State :=
  let g := hArg (lget ws 0 0)
  let data := inputRecord ws
  let h := ofBytes (data.take 16)
  match graphFor s.m (partOfQueue s q) g with
  | none => .error (5, 3)
  | some gr =>
    if !inGraph gr (bitsOf h 7 0) (bitsOf h 19 8) || decide (nRsz gr (bitsOf h 7 0) < bitsOf h 23 20) || wgtBad (bitsOf h 63 32) then .error (5, 8)
    else match sendInput s g data with
      | some s1 => .ok (startPkt s1 q ws 0 s.m.serial)
      | none => .ok (startPkt s q ws 0 0)

/-- INPUT (14 R340). -/
def execInput (q : Nat) (s : State) := ev (pktDue s q 7) "INPUT" (runRow inputPktDo q s)

/-- A packet by its number, with its queue. -/
def pktById (s : State) (id : Nat) : Option (Nat × Pkt) :=
  s.sys.queues.findSome? (fun (q, x) => (x.pkts.find? (fun p => p.id == id)).map (fun p => (q, p)))

def slotDue (s : State) (k : Nat) : Bool :=
  match pktById s k with
  | some (q, p) =>
    let g := hArg (lget p.words 0 0)
    hType (lget p.words 0 0) == 7 && p.ref == 0 && serving s (partOfQueue s q) q && queueOn (queueOfNo s.sys q)
      && ((graphFor s.m (partOfQueue s q) g).isNone || (sendInput s g (inputRecord p.words)).isSome)
  | none => false

def slotDo (k : Nat) (s : State) : State :=
  match pktById s k with
  | none => s
  | some (q, p) =>
    let g := hArg (lget p.words 0 0)
    match graphFor s.m (partOfQueue s q) g, sendInput s g (inputRecord p.words) with
    | none, _ => spend (partOfQueue s q) 0 (updQueue s q (fun x => stopPast x k 5 3 p.step))
    | some _, some s1 => spend (partOfQueue s q) 0 (updQueue s1 q (fun x => { x with pkts := x.pkts.map (fun r => if r.id = k then { r with ref := s.m.serial } else r) }))
    | some _, none => s

/-- INPUT_SLOT_FREED (14 R340). -/
def execInputSlotFreed (k : Nat) (s : State) := ev (slotDue s k) "INPUT_SLOT_FREED" (slotDo k s)

/-! LAUNCH (14 R341 to R343). -/

/-- Row 1 of R343, for the packet; the header of a packet that a launch node reads is checked here, that of a queue's packet before (14 R337). -/
def launchMbz (lp : List Nat) (node : Bool) : Bool :=
  let roles := lpRoles lp
  let qs := (List.range 8).filter (bitOf (lpf lp 223 216))
  let qbad := fun (k : Nat) =>
    let r := lpQrec lp k
    bitsOf r 7 4 == 0 || bitsOf r 3 0 == 0 || bitsOf r 15 8 == 0 || decide (64 < bitsOf r 15 8)
      || decide (2 ^ roles.length ≤ bitsOf r 7 4) || decide (2 ^ roles.length ≤ bitsOf r 3 0)
  lpf lp 959 832 != 0 || lpf lp 319 314 != 0 || lpf lp 230 230 != 0 || (List.range 4).any (fun r => lpf lp (320 + 32 * r + 31) (320 + 32 * r + 13) != 0)
    || (List.range 8).any (fun k => bitOf (lpRing lp k) 14)
    || sumL (roles.map (·.1)) != lpf lp 215 208 + 1 || roles.any (fun r => r.2 == 0) || qs.any qbad
    || (List.range 2).any (fun lb => lpShare lp lb % 8 != 0 || decide (1024 < lpShare lp lb)) || lpf lp 191 128 % 131072 != 0
    || decide (32 < lpf lp 239 232) || (node && (hLen (lget lp 0 0) != 16 + (lpf lp 239 232 + 1) / 2 || bitsOf (lget lp 0 0) 15 10 != 0 || hArg (lget lp 0 0) != 0)) || lpf lp 207 192 == 0

/-- Row 5: groups of a core by lane-block as the map alone places them. -/
def row5Bad (lp : List Nat) (en : Nat) : Bool :=
  ((mapMarks en).foldl (fun (acc : Bool × Nat) (_, n) =>
    let bs := ((lpGroups lp).drop acc.2).take n
    let lbOf := fun (i : Nat) => if mapAlt en then i % 2 else if i < 24 then 0 else 1
    let on := fun (lb : Nat) => bs.zipIdx.filter (fun (_, i) => lbOf i == lb)
    (acc.1 || (List.range 2).any (fun lb => decide (24 < (on lb).length) || decide (lpShare lp lb < sumL ((on lb).map (fun x => x.1.2)))), acc.2 + n)) (false, 0)).1

/-- Row 6. -/
def row6Bad (lp : List Nat) : Bool :=
  decide (4096 < lpf lp 299 288 + lpf lp 311 300)
    || ((List.range 8).filter (bitOf (lpf lp 223 216))).any (fun k =>
        decide (256 * lpf lp 311 300 < 16 * bitsOf (lpQrec lp k) 31 16 + 16 + 8 * bitsOf (lpQrec lp k) 15 8))
    || (List.range 8).any (fun k => decide (32768 ≤ lpRing lp k) && decide (2 ^ 20 < 64 * (lpRing lp k % 2 ^ 14) + 64))

/-- Row 7: ENTRY is a legal target; the code of R431 when its line cannot be read. -/
def entryCheck (e : Env) (m : Mach) (part t : Nat) : Except Nat Bool :=
  if !tgtShape t then .ok false
  else match agentAddr e m part (t / 64 * 64) 64 3 with
    | .error c => .error c
    | .ok sa => .ok (lineTgt (lineAt m sa) (t % 8))

/-- The checks of a LAUNCH packet, in order: its map, or FAULT and DETAIL; FAULT 4 is PLACE. -/
def checkLaunch (e : Env) (m : Mach) (part : Nat) (lp : List Nat) (node : Bool) : Except (Nat × Nat) (List Nat) :=
  if launchMbz lp node then .error (4, 1)
  else match (List.range (lpf lp 207 192)).mapM (fun i => (agentRead e m part 3 (lpf lp 1015 960 + 16 * i) 16).map ofBytes) with
    | .error c => .error (c, 1)
    | .ok maps =>
      let marks := fun (en : Nat) => (mapMarks en).map (·.1)
      let core := fun (mk : Nat) => placeCore e.sys part mk
      if maps.any (fun en => decide (2 ^ 73 ≤ en)) then .error (4, 1)
      else if maps.any (fun en => sumL ((mapMarks en).map (·.2)) != lpf lp 215 208 + 1) then .error (4, 2)
      else if !(partOf e.sys part).en || maps.any (fun en => (marks en).any (fun k => (core k).isNone) || !decide ((marks en).Nodup)) then .error (4, 3)
      else if maps.any (fun en => decide (1 < (((marks en).filterMap core).map clusterOf).eraseDups.length)) then .error (4, 4)
      else if maps.any (row5Bad lp) then .error (4, 5)
      else if row6Bad lp then .error (4, 6)
      else match entryCheck e m part (lpf lp 119 64) with
        | .error c => .error (c, 1)
        | .ok true => .ok maps
        | .ok false => .error (4, 7)

/-- A grid whose teams wait to start; `node` says that a launch node starts it. -/
def newGrid (s : State) (part : Nat) (lp maps : List Nat) (node : Bool) : Nat × State :=
  let scal := (List.range (lpf lp 239 232)).map (fun i => BitVec.ofNat 32 (bitsOf (lget lp (16 + i / 2) 0) (32 * (i % 2) + 31) (32 * (i % 2))))
  let cores := maps.flatMap (fun en => (mapMarks en).filterMap (fun x => placeCore s.sys part x.1))
  let g : Grid := { lp := lp, scal := scal, maps := maps, part := part, nteam := maps.length, started := 0, comp := false, res := [0, 0, 0, 0], gbar := BarSt.initial,
                    multi := cores.any (fun c => coreDie c != coreDie (cores.headD 0)), die := coreDie (cores.headD 0), node := node }
  (s.m.serial, { s with
    sys := { s.sys with waiting := s.sys.waiting ++ [{ grid := some s.m.serial, graph := none }] }
    m := { s.m with serial := s.m.serial + 1, grids := tset s.m.grids s.m.serial g } })

def launchPktDo (q : Nat) (ws : List Nat) (s : State) : Except (Nat × Nat) State :=
  match checkLaunch s.env s.m (partOfQueue s q) ws false with
  | .error f => .error f
  | .ok maps => let r := newGrid s (partOfQueue s q) ws maps false; .ok (startPkt r.2 q ws 1 r.1)

/-- LAUNCH (14 R341 to R343). -/
def execLaunch (q : Nat) (s : State) := ev (pktDue s q 1) "LAUNCH" (runRow launchPktDo q s)

/-! Standing graphs (14 R345, R350, R351; 02 R47, R50). -/

/-- A pool of a die lies in its part of its tier and outside the reserved area, and no other graph's pool overlaps it. -/
def poolOk (sys : Sys) (m : Mach) (gr : Graph) (d : Nat) (hbm : Bool) : Bool :=
  let (b, n) := poolOf gr d hbm
  let lo := if hbm then d * 2 ^ 37 else lpddrBase + d * 2 ^ 39
  let hi := if hbm then (d + 1) * 2 ^ 37 - 2 ^ 26 else lpddrBase + (d + 1) * 2 ^ 39 - 2 ^ 28
  n == 0 || (b % 65536 == 0 && decide (lo ≤ b) && decide (b + n ≤ hi) && !inPool m b n && (!hbm || released sys d))

/-- f32: neither negative nor a NaN; poison is a NaN. DESIGN CHOICE: −0 counts as negative, as it does in R54 and R59. -/
def posF (w : Nat) : Bool := !isPoison .f32 w && !isNeg .f32 w

/-- LCON lies in [0, 1), with −0 as the number 0 (02 R47). -/
def lconOk (w : Nat) : Bool := !isPoison .f32 w && (!isNeg .f32 w || w % 2 ^ 31 == 0) && xCmp (decodeF .f32 w).exact (.dy false 1 0 false) == .lt

/-- The checks of R351. -/
def entryOk (sys : Sys) (m : Mach) (g : Nat) (gr : Graph) : Bool :=
  gfield gr 255 250 == 0 && gfield gr 159 152 == 0 && decide (256 ≤ gProbe gr) && decide (1 ≤ gRlog gr) && decide (gRlog gr ≤ 12) && gRing gr % 64 == 0
    && posF (gElim gr) && (List.range (gNodes gr)).all (fun n => nfield gr n 142 137 == g && nBudg gr n != 0)
    && (List.range 4).all (fun d => poolOk sys m gr d true && poolOk sys m gr d false)

/-- Reads a table entry, its descriptors and its standing-team record. -/
def readGraph (e : Env) (m : Mach) (part va : Nat) : Except Nat Graph :=
  match agentRead e m part 3 va 128 with
  | .error c => .error c
  | .ok b =>
    let ws := (List.range 16).map (fun i => ofBytes ((b.drop (8 * i)).take 8))
    let g0 := { goneGraph with part := part, entry := ws }
    match agentRead e m part 8 (gfield g0 55 0) (48 * gNodes g0) with
    | .error c => .error c
    | .ok d =>
      let nodes := (List.range (gNodes g0)).map (fun n => (List.range 6).map (fun i => ofBytes ((d.drop (48 * n + 8 * i)).take 8)))
      .ok { g0 with nodes := nodes, desc := nodes }

def loadDo (q : Nat) (ws : List Nat) (s : State) : Except (Nat × Nat) State :=
  let g := bitsOf (hArg (lget ws 0 0)) 13 8
  if (tget s.m.graphs g).isSome then .error (5, 1)
  else match readGraph s.env s.m (partOfQueue s q) (lget ws 1 0) with
    | .error c => .error (c, 6)
    | .ok gr => if entryOk s.sys s.m g gr then .ok (startDone { s with m := { s.m with graphs := tset s.m.graphs g gr } } q ws) else .error (5, 2)

/-- LOAD_STANDING_GRAPH (14 R345). -/
def execLoadStandingGraph (q : Nat) (s : State) := ev (pktDue s q 96) "LOAD_STANDING_GRAPH" (runRow loadDo q s)

/-- Marks of a node's eligible cores, valid or not. -/
def nodeMarks (gr : Graph) (n : Nat) : List Nat := (List.range (nfield gr n 190 179 + 1)).map (fun i => nfield gr n 202 191 + i)

/-- Start checks of a node (02 R47, R50). -/
def nodeOk (e : Env) (m : Mach) (gr : Graph) (n : Nat) : Bool :=
  let win := nfield gr n 178 159
  let lo := 256 * staf gr 171 160
  posF (nThresh gr n) && (!nLval gr n || lconOk (nfield gr n 287 256))
    && decide (nfield gr n 158 151 ≤ nfield gr n 150 143) && nDies gr n != 0 && (match entryCheck e m gr.part (nfield gr n 383 328) with | .ok b => b | .error _ => false)
    && (nodeMarks gr n).all (fun k => (placeCore e.sys gr.part k).isSome) && decide (lo ≤ win) && decide (win + 1536 * slotSize gr n ≤ lo + 256 * staf gr 183 172)

/-- Checks of the standing-team record (02 R50). -/
def staOk (gr : Graph) : Bool :=
  staf gr 127 0 == 0 && staf gr 255 200 % 131072 == 0 && staf gr 143 128 % 8 == 0 && decide (staf gr 143 128 ≤ 1024) && staf gr 159 144 % 8 == 0
    && decide (staf gr 159 144 ≤ 1024) && decide (staf gr 171 160 + staf gr 183 172 ≤ 4096)

/-- Shelf marks on which the graph has its standing teams, rising. DESIGN CHOICE: of a node with fewer blocks than dies the eligible cores are counted on every die of DIES. -/
def graphMarks (e : Env) (gr : Graph) : List Nat :=
  sortBy (· ≤ ·) ((List.range (gNodes gr)).flatMap (fun n => (nodeMarks gr n).filter (fun k => (placeCore e.sys gr.part k).any (fun c => bitOf (nDies gr n) (coreDie c))))).eraseDups

/-- Starts a graph: FAULT and DETAIL, or the state with its standing teams waiting; a running graph stays as it is. DESIGN CHOICE: standing teams that still live after a stop stay the graph's, with the resources that they have. -/
def startGraph (s : State) (part g : Nat) : Except (Nat × Nat) State :=
  match graphFor s.m part g with
  | none => .error (5, 3)
  | some gr0 =>
    if gr0.running then .ok s
    else match agentRead s.env s.m part 3 (65536 * gfield gr0 249 210) 32 with
      | .error c => .error (c, 6)
      | .ok b =>
        let gr := { gr0 with nodes := gr0.desc, entry := gr0.entry.take 16 ++ (List.range 4).map (fun i => ofBytes ((b.drop (8 * i)).take 8)) }
        if !(partOf s.sys part).en || !staOk gr || !(List.range (gNodes gr)).all (nodeOk s.env s.m gr) then .error (5, 4)
        else
          let have_ := s.m.teams.filterMap (fun (_, t) => if t.standing && !t.gone && t.graph == some g then t.marks.head?.map (·.1) else none)
          let new := (graphMarks s.env gr).filter (fun k => !have_.contains k)
          .ok { s with
            sys := { s.sys with waiting := s.sys.waiting ++ new.map (fun k => { grid := none, graph := some (g, k) }) }
            m := updGraph s.m g (fun _ => { gr with running := true, starting := !new.isEmpty, stopping := false }) }

def startPktDo (q : Nat) (ws : List Nat) (s : State) : Except (Nat × Nat) State :=
  match startGraph s (partOfQueue s q) (bitsOf (hArg (lget ws 0 0)) 13 8) with
  | .error f => .error f
  | .ok s1 => .ok (startPkt s1 q ws 0 0)

/-- START_STANDING_GRAPH (14 R345, 02 R50). -/
def execStartStandingGraph (q : Nat) (s : State) := ev (pktDue s q 97) "START_STANDING_GRAPH" (runRow startPktDo q s)

/-- No further choice is made; teams that wait no longer do. -/
def stopGraph (s : State) (g : Nat) : State :=
  { s with
    sys := { s.sys with waiting := s.sys.waiting.filter (fun w => !w.graph.any (fun x => x.1 == g)) }
    m := updGraph s.m g (fun gr => { gr with running := false, starting := false, stopping := true }) }

/-- Ops 2, 3 and 4 stop the graph, and complete once it is in its new state. -/
def stopPktDo (q : Nat) (ws : List Nat) (s : State) : Except (Nat × Nat) State :=
  let g := bitsOf (hArg (lget ws 0 0)) 13 8
  match graphFor s.m (partOfQueue s q) g with
  | none => .error (5, 3)
  | some _ => .ok (startPkt (stopGraph s g) q ws 0 0)

/-- STOP_STANDING_GRAPH (14 R345). -/
def execStopStandingGraph (q : Nat) (s : State) := ev (pktDue s q 98) "STOP_STANDING_GRAPH" (runRow stopPktDo q s)

/-- RESET_STANDING_GRAPH (14 R345). -/
def execResetStandingGraph (q : Nat) (s : State) := ev (pktDue s q 99) "RESET_STANDING_GRAPH" (runRow stopPktDo q s)

/-- UNLOAD_STANDING_GRAPH (14 R345). -/
def execUnloadStandingGraph (q : Nat) (s : State) := ev (pktDue s q 100) "UNLOAD_STANDING_GRAPH" (runRow stopPktDo q s)

/-- No dispatch of the graph runs. -/
def graphStill (gr : Graph) : Bool := gr.blocks.all (fun (_, b) => b.run.isNone)

/-- What a reset clears: residuals, records, poison, error bound, reserved slots; versions stay (14 R345). -/
def clearGraph (m : Mach) (g : Nat) : Mach :=
  let m1 := m.groups.foldl (fun m (k, gr) => if teamGraph m gr.team == some g then returnResv m k else m) m
  updGraph m1 g (fun gr =>
    let g1 := (gr.blocks.flatMap (fun (_, b) => b.pend.map (·.1))).foldl slotFree gr
    { g1 with ebnd := 0, prov := none, prev := none, blocks := (gr.blocks.filter (fun (_, b) => b.ver != 0)).map (fun (k, b) => (k, { goneBlock with ver := b.ver })) })

/-! Task graphs (14 R344 to R346). -/

def tnf (n : List Nat) (hi lo : Nat) : Nat := bitsOf (wordsNat n) hi lo
def tKind (n : List Nat) : Nat := tnf n 7 0
def tCC (n : List Nat) : Nat := tnf n 19 16
def tSucc (n : List Nat) (k : Nat) : Nat := tnf n (38 + 9 * k) (30 + 9 * k)
def tArgA (n : List Nat) : Nat := tnf n 191 128
def tArgB (n : List Nat) : Nat := tnf n 255 192
def tArgC (n : List Nat) : Nat := tnf n 95 64
def tArgD (n : List Nat) : Nat := tnf n 127 96

/-- A successor is a node or the end. -/
def succOk (n x : Nat) : Bool := if bitOf x 8 then x % 256 == 0 else decide (x < n)

/-- The node checks of R346. -/
def taskNodeOk (ns : List (List Nat)) (n : List Nat) : Bool :=
  decide (tKind n ≤ 6) && tnf n 63 48 == 0 && tnf n 29 20 == 0 && tnf n 15 8 == 0 && succOk ns.length (tSucc n 0) && succOk ns.length (tSucc n 1)
    && (match tKind n with
        | 1 => bitsOf (tArgC n) 7 6 == 0 && bitsOf (tArgC n) 31 9 == 0
        | 2 => bitsOf (tArgC n) 31 10 == 0 && decide (tCC n ≤ 3) && ns[bitsOf (tArgC n) 7 0]?.any (fun t => tKind t == 0)
        | 3 => tArgC n != 0
        | 4 => tArgA n % 4 == 0 && tArgB n % 4 == 0 && tArgC n % 4 == 0
        | 5 => decide (tCC n ≤ 3) && tArgA n % 8 == 0
        | 6 => bitsOf (tArgC n) 31 11 == 0 && tArgA n % 8 == 0
        | _ => true)

/-- Reads a header and its nodes: a code of R431, none for a refused node, or the graph. -/
def readTask (e : Env) (m : Mach) (part va : Nat) : Except Nat (Option Task) :=
  match agentRead e m part 3 va 16 with
  | .error c => .error c
  | .ok b =>
    let h := ofBytes b
    let n := bitsOf h 71 64 + 1
    match agentRead e m part 8 (bitsOf h 55 0) (32 * n) with
    | .error c => .error c
    | .ok d =>
      let ns := (List.range n).map (fun k => (List.range 4).map (fun i => ofBytes ((d.drop (32 * k + 8 * i)).take 8)))
      if bitsOf h 63 56 == 0 && bitsOf h 127 80 == 0 && decide (bitsOf h 79 72 < n) && ns.all (taskNodeOk ns) then
        .ok (some { nodes := ns, entry := bitsOf h 79 72, node := none, phase := 0, ref := 0, ctrs := ns.map (fun _ => 0), grids := ns.map (fun _ => 0), pend := false, late := false, endCode := 0, endNode := 0, unload := false })
      else .ok none

def loadTaskDo (q : Nat) (ws : List Nat) (s : State) : Except (Nat × Nat) State :=
  let k := taskKey (partOfQueue s q) (bitsOf (hArg (lget ws 0 0)) 13 8)
  if (tget s.sys.tasks k).isSome then .error (5, 5)
  else match readTask s.env s.m (partOfQueue s q) (lget ws 1 0) with
    | .error c => .error (c, 6)
    | .ok none => .error (5, 6)
    | .ok (some t) => .ok (startDone { s with sys := { s.sys with tasks := tset s.sys.tasks k t } } q ws)

/-- LOAD_TASK_GRAPH (14 R345). -/
def execLoadTaskGraph (q : Nat) (s : State) := ev (pktDue s q 104) "LOAD_TASK_GRAPH" (runRow loadTaskDo q s)

/-- Unloads at once when idle, else after the current run. -/
def unloadTaskDo (q : Nat) (ws : List Nat) (s : State) : Except (Nat × Nat) State :=
  let k := taskKey (partOfQueue s q) (bitsOf (hArg (lget ws 0 0)) 13 8)
  match tget s.sys.tasks k with
  | none => .error (5, 7)
  | some t =>
    let s1 := { s with sys := { s.sys with tasks := if t.node.isNone then tdel s.sys.tasks k else tset s.sys.tasks k { t with unload := true } } }
    .ok (startPkt s1 q ws 0 0)

/-- UNLOAD_TASK_GRAPH (14 R345). -/
def execUnloadTaskGraph (q : Nat) (s : State) := ev (pktDue s q 105) "UNLOAD_TASK_GRAPH" (runRow unloadTaskDo q s)

/-! Completions (14 R337 to R339). -/

/-- The state when a packet that has started is complete; none while it is not. -/
def pktDone (s : State) (q : Nat) (p : Pkt) : Option State :=
  let h := lget p.words 0 0
  let g := bitsOf (hArg h) 13 8
  let x := queueOfNo s.sys q
  match hType h with
  | 1 => if (tget s.m.grids p.ref).all (·.comp) then some { s with m := { s.m with grids := tdel s.m.grids p.ref } } else none
  | 2 => if performedMsg s.m p.ref then some s else none
  | 3 => if performedMsg s.m p.ref then some { s with sys := countEvent s.sys (hArg h) s.clk.now } else none
  | 5 => if x.bufs.any (fun b => b.2.2 == p.id) || x.pkts.any (fun r => r.parent == p.id) then none else some s
  | 6 =>
    match bitsOf (hArg h) 3 0 with
    | 1 => if (tget s.m.graphs g).all (fun gr => !gr.starting) then some s else none
    | 2 => if (tget s.m.graphs g).all graphStill then some s else none
    | 3 => if (tget s.m.graphs g).all graphStill then some { s with m := clearGraph s.m g } else none
    | 4 => if (tget s.m.graphs g).all graphStill then some { s with m := { s.m with graphs := tdel s.m.graphs g } } else none
    | 9 => if (tget s.sys.tasks (taskKey x.part g)).isNone then some s else none
    | _ => some s
  | 7 => if p.ref != 0 && performedMsg s.m p.ref then some s else none
  | _ => none

/-- Exhausted buffers end, and packets that are complete leave. -/
def finishQueue (s : State) (q : Nat) : State :=
  let s1 := if (queueOfNo s.sys q).bufs.any (fun b => b.2.1 == 0) then updQueue s q (fun x => { x with bufs := x.bufs.dropWhile (fun b => b.2.1 == 0) }) else s
  (queueOfNo s1.sys q).pkts.foldl (fun s p => match pktDone s q p with | some t => finishPkt t q p | none => s) s1

/-- Each level of buffers may complete the one that contains it. -/
def finishQueues (s : State) : State :=
  s.sys.queues.foldl (fun s (q, _) => (List.range 5).foldl (fun s _ => finishQueue s q) s) s

def owedDue (s : State) (q : Nat) : Bool :=
  let x := queueOfNo s.sys q
  decide (0 < x.owed) && qdAddr x != 0 && decide (x.part < 16) && !(x.fault != 0 && x.detail == 255)

/-- The count goes to the completion word, or the queue stops (14 R339). -/
def owedDo (q : Nat) (s : State) : State :=
  let x := queueOfNo s.sys q
  match agentAddr s.env s.m x.part (qdAddr x) 8 1 with
  | .ok sa => updQueue (feStore s sa (x.count % 2 ^ 64)) q (fun x => { x with owed := x.owed - 1 })
  | .error c => updQueue s q (fun x => { x with owed := 0, fault := c, detail := 255 })

/-- COMPLETION_WORD_WRITE (14 R339). -/
def execCompletionWordWrite (q : Nat) (s : State) := ev (owedDue s q) "COMPLETION_WORD_WRITE" (owedDo q s)

end Sys2Proof.Machine
end

