-- ==== Sys2Proof/Machine/EvTaskGraph.lean ====
section
/-! DEFINITION. Task graphs, waits of the Front End, time slices and interrupts (spec/14 R344 to R349). -/
namespace Sys2Proof.Machine
open Sys2Proof

def taskOf (sys : Sys) (part g : Nat) : Option Task := tget sys.tasks (taskKey part g)

def updTask (s : State) (part g : Nat) (f : Task → Task) : State := { s with sys := { s.sys with tasks := tupd s.sys.tasks (taskKey part g) f } }

/-- The phase of a run that has ended, with its code in `ref`. -/
def endPhase := 99

/-- The node at which a run stands. -/
def curNode (t : Task) : List Nat := lget t.nodes (t.node.getD 0) []

/-- The run ends early with a code (14 R346). -/
def endEarly (code : Nat) (t : Task) : Task := { t with phase := endPhase, ref := code }

/-- The run goes on at a successor, or ends normally. -/
def goNext (k : Nat) (t : Task) : Task :=
  let x := tSucc (curNode t) k
  if bitOf x 8 then { t with phase := endPhase, ref := 0 } else { t with node := some (x % 256), phase := 0, ref := 0 }

/-- Conditions of nodes: eq, ne, lt, ge, unsigned. -/
def nodeHolds (cc a b : Nat) : Bool := condInt (if cc = 3 then 5 else cc) a b

/-- The condition of a wait node holds, or its word cannot be read. -/
def waitNodeDone (s : State) (part : Nat) (n : List Nat) : Bool :=
  match agentNat s.env s.m part (tArgA n) 8 with
  | .ok v => nodeHolds (tCC n) v (tArgB n)
  | .error _ => true

/-- A node that has begun may go on. -/
def nodeReady (s : State) (part : Nat) (t : Task) : Bool :=
  let n := curNode t
  if t.phase = 0 then true
  else match tKind n with
    | 0 => (tget s.m.grids t.ref).all (·.comp)
    | 1 => (match graphFor s.m part (bitsOf (tArgC n) 5 0) with
        | some gr => !gr.starting && (!bitOf (tArgC n) 8 || decide (t.ref < gr.seq))
        | none => true)
    | 5 => waitNodeDone s part n
    | 6 => performedMsg s.m t.ref
    | _ => true

/-- A run has a step to take. -/
def taskReady (s : State) (part g : Nat) : Bool :=
  match taskOf s.sys part g with
  | some t => t.node.isSome && (t.phase == endPhase || nodeReady s part t)
  | none => false

/-- A node of a kind takes a step. -/
def nodeDue (s : State) (kind part g : Nat) : Bool :=
  match taskOf s.sys part g with
  | some t => t.node.isSome && t.phase != endPhase && tKind (curNode t) == kind && serving s part (64 + g) && nodeReady s part t
  | none => false

/-- The task of a step that is due. -/
def onTask (part g : Nat) (f : Task → State → State) (s : State) : State :=
  match taskOf s.sys part g with
  | some t => spend part 1 (f t s)
  | none => s

/-- Forgets the grid of a node's earlier launch. -/
def dropGrid (m : Mach) (k : Nat) : Mach := { m with grids := tdel m.grids k }

/-- Reads the packet of a launch node. -/
def nodePacket (e : Env) (m : Mach) (part va : Nat) : Except Nat (List Nat) :=
  match agentNat e m part va 8 with
  | .error c => .error c
  | .ok h => (List.range (max 16 (hLen h))).mapM (fun i => agentNat e m part (va + 8 * i) 8)

/-- Launches the packet, or ends the run with the row of R343 or the code of R431. -/
def launchNodeDo (part g : Nat) (t : Task) (s : State) : State :=
  let i := t.node.getD 0
  if t.phase = 1 then updTask s part g (goNext 0)
  else match nodePacket s.env s.m part (tArgA (curNode t)) with
    | .error c => updTask s part g (endEarly (128 + c))
    | .ok lp =>
      if hType (lget lp 0 0) ≠ 1 then updTask s part g (endEarly 1)
      else match checkLaunch s.env s.m part lp true with
        | .error (4, d) => updTask s part g (endEarly d)
        | .error (c, _) => updTask s part g (endEarly (128 + c))
        | .ok maps =>
          let r := newGrid { s with m := dropGrid s.m (lget t.grids i 0) } part lp maps true
          updTask r.2 part g (fun t => { t with phase := 1, ref := r.1, grids := setAt t.grids i r.1 })

/-- LAUNCH_NODE (14 R346). -/
def execLaunchNode (part graph : Nat) (s : State) := ev (nodeDue s 0 part graph) "LAUNCH_NODE" (onTask part graph (launchNodeDo part graph) s)

def standingNodeDo (part g : Nat) (t : Task) (s : State) : State :=
  let k := bitsOf (tArgC (curNode t)) 5 0
  match graphFor s.m part k with
  | none => updTask s part g (endEarly 0x43)
  | some gr =>
    if t.phase = 1 then updTask s part g (goNext 0)
    else match startGraph s part k with
      | .error (5, d) => updTask s part g (endEarly (64 + d))
      | .error (c, _) => updTask s part g (endEarly (128 + c))
      | .ok s1 => updTask s1 part g (fun t => { t with phase := 1, ref := gr.seq })

/-- STANDING_NODE (14 R346). -/
def execStandingNode (part graph : Nat) (s : State) := ev (nodeDue s 1 part graph) "STANDING_NODE" (onTask part graph (standingNodeDo part graph) s)

/-- Result word `k` of a node's last grid (14 R347). -/
def resultWord (m : Mach) (t : Task) (node k : Nat) : Nat := (((tget m.grids (lget t.grids node 0)).map (fun (g : Grid) => lget g.res k 0)).getD 0).toNat

def condNodeDo (part g : Nat) (t : Task) (s : State) : State :=
  let n := curNode t
  let v := resultWord s.m t (bitsOf (tArgC n) 7 0) (bitsOf (tArgC n) 9 8)
  updTask s part g (goNext (if nodeHolds (tCC n) v (tArgD n) then 1 else 0))

/-- CONDITIONAL_NODE (14 R346). -/
def execConditionalNode (part graph : Nat) (s : State) := ev (nodeDue s 2 part graph) "CONDITIONAL_NODE" (onTask part graph (condNodeDo part graph) s)

def loopNodeDo (part g : Nat) (t : Task) (s : State) : State :=
  let i := t.node.getD 0
  let c := lget t.ctrs i 0
  if c < tArgC (curNode t) then updTask s part g (fun t => goNext 1 { t with ctrs := setAt t.ctrs i (c + 1) })
  else updTask s part g (fun t => goNext 0 { t with ctrs := setAt t.ctrs i 0 })

/-- LOOP_NODE (14 R346). -/
def execLoopNode (part graph : Nat) (s : State) := ev (nodeDue s 3 part graph) "LOOP_NODE" (onTask part graph (loopNodeDo part graph) s)

/-- Copies piece by piece; what has been written stays when a later piece fails. -/
def copyPieces (e : Env) (part : Nat) : Nat → Nat → Nat → Nat → Mach → Mach × Nat
  | 0, _, _, _, m => (m, 0)
  | f + 1, src, dst, n, m =>
    if n = 0 then (m, 0)
    else
      let k := min n (4096 - dst % 4096)
      match agentRead e m part 3 src k with
      | .error c => (m, c)
      | .ok b => match agentStore e m part dst b with
        | .error c => (m, c)
        | .ok m1 => copyPieces e part f (src + k) (dst + k) (n - k) m1

def copyNodeDo (part g : Nat) (t : Task) (s : State) : State :=
  let n := curNode t
  let r := copyPieces s.env part (tArgC n / 4096 + 2) (tArgA n) (tArgB n) (tArgC n) s.m
  updTask { s with m := r.1 } part g (if r.2 = 0 then goNext 0 else endEarly (128 + r.2))

/-- COPY_NODE (14 R346). -/
def execCopyNode (part graph : Nat) (s : State) := ev (nodeDue s 4 part graph) "COPY_NODE" (onTask part graph (copyNodeDo part graph) s)

/-- The wait begins. -/
def waitNodeDue (s : State) (part g : Nat) : Bool := nodeDue s 5 part g && (taskOf s.sys part g).any (fun t => t.phase == 0)

/-- WAIT_NODE (14 R346). -/
def execWaitNode (part graph : Nat) (s : State) :=
  ev (waitNodeDue s part graph) "WAIT_NODE" (onTask part graph (fun _ s => updTask s part graph (fun t => { t with phase := 1 })) s)

/-- Stores, and counts the event once the store has been performed. -/
def signalNodeDo (part g : Nat) (t : Task) (s : State) : State :=
  let n := curNode t
  if t.phase = 1 then updTask { s with sys := countEvent s.sys (bitsOf (tArgC n) 10 0) s.clk.now } part g (goNext 0)
  else match agentAddr s.env s.m part (tArgA n) 8 1 with
    | .error c => updTask s part g (endEarly (128 + c))
    | .ok sa => updTask (feStore s sa (tArgB n)) part g (fun t => { t with phase := 1, ref := s.m.serial })

/-- SIGNAL_NODE (14 R346). -/
def execSignalNode (part graph : Nat) (s : State) := ev (nodeDue s 6 part graph) "SIGNAL_NODE" (onTask part graph (signalNodeDo part graph) s)

/-! Conditions of waits (14 R337, R346). -/

/-- Packet `k / 2`, or for odd `k` the wait node of task graph `k / 2` (64 × partition + graph). -/
def waitMetDue (s : State) (k : Nat) : Bool :=
  if k % 2 = 1 then nodeDue s 5 (k / 2 / 64) (k / 2 % 64) && (taskOf s.sys (k / 2 / 64) (k / 2 % 64)).any (fun t => t.phase == 1)
  else match pktById s (k / 2) with
    | some (q, p) =>
      hType (lget p.words 0 0) == 4 && queueOn (queueOfNo s.sys q) && serving s (partOfQueue s q) q
        && (match agentNat s.env s.m (partOfQueue s q) (lget p.words 1 0) 8 with
            | .ok v => waitHolds (bitsOf (hArg (lget p.words 0 0)) 2 0) v (lget p.words 2 0)
            | .error _ => true)
    | none => false

/-- Acquire order at system scope: the clocks of the word's home are taken over (04 R116). -/
def feAcquire (s : State) (part va : Nat) : State :=
  match agentAddr s.env s.m part va 8 0 with
  | .ok sa => { s with m := updDie s.m 0 (fun d => { d with vc := vcMerge d.vc (dieOf s.m (homePos (homeOf sa)).1).vc }) }
  | .error _ => s

def waitMetDo (k : Nat) (s : State) : State :=
  if k % 2 = 1 then
    onTask (k / 2 / 64) (k / 2 % 64) (fun t s =>
      let part := k / 2 / 64
      match agentNat s.env s.m part (tArgA (curNode t)) 8 with
      | .ok _ => updTask (feAcquire s part (tArgA (curNode t))) part (k / 2 % 64) (goNext 0)
      | .error c => updTask s part (k / 2 % 64) (endEarly (128 + c))) s
  else match pktById s (k / 2) with
    | some (q, p) =>
      let part := partOfQueue s q
      (match agentNat s.env s.m part (lget p.words 1 0) 8 with
       | .ok _ => spend part 0 (finishPkt (feAcquire s part (lget p.words 1 0)) q p)
       | .error c => spend part 0 (updQueue s q (fun x => stopPast x p.id c 4 p.step)))
    | none => s

/-- WAIT_CONDITION_MET (14 R337, R346). -/
def execWaitConditionMet (k : Nat) (s : State) := ev (waitMetDue s k) "WAIT_CONDITION_MET" (waitMetDo k s)

/-! Triggers and ends of runs (14 R344, R346). -/

/-- TASK_GRAPH_TRIGGER (14 R344). -/
def execTaskGraphTrigger (part graph : Nat) (s : State) : Host.Outcome State Fault Refusal := .next { s with sys := triggerTask s.sys part graph }

def runEndDue (s : State) (part g : Nat) : Bool := (taskOf s.sys part g).any (fun t => t.node.isSome && t.phase == endPhase) && serving s part (64 + g)

/-- The status records the end; a pending trigger starts the next run, and a trigger of this clock that found one pending is pending then (14 R355); an unload takes effect. -/
def runEndDo (part g : Nat) (t : Task) (s : State) : State :=
  if t.unload then { s with
    sys := { s.sys with tasks := tdel s.sys.tasks (taskKey part g) }
    m := t.grids.foldl dropGrid s.m }
  else updTask s part g (fun t =>
    let u := { t with endCode := t.ref, endNode := t.node.getD 0, phase := 0, ref := 0 }
    if t.pend then { u with pend := t.late, late := false, node := some t.entry, ctrs := t.nodes.map (fun _ => 0) } else { u with node := none })

/-- TASK_GRAPH_RUN_END (14 R346). -/
def execTaskGraphRunEnd (part graph : Nat) (s : State) := ev (runEndDue s part graph) "TASK_GRAPH_RUN_END" (onTask part graph (runEndDo part graph) s)

/-! Time slices (14 R348). -/

/-- Queues and task graphs of a partition. -/
def itemsOf (sys : Sys) (p : Nat) : List Nat :=
  (sys.queues.filter (fun (q, x) => x.part == p && decide (q < 64))).map (·.1) ++ (sys.tasks.filter (fun (k, _) => k / 64 == p)).map (fun (k, _) => 64 + k % 64)

/-- The item would take a step if it were served. -/
def itemWork (s : State) (p i : Nat) : Bool :=
  if 64 ≤ i then taskReady s p (i - 64)
  else (peek s i).isSome || (queueOn (queueOfNo s.sys i) && (queueOfNo s.sys i).pkts.any (fun q =>
    let h := lget q.words 0 0
    (hType h == 4 && (match agentNat s.env s.m p (lget q.words 1 0) 8 with | .ok v => waitHolds (bitsOf (hArg h) 2 0) v (lget q.words 2 0) | .error _ => true))
      || (hType h == 7 && q.ref == 0 && ((graphFor s.m p (hArg h)).isNone || (sendInput s (hArg h) (inputRecord q.words)).isSome))))

/-- The next item in turn that has work. -/
def nextItem (s : State) (p : Nat) : Option Nat :=
  let cur := (sliceOfPart s.sys p).cur
  let l := sortBy (· ≤ ·) (itemsOf s.sys p)
  (l.filter (fun i => decide (cur < i)) ++ l.filter (fun i => decide (i < cur))).find? (itemWork s p)

/-- The item stands between the store and the event of a SIGNAL, where no switch divides it (14 R348). -/
def inSignal (s : State) (p i : Nat) : Bool :=
  if 64 ≤ i then (taskOf s.sys p (i - 64)).any (fun t => t.node.isSome && tKind (curNode t) == 6 && t.phase == 1)
  else (queueOfNo s.sys i).pkts.any (fun q => hType (lget q.words 0 0) == 3)

def sliceDue (s : State) (p : Nat) : Bool :=
  let x := sliceOfPart s.sys p
  !inSignal s p x.cur && decide (2 ≤ s.sys.dev.level) && decide (x.due ≤ s.clk.now) && (decide (x.ends ≤ s.clk.now) || !itemWork s p x.cur) && (nextItem s p).isSome

def sliceDo (p : Nat) (s : State) : State :=
  match nextItem s p with
  | some i => { s with sys := { s.sys with slice := tset s.sys.slice p (let x := sliceOfPart s.sys p; { x with cur := i, ends := s.clk.now + x.len }) } }
  | none => s

/-- TIME_SLICE_SWITCH (14 R348): at a step boundary, to the next queue or graph with work. -/
def execTimeSliceSwitch (part : Nat) (s : State) := ev (sliceDue s part) "TIME_SLICE_SWITCH" (sliceDo part s)

/-! Interrupts (14 R349). -/

/-- Enough events, or an old enough one, for a message. -/
def vecFull (now : Nat) (x : Vec) : Bool := decide (1 ≤ x.pend) && (decide (max 1 x.cnt ≤ x.pend) || (x.time != 0 && decide (x.first + x.time ≤ now)))

def msixDue (s : State) (v : Nat) : Bool := !(vecOf s.sys v).masked && vecFull s.clk.now (vecOf s.sys v)

/-- MSIX_MESSAGE (14 R349): one message, counted; PEND clears. -/
def execMsixMessage (vector : Nat) (s : State) :=
  ev (msixDue s vector) "MSIX_MESSAGE" { s with sys := { s.sys with vecs := tupd s.sys.vecs vector (fun x => { x with pend := 0, sent := x.sent + 1 }) } }

/-- MSIX_UNMASK (14 R349). -/
def execMsixUnmask (vector : Nat) (s : State) : Host.Outcome State Fault Refusal :=
  .next (if vector < 2048 then { s with sys := { s.sys with vecs := tset s.sys.vecs vector { vecOf s.sys vector with masked := false } } } else s)

end Sys2Proof.Machine
end

