-- ==== Sys2Proof/Machine/EvContain.lean ====
section
/-! DEFINITION. Partitions, Place Tables and containment (spec/18 R405 to R414). -/
namespace Sys2Proof.Machine
open Sys2Proof

/-! Partitions (18 R406 to R409). -/

def updPart (s : State) (p : Nat) (f : Part → Part) : State := { s with sys := { s.sys with parts := tset s.sys.parts p (f (partOf s.sys p)) } }

/-- EN; a write of 0 drops every cached translation of the partition. -/
def partEnable (s : State) (p : Nat) (run : Bool) : State :=
  let s1 := updPart s p (fun x => { x with en := run })
  if run then s1 else { s1 with m := { s1.m with tlb := s1.m.tlb.filter (fun t => t.part != p) } }

/-- PARTITION_ENABLE (18 R406). -/
def execPartitionEnable (part : Nat) (run : Bool) (s : State) : Host.Outcome State Fault Refusal := .next (if part < 16 then partEnable s part run else s)

/-- A field of the floor record in use (19 R420), 0 without one. -/
def floorField (sys : Sys) (hi lo : Nat) : Nat := bitsOf (ofBytes (sys.dev.floor.getD [])) hi lo

def coreDefective (sys : Sys) (c : Nat) : Bool := floorField sys (512 + c) (512 + c) == 1

/-- Core that a table entry names. -/
def entryCore (w : Nat) : Nat := coreId (bitsOf w 9 8) (bitsOf w 7 4) (bitsOf w 3 0)

/-- Result of a commit: 1, or the first failing check (18 R408). -/
def commitCode (s : State) (p : Nat) : Nat :=
  let l := ((partOf s.sys p).staged.filter (fun (_, w) => bitOf w 63)).map (·.2)
  if s.m.teams.any (fun (_, t) => t.part == p && !t.gone && t.susp != .out) then 4
  else if l.any (fun w => decide (11 < bitsOf w 7 4) || decide (11 < bitsOf w 3 0)) then 3
  else if !decide ((l.map entryCore).Nodup) then 2
  else if l.any (fun w => coreDefective s.sys (entryCore w) || (corePart s.sys (entryCore w) != 16 && corePart s.sys (entryCore w) != p)) then 5
  else 1

/-- Checks and installs the staged copy, with RDR and IMGP kept. -/
def commitPlace (s : State) (p : Nat) : State :=
  let c := commitCode s p
  updPart s p (fun x =>
    if c = 1 then { x with cst := c, place := x.staged.map (fun (k, w) => let o := (tget x.place k).getD 0; (k, putBits (putBits w 62 62 (bitsOf o 62 62)) 51 16 (bitsOf o 51 16))) }
    else { x with cst := c })

/-- PLACE_TABLE_COMMIT (18 R408). -/
def execPlaceTableCommit (part : Nat) (s : State) : Host.Outcome State Fault Refusal := .next (if part < 16 then commitPlace s part else s)

/-! Containment (18 R410 to R414). -/

/-- Cluster number in the device of the die's reset under way, or of the last one. -/
def resetCluster (m : Mach) (d : Nat) : Nat := 36 * d + (dieOf m d).rrun

/-- GO for the cluster that CLUS names; it is ignored while a reset is in progress, or with CLUS above 35. -/
def resetGo (e : Env) (m : Mach) (d cl : Nat) : Mach :=
  if 3 < d then m
  else updDie m d (fun x =>
    if x.rbusy || 35 < cl then { x with rclus := cl } else { x with rclus := cl, rrun := cl, rdone := false, rbusy := true, isoAt := some (e.now + bsnDie) })

/-- CLUSTER_RESET_GO (18 R410). -/
def execClusterResetGo (die cluster : Nat) (s : State) : Host.Outcome State Fault Refusal := .next (s.mapM (fun e m => resetGo e m die cluster))

def isolationDue (s : State) (d : Nat) : Bool := (dieOf s.m d).isoAt.any (fun t => decide (t ≤ s.clk.now))

/-- A message that an isolated interface is injecting; which of those under way are so is a free choice. -/
def isCut (now k : Nat) (cores : List Nat) (x : Msg) : Bool :=
  cores.contains x.src && x.src != x.dst && decide (now < x.due) && x.stage == .flight && Config.pick (k + x.id)

/-- A cut record or post takes an allowance with it (18 R411). -/
def takesAllowance (x : Msg) : Bool := match x.body with | .record _ _ _ | .input _ _ _ | .rsd _ _ _ _ => true | _ => false

/-- Allowances lost, by core and die. -/
def lostBy (cores : List Nat) (cut : List Msg) : List (Nat × Nat × Nat) :=
  (cores.zipIdx.flatMap (fun (c, k) => (List.range 4).map (fun d => (k, d, (cut.filter (fun x => x.src == c && x.dst == catHome d && takesAllowance x)).length)))).filter (fun x => x.2.2 != 0)

def isolationDo (d : Nat) (e : Env) (m : Mach) : Mach :=
  let cores := clusterCores (resetCluster m d)
  let cut := m.flight.filter (isCut e.now m.free cores)
  let lost := lostBy cores cut
  let m1 : Mach := { m with flight := m.flight.map (fun x => if isCut e.now m.free cores x then { x with stage := .cut } else x), free := m.free + m.serial + 1 }
  let m2 := cores.foldl (fun m c => updCore m c (fun x => { x with isol := true })) m1
  let m3 := lost.foldl (fun m (k, j, n) => updCore m (lget cores k 0) (fun x => { x with credit := lupd x.credit j (· - n) })) m2
  updDie m3 d (fun x => { x with isoAt := none, rstAt := some (e.now + Config.stepTime m.free % 4096), cut := cut.length, refd := 0, lost := lost })

/-- ISOLATION (18 R412). -/
def execIsolation (die : Nat) (s : State) := ev (isolationDue s die) "ISOLATION" (s.mapM (isolationDo die))

/-- Counts a discarded packet on the interface at a router (19 R422). -/
def countDiscard (m : Mach) (h : Nat) : Mach :=
  let (d, r, c) := homePos h
  bumpErr m d (32 + 12 * r + c) 0 1

def cutDue (s : State) (id : Nat) : Bool := (msgOf s.m id).any (fun x => x.stage == .cut && decide (x.due ≤ s.clk.now))

/-- The receiver discards it: a marker for a message, and what it was counted as for a record or post. -/
def cutDo (id : Nat) (_e : Env) (m : Mach) : Mach :=
  match msgOf m id with
  | none => m
  | some x =>
    let m1 := countDiscard (dropMsg m id) x.dst
    match x.body with
    | .ring core k sender _ _ => updCore m1 core (fun c => { c with markers := c.markers ++ [(sender, k)] })
    | .record g _ slot => updGraph m1 g (fun gr => slotFree { gr with sent := lupd gr.sent x.die (· - 1) } slot)
    | .input g _ slot => updGraph m1 g (fun gr => slotFree gr slot)
    | .rsd g _ _ _ => updGraph m1 g (fun gr => { gr with sent := lupd gr.sent x.die (· - 1) })
    | _ => m1

/-- CUT_PACKET_ARRIVAL (18 R412). -/
def execCutPacketArrival (id : Nat) (s : State) := ev (cutDue s id) "CUT_PACKET_ARRIVAL" (s.mapM (cutDo id))

def refusalDue (s : State) (id : Nat) : Bool := (msgOf s.m id).any (fun x => toIsolated s.m x && arrived s.env s.m x && x.stage != .held)

/-- A value that is poison of kind LINK, logged with the code address of the instruction that asked for it. -/
def linkBits (e : Env) (m : Mach) (x : Msg) (pc va : Nat) (ty : NTy) : Mach × Nat :=
  let t := x.thr.getD { g := 0, lane := 0 }
  poisonVal e (setCause m t.g cMEMUC) t.g t.lane pc 2 va ty

/-- That value for a destination. -/
def linkValue (e : Env) (m : Mach) (x : Msg) (pc va : Nat) (ty : NTy) (dst : Opnd) : Mach :=
  let p := linkBits e m x pc va ty
  respond e p.1 x (wrReg (msgCtx x pc) ty dst p.2)

/-- Threads that wait for a message's operation. -/
def msgWaiters (m : Mach) (x : Msg) : List TRef := match x.thr with | some r => waiters m r.g x.op | none => []

/-- The answer of the table in R413; writes of interface registers and reads of them are performed. -/
def isolatedAnswer (e : Env) (m : Mach) (x : Msg) : Mach :=
  match x.body with
  | .load _ _ _ _ _ _ _ | .tileRead _ _ _ _ _ _ _ _ | .plogRead _ _ _ _ _ => linkRead e m x
  | .atom _ _ ty _ dst _ _ pc va => (match dst with | some d => linkValue e m x pc va ty d | none => flushAck e m x)
  | .cas _ w _ _ dst pc va => linkValue e m x pc va (if w = 8 then .n64 else .n32) dst
  | .metaRead _ dst pc va => linkValue e m x pc va .n64 dst
  | .seal _ (some dst) pc va => linkValue e m x pc va .n32 dst
  | .pop _ _ _ dst latch pc va =>
    let p := linkBits e m x pc va .n64
    closePart p.1 x.op (e.now + x.back) (wrReg (msgCtx x pc) .n64 dst p.2 ++ latchWrs ((x.thr.map (·.g)).getD 0) latch (regWords .n64 p.2)) (msgWaiters m x)
  | .push _ _ _ _ => closePart m x.op (e.now + x.back) [] (msgWaiters m x)
  | .qwait _ => closePart m x.op (e.now + x.back) [] (msgWaiters m x)
  | .packet copy _ _ _ _ => updCopy m copy (fun c => { c with out := c.out - 1 })
  | .colophon _ _ copy => updCopy m copy (fun c => { c with colOut := c.colOut - 1 })
  | .arrInc _ _ copy => if copy = 0 then respond e m x [] else updCopy m copy (fun c => { c with incs := c.incs - 1 })
  | .ring _ _ _ _ pd => let t := x.thr.getD { g := 0, lane := 0 }; respond e m x [.p t.g t.lane pd false false]
  | .nireg _ _ _ | .niread _ _ _ => performBody e m x
  | .outcome _ _ => m
  | _ => respond e m x []

/-- ISOLATED_PACKET_ANSWER (18 R413). -/
def execIsolatedPacketAnswer (id : Nat) (s : State) :=
  ev (refusalDue s id) "ISOLATED_PACKET_ANSWER" (s.mapM (fun e m => match msgOf m id with
    | some x => updDie (isolatedAnswer e (dropMsg m id) x) (coreDie x.dst) (fun d => { d with refd := d.refd + 1 })
    | none => m))

/-! Clearing (18 R412 steps 4 and 5). -/

/-- Teams that stand on a cluster, or whose spill from it is not over. -/
def teamsOfCluster (s : State) (cl : Nat) : List (Nat × Team) :=
  s.m.teams.filter (fun (_, t) => !t.gone && (match t.susp with | .out | .resuming _ => false | _ => true) && (teamCores s.sys t).any (fun c => clusterOf c == cl))

/-- A group ends: its dispatch retires with poison of kind LINK in its block. -/
def endGroup (e : Env) (m : Mach) (g : Nat) : Mach :=
  let m1 := match (grpOf m g).disp with | some d => linkPoison e (freeRecs (returnResv m g) d) d.graph (blkKey d.node d.blk) g | none => m
  let m2 := (List.range (grpOf m1 g).th.length).foldl (fun m j => unlinkThr e m { g := g, lane := j }) m1
  updGrp m2 g (fun gr => { gr with disp := none, ab := [], th := gr.th.map (fun t => { exitThr t with v := t.v.map (fun _ => 0) }), s := gr.s.map (fun _ => 0) })

/-- Storage of a cluster's slices and tile files. DESIGN CHOICE (entry 59): its clearing writes bytes and is no store of 03 R86; VER and ZF of the frames stay as they were. -/
def clusterStore (cl sa : Nat) : Bool :=
  (clusterCores cl).any (fun c => (decide (sliceBase c ≤ sa) && decide (sa < sliceBase c + 2 ^ 20)) || (decide (tileBase c 0 ≤ sa) && decide (sa < tileBase c 0 + 2 ^ 18)))

/-- Everything of a cluster ends or is cleared; its engine threads end under 09 R263. -/
def clearMach (e : Env) (m : Mach) (cl : Nat) (teams : List Nat) : Mach :=
  let gs := (m.groups.filter (fun (_, gr) => teams.contains gr.team)).map (·.1)
  let m1 := gs.foldl (endGroup e) m
  let m1 := m1.copies.foldl (fun m (k, c) => if c.cluster == cl then endEngine e m k else m) m1
  let m2 : Mach := { m1 with
    flushes := m1.flushes.filter (fun (_, f) => !gs.contains f.g)
    flight := m1.flight.filter (fun x => !((x.stage == .unsent || x.stage == .waiting) && (clusterCores cl).contains x.src))
    pending := m1.pending.filter (fun l => !(landGroups l).any gs.contains)
    ops := m1.ops.filter (fun (_, o) => !(landGroups o.land).any gs.contains)
    walks := m1.walks.map (fun w => { w with who := w.who.filter (fun x => !gs.contains x.1.g) })
    mem := m1.mem.filter (fun (a, _) => !clusterStore cl a)
    bad := m1.bad.filter (fun (a, _) => !clusterStore cl a)
    past := m1.past.filter (fun p => !clusterStore cl p.sa)
    tlb := m1.tlb.filter (fun t => !((t.lvl == 0 && clusterOf t.unit == cl) || (t.lvl == 1 && t.unit == cl))) }
  let m3 := teams.foldl (fun m k => updTeam m k (fun t => { t with claims := [], chans := [], fcalOut := [], stopAt := none, resumeAt := none, susp := .no, bars := List.replicate 4 BarSt.initial })) m2
  let m4 := (clusterCores cl).foldl (fun m c => updCore m c (fun x => { x with sseq := [], markers := [], swapUntil := none, copying := false, banks := [] })) m3
  updClus m4 cl (fun c => { c with table := [], mwait := [], granted := [], fbuf := [], fwait := [], retr := [], cards := [] })

/-- The state with a cluster cleared. -/
def clearCluster (s : State) (cl : Nat) : State :=
  let ts := teamsOfCluster s cl
  { s with
    sys := ts.foldl (fun sys (_, t) => t.marks.foldl (fun sys (k, _) => clearRdr sys t.part k) sys) s.sys
    m := clearMach s.env s.m cl (ts.map (·.1)) }

/-- CRED of a record: eight bits per core and die. -/
def credOf (lost : List (Nat × Nat × Nat)) : Nat := lost.foldl (fun a (k, d, n) => a + (n % 256) * 2 ^ (32 * k + 8 * d)) 0

/-- The reset record (18 R414). -/
def resetRecord (s : State) (d : Nat) : Nat :=
  let x := dieOf s.m d
  let cl := resetCluster s.m d
  let ts := teamsOfCluster s cl
  let disp := (s.m.groups.filter (fun (_, gr) => gr.disp.isSome && ts.any (fun t => t.1 == gr.team))).length
  pack [(6, 0), (2, d), (8, x.rrun), (192, 0), (16, disp), (16, (s.m.copies.filter (fun (_, c) => c.cluster == cl && !c.ended)).length), (16, ts.length), (32, x.refd), (32, x.cut),
    (64, s.clk.pcnt), (128, credOf x.lost)]

def resetDue (s : State) (d : Nat) : Bool := (dieOf s.m d).rstAt.any (fun t => decide (t ≤ s.clk.now))

def resetState (d : Nat) (s : State) : State :=
  let cl := resetCluster s.m d
  let s1 := clearCluster s cl
  let m1 := if served (dieOf s.m d).reca then storeAt s1.m ((dieOf s.m d).reca) (toBytes 64 (resetRecord s d)) false else s1.m
  { s1 with m := updClus (setIntr (updDie m1 d (fun x => { x with rstAt := none, rdone := true, rbusy := false })) d 0) cl (fun c => { c with restoreDue := true }) }

/-- RESET_COMPLETE (18 R412). -/
def execResetComplete (die : Nat) (s : State) := ev (resetDue s die) "RESET_COMPLETE" (resetState die s)

/-- Grants the CRED field of the record at RECA (18 R410, R414). -/
def restoreDo (d : Nat) (m : Mach) : Mach :=
  let x := dieOf m d
  let cred := if served x.reca then bitsOf (readNat m x.reca 64) 511 384 else 0
  let cl := resetCluster m d
  let m1 := (clusterCores cl).zipIdx.foldl (fun m (c, k) => updCore m c (fun y => { y with
    credit := y.credit.zipIdx.map (fun (n, j) => n + bitsOf cred (32 * k + 8 * j + 7) (32 * k + 8 * j)) })) m
  updDie (updClus m1 cl (fun c => { c with restoreDue := false })) d (fun x => { x with lost := [] })

/-- RESTORE (18 R414). -/
def execRestore (die : Nat) (s : State) : Host.Outcome State Fault Refusal := .next (if die < 4 then s.mapM (fun _ m => restoreDo die m) else s)

end Sys2Proof.Machine
end

