-- ==== Sys2Proof/Machine/Signature.lean ====
section
/-! DEFINITION. The signature of the firmware images: Ed25519ph with SHA-512 (spec/00 R2, 19 R419; RFC 8032, which R419 names). -/
namespace Sys2Proof.Machine
open Sys2Proof

/-! SHA-512. -/

/-- The round constants: the first 64 bits of the fractions of the cube roots of the first 80 primes. -/
def shaK : List Nat :=
  [0x428a2f98d728ae22, 0x7137449123ef65cd, 0xb5c0fbcfec4d3b2f, 0xe9b5dba58189dbbc, 0x3956c25bf348b538,
   0x59f111f1b605d019, 0x923f82a4af194f9b, 0xab1c5ed5da6d8118, 0xd807aa98a3030242, 0x12835b0145706fbe,
   0x243185be4ee4b28c, 0x550c7dc3d5ffb4e2, 0x72be5d74f27b896f, 0x80deb1fe3b1696b1, 0x9bdc06a725c71235,
   0xc19bf174cf692694, 0xe49b69c19ef14ad2, 0xefbe4786384f25e3, 0x0fc19dc68b8cd5b5, 0x240ca1cc77ac9c65]
   ++ [0x2de92c6f592b0275, 0x4a7484aa6ea6e483, 0x5cb0a9dcbd41fbd4, 0x76f988da831153b5, 0x983e5152ee66dfab,
   0xa831c66d2db43210, 0xb00327c898fb213f, 0xbf597fc7beef0ee4, 0xc6e00bf33da88fc2, 0xd5a79147930aa725,
   0x06ca6351e003826f, 0x142929670a0e6e70, 0x27b70a8546d22ffc, 0x2e1b21385c26c926, 0x4d2c6dfc5ac42aed,
   0x53380d139d95b3df, 0x650a73548baf63de, 0x766a0abb3c77b2a8, 0x81c2c92e47edaee6, 0x92722c851482353b]
   ++ [0xa2bfe8a14cf10364, 0xa81a664bbc423001, 0xc24b8b70d0f89791, 0xc76c51a30654be30, 0xd192e819d6ef5218,
   0xd69906245565a910, 0xf40e35855771202a, 0x106aa07032bbd1b8, 0x19a4c116b8d2d0c8, 0x1e376c085141ab53,
   0x2748774cdf8eeb99, 0x34b0bcb5e19b48a8, 0x391c0cb3c5c95a63, 0x4ed8aa4ae3418acb, 0x5b9cca4f7763e373,
   0x682e6ff3d6b2b8a3, 0x748f82ee5defb2fc, 0x78a5636f43172f60, 0x84c87814a1f0ab72, 0x8cc702081a6439ec]
   ++ [0x90befffa23631e28, 0xa4506cebde82bde9, 0xbef9a3f7b2c67915, 0xc67178f2e372532b, 0xca273eceea26619c,
   0xd186b8c721c0c207, 0xeada7dd6cde0eb1e, 0xf57d4f7fee6ed178, 0x06f067aa72176fba, 0x0a637dc5a2c898a6,
   0x113f9804bef90dae, 0x1b710b35131c471b, 0x28db77f523047d84, 0x32caab7b40c72493, 0x3c9ebe0a15c9bebc,
   0x431d67c49c100d4c, 0x4cc5d4becb3e42b6, 0x597f299cfc657e2a, 0x5fcb6fab3ad6faec, 0x6c44198c4a475817]

/-- The first chaining value: the fractions of the square roots of the first 8 primes. -/
def shaH : List Nat :=
  [0x6a09e667f3bcc908, 0xbb67ae8584caa73b, 0x3c6ef372fe94f82b, 0xa54ff53a5f1d36f1, 0x510e527fade682d1,
   0x9b05688c2b3e6c1f, 0x1f83d9abfb41bd6b, 0x5be0cd19137e2179]

def ror64 (x n : Nat) : Nat := (x / 2 ^ n + x * 2 ^ (64 - n)) % 2 ^ 64
def not64 (x : Nat) : Nat := 2 ^ 64 - 1 - x % 2 ^ 64

def bigSig0 (x : Nat) : Nat := ror64 x 28 ^^^ ror64 x 34 ^^^ ror64 x 39
def bigSig1 (x : Nat) : Nat := ror64 x 14 ^^^ ror64 x 18 ^^^ ror64 x 41
def smallSig0 (x : Nat) : Nat := ror64 x 1 ^^^ ror64 x 8 ^^^ x / 2 ^ 7
def smallSig1 (x : Nat) : Nat := ror64 x 19 ^^^ ror64 x 61 ^^^ x / 2 ^ 6

/-- The value of bytes, the first one the most significant. -/
def beNat (l : List Byte) : Nat := l.foldl (fun a b => a * 256 + b.toNat) 0

/-- `n` bytes of a value, the most significant first. -/
def beBytes (n x : Nat) : List Byte := (toBytes n x).reverse

/-- The eight working variables after one round. -/
def shaRound (v : List Nat) (kw : Nat × Nat) : List Nat :=
  match v with
  | [a, b, c, d, e, f, g, h] =>
    let t1 := h + bigSig1 e + ((e &&& f) ^^^ (not64 e &&& g)) + kw.1 + kw.2
    let t2 := bigSig0 a + ((a &&& b) ^^^ (a &&& c) ^^^ (b &&& c))
    [(t1 + t2) % 2 ^ 64, a, b, c, (d + t1) % 2 ^ 64, e, f, g]
  | v => v

/-- The message schedule, the latest word first. -/
def shaGrow (n : Nat) (w : List Nat) : List Nat :=
  match n with
  | 0 => w
  | n + 1 => shaGrow n ((smallSig1 (lget w 1 0) + lget w 6 0 + smallSig0 (lget w 14 0) + lget w 15 0) % 2 ^ 64 :: w)

/-- One block of 128 bytes. -/
def shaBlock (h : List Nat) (b : List Byte) : List Nat :=
  let w := (shaGrow 64 ((List.range 16).map (fun i => beNat ((b.drop (8 * i)).take 8))).reverse).reverse
  (h.zip ((shaK.zip w).foldl shaRound h)).map (fun (x, y) => (x + y) % 2 ^ 64)

/-- Blocks of a padded message. -/
def shaBlocks (n : Nat) (h : List Nat) (l : List Byte) : List Nat :=
  match n with
  | 0 => h
  | n + 1 => shaBlocks n (shaBlock h (l.take 128)) (l.drop 128)

/-- The message with its padding. -/
def shaPad (l : List Byte) : List Byte :=
  l ++ [0x80] ++ List.replicate ((239 - l.length % 128) % 128) 0 ++ beBytes 16 (8 * l.length)

def sha512 (l : List Byte) : List Byte := (shaBlocks ((l.length + 144) / 128) shaH (shaPad l)).flatMap (beBytes 8)

/-! The curve. -/

def edP : Nat := 2 ^ 255 - 19
def edL : Nat := 2 ^ 252 + 27742317777372353535851937790883648493
def edD : Nat := 0x52036cee2b6ffe738cc740797779e89800700a4d4141d8ab75eb4dca135978a3

def edMul (a b : Nat) : Nat := a * b % edP
def edSub (a b : Nat) : Nat := (a + edP - b % edP) % edP

/-- Power by the bits of an exponent below 2^`n`. -/
def edPow (n : Nat) (a k : Nat) : Nat :=
  match n with
  | 0 => 1
  | n + 1 => let r := edPow n (edMul a a) (k / 2); if k % 2 = 1 then edMul a r else r

/-- A point: X, Y, Z and T with x = X/Z, y = Y/Z, x y = T/Z. -/
structure EdPt where
  x : Nat
  y : Nat
  z : Nat
  t : Nat
  deriving DecidableEq, Repr

def edZero : EdPt := { x := 0, y := 1, z := 1, t := 0 }

def edAdd (p q : EdPt) : EdPt :=
  let a := edMul (edSub p.y p.x) (edSub q.y q.x)
  let b := edMul (p.y + p.x) (q.y + q.x)
  let c := edMul (edMul (2 * p.t) q.t) edD
  let d := edMul (2 * p.z) q.z
  let e := edSub b a
  let f := edSub d c
  let g := (d + c) % edP
  let h := (b + a) % edP
  { x := edMul e f, y := edMul g h, z := edMul f g, t := edMul e h }

/-- A multiple by the bits of a scalar below 2^`n`. -/
def edScale (n : Nat) (k : Nat) (p : EdPt) : EdPt :=
  match n with
  | 0 => edZero
  | n + 1 => let r := edScale n (k / 2) (edAdd p p); if k % 2 = 1 then edAdd r p else r

def edEq (p q : EdPt) : Bool := edMul p.x q.z == edMul q.x p.z && edMul p.y q.z == edMul q.y p.z

/-- The point of 32 bytes, if they name one. -/
def edPoint (l : List Byte) : Option EdPt :=
  let n := ofBytes l
  let y := n % 2 ^ 255
  let sign := n / 2 ^ 255 % 2
  let u := edSub (edMul y y) 1
  let v := (edMul edD (edMul y y) + 1) % edP
  let v3 := edMul (edMul v v) v
  let x0 := edMul (edMul u v3) (edPow 255 (edMul u (edMul v3 (edMul v3 v))) ((edP - 5) / 8))
  let vx := edMul v (edMul x0 x0)
  let x := if vx = u then some x0 else if vx = edSub 0 u then some (edMul x0 (edPow 255 2 ((edP - 1) / 4))) else none
  match x with
  | some x =>
    if edP ≤ y || (x == 0 && sign == 1) then none
    else let x1 := if x % 2 = sign then x else edP - x; some { x := x1, y := y, z := 1, t := edMul x1 y }
  | none => none

def edBase : EdPt :=
  let x := 0x216936d3cd6e53fec0a4e231fdd6dc5c692cc7609525a7b2c9562d608f25d51a
  let y := 0x6666666666666666666666666666666666666666666666666666666666666658
  { x := x, y := y, z := 1, t := edMul x y }

/-- The prefix of Ed25519ph with an empty context: the bytes of "SigEd25519 no Ed25519 collisions", 1 and 0. -/
def edDom : List Byte := beBytes 34 0x53696745643235353139206e6f204564323535313920636f6c6c6973696f6e730100

/-- The signature verifies for a message under a public key. DEDUCED: of the two equations that RFC 8032 allows, the one with the cofactor. -/
def edVerify (key sig msg : List Byte) : Bool :=
  let s := ofBytes ((sig.drop 32).take 32)
  match edPoint key, edPoint (sig.take 32) with
  | some a, some r =>
    decide (s < edL)
      && (let k := ofBytes (sha512 (edDom ++ sig.take 32 ++ key ++ sha512 msg)) % edL
          edEq (edScale 4 8 (edScale 253 s edBase)) (edScale 4 8 (edAdd r (edScale 253 k a))))
  | _, _ => false

end Sys2Proof.Machine
end

