-- ==== Sys2Proof/Machine/EvHost.lean ====
section
/-! DEFINITION. Bring-up, images, power, host accesses and the register map (spec/19 R416 to R430, 14 R352). -/
namespace Sys2Proof.Machine
open Sys2Proof

def updDev (s : State) (f : Dev → Dev) : State := { s with sys := { s.sys with dev := f s.sys.dev } }

/-! Images and the floor record (19 R419, R420). -/

def imgHead (img : List Byte) : Nat := ofBytes (img.take 128)
def imgLen (img : List Byte) : Nat := bitsOf (imgHead img) 63 0
def imgBody (img : List Byte) : List Byte := (img.drop 128).take (imgLen img)

def ownerKey (sys : Sys) : Nat := floorField sys 255 0

/-- Public keys that a KEY code names: the ROM key, the owner key, the tenant keys that the monitor has enrolled (19 R419). -/
def keysFor (sys : Sys) (kind key : Nat) : List Nat :=
  match key with
  | 0 => if ownerKey sys == 0 || floorField sys 256 256 == 1 then [Config.romKey] else []
  | 1 => if ownerKey sys != 0 then [ownerKey sys] else []
  | 2 => if kind == 2 then sys.dev.tenants else []
  | _ => []

/-- Acceptance of an image of a KIND (19 R419). -/
def imageOk (sys : Sys) (kind : Nat) (img : List Byte) : Bool :=
  let h := imgHead img
  128 ≤ img.length && (img.drop 128).length ≥ imgLen img && bitsOf h 511 160 == 0 && bitsOf h 127 96 == kind
    && decide (bitsOf (floorField sys 511 288) (32 * kind + 31) (32 * kind) ≤ bitsOf h 159 128)
    && (keysFor sys kind (bitsOf h 95 64)).any (fun k => edVerify (toBytes 32 k) (toBytes 64 (bitsOf h 1023 512)) (img.take 64 ++ imgBody img))

/-- A new floor record may replace the one in use (19 R420). -/
def floorOk (sys : Sys) (img : List Byte) : Bool :=
  let n := ofBytes (imgBody img)
  imageOk sys 5 img && (bitsOf (imgHead img) 95 64 == 1 || (bitsOf (imgHead img) 95 64 == 0 && ownerKey sys == 0))
    && (List.range 7).all (fun k => decide (floorField sys (288 + 32 * k + 31) (288 + 32 * k) ≤ bitsOf n (288 + 32 * k + 31) (288 + 32 * k)))

def refuseStep (s : State) (code : Nat) : State := updDev s (fun d => { d with fail := code })

/-! Levels (19 R416 to R418). -/

/-- Predictor entries of each matrix engine from the floor record (05 R153, 19 R420). -/
def seedPredictors (s : State) : State :=
  { s with m := (List.range 144).foldl (fun m cl => updClus m cl (fun c => { c with
      pred := (List.range 8).map (fun i => bitsOf (floorField s.sys 3967 1664) (16 * cl + 2 * i + 1) (16 * cl + 2 * i)) })) s.m }

/-- Floor record, then monitor image, then the link. DEDUCED: a record equal to the one in use replaces nothing, and passes (entry 28 of the assumption log). -/
def monitorLevel (s : State) : State :=
  let d := s.sys.dev
  if d.level ≠ 0 then s
  else
    let fl := Config.flashImage d.flash 5
    if d.floor != some (imgBody fl) && !floorOk s.sys fl then refuseStep s 1
    else
      let s1 := updDev s (fun d => { d with floor := some (imgBody fl) })
      if !imageOk s1.sys 0 (Config.flashImage d.flash 0) then refuseStep s1 2
      else
        let s2 := { s1 with m := { s1.m with free := s1.m.free + 1 } }
        if Config.trained s1.m.free then updDev s2 (fun d => { d with level := 1, link := true, images := d.images ++ [0] }) else s2

/-- MONITOR_LEVEL (19 R417). -/
def execMonitorLevel (s : State) : Host.Outcome State Fault Refusal := .next (monitorLevel s)

/-- LPDDR channels, then the scheduler image. -/
def lpddrLevel (s : State) : State :=
  if s.sys.dev.level ≠ 1 then s
  else
    let s1 := { s with m := { s.m with free := s.m.free + 32 } }
    if (List.range 32).any (fun c => floorField s.sys (1088 + c) (1088 + c) == 0 && !Config.trained (s.m.free + c)) then refuseStep s1 4
    else if !imageOk s.sys 1 (Config.flashImage s.sys.dev.flash 1) then refuseStep s1 3
    else updDev s1 (fun d => { d with level := 2, images := d.images ++ [1] })

/-- LPDDR_ONLY_LEVEL (19 R417). -/
def execLpddrOnlyLevel (s : State) : Host.Outcome State Fault Refusal := .next (lpddrLevel s)

/-- Every die that is not defective is released. -/
def allReleased (s : State) : Bool := (List.range 4).all (fun d => released s.sys d || floorField s.sys (1120 + d) (1120 + d) == 1)

/-- Both stacks of a die are trained and tested; a part that has failed is never released (19 R417, R418). -/
def hbmRelease (s : State) (d : Nat) : State :=
  if s.sys.dev.level < 2 || 3 < d || released s.sys d || lget s.sys.dev.hbmBad d false || floorField s.sys (1120 + d) (1120 + d) == 1 then s
  else
    let s1 := { s with m := { s.m with free := s.m.free + 2 } }
    if Config.trained s.m.free && Config.trained (s.m.free + 1) then
      let s2 := updDev s1 (fun v => { v with hbmr := setAt v.hbmr d true })
      updDev s2 (fun v => { v with level := if allReleased s2 then 4 else 3 })
    else refuseStep (updDev s1 (fun v => { v with hbmBad := setAt v.hbmBad d true })) 5

/-- HBM_RELEASE (19 R417). -/
def execHbmRelease (die : Nat) (s : State) : Host.Outcome State Fault Refusal := .next (hbmRelease s die)

/-- Module reset: the flash, the floor record in use and the bytes of every memory stay, for they have no reset value (00 R6, 19 R420); every register and every metadata word takes its reset value; what is still to come from outside counts from the new clock. -/
def moduleReset (s : State) : State :=
  { State.reset with
    sys := { Sys.reset with
      dev := { Dev.reset with flash := s.sys.dev.flash, floor := s.sys.dev.floor }
      inputs := s.sys.inputs.map (fun (t, i) => (t - s.clk.now, i))
      acts := s.sys.acts.map (fun (t, i) => (t - s.clk.now, i)) }
    m := { Mach.reset with mem := s.m.mem, bad := s.m.bad, free := s.m.free } }

/-- MODULE_RESET (19 R417). -/
def execModuleReset (s : State) : Host.Outcome State Fault Refusal := .next (moduleReset s)

/-- Bytes of the host at a system address. -/
def hostRead (m : Mach) (a n : Nat) : List Byte := memRead m.mem (hostBase + a) n

/-- The recovery mailbox (19 R418): an accepted image goes to flash and the boot restarts; another is counted. -/
def mailboxStart (s : State) (a : Nat) : State :=
  if s.sys.dev.level ≠ 0 then s
  else
    let head := hostRead s.m a 128
    let img := head ++ (if imgLen head ≤ 2 ^ 32 then hostRead s.m (a + 128) (imgLen head) else [])
    if imageOk s.sys 6 img then moduleReset (updDev s (fun d => { d with flash := img }))
    else updDev s (fun d => { d with mboxAddr := a, mboxStat := d.mboxStat + 1 })

/-- MAILBOX_START (19 R418). -/
def execMailboxStart (addr : BitVec 64) (s : State) : Host.Outcome State Fault Refusal := .next (mailboxStart s addr.toNat)

/-! Loading images (19 R421, R418). -/

/-- The load begins; its steps take clocks that the spec leaves open. -/
def loadStart (s : State) (a : Nat) : State :=
  if s.sys.dev.level = 0 then s
  else { updDev s (fun d => { d with loadAddr := a, loading := some (s.clk.now + Config.stepTime s.m.free % 2 ^ 32) }) with m := { s.m with free := s.m.free + 1 } }

/-- IMAGE_LOAD_START (19 R421). -/
def execImageLoadStart (addr : BitVec 64) (s : State) : Host.Outcome State Fault Refusal := .next (loadStart s addr.toNat)

def loadDue (s : State) : Bool := s.sys.dev.loading.any (fun t => decide (t ≤ s.clk.now))

/-- Microcode or predictor table: installed on every die, or refused with FAIL 6. -/
def loadDone (s : State) : State :=
  let a := s.sys.dev.loadAddr
  let head := memRead s.m.mem a 128
  let img := head ++ (if imgLen head ≤ 2 ^ 32 then memRead s.m.mem (a + 128) (imgLen head) else [])
  let k := bitsOf (imgHead img) 127 96
  let s1 := updDev s (fun d => { d with loading := none })
  if (k == 3 || k == 4) && imageOk s.sys k img then
    let s2 := updDev s1 (fun d => { d with loadRes := 0, images := if d.images.contains k then d.images else d.images ++ [k] })
    if k == 4 then seedPredictors s2 else s2
  else updDev s1 (fun d => { d with loadRes := 6, fail := 6 })

/-- IMAGE_LOAD_COMPLETE (19 R421). -/
def execImageLoadComplete (s : State) := ev (loadDue s) "IMAGE_LOAD_COMPLETE" (loadDone s)

/-! Function-level reset, power and heat (19 R424, R427). -/

/-- Every cluster is cleared, queues and task graphs are disabled, standing graphs are unloaded, LEVEL returns to MONITOR. -/
def functionReset (s : State) : State :=
  let s1 := (List.range 144).foldl clearCluster s
  { s1 with
    sys := { s1.sys with
      queues := s1.sys.queues.map (fun (q, x) => (q, { Queue.initial with part := x.part, vec := x.vec }))
      tasks := [], waiting := [], slice := []
      dev := { s1.sys.dev with level := min 1 s1.sys.dev.level, hbmr := [false, false, false, false] } }
    m := { s1.m with
      graphs := [], grids := [], teams := [], groups := [], entries := [], copies := [], flushes := [], pending := [], flight := [], acks := [], past := [], ops := [], queues := [],
      retries := [], cur := none, prem := [] } }

/-- FUNCTION_LEVEL_RESET (19 R424). -/
def execFunctionLevelReset (s : State) : Host.Outcome State Fault Refusal := .next (functionReset s)

/-- Code of the clock step's turn in a clock. -/
def stepTurn := 200000

def clockStepDue (s : State) : Bool := s.clk.now % 15000 == 0 && decide (0 < s.clk.now) && !s.clk.turn.contains stepTurn

/-- CSTEP after a reading of power and temperature (units of 0.125 °C). -/
def newStep (step pwr temp plim : Nat) : Nat :=
  if plim < pwr || 760 ≤ temp then min 12 (step + 1) else if pwr + 100 < plim && temp < 720 then step - 1 else step

/-- The sensors are read, and the step of all dies moves. -/
def clockStepDo (s : State) : State :=
  let d := s.sys.dev
  let temp := Config.temperature s.m.free % 65536
  let pwr := Config.power s.m.free % 65536
  let st := newStep d.cstep pwr temp (min 3200 d.plim)
  let s1 := updDev { s with m := { s.m with free := s.m.free + 1 }, clk := { s.clk with turn := s.clk.turn ++ [stepTurn] } } (fun d => { d with temp := temp, pwr := pwr, cstep := st })
  if st = d.cstep then s1 else { s1 with m := (List.range 4).foldl (fun m k => setIntr m k 4) s1.m }

/-- CLOCK_STEP_UPDATE (19 R427). -/
def execClockStepUpdate (s : State) := ev (clockStepDue s) "CLOCK_STEP_UPDATE" (clockStepDo s)

def tripDue (s : State) : Bool := decide (840 ≤ s.sys.dev.temp) && decide (1 ≤ s.sys.dev.level) && !(s.sys.dev.level == 1 && s.sys.dev.fail == 7)

/-- THERMAL_TRIP (19 R427). -/
def execThermalTrip (s : State) := ev (tripDue s) "THERMAL_TRIP" (refuseStep (functionReset s) 7)

/-! Host accesses (19 R425). -/

/-- Device memory that the host reaches. -/
def hostReaches (sys : Sys) (pa : Nat) : Bool :=
  match skind pa with
  | .hbm d => released sys d && !inReserved pa
  | .lpddr _ => decide (2 ≤ sys.dev.level) && !inReserved pa
  | _ => false

/-- An access of the host: performed at the home, and the host then holds the lines. A read answers with the bytes, marked as poison when a check of them fails (19 R423). -/
def hostAccess (s : State) (pa : Nat) (data : List Byte) (write : Bool) : State :=
  if data.isEmpty || !hostReaches s.sys pa || !hostReaches s.sys (pa + data.length - 1) then s
  else
    let n := data.length
    let lines := (List.range ((pa + n - 1) / 64 - pa / 64 + 1)).map (· + pa / 64)
    let s1 := s.mapM (fun _ m => { (if write then storeAt m pa data false else noteBad m [(pa, n)]) with hostLines := m.hostLines ++ lines.filter (fun l => !m.hostLines.contains l) })
    if write then s1 else updDev s1 (fun d => { d with hostAns := some (memRead s.m.mem pa n, (badKind s.m pa n).isSome) })

/-- HOST_MEM_ACCESS (19 R425). -/
def execHostMemAccess (pa : Nat) (data : List (BitVec 8)) (write : Bool) (s : State) : Host.Outcome State Fault Refusal :=
  .next (hostAccess s pa data write)

/-- A device access waits at its home for the line. -/
def recallDue (s : State) (line : Nat) : Bool :=
  s.m.hostLines.contains line && s.m.flight.any (fun x => decide (x.due ≤ s.clk.now) && (bodyAddrs x.body).any (fun (a, n) => overlaps (64 * line) 64 a n))

/-- BACK_INVALIDATE (19 R425). -/
def execBackInvalidate (line : Nat) (s : State) :=
  ev (recallDue s line) "BACK_INVALIDATE" (s.mapM (fun _ m => { m with hostLines := m.hostLines.filter (· != line) }))

/-! The register map (19 R428 to R430). -/

/-- Who accesses: the host, the scheduler of a partition, the monitor, a policy plug-in. -/
inductive Agent where
  | host | sched (p : Nat) | monitor | user
  deriving DecidableEq, Repr

/-- Agent numbers of REGISTER_WRITE: 0 the host, 1 + p the scheduler of partition p, 17 the monitor. -/
def agentOf (n : Nat) : Agent := if n = 0 then .host else if n < 17 then .sched (n - 1) else .monitor

/-- The outcome of an access in a column of the map: no response, a read, a read or a write, a write. -/
inductive Acc where
  | silent | ro | rw | wo
  deriving DecidableEq, Repr

/-- Partition of a graph, if it is loaded. -/
def graphPart (s : State) (g : Nat) : Option Nat := (tget s.m.graphs g).map (·.part)

/-- A scheduler reaches what belongs to its own partition. -/
def ownOr (a : Agent) (p : Option Nat) (own other : Acc) : Acc :=
  match a with
  | .sched q => if p == some q then own else .silent
  | .user => .silent
  | _ => other

def only (a : Agent) (r : Acc) : Acc := if a == .monitor then r else .silent

/-- The map with its columns (19 R428). DEDUCED: what is not a scheduler's own answers it as an address of another column does, and a plug-in, which writes nothing directly (14 R333), reaches the identity block only. -/
def accessAt (s : State) (a : Agent) (o : Nat) : Acc :=
  if o < 0x100 then .ro
  else if 0x1000 ≤ o && o < 0x2000 then (match a with | .host => if s.sys.dev.level = 0 then .rw else .silent | .monitor => .rw | _ => .silent)
  else if s.sys.dev.level = 0 then .silent
  else if 0x10000 ≤ o && o < 0x10008 then (match a with | .monitor => .rw | .user => .silent | _ => .ro)
  else if 0x20000 ≤ o && o < 0x20018 then only a .rw
  else if 0x40000 ≤ o && o < 0x40100 then only a .rw
  else if 0x100000 ≤ o && o < 0x180000 then only a .rw
  else if 0x180000 ≤ o && o < 0x180800 then ownOr a (some (queueOfNo s.sys ((o - 0x180000) / 32)).part) .rw .rw
  else if 0x190000 ≤ o && o < 0x194000 then ownOr a (vecOf s.sys ((o - 0x190000) / 8)).part .rw .rw
  else if 0x1A0000 ≤ o && o < 0x1A8100 then (match a with | .host | .monitor => .rw | _ => .silent)
  else if 0x1C0000 ≤ o && o < 0x1C2000 then ownOr a (some ((o - 0x1C0000) / 512)) .wo .wo
  else if 0x1C2000 ≤ o && o < 0x1C4000 then ownOr a (some ((o - 0x1C2000) / 512)) .ro .ro
  else if 0x200000 ≤ o && o < 0x300000 then ownOr a (graphPart s ((o - 0x200000) / 0x4000)) .rw (only a .rw)
  else if 0x300000 ≤ o && o < 0x340000 then only a .rw
  else if 0x400000 ≤ o && o < 0x420000 then ownOr a (some (entOf s.m ((o - 0x400000) / 32)).part) .ro (only a .rw)
  else .silent

/-- Fields of an entry that hold for a commit: V, DIE, ROW, COL (18 R407). -/
def stagedWord (v : Nat) : Nat := bitsOf v 63 63 * 2 ^ 63 + bitsOf v 9 0

/-- Registers of a partition control block by word. -/
def partWord (s : State) (p w : Nat) (v : Nat) : State :=
  if w = 0 then updPart s p (fun x => { x with root := bitsOf v 51 12 })
  else
    let s1 := partEnable (updPart s p (fun x => { x with tvec := bitsOf v 63 8 })) p (bitOf v 0)
    if bitOf v 3 then commitPlace s1 p else s1

/-- Registers of a host queue by word (14 R335). -/
def queueWordWrite (s : State) (a : Agent) (q w v : Nat) : State :=
  updQueue s q (fun x =>
    match w with
    | 0 =>
      let was := decide (6 ≤ x.qlog) && decide (x.qlog ≤ 20)
      let ql := bitsOf v 44 40
      let y := { runWrite x (bitOf v 4) with part := if a == .monitor then bitsOf v 63 56 else x.part, vec := bitsOf v 55 45, qlog := ql }
      refuseLow s (if !was && decide (6 ≤ ql) && decide (ql ≤ 20) then { y with count := 0, doneTops := [], tops := 0 } else y)
    | 1 => refuseLow s { x with qtail := BitVec.ofNat 32 (bitsOf v 63 32) }
    | 2 => { x with qdadr := v }
    | _ => { x with qbase := v })

/-- What word `w` of a queue reads as. -/
def queueWordRead (x : Queue) (w : Nat) : Nat :=
  match w with
  | 0 => pack [(4, x.fault), (1, if x.run then 1 else 0), (19, 0), (8, x.step), (8, x.detail), (5, x.qlog), (11, x.vec), (8, x.part)]
  | 1 => pack [(32, x.qhead.toNat), (32, x.qtail.toNat)]
  | 2 => x.qdadr
  | _ => x.qbase

def updVec (s : State) (k : Nat) (f : Vec → Vec) : State := { s with sys := { s.sys with vecs := tset s.sys.vecs k (f (vecOf s.sys k)) } }

/-- Fields of a node descriptor's word that act on a write while the graph runs: LCON and LVAL; THRESH, TIMER and AGEL wait for the next choice (02 R47). -/
def descMask (w : Nat) : Nat :=
  match w with
  | 3 => 2 ^ 20
  | 4 => 2 ^ 32 - 1
  | _ => 0

/-- Replaces the bits of a mask. -/
def maskIn (mask old new : Nat) : Nat := (old &&& (2 ^ 64 - 1 - mask)) + (new &&& mask)

/-- ELIM and PROBE, and the node descriptors, are what a scheduler sets (14 R352). -/
def graphWord (s : State) (g w v : Nat) : State :=
  { s with m := updGraph s.m g (fun gr =>
    if w = 2 then { gr with entry := setAt gr.entry 2 (maskIn (2 ^ 64 - 2 ^ 32) (lget gr.entry 2 0) v) }
    else if w = 3 then { gr with entry := setAt gr.entry 3 (maskIn (2 ^ 16 - 1) (lget gr.entry 3 0) v) }
    else if w < 128 then gr
    else
      let n := (w - 128) / 6
      let i := (w - 128) % 6
      let put := fun (mask : Nat) (l : List (List Nat)) => lupd l n (fun d => lupd d i (fun o => maskIn mask o v))
      { gr with desc := put (2 ^ 64 - 1) gr.desc, nodes := put (if gr.running then descMask i else 2 ^ 64 - 1) gr.nodes }) }

/-- Words of an entry's state and of a Catalogue's window as they read. -/
def graphWordRead (s : State) (g w : Nat) : Nat :=
  match tget s.m.graphs g with
  | none => 0
  | some gr => if w < 16 then lget gr.entry w 0 else if 128 ≤ w then lget (lget gr.desc ((w - 128) / 6) []) ((w - 128) % 6) 0 else 0

/-- STATE and PROTF of a fault buffer entry (16 R369). -/
def faultWord (e : Env) (m : Mach) (cl k v : Nat) : Mach :=
  match v % 4 with
  | 2 => answerFault e m cl k 2 (bitOf v 2)
  | 3 => answerFault e m cl k 3 (bitOf v 2)
  | _ => m

/-- Consumed calls leave the queue. -/
def fcalHead (m : Mach) (d v : Nat) : Mach := updDie m d (fun x => { x with fcal := x.fcal.drop ((v + 256 - x.fhead % 256) % 256), fhead := v % 256 })

/-- A die block's register by offset (19 R429). -/
def dieMach (e : Env) (m : Mach) (d o v : Nat) : Mach :=
  if o = 0 then
    let m1 := if bitOf v 6 then resetGo e m d (bitsOf v 5 0) else updDie m d (fun x => { x with rclus := bitsOf v 5 0 })
    if bitOf v 7 then restoreDo d m1 else m1
  else if o = 8 then updDie m d (fun x => { x with reca := bitsOf v 63 8 / 64 * 64 })
  else if o = 0x10 then updDie m d (fun x => { x with intr := x.intr &&& (63 - v % 64) })
  else if o = 0x100 then updDie m d (fun x => { x with invAddr := v })
  else if o = 0x108 then
    updDie (startInval e m d (bitsOf v 31 28) ((dieOf m d).invAddr % 2 ^ 56 / 4096 * 4096) (bitsOf v 20 0) (bitsOf v 25 24)) d
      (fun x => { x with invArg := v % 2 ^ 32 })
  else if o = 0x200 then fcalHead m d v
  else if o = 0x210 then replyDo (bitsOf v 63 48) (bitsOf v 47 32) (BitVec.ofNat 32 v) e m
  else if 0x2000 ≤ o && o < 0x2000 + 36 * 0x400 then (if o % 16 = 0 then faultWord e m (36 * d + (o - 0x2000) / 0x400) ((o - 0x2000) % 0x400 / 16) v else m)
  else if 0xC000 ≤ o && o < 0xC100 + 8 * 144 then updDie m d (fun x => { x with errs := tset x.errs ((o - 0xC000) / 8) (v % 2 ^ 32, v / 2 ^ 32) })
  else if 0xD000 ≤ o && o < 0xD000 + 72 then (List.range 4).foldl (fun m i =>
    updClus m (36 * d + (o - 0xD000) / 2 + i) (fun c => { c with pred := (List.range 8).map (fun k => bitsOf v (16 * i + 2 * k + 1) (16 * i + 2 * k)) })) m
  else m

def dieWord (s : State) (d o v : Nat) : State := s.mapM (fun e m => dieMach e m d o v)

/-- The words of an `fcal` call as read. DESIGN CHOICE (entry 61): the spec gives the 16 bytes no layout. -/
def fcalWord (x : Die) (i w : Nat) : Nat :=
  match x.fcal[(i + 256 - x.fhead % 256) % 256]? with
  | some (code, mark, gi, arg) => if w = 0 then pack [(16, code), (16, gi), (32, mark)] else arg.toNat
  | none => 0

/-- The words of a fault buffer entry (16 R368). -/
def faultRead (m : Mach) (cl k w : Nat) : Nat :=
  match tget (clusOf m cl).fbuf k with
  | some f => if w = 0 then pack [(2, f.st), (1, if f.protf then 1 else 0), (29, 0), (16, f.who.length + f.engines.length), (4, f.kind), (12, f.smark)] else f.fva * 256
  | none => 0

/-- A die block's register as it reads (19 R429). -/
def dieWordRead (s : State) (d o : Nat) : Nat :=
  let x := dieOf s.m d
  if o = 0 then x.rclus
  else if o = 8 then x.reca * 256 + (if x.rdone then 2 else 0) + (if x.rbusy then 1 else 0)
  else if o = 0x10 then x.intr
  else if o = 0x100 then x.invAddr
  else if o = 0x108 then x.invArg
  else if o = 0x110 then (if invalBusy s.m d then 1 else 0)
  else if o = 0x200 then x.fhead
  else if o = 0x208 then (x.fhead + x.fcal.length) % 256
  else if 0x1000 ≤ o && o < 0x2000 then fcalWord x ((o - 0x1000) / 16) (o % 16 / 8)
  else if 0x2000 ≤ o && o < 0x2000 + 36 * 0x400 then faultRead s.m (36 * d + (o - 0x2000) / 0x400) ((o - 0x2000) % 0x400 / 16) (o % 16 / 8)
  else if 0xC000 ≤ o && o < 0xC100 + 8 * 144 then (let r := (tget x.errs ((o - 0xC000) / 8)).getD (0, 0); r.1 + 2 ^ 32 * r.2)
  else if 0xD000 ≤ o && o < 0xD000 + 72 then (List.range 4).foldl (fun a i => a + (List.range 8).foldl (fun b k => b + lget (clusOf s.m (36 * d + (o - 0xD000) / 2 + i)).pred k 0 * 2 ^ (16 * i + 2 * k)) 0) 0
  else 0

/-- A team control entry as it reads (19 R430). -/
def entryNat (x : Entry) : Nat :=
  pack [(1, if x.v then 1 else 0), (15, 0), (16, x.ldrop), (1, if x.stopall then 1 else 0), (1, if x.stopped then 1 else 0), (1, 0), (2, x.skind), (3, 0),
    (12, x.smark), (4, x.part), (32, x.srsn.toNat), (56, x.saddr), (56, x.spc), (56, x.imgb)]

/-- A team control entry's register by word (19 R430, 16 R372, R378). -/
def entryWord (s : State) (k w v : Nat) : State :=
  match w with
  | 0 =>
    let s1 := { s with m := updEnt s.m k (fun en => { en with stopall := bitOf v 32 }) }
    (match teamOfEntry s1.m k with
     | none => s1
     | some t =>
       let m1 := if bitOf v 34 then updTeam s1.m t (fun x => { x with resumeAt := some (s.clk.now + bsnDie) }) else s1.m
       { s1 with m := if bitOf v 1 then releaseParked t m1 else m1 })
  | 3 => (match teamOfEntry s.m k with
      | some t => s.mapM (imgbDo t (bitsOf v 63 8 / 65536 * 65536))
      | none => { s with m := updEnt s.m k (fun en => { en with imgb := bitsOf v 63 8 / 65536 * 65536 }) })
  | _ => s

/-- The identity block: part code, serial number, ROM key and BLVL (19 R416, R428). -/
def identWord (d : Dev) (o : Nat) : Nat :=
  if o = 0 then 0x0880
  else if o = 0x10 || o = 0x18 then Config.serialNumber / 2 ^ (8 * (o - 0x10)) % 2 ^ 64
  else if 0x20 ≤ o && o < 0x40 then Config.romKey / 2 ^ (8 * (o - 0x20)) % 2 ^ 64
  else if o = 0x40 then pack [(3, d.level), (29, 0), (8, d.fail), (1, if lget d.hbmr 0 false then 1 else 0), (1, if lget d.hbmr 1 false then 1 else 0),
    (1, if lget d.hbmr 2 false then 1 else 0), (1, if lget d.hbmr 3 false then 1 else 0)]
  else 0

/-- Pending bits of 64 vectors: a masked vector that would send (14 R349). -/
def pendWord (s : State) (j : Nat) : Nat :=
  pack ((List.range 64).map (fun i => (1, if (vecOf s.sys (64 * j + i)).masked && vecFull s.clk.now (vecOf s.sys (64 * j + i)) then 1 else 0)))

/-- Status of a task graph: end code of the last run, running, pending, the node at which the last run ended. -/
def taskWord (s : State) (k : Nat) : Nat :=
  match tget s.sys.tasks k with
  | some t => pack [(8, t.endCode), (1, if t.node.isSome then 1 else 0), (1, if t.pend then 1 else 0), (6, 0), (8, t.endNode)]
  | none => 0

/-- What the 8-byte register at an offset reads as (19 R428); fields that only act on a write read as 0 (00 R6). -/
def regRead (s : State) (o : Nat) : Nat :=
  let d := s.sys.dev
  if o < 0x100 then identWord d o
  else if o = 0x1000 then d.mboxAddr
  else if o = 0x1010 then d.mboxStat
  else if o = 0x10000 then pack [(8, 0), (4, d.cstep), (4, 0), (16, d.plim), (16, d.pwr), (16, d.temp)]
  else if o = 0x20000 then d.loadAddr
  else if o = 0x20010 then d.loadRes
  else if 0x40000 ≤ o && o < 0x40100 then
    (let x := partOf s.sys ((o - 0x40000) / 16); if o % 16 = 0 then x.root * 4096 else pack [(1, if x.en then 1 else 0), (3, 0), (4, x.cst), (56, x.tvec)])
  else if 0x100000 ≤ o && o < 0x180000 then
    (let x := partOf s.sys ((o - 0x100000) / 0x8000)
     let k := (o - 0x100000) % 0x8000 / 8
     let u := (tget x.place k).getD 0
     putBits (putBits ((tget x.staged k).getD 0) 62 62 (bitsOf u 62 62)) 51 16 (bitsOf u 51 16))
  else if 0x180000 ≤ o && o < 0x180800 then queueWordRead (queueOfNo s.sys ((o - 0x180000) / 32)) (o % 32 / 8)
  else if 0x190000 ≤ o && o < 0x194000 then (let x := vecOf s.sys ((o - 0x190000) / 8); pack [(8, 0), (16, x.pend), (8, x.cnt), (32, x.time)])
  else if 0x1A0000 ≤ o && o < 0x1A8000 then
    (let x := vecOf s.sys ((o - 0x1A0000) / 16); if o % 16 = 0 then x.maddr else x.mdata + (if x.masked then 2 ^ 32 else 0))
  else if 0x1A8000 ≤ o && o < 0x1A8100 then pendWord s ((o - 0x1A8000) / 8)
  else if 0x1C2000 ≤ o && o < 0x1C4000 then taskWord s ((o - 0x1C2000) / 8)
  else if 0x200000 ≤ o && o < 0x300000 then graphWordRead s ((o - 0x200000) / 0x4000) ((o - 0x200000) % 0x4000 / 8)
  else if 0x300000 ≤ o && o < 0x340000 then dieWordRead s ((o - 0x300000) / 0x10000) ((o - 0x300000) % 0x10000)
  else if 0x400000 ≤ o && o < 0x420000 then bitsOf (entryNat (entOf s.m ((o - 0x400000) / 32))) (64 * (o % 32 / 8) + 63) (64 * (o % 32 / 8))
  else 0

/-- Bits of a register of which a written 1 acts and a 0 leaves it: the half that a 4-byte write leaves holds 0 there (00 R6). -/
def actBits (o : Nat) : Nat :=
  if 0x300000 ≤ o && o < 0x340000 && o % 0x10000 = 0x10 then 2 ^ 64 - 1
  else if 0x300000 ≤ o && o < 0x340000 && 0x2000 ≤ o % 0x10000 && o % 0x10000 < 0x2000 + 36 * 0x400 then 3
  else 0

/-- What a register holds for the half that a 4-byte write leaves. -/
def regBase (s : State) (o : Nat) : Nat := regRead s (o / 8 * 8) &&& (2 ^ 64 - 1 - actBits (o / 8 * 8))

/-- An agent's write of the 8-byte register at an offset that answers it (19 R428). -/
def regWrite (s : State) (a : Agent) (o v : Nat) : State :=
  if o = 0x1000 then updDev s (fun d => { d with mboxAddr := v })
  else if o = 0x1008 then mailboxStart s s.sys.dev.mboxAddr
  else if o = 0x10000 then updDev s (fun d => { d with plim := bitsOf v 31 16 })
  else if o = 0x20000 then updDev s (fun d => { d with loadAddr := v })
  else if o = 0x20008 then loadStart s s.sys.dev.loadAddr
  else if 0x40000 ≤ o && o < 0x40100 then partWord s ((o - 0x40000) / 16) (o % 16 / 8) v
  else if 0x100000 ≤ o && o < 0x180000 then
    updPart s ((o - 0x100000) / 0x8000) (fun x => { x with staged := tset x.staged ((o - 0x100000) % 0x8000 / 8) (stagedWord v) })
  else if 0x180000 ≤ o && o < 0x180800 then queueWordWrite s a ((o - 0x180000) / 32) (o % 32 / 8) v
  else if 0x190000 ≤ o && o < 0x194000 then updVec s ((o - 0x190000) / 8) (fun x => { x with time := bitsOf v 63 32, cnt := bitsOf v 31 24 })
  else if 0x1A0000 ≤ o && o < 0x1A8000 then
    updVec s ((o - 0x1A0000) / 16) (fun x => if o % 16 = 0 then { x with maddr := v } else { x with mdata := v % 2 ^ 32, masked := bitOf v 32 })
  else if 0x1C0000 ≤ o && o < 0x1C2000 then { s with sys := triggerTask s.sys ((o - 0x1C0000) / 512) ((o - 0x1C0000) / 8 % 64) }
  else if 0x200000 ≤ o && o < 0x300000 then graphWord s ((o - 0x200000) / 0x4000) ((o - 0x200000) % 0x4000 / 8) v
  else if 0x300000 ≤ o && o < 0x340000 then dieWord s ((o - 0x300000) / 0x10000) ((o - 0x300000) % 0x10000) v
  else if 0x400000 ≤ o && o < 0x420000 then entryWord s ((o - 0x400000) / 32) (o % 32 / 8) v
  else s

/-- A write of RUN, which comes after a fault of its clock (14 R355), or of PREL, which comes after a `park` of its clock (19 R430). -/
def lateReg (o v : Nat) : Bool :=
  (decide (0x180000 ≤ o) && decide (o < 0x180800) && o % 32 == 0) || (decide (0x400000 ≤ o) && decide (o < 0x420000) && o % 32 == 0 && bitOf v 1)

/-- The half of a queue's first word that does not hold RUN. -/
def upperQueue (o : Nat) : Bool := decide (0x180000 ≤ o) && decide (o < 0x180800) && o % 32 == 4

/-- A write of that half is no write of RUN. -/
def keepRun (s s1 : State) (q : Nat) : State :=
  let x := queueOfNo s.sys q
  if x.fault = 0 then s1 else updQueue s1 q (fun y => { y with run := x.run, fault := x.fault, detail := x.detail })

/-- Registers are accessed with aligned 4-byte or 8-byte accesses (19 R428). -/
def regSize (o size : Nat) : Bool := (size == 4 || size == 8) && o % size == 0

/-- A read by an agent; none where the address does not respond. -/
def registerRead (s : State) (a : Agent) (o size : Nat) : Option Nat :=
  if !regSize o size then none
  else match accessAt s a o with
    | .silent => none
    | .wo => some 0
    | _ => some (regRead s (o / 8 * 8) / 2 ^ (8 * (o % 8)) % 2 ^ (8 * size))

/-- A write by an agent; where the address does not respond, or is only read, it changes nothing. -/
def registerWrite (s : State) (a : Agent) (o size v : Nat) : State :=
  if regSize o size && (accessAt s a o == .rw || accessAt s a o == .wo) then
    if size = 8 then regWrite s a o v
    else
      let b := regBase s o
      let s1 := regWrite s a (o / 8 * 8) (if o % 8 = 0 then putBits b 31 0 (v % 2 ^ 32) else putBits b 63 32 (v % 2 ^ 32))
      if upperQueue o then keepRun s s1 ((o - 0x180000) / 32) else s1
  else s

/-- REGISTER_WRITE (19 R428). -/
def execRegisterWrite (agent offset size : Nat) (value : BitVec 64) (s : State) : Host.Outcome State Fault Refusal :=
  .next (registerWrite s (agentOf agent) offset size value.toNat)

end Sys2Proof.Machine
end

