-- ==== Sys2Proof/Machine/EvCores.lean ====
section
/-! DEFINITION. Control cores and the other acts from outside the device's instructions (spec/14 R332 to R334, R348, R353; 05 R151, R152; 19 R419, R422, R423). What the firmware executes is outside the spec: `Sys.acts` lists what its cores do. What R332 takes from the RISC-V privileged architecture is PRESUMED (entry 57). -/
namespace Sys2Proof.Machine
open Sys2Proof

/-! Modes and traps (14 R332, R333). -/

/-- Modes by rank. -/
def privRank : Priv → Nat
  | .u => 0
  | .s => 1
  | .m => 3

/-- A trap: access faults go to the monitor (14 R333), the other causes where `medeleg` sends them. -/
def ctlTrap (cause tval : Nat) (c : CtlCore) : CtlCore :=
  if c.priv != .m && bitOf c.medeleg cause && cause != 1 && cause != 5 && cause != 7 then
    { c with spp := c.priv, priv := .s, sepc := c.pc, scause := cause, stval := tval, pc := c.stvec / 4 * 4 }
  else { c with mpp := c.priv, priv := .m, mepc := c.pc, mcause := cause, mtval := tval, pc := c.mtvec / 4 * 4 }

/-! Physical memory protection (14 R333). -/

/-- Ones at the low end of an address register. -/
def lowOnes : Nat → Nat → Nat
  | 0, _ => 0
  | f + 1, n => if n % 2 = 1 then 1 + lowOnes f (n / 2) else 0

/-- First byte and length of the range of an entry. -/
def pmpRange (l : List Pmp) (i : Nat) : Option (Nat × Nat) :=
  let p := lget l i Pmp.initial
  match p.mode with
  | 1 => let lo := if i = 0 then 0 else 4 * (lget l (i - 1) Pmp.initial).addr; if lo < 4 * p.addr then some (lo, 4 * p.addr - lo) else none
  | 2 => some (4 * p.addr, 4)
  | 3 => let k := lowOnes 54 p.addr; some (4 * (p.addr / 2 ^ k * 2 ^ k), 2 ^ (k + 3))
  | _ => none

/-- Permission of an entry for a fetch (0), a load (1) or a store (2). -/
def pmpPerm (p : Pmp) (kind : Nat) : Bool := match kind with | 0 => p.x | 1 => p.r | _ => p.w

/-- The lowest entry that covers a byte of the access decides, and it must cover all of it; M-mode is bound by locked entries only. -/
def pmpOk (c : CtlCore) (priv : Priv) (pa n kind : Nat) : Bool :=
  match (List.range 16).findSome? (fun i => (pmpRange c.pmp i).bind (fun (b, k) => if overlaps b k pa n then some (i, decide (b ≤ pa) && decide (pa + n ≤ b + k)) else none)) with
  | some (i, inside) => let p := lget c.pmp i Pmp.initial; inside && ((priv == .m && !p.lock) || pmpPerm p kind)
  | none => priv == .m

/-- Writes one configuration byte; a locked entry keeps its own until the next reset. -/
def pmpCfg (v : Nat) (p : Pmp) : Pmp :=
  if p.lock then p else { p with r := bitOf v 0, w := bitOf v 1, x := bitOf v 2, mode := bitsOf v 4 3, lock := bitOf v 7 }

/-- Writes an address register: not of a locked entry, nor the lower end of a locked range. -/
def pmpAddr (l : List Pmp) (i v : Nat) : List Pmp :=
  let next := lget l (i + 1) Pmp.initial
  if (lget l i Pmp.initial).lock || (next.lock && next.mode == 1) then l else lupd l i (fun p => { p with addr := v % 2 ^ 54 })

/-! Where an address of a control core leads. -/

/-- Front End SRAM of a die, as storage. -/
def sramBase (d : Nat) : Nat := 2 ^ 54 + d * 2 ^ 21

/-- Physical address of the Front End SRAM as its own cores see it. DESIGN CHOICE (entry 58): the spec gives it no address. -/
def sramAt : Nat := 0x80000000000

/-- Physical address of the register map (19 R428). -/
def mmioAt : Nat := 0x40000000000

inductive CtlTo where
  | mem (sa : Nat) | sram (sa : Nat) | reg (o : Nat) | nowhere
  deriving DecidableEq, Repr

/-- Device memory and the system window at their homes, Front End SRAM of the core's own die, the register map. -/
def ctlTo (s : State) (cc pa : Nat) : CtlTo :=
  if mmioAt ≤ pa && pa < mmioAt + 2 ^ 28 then .reg (pa - mmioAt)
  else if sramAt ≤ pa && pa < sramAt + 2 ^ 21 then .sram (sramBase (cc / 8) + (pa - sramAt))
  else match skind pa with
    | .hbm d => if released s.sys d then .mem pa else .nowhere
    | .lpddr _ => if 1 ≤ s.sys.dev.level then .mem pa else .nowhere
    | .host => .mem pa
    | _ => .nowhere

/-- An address, or the cause of a trap. -/
inductive CtlAddr where
  | ok (pa : Nat) | trap (cause : Nat)
  deriving DecidableEq, Repr

def accessFault (kind : Nat) : Nat := match kind with | 0 => 1 | 1 => 5 | _ => 7
def pageFault (kind : Nat) : Nat := match kind with | 0 => 12 | 1 => 13 | _ => 15

/-- A leaf of the Sv39 tables allows the access. DESIGN CHOICE (entry 57): a leaf with A clear, or D clear for a store, gives a page fault. -/
def leafOk (c : CtlCore) (pte kind : Nat) : Bool :=
  (match kind with | 0 => bitOf pte 3 | 1 => bitOf pte 1 || (c.mxr && bitOf pte 3) | _ => bitOf pte 2)
    && (if bitOf pte 4 then c.priv == .u || (c.priv == .s && c.sum && kind != 0) else c.priv == .s)
    && bitOf pte 6 && (kind != 2 || bitOf pte 7)

/-- The Sv39 walk from a table at a level. -/
def sv39 (s : State) (cc : Nat) (c : CtlCore) (va kind : Nat) : Nat → Nat → CtlAddr
  | 0, _ => .trap (pageFault kind)
  | l + 1, table =>
    let at_ := table + 8 * bitsOf va (12 + 9 * l + 8) (12 + 9 * l)
    if !pmpOk c .s at_ 8 1 then .trap (accessFault kind)
    else match ctlTo s cc at_ with
      | .mem sa | .sram sa =>
        let pte := readNat s.m sa 8
        if !bitOf pte 0 || (!bitOf pte 1 && bitOf pte 2) || bitsOf pte 63 54 != 0 then .trap (pageFault kind)
        else if bitOf pte 1 || bitOf pte 3 then
          let low := 2 ^ (12 + 9 * l)
          if bitsOf pte 53 10 * 4096 % low != 0 || !leafOk c pte kind then .trap (pageFault kind) else .ok (bitsOf pte 53 10 * 4096 + va % low)
        else sv39 s cc c va kind l (bitsOf pte 53 10 * 4096)
      | _ => .trap (accessFault kind)

/-- The physical address of an access: Sv39 serves S-mode and U-mode (14 R332), and PMP is checked on the result (R333). -/
def ctlXlate (s : State) (cc : Nat) (c : CtlCore) (va n kind : Nat) : CtlAddr :=
  let r := if c.priv == .m || c.satp / 2 ^ 60 != 8 then .ok (va % 2 ^ 56)
    else if bitsOf va 63 39 != (if bitOf va 38 then 2 ^ 25 - 1 else 0) then .trap (pageFault kind)
    else sv39 s cc c va kind 3 (c.satp % 2 ^ 44 * 4096)
  match r with
  | .ok pa => if n = 0 || va % n != 0 then .trap (match kind with | 0 => 0 | 1 => 4 | _ => 6) else if pmpOk c c.priv pa n kind then .ok pa else .trap (accessFault kind)
  | t => t

/-! Caches (14 R332). -/

/-- A line joins the data cache, which holds lines of Front End SRAM only. DESIGN CHOICE (entry 58): writes go through to the SRAM, so that the eight caches of a die agree. -/
def dTouch (free line : Nat) (c : CtlCore) : CtlCore :=
  if c.dcache.contains line then c
  else { c with dcache := (if 1024 ≤ c.dcache.length then c.dcache.eraseIdx (Config.victim free % 1024) else c.dcache) ++ [line] }

/-- A line joins the instruction cache with the bytes that it held. -/
def iFill (free line : Nat) (bytes : List Byte) (c : CtlCore) : CtlCore :=
  { c with icache := tset (if 1024 ≤ c.icache.length then c.icache.eraseIdx (Config.victim free % 1024) else c.icache) line bytes }

/-! What a control core does. -/

def ctlUpd (s : State) (cc : Nat) (f : CtlCore → CtlCore) : State := s.withMach (updCtl s.m cc f)

/-- The agent that a control core is for the register map. -/
def ctlAgent (c : CtlCore) : Agent :=
  match c.priv with
  | .m => .monitor
  | .s => .sched (c.part.getD 16)
  | .u => .user

/-- A register receives a value; x0 stays zero. -/
def ctlReg (fp : Bool) (rd : Nat) (v : Nat) (c : CtlCore) : CtlCore :=
  if fp then { c with f := setAt c.f rd (BitVec.ofNat 64 v) } else if rd = 0 then c else { c with x := setAt c.x rd (BitVec.ofNat 64 v) }

/-- An instruction fetch: from the instruction cache, or from the line at its home. -/
def ctlFetch (s : State) (cc va : Nat) : State :=
  let c := { ctlOf s.m cc with pc := va }
  match ctlXlate s cc c va 2 0 with
  | .trap k => ctlUpd s cc (fun _ => ctlTrap k va c)
  | .ok pa =>
    match ctlTo s cc pa with
    | .mem sa | .sram sa =>
      let line := sa / 64 * 64
      let l := (tget c.icache line).getD (memRead s.m.mem line 64)
      let c1 := if (tget c.icache line).isSome then c else iFill s.m.free line l c
      let s1 := { s with m := { s.m with free := s.m.free + 1 } }
      ctlUpd s1 cc (fun _ => { c1 with ir := ofBytes ((l.drop (sa % 64)).take 4) })
    | _ => ctlUpd s cc (fun _ => ctlTrap 1 va c)

/-- A load: device memory as an agent of device scope at the home, SRAM through the data cache, a register at once; no response is an access fault (19 R428). -/
def ctlLoadDo (s : State) (cc va n : Nat) (sx fp : Bool) (rd : Nat) : State :=
  let c := ctlOf s.m cc
  match ctlXlate s cc c va n 1 with
  | .trap k => ctlUpd s cc (ctlTrap k va)
  | .ok pa =>
    match ctlTo s cc pa with
    | .mem sa => s.withMach (send s.env s.m (ctlHome cc) (homeOf sa) false (some (ctlRef cc)) [0] 3 false false false 0 (.ctlLoad cc sa n sx fp rd))
    | .sram sa => let s1 := { s with m := { s.m with free := s.m.free + 1 } }; ctlUpd s1 cc (fun c => ctlReg fp rd (ctlBits s.m sa n sx) (dTouch s.m.free (sa / 64) c))
    | .reg o => (match registerRead s (ctlAgent c) o n with
        | some v => ctlUpd s cc (ctlReg fp rd (if sx then lowBits 64 (signExt v (8 * n)) else v))
        | none => ctlUpd s cc (ctlTrap 5 va))
    | .nowhere => ctlUpd s cc (ctlTrap 5 va)

/-- A store. A register that does not respond is an access fault; one that the agent may only read ignores it (14 R334). -/
def ctlStoreDo (s : State) (cc va n : Nat) (v : Dword) : State :=
  let c := ctlOf s.m cc
  match ctlXlate s cc c va n 2 with
  | .trap k => ctlUpd s cc (ctlTrap k va)
  | .ok pa =>
    match ctlTo s cc pa with
    | .mem sa => s.withMach (send s.env s.m (ctlHome cc) (homeOf sa) false (some (ctlRef cc)) [0] 3 false false true 0 (.store [(sa, toBytes n v.toNat)] false false))
    | .sram sa =>
      let m1 : Mach := { s.m with mem := memWrite s.m.mem sa (toBytes n v.toNat), bad := s.m.bad.filter (fun x => !overlaps sa n x.1 1), free := s.m.free + 1 }
      ctlUpd (s.withMach m1) cc (dTouch s.m.free (sa / 64))
    | .reg o => if regSize o n && accessAt s (ctlAgent c) o != .silent then (registerWrite s (ctlAgent c) o n v.toNat).mapM (fun _ => ownInval cc s.m.serial) else ctlUpd s cc (ctlTrap 7 va)
    | .nowhere => ctlUpd s cc (ctlTrap 7 va)

/-- The kind of `fence` that a RISC-V fence acts as (14 R332): 0 rel, 1 acq, 3 sc; sets as bits, 2 reads and 1 writes. DEDUCED: a pair of sets that the rule does not list acts as the weakest kind that orders it. -/
def fenceKind (pred succ : Nat) : Option Nat :=
  if pred % 4 = 0 || succ % 4 = 0 then none
  else if pred % 4 = 2 then some 1
  else if succ % 4 = 1 then some 0
  else some 3

/-- The number of a kind in `fence` (08 R245): 0 acquire, 1 release, 3 sequentially consistent. -/
def ctlFence (e : Env) (pred succ : Nat) (c : CtlCore) : CtlCore :=
  match fenceKind pred succ with
  | none => c
  | some k => let kind := if k = 1 then 0 else if k = 0 then 1 else 3; { c with fence := some (kind, e.now + fenceClocks kind 3) }

/-- A control or status register as written; a mode below its rank takes an illegal-instruction trap. -/
def csrPut (k v : Nat) (c : CtlCore) : CtlCore :=
  let mode := fun (n : Nat) => match n with | 0 => Priv.u | 1 => .s | _ => .m
  if privRank c.priv < bitsOf k 9 8 then ctlTrap 2 0 c
  else match k with
    | 0x300 => { c with mpp := mode (bitsOf v 12 11), spp := mode (bitsOf v 8 8), sum := bitOf v 18, mxr := bitOf v 19 }
    | 0x100 => { c with spp := mode (bitsOf v 8 8), sum := bitOf v 18, mxr := bitOf v 19 }
    | 0x302 => { c with medeleg := v }
    | 0x305 => { c with mtvec := v }
    | 0x341 => { c with mepc := v }
    | 0x342 => { c with mcause := v }
    | 0x343 => { c with mtval := v }
    | 0x105 => { c with stvec := v }
    | 0x141 => { c with sepc := v }
    | 0x142 => { c with scause := v }
    | 0x143 => { c with stval := v }
    | 0x180 => { c with satp := v }
    | 0x3A0 => { c with pmp := c.pmp.zipIdx.map (fun (p, i) => if i < 8 then pmpCfg (bitsOf v (8 * i + 7) (8 * i)) p else p) }
    | 0x3A2 => { c with pmp := c.pmp.zipIdx.map (fun (p, i) => if 8 ≤ i then pmpCfg (bitsOf v (8 * (i - 8) + 7) (8 * (i - 8))) p else p) }
    | k => if 0x3B0 ≤ k && k < 0x3C0 then { c with pmp := pmpAddr c.pmp (k - 0x3B0) v } else c

/-- The configuration byte of an entry. -/
def pmpByte (p : Pmp) : Nat := pack [(1, if p.r then 1 else 0), (1, if p.w then 1 else 0), (1, if p.x then 1 else 0), (2, p.mode), (2, 0), (1, if p.lock then 1 else 0)]

/-- A control or status register as read. -/
def csrGet (k : Nat) (c : CtlCore) : Nat :=
  match k with
  | 0x300 => pack [(8, 0), (1, privRank c.spp), (2, 0), (2, privRank c.mpp), (5, 0), (1, if c.sum then 1 else 0), (1, if c.mxr then 1 else 0)]
  | 0x100 => pack [(8, 0), (1, privRank c.spp), (9, 0), (1, if c.sum then 1 else 0), (1, if c.mxr then 1 else 0)]
  | 0x302 => c.medeleg
  | 0x305 => c.mtvec
  | 0x341 => c.mepc
  | 0x342 => c.mcause
  | 0x343 => c.mtval
  | 0x105 => c.stvec
  | 0x141 => c.sepc
  | 0x142 => c.scause
  | 0x143 => c.stval
  | 0x180 => c.satp
  | 0x3A0 => pack ((c.pmp.take 8).map (fun p => (8, pmpByte p)))
  | 0x3A2 => pack ((c.pmp.drop 8).map (fun p => (8, pmpByte p)))
  | k => if 0x3B0 ≤ k && k < 0x3C0 then (lget c.pmp (k - 0x3B0) Pmp.initial).addr else 0

def csrRead (k rd : Nat) (c : CtlCore) : CtlCore := if privRank c.priv < bitsOf k 9 8 then ctlTrap 2 0 c else ctlReg false rd (csrGet k c) c

/-- A plug-in asks its scheduler by `ecall`, and the scheduler the monitor (14 R333). -/
def ctlEcall (c : CtlCore) : CtlCore := ctlTrap (match c.priv with | .u => 8 | .s => 9 | .m => 11) 0 c

def ctlMret (c : CtlCore) : CtlCore := if c.priv == .m then { c with priv := c.mpp, mpp := .u, pc := c.mepc } else ctlTrap 2 0 c
def ctlSret (c : CtlCore) : CtlCore := if c.priv == .u then ctlTrap 2 0 c else { c with priv := c.spp, spp := .u, pc := c.sepc }

/-- The policy plug-in at a physical address is verified under a tenant key, and refused on a failed signature (14 R353). -/
def loadPlugin (s : State) (p pa : Nat) : State :=
  let head := memRead s.m.mem pa 128
  let img := head ++ (if imgLen head ≤ 2 ^ 32 then memRead s.m.mem (pa + 128) (imgLen head) else [])
  if imageOk s.sys 2 img then updPart s p (fun x => { x with plugins := if x.plugins.contains pa then x.plugins else x.plugins ++ [pa] }) else s

/-- The slices of a partition's scheduler have a length of 1,024 to 2^24 clocks (14 R348). -/
def setSlice (s : State) (p n : Nat) : State :=
  if 1024 ≤ n && n ≤ 2 ^ 24 then { s with sys := { s.sys with slice := tset s.sys.slice p { sliceOfPart s.sys p with len := n } } } else s

/-- What a layer owns is changed in its mode; another mode's attempt is ignored and raises no fault (14 R333, R334). -/
def ctlOp (s : State) (cc : Nat) (op : CtlOp) : State :=
  let c := ctlOf s.m cc
  match op with
  | .fetch va => ctlFetch s cc va
  | .load va n sx fp rd => ctlLoadDo s cc va n sx fp rd
  | .store va n v => ctlStoreDo s cc va n v
  | .fence p q => ctlUpd s cc (ctlFence s.env p q)
  | .fenceI => ctlUpd s cc (fun c => { c with icache := [] })
  | .csrWrite k v => ctlUpd s cc (csrPut k v.toNat)
  | .csrRead k rd => ctlUpd s cc (csrRead k rd)
  | .ecall => ctlUpd s cc ctlEcall
  | .mret => ctlUpd s cc ctlMret
  | .sret => ctlUpd s cc ctlSret
  | .assignCore k p => if c.priv == .m && k < 32 && p.all (· < 16) then ctlUpd s k (fun x => { x with part := p }) else s
  | .assignVec k p => if c.priv == .m && k < 2048 && p.all (· < 16) then updVec s k (fun x => { x with part := p }) else s
  | .sliceLen n => if c.priv == .s then (match c.part with | some p => setSlice s p n | none => s) else s
  | .enrol key => if c.priv == .m then updDev s (fun d => { d with tenants := d.tenants ++ [key] }) else s
  | .plugin pa => if c.priv == .s then (match c.part with | some p => loadPlugin s p pa | none => s) else s

/-! Ends of fences. -/

/-- A control core's fence ends as a thread's does, at device scope (04 R114, 08 R245). -/
def endCtlFence (e : Env) (m : Mach) (cc : Nat) : Mach :=
  match (ctlOf m cc).fence with
  | some (k, t) =>
    if t ≤ e.now && !fenceWaits m (ctlRef cc) k 3 then
      let m1 := if k = 3 then fenceOrder (cc / 8) 3 m (ctlRef cc) else m
      let m2 := if k = 1 then m1 else updCtl m1 cc (fun c => { c with know := (c.pot.take 4).foldl vcMerge c.know })
      let m3 := if k = 0 then m2 else (let b := bumpDie m2 (cc / 8); updCtl b cc (fun c => { c with frel := some 3, know := vcMerge c.know (vcOnly (dieOf b (cc / 8)).vc (cc / 8)) }))
      updCtl m3 cc (fun c => { c with fence := none })
    else m
  | none => m

def endCtlFences (e : Env) (m : Mach) : Mach := m.ctl.foldl (fun m x => endCtlFence e m x.1) m

/-! Failures of checks (05 R151, R152; 19 R422, R423). -/

/-- The words of a payload that is delivered as poison, by its length (05 R146). -/
def poisonBytes (n kind ix : Nat) : List Byte :=
  if n ≤ 8 then toBytes n (loadPoison (8 * n) kind ix) else ((List.range ((n + 3) / 4)).flatMap (fun _ => toBytes 4 (poisonBits .f32 kind ix))).take n

/-- The index of the log entry for a payload that lost a flit: in the log of the team of the access; index 0 where no team is. -/
def flitIndex (e : Env) (m : Mach) (x : Msg) : Mach × Nat :=
  match x.thr, engTeam m x.body with
  | some r, _ => if isCtl r then (m, 0) else genPoison e m r.g r.lane 0 2 0
  | none, some _ => (match x.body with | .packet k _ _ _ _ | .colophon _ _ k | .arrInc _ _ k => (match tget m.copies k with | some c => genPoison e m c.g c.lane c.pc 2 0 | none => (m, 0)) | _ => (m, 0))
  | none, none => (m, 0)

/-- The payload of a message as poison. A read has none on its way to the home: its answer is poison. -/
def flitBody (ix : Nat) : Body → Body
  | .store rows a p => .store (rows.map (fun r => (r.1, poisonBytes r.2.length 2 ix))) a p
  | .packet c i sa d ep => .packet c i sa (poisonBytes d.length 2 ix) ep
  | .atom sa op ty _ dst g l pc va => .atom sa op ty (BitVec.ofNat 64 (if tyFloat ty then poisonBits ty 2 ix else loadPoison (tyBits ty) 2 ix)) dst g l pc va
  | .cas sa w x _ dst pc va => .cas sa w x (BitVec.ofNat 64 (loadPoison (8 * w) 2 ix)) dst pc va
  | .push sa t k _ => .push sa t k (BitVec.ofNat 64 (loadPoison 64 2 ix))
  | .ring c k s d pd => .ring c k s (poisonBytes d.length 2 ix) pd
  | .record g d slot => .record g (d.take 8 ++ poisonBytes (d.length - 8) 2 ix) slot
  | .rsd g n b _ => .rsd g n b (BitVec.ofNat 32 (poisonBits .f32 2 ix))
  | .post g k _ => .post g k (BitVec.ofNat 32 (poisonBits .f32 2 ix))
  | b => b

/-- A flit fails its check after the last retransmission: it counts as uncorrected on the torus, or on the path between two dies. DESIGN CHOICE (entry 61): a die's three paths are numbered by the die at the other end, upward from its own number and around. -/
def flitFail (e : Env) (m : Mach) (id : Nat) : Mach :=
  match msgOf m id with
  | none => m
  | some x =>
    let m0 := bumpErr m x.dieTo (if x.die = x.dieTo then 13 else 10 + (x.die + 3 - x.dieTo) % 4) 0 1
    let r := flitIndex e m0 x
    let m1 := match x.body with | .packet k _ _ _ _ => updCopy r.1 k (fun c => { c with poison := true }) | _ => r.1
    { m1 with flight := m1.flight.map (fun y => if y.id = id then { y with bad := true, body := flitBody r.2 y.body } else y) }

/-- Words of a write that the host marks as poison, or that lost a flit on the link, go to memory as poison of kind LINK (19 R423). DESIGN CHOICE (entry 60): index 0, for the host has no team's log. -/
def hostPoison (s : State) (pa n : Nat) : State := hostAccess s pa (((List.range n).map (fun i => lget (toBytes 4 (poisonBits .f32 2 0)) ((pa + i) % 4) 0))) true

/-! Acts. -/

/-- An act of a control core waits for the core's fence; moving a core waits for a slice boundary of its partition (14 R334). -/
def actReady (s : State) : Act → Bool
  | .ctl cc op => (ctlOf s.m cc).fence.isNone && (match op with
      | .assignCore k _ => (match (ctlOf s.m k).part with | some p => decide ((sliceOfPart s.sys p).ends ≤ s.clk.now) | none => true)
      | _ => true)
  | _ => true

/-- At level ROM only control core 0 of die 0 runs (19 R417). -/
def ctlRuns (s : State) (cc : Nat) : Bool := decide (cc < 32) && (cc == 0 || decide (1 ≤ s.sys.dev.level))

def doAct (a : Act) (s : State) : State :=
  match a with
  | .ctl cc op => if ctlRuns s cc then ctlOp s cc op else s
  | .hostRead o n => updDev s (fun d => { d with hostAns := (registerRead s .host o n).map (fun v => (toBytes n v, false)) })
  | .hostPoison pa n => hostPoison s pa n
  | .upset sa => s.withMach { s.m with bad := if s.m.bad.any (fun x => x.1 == sa) then s.m.bad else s.m.bad ++ [(sa, 1)] }
  | .corrected d u => if d < 4 && u < 15 then s.withMach (bumpErr s.m d u 1 0) else s
  | .retransmit c => if c < 576 then s.withMach (bumpErr s.m (coreDie c) (32 + c % 144) 1 0) else s
  | .flitFail id => s.mapM (fun e m => flitFail e m id)

/-- A control core's store of RUN or of PREL comes late in its clock. -/
def lateAct (s : State) (a : Act) : Bool :=
  match a with
  | .ctl cc (.store va n v) => (match ctlXlate s cc (ctlOf s.m cc) va n 2 with
      | .ok pa => (match ctlTo s cc pa with | .reg o => lateReg o v.toNat | _ => false)
      | _ => false)
  | _ => false

/-- The place of the act that comes next, among the early or the late ones of a clock: those of one control core keep their order. -/
def nextAct (s : State) (late : Bool) : Option Nat :=
  (List.range s.sys.acts.length).find? (fun k => match s.sys.acts[k]? with
    | some (t, a) => decide (t ≤ s.clk.now) && lateAct s a == late && actReady s a && (match a with
        | .ctl cc _ => !(s.sys.acts.take k).any (fun y => match y.2 with | .ctl c2 _ => c2 == cc | _ => false)
        | _ => true)
    | none => false)

/-- The act at a place is done. -/
def takeAct (k : Nat) (s : State) : State :=
  let s1 : State := { s with sys := { s.sys with acts := s.sys.acts.eraseIdx k } }
  match s.sys.acts[k]? with
  | some (_, a) => doAct a s1
  | none => s1

end Sys2Proof.Machine
end

