-- ==== Sys2Proof/Machine/Sched.lean ====
section
/-! DEFINITION. The clock: what settles at once, which convergence set issues, and which step of the device is taken next (spec/01 R22, R23, R32 to R38, 08 R231, 09 R262 to R281; the order within a clock follows the tables "happenings in one clock"). -/
namespace Sys2Proof.Machine
open Sys2Proof

/-! What happens as soon as its condition holds. -/

/-- The work of a dispatch ends for new messages when its threads have ended or executed `rdon`, and its reservations return (02 R65); those of another group return when its threads have ended (02 R55, 09 R290). -/
def endDispatches (m : Mach) : Mach :=
  m.groups.foldl (fun m (g, gr) =>
    match gr.disp with
    | some d =>
      if d.launchAt.isNone && d.doneSn.isNone && dispOver gr then
        returnResv { updGrp m g (fun a => { a with disp := some { d with doneSn := some m.serial } }) with serial := m.serial + 1 } g
      else m
    | none => if !gr.resv.isEmpty && !liveGrp gr then returnResv m g else m) m

/-- Consequences within a clock: monitors, ends of waits, flushes, copies, barriers, dispatches, standing graphs and teams. -/
def settleMach (e : Env) (m : Mach) : Mach :=
  let m1 := monScan e (dropPast e (sendReleases e (holdCausal e (dropAcks e (dropCards m)))))
  let m2 := endCtlFences e (eachThr endTret (eachThr (endFence e) (eachThr (endMonitor e) m1)))
  let m3 := endCopies e (endFlushes e m2)
  let m4 := endDispatches ((barKeys m3).foldl (watchBar e) m3)
  let m5 := m4.graphs.foldl (fun m (k, _) => updGraph m k (sweepGraph e m k)) (watchDeadlock e m4)
  beginCopyBack e (forget (endTeams m5))

def settle (s : State) : State := finishQueues (s.mapM settleMach)

/-! Readiness of a member (01 R23, R38; 08 R231). -/

/-- The team stands on its cores and may issue. -/
def teamIssues (t : Team) : Bool :=
  !t.gone && (match t.susp with | .no | .signalled _ | .swapped | .copyback _ => true | _ => false)

/-- The group may issue. -/
def grpIssues (m : Mach) (gr : Group) : Bool :=
  teamIssues (teamOf m gr.team) && gr.disp.all (fun d => d.launchAt.isNone) && (coreOf m gr.core).swapUntil.isNone

/-- The thread waits for nothing and its gap has elapsed. -/
def thrIdle (now : Nat) (t : Thread) : Bool := going t && decide (t.readyAt ≤ now)

/-- A write to a register or predicate of the thread. -/
def wrOfThread (g lane : Nat) : RegWr → Bool
  | .v a l _ _ _ | .p a l _ _ _ => a == g && l == lane
  | .s a _ _ => a == g
  | _ => false

/-- What a message delivers to a register or predicate: none, or whether it is a scalar. -/
def delivers : Body → Option Bool
  | .load _ _ _ d _ _ _ | .cas _ _ _ _ d _ _ | .metaRead _ d _ _ | .plogRead _ d _ _ _ | .snap _ _ _ d _ | .niread _ _ d | .pop _ _ _ d _ _ _ => some (isS d)
  | .atom _ _ _ _ d _ _ _ _ | .seal _ d _ _ => d.map isS
  | .ring _ _ _ _ _ => some false
  | _ => none

/-- An earlier write of the thread has not landed. -/
def unlanded (m : Mach) (g lane : Nat) : Bool :=
  m.pending.any (fun l => l.wr.any (wrOfThread g lane)) || m.ops.any (fun (_, o) => o.land.wr.any (wrOfThread g lane))
    || m.flight.any (fun x => x.thr.any (fun r => r.g == g && (delivers x.body).any (fun sc => sc || r.lane == lane)))

/-- How much the instructions of an issue add to a token of a member: one whose guard is false counts nothing (01 R38, 06 R169). -/
def teRises (t : Thread) (l : List Instr) (k : Nat) : Nat := (l.filter (fun i => (hdrOfInstr i).any (fun h => h.te && h.tk.toNat == k && guardOf t h))).length

/-- The member may take part: no token above 31, and for `exit` nothing of it is still to land. -/
def memberReady (m : Mach) (g : Nat) (hm : Bool) (l : List Instr) (lane : Nat) : Bool :=
  let t := thrOf m g lane
  (List.range 4).all (fun k => decide (tokCount t hm k + teRises t l k ≤ 31))
    && l.all (fun i => match i with
      | .exit h _ => !guardOf t h || !unlanded m g lane
      | _ => true)

/-! Tiles (09 R264). -/

/-- Tiles that an instruction reads at issue. -/
def tilesRead : Instr → List Nat
  | .stt _ o => [tileNo o.d]
  | .mma h o => [tileNo o.sa, tileNo o.sb] ++ (if 8 ≤ fnLo h then [tileNo o.sc] else [])
  | .mmsp h o => [tileNo o.sa, tileNo o.sb] ++ (if 8 ≤ fnLo h then [tileNo o.sc] else [])
  | .tmov _ o | .trmxGet _ o => [tileNo o.sa]
  | .kbnd _ o => [tileNo o.sa, tileNo o.sb]
  | _ => []

/-- The accumulator of a pass, and whether the pass reads it. -/
def tilesAcc : Instr → List (Nat × Bool)
  | .mma h o => [(tileNo o.dst, !bitOf h.fn.toNat 4)]
  | .mmsp h o => [(tileNo o.dst, !bitOf h.fn.toNat 4)]
  | _ => []

/-- Tiles that an instruction writes. -/
def tilesWritten : Instr → List Nat
  | .ldt _ o => [tileNo o.d]
  | .ldv _ o => if o.width == 5 then [tileNo o.d] else []
  | .tzro _ o | .tmov _ o | .trmxPut _ o => [tileNo o.dst]
  | .rfett _ o => [tileNo o.dst]
  | .xcon _ o => (List.range (bitsOf o.ctl.toNat 7 4)).map (· + bitsOf o.ctl.toNat 3 0)
  | _ => []

/-- Passes of a core that have been posted and have not landed. -/
def passesOn (m : Mach) (core : Nat) : List MReq :=
  let c := clusOf m (clusterOf core)
  (c.table ++ c.granted.map (·.1)).filter (fun q => (grpOf m q.g).core == core)

def passOperand (m : Mach) (core k : Nat) : Bool := (passesOn m core).any (fun q => q.a == k || q.b == k || q.sc == some k)
def passTarget (m : Mach) (core k : Nat) : Bool := (passesOn m core).any (fun q => q.c == k)

/-- A scratch tile of a contraction of a team that stands on the core (09 R298). -/
def scratchTile (m : Mach) (core k : Nat) : Bool :=
  m.copies.any (fun (_, cp) => cp.core == core && !tilesOut (teamOf m cp.team) && cp.xcon.any (fun x => decide (x.tile ≤ k) && decide (k < x.tile + x.cnt)))

/-- A tile write other than a pass's that has not landed. -/
def tilePending (m : Mach) (core k : Nat) : Bool :=
  let hit := fun (l : List RegWr) => l.any (fun w => match w with | .tile c j _ _ => c == core && j == k | _ => false)
  m.pending.any (fun l => hit l.wr) || m.ops.any (fun (_, o) => hit o.land.wr)
    || m.flight.any (fun x => match x.body with | .tileRead _ c j _ _ _ _ _ => c == core && j == k | _ => false)
    || scratchTile m core k

def tilesReady (m : Mach) (core : Nat) (i : Instr) : Bool :=
  (tilesRead i).all (fun k => !tilePending m core k && !passTarget m core k)
    && (tilesAcc i).all (fun (k, rd) => !passOperand m core k && !scratchTile m core k && !(rd && tilePending m core k))
    && (tilesWritten i).all (fun k => !passOperand m core k && !passTarget m core k && !scratchTile m core k)

/-- The instruction names a tile or a tile's shape. -/
def usesTiles : Instr → Bool
  | .getc _ o | .setc _ o => decide (0x10 ≤ o.imm.toNat) && decide (o.imm.toNat < 0x20)
  | i => !(tilesRead i).isEmpty || !(tilesAcc i).isEmpty || !(tilesWritten i).isEmpty

/-! Readiness of a set (01 R38; 09 R262, R264, R267, R281). -/

/-- What the members have yet to wait for before an instruction that reads memory at issue: their earlier accesses with the drains of their group (09 R262), and writes that happen before it and have not all been applied (04 R112). -/
def readWaits (m : Mach) (cu : Cur) : Bool :=
  cu.lanes.any (fun l => outstanding m { g := cu.g, lane := l }) || drainsBefore m cu.g m.serial
    || (let know := cu.lanes.foldl (fun v l => vcMerge v (thrOf m cu.g l).know) [0, 0, 0, 0]
        m.flight.any (fun y => canApply m y && serBefore y.epoch (lget know y.die 0)))

/-- The instruction reads memory at issue, after the earlier accesses of its members (09 R262). -/
def readsAtIssue : Instr → Bool
  | .rfet _ _ | .rfett _ _ | .xcon _ _ | .nest _ _ | .nred _ _ | .cpy _ _ | .xinv _ _ => true
  | .mma h _ => bitOf h.fn.toNat 5
  | _ => false

def posts : Instr → Bool
  | .mma _ _ | .mmsp _ _ => true
  | _ => false

/-- The group's slice stands in the open instance of the channel (09 R267). -/
def sliceStands (m : Mach) (g team : Nat) : Instr → Bool
  | .cpy _ o => (teamOf m team).chans.any (fun (k, x) => k % 16 == bitsOf o.ctl.toNat 15 12 && x.slices.any (fun (h, _) => h == g))
  | _ => false

/-- Every token that the wait mask names is zero in every member. -/
def tokensZero (m : Mach) (cu : Cur) (h : Hdr) : Bool :=
  (List.range 4).all (fun k => !bitOf h.wt.toNat k || cu.lanes.all (fun l => tokCount (thrOf m cu.g l) cu.hm k == 0))

/-- The set may issue an instruction; `tab` says whether the reservation table counts. -/
def instrReady (m : Mach) (cu : Cur) (tab : Bool) (i : Instr) : Bool :=
  let gr := grpOf m cu.g
  (match hdrOfInstr i with | some h => tokensZero m cu h | none => true)
    && tilesReady m gr.core i
    && !((teamOf m gr.team).susp == .swapped && usesTiles i)
    && !(tab && posts i && !tableTakes m cu.g gr.core)
    && !sliceStands m cu.g gr.team i
    && !(readsAtIssue i && readWaits m cu)

/-! Convergence sets (01 R22). -/

/-- Idle threads of a group at the place of one of them. -/
def setAt0 (now : Nat) (gr : Group) (t : Thread) : List Nat :=
  gr.th.zipIdx.filterMap (fun (u, j) => if thrIdle now u && u.pc == t.pc && u.hm == t.hm && u.solo == t.solo then some j else none)

/-- What a set would issue: one instruction, a pair, or nothing when the fetch stops. -/
def nextInstrs (e : Env) (m : Mach) (cu : Cur) : List Instr :=
  let gr := grpOf m cu.g
  match (fetchLine e m gr.core (teamOf m gr.team).part cu.pc).2 with
  | .line l => (match decodeAt l cu.pc cu.solo with | .one i _ => [i] | .two a b _ => [a, b] | .bad => [])
  | _ => []

/-- The ready members at the place of a thread, when they may issue. -/
def setOf (e : Env) (m : Mach) (tab : Bool) (g : Nat) (gr : Group) (t : Thread) : Option (Cur × List Instr) :=
  let c0 : Cur := { g := g, pc := t.pc, next := t.pc, lanes := setAt0 e.now gr t, hm := t.hm, pair := false, second := false, solo := t.solo, trapped := [] }
  let l := nextInstrs e m c0
  let cu := { c0 with lanes := c0.lanes.filter (memberReady m g t.hm l) }
  if cu.lanes.isEmpty || !l.all (instrReady m cu tab) then none else some (cu, l)

/-- Sets of a group that may issue, each by its first member. -/
def readySets (e : Env) (m : Mach) (tab : Bool) (g : Nat) (gr : Group) : List (Cur × List Instr) :=
  if !grpIssues m gr then []
  else gr.th.zipIdx.filterMap (fun (t, j) => if thrIdle e.now t && (setAt0 e.now gr t).headD 0 == j then setOf e m tab g gr t else none)

/-- Longest wait since its own last issue in a set, then the lowest lane: the set that is chosen. -/
def setRank (m : Mach) (cu : Cur) : Nat × Nat :=
  cu.lanes.foldl (fun b l => let a := ((thrOf m cu.g l).lastIssue, l); if a.1 < b.1 || (a.1 == b.1 && a.2 < b.2) then a else b)
    ((thrOf m cu.g (cu.lanes.headD 0)).lastIssue, cu.lanes.headD 0)

/-- The least element under an order. -/
def leastBy {α : Type} (lt : α → α → Bool) : List α → Option α
  | [] => none
  | a :: r => some (r.foldl (fun b x => if lt x b then x else b) a)

def pairLt (a b : Nat × Nat) : Bool := decide (a.1 < b.1) || (a.1 == b.1 && decide (a.2 < b.2))

def chooseSet (e : Env) (m : Mach) (g : Nat) (gr : Group) : Option Cur :=
  leastBy (fun a b => pairLt (setRank m a) (setRank m b)) ((readySets e m true g gr).map (·.1))

/-! The choice of a scheduler (01 R33, R34). -/

/-- Groups of a scheduler with the set that each would issue. -/
def readyOf (e : Env) (m : Mach) (key : Nat) : List (Group × Cur) :=
  m.groups.filterMap (fun (g, gr) => if schedKeyOf gr = key then (chooseSet e m g gr).map (fun cu => (gr, cu)) else none)

/-- Greatest age, then the lowest group index. -/
def older (a b : Group × Cur) : Bool := pairLt (max a.1.lastIssue a.1.readySince, a.1.gi) (max b.1.lastIssue b.1.readySince, b.1.gi)

/-- The set that a scheduler issues in this clock: of the group whose run continues, else of the oldest; and whether a run begins. -/
def schedChoice (e : Env) (m : Mach) (key : Nat) : Option (Cur × Bool) :=
  let l := readyOf e m key
  match (schedOf m key).run.bind (fun r => l.find? (fun x => x.2.g == r.g)) with
  | some x => some (x.2, false)
  | none => (leastBy older l).map (fun x => (x.2, true))

def schedKeys (m : Mach) : List Nat := (sortBy (· ≤ ·) (m.groups.map (fun (_, gr) => schedKeyOf gr))).eraseDups

/-- The next scheduler that issues in this clock. -/
def nextIssue (s : State) : Option (Nat × Cur × Bool) :=
  ((schedKeys s.m).filter (fun k => s.clk.turn.all (fun j => decide (j < k)))).findSome? (fun k => (schedChoice s.env s.m k).map (fun x => (k, x)))

/-- A run begins: every latch is invalid (01 R39). -/
def beginRun (m : Mach) (key g : Nat) : Mach :=
  { updSched m key (fun sc => { sc with run := some { g := g, n := 0, id := m.serial }, xs := [] }) with serial := m.serial + 1 }

/-- The set stands selected. -/
def select (s : State) (key : Nat) (cu : Cur) (fresh : Bool) : State :=
  let m1 := if fresh then beginRun s.m key cu.g else s.m
  { s.withMach { m1 with cur := some cu } with clk := { s.clk with turn := key :: s.clk.turn } }

/-- Runs end whose group has not issued in this clock. -/
def endRuns (s : State) : State :=
  s.withMach { s.m with scheds := s.m.scheds.map (fun (k, sc) => if sc.run.isSome && !s.clk.turn.contains k then (k, { sc with run := none, xs := [] }) else (k, sc)) }

/-- Groups that are not ready in this clock become so at the earliest in the next (01 R33). -/
def noteReady (e : Env) (m : Mach) : Mach :=
  { m with groups := m.groups.map (fun (g, gr) => if (readySets e m true g gr).isEmpty then (g, { gr with readySince := e.now + 1 }) else (g, gr)) }

/-- Groups that wait for an entry of the reservation table, in the order in which they began (09 R281). -/
def noteTable (e : Env) (m : Mach) : Mach :=
  m.groups.foldl (fun m (g, gr) =>
    let wants := (readySets e m false g gr).any (fun x => x.2.any posts) || m.copies.any (fun (_, cp) => cp.g == g && cp.xcon.any (fun x => !x.nexts.isEmpty && !x.posted))
    let cl := clusterOf gr.core
    let w := (clusOf m cl).mwait
    if wants && !w.contains g && !tableTakes m g gr.core then updClus m cl (fun c => { c with mwait := c.mwait ++ [g] })
    else if !wants && w.contains g then updClus m cl (fun c => { c with mwait := c.mwait.filter (· != g) })
    else m) m

/-! Steps of the device by phase of a clock. -/

def firstNat (l : List Nat) (p : Nat → Bool) (f : Nat → Instr) : Option Instr := (l.find? p).map f
def firstPair (l : List (Nat × Nat)) (p : Nat × Nat → Bool) (f : Nat → Nat → Instr) : Option Instr := (l.find? p).map (fun x => f x.1 x.2)

def whenDue (b : Bool) (i : Instr) : Option Instr := if b then some i else none

def keysOf {α : Type} (t : Tab α) : List Nat := t.map (·.1)

/-- Every lane of every group. -/
def lanesAll (m : Mach) : List (Nat × Nat) := m.groups.flatMap (fun (g, gr) => (List.range gr.th.length).map (fun j => (g, j)))

/-- Every block of every graph. -/
def blocksAll (m : Mach) : List (Nat × Nat) := m.graphs.flatMap (fun (g, gr) => gr.blocks.map (fun (k, _) => (g, k)))

def isResuming (t : Team) : Bool := match t.susp with | .resuming _ => true | _ => false

/-- Landings, arrivals of signals, ends of waits and starts, before the inputs and the issue of a clock. -/
def duePhase0 (s : State) : Option Instr :=
  let m := s.m
  whenDue (nextLand s).isSome .resultLand
  <|> firstNat (keysOf m.clusters) (passDue s) .matrixPassComplete
  <|> firstNat (keysOf m.teams) (resumeDue s) .resumeArrival
  <|> firstNat (keysOf m.teams) (stopDue s) .stopArrival
  <|> (m.prem.find? (fun p => decide (p.tm ≤ s.clk.now))).map (fun p => .preemptionSignal p.cores)
  <|> firstNat (keysOf m.teams) (fun k => isResuming (teamOf m k) && resumptionDue s k) .teamResumption
  <|> firstNat (keysOf m.cores) (swapDue s) .shadowSwapComplete
  <|> firstPair (lanesAll m) (fun x => stepDue s x.1 x.2) .singleStep
  <|> firstPair (lanesAll m) (fun x => entryDue s x.1 x.2) .handlerEntry
  <|> firstPair ((keysOf m.groups).flatMap (fun g => (List.range 4).map (fun b => (g, b)))) (fun x => cvwDue s x.1 x.2) .cvwRelease
  <|> firstNat (barKeys m) (barDue s) .barDeparture
  <|> firstNat (m.teams.flatMap (fun (_, t) => t.claims.map (·.id))) (claimDue s) .claimGrant
  <|> firstNat (keysOf m.teams) (deadlockDue s) .deadlockDetect
  <|> firstNat (keysOf m.groups) (launchDue s) .dispatchLaunch
  <|> whenDue (nextStart s).isSome .teamStart
  <|> whenDue (nextFormed s).isSome .standingTeamFormed
  <|> firstNat (List.range 4) (isolationDue s) .isolation

/-- What the environment does: the other rows of the table follow from the state. -/
def envRow : Instr → Bool
  | .qtailDoorbell _ _ | .queueRunWrite _ _ | .faultFill _ _ | .faultRefuse _ _ _ | .dbgcResume _ | .taskGraphTrigger _ _ | .msixUnmask _
  | .imageLoadStart _ | .fcalReply _ _ _ _ | .invalidationStart _ _ _ _ _ | .parkRelease _ | .imgbWrite _ _ | .partitionEnable _ _
  | .placeTableCommit _ | .clusterResetGo _ _ | .restore _ | .moduleReset | .monitorLevel | .lpddrOnlyLevel | .hbmRelease _ | .mailboxStart _
  | .functionLevelReset | .hostMemAccess _ _ _ | .registerWrite _ _ _ _ | .preemptionSignal _ | .teamResumption _ => true
  | _ => false

/-- A resumption waits until the shadow banks are free; every other input is taken at its clock. -/
def inputTaken (s : State) (x : Nat × Instr) : Bool :=
  decide (x.1 ≤ s.clk.now) && (match x.2 with | .teamResumption t => (teamOf s.m t).susp != .out || resumptionDue s t | _ => true)

/-- An input that comes late in its clock: a write of RUN or of PREL. -/
def lateInput : Instr → Bool
  | .queueRunWrite _ _ | .parkRelease _ => true
  | .registerWrite _ o _ v => lateReg o v.toNat
  | _ => false

/-- The place of the input that is taken next, among the early or the late ones of a clock. -/
def nextInput (s : State) (late : Bool) : Option Nat :=
  (List.range s.sys.inputs.length).find? (fun k => s.sys.inputs[k]?.any (fun x => lateInput x.2 == late && inputTaken s x))

/-- The row that performs a message. -/
def rowInstr (id : Nat) : MRow → Instr
  | .access => .memoryAccessPerform id
  | .hand => .handQueueApply id
  | .inbox => .inboxMessageArrival id
  | .inc => .arrivalIncrement id
  | .colophon => .colophonWrite id
  | .input => .inputAccession id
  | .record => .recordArrival id
  | .residual => .residualPostApply id
  | .answer => .catalogueAnswer id

/-- Accesses come before wakes and messages of one clock, and every write before the arming of a monitor (08 R260); a snap follows the choice. -/
def msgRank : Body → Nat
  | .monArm _ => 3
  | .wake _ _ | .ring _ _ _ _ _ | .push _ _ _ _ | .arrInc _ _ _ | .seal _ _ _ _ => 2
  | .record _ _ _ | .input _ _ _ | .rput _ _ _ _ _ | .outcome _ _ | .ralc _ _ _ _ _ | .rsd _ _ _ _ => 1
  | _ => 0

def isSnap : Body → Bool
  | .snap _ _ _ _ _ => true
  | _ => false

/-- The message that is performed next. -/
def nextMsg (s : State) (snaps : Bool) : Option Instr :=
  let key := fun (x : Msg) => [msgRank x.body, x.due, x.id]
  (leastBy (fun a b => decide (key a < key b)) (s.m.flight.filter (fun x => isSnap x.body == snaps && msgDue s (msgRow x.body) x.id))).map
    (fun x => rowInstr x.id (msgRow x.body))

def flightIds (m : Mach) : List Nat := m.flight.map (·.id)

/-- Homes and Catalogues. DESIGN CHOICE: an entry of a Catalogue that becomes free in a clock goes to a record for a fresh block that arrives in that clock before the blocks that wait for one; the spec says which of those that wait comes first, and nothing of an arrival (02 R46; entry 62 of the assumption log). -/
def duePhase3 (s : State) : Option Instr :=
  let m := s.m
  firstPair (blocksAll m) (fun x => retireDue s x.1 x.2) .dispatchRetire
  <|> nextMsg s false
  <|> firstNat (flightIds m) (cutDue s) .cutPacketArrival
  <|> firstNat (flightIds m) (refusalDue s) .isolatedPacketAnswer
  <|> firstNat (flightIds m) (deferDue s) .packetDeferral
  <|> firstNat (flightIds m) (causalDue s) .causalBufferRelease
  <|> firstPair (m.cores.flatMap (fun (c, x) => x.markers.map (fun y => (c, y.2)))) (fun x => markerDue s x.1 x.2) .senderResetMarker
  <|> firstNat (List.range 4) (activationDue s) .blockActivation
  <|> firstPair (blocksAll m) (fun x => lapseDue s x.1 x.2) .coalescingTimerLapse
  <|> firstNat (List.range 4) (choiceDue s) .catalogueChoice
  <|> nextMsg s true
  <|> firstNat (keysOf m.graphs) (answerDue s) .probeAnswer
  <|> firstNat (keysOf m.graphs) (probeDue s) .probeStart
  <|> firstNat (keysOf m.graphs) (reportDue s) .reportWrite
  <|> firstPair (lanesAll m) (fun x => timeoutDue s x.1 x.2) .mwtTimeout

/-- Engines, walks, flushes and spills. -/
def duePhase4 (s : State) : Option Instr :=
  let m := s.m
  firstNat (keysOf m.copies) (engDue s) .enginePacketWrite
  <|> firstPair (m.teams.flatMap (fun (t, x) => (keysOf x.chans).map (fun c => (t, c)))) (fun x => chanDue s x.1 x.2) .copyInstanceStart
  <|> firstNat (keysOf m.clusters) (grantDue s) .matrixGrant
  <|> firstNat (keysOf m.flushes) (drainDue s) .atomicBufferDrain
  <|> whenDue (nextWalk s).isSome .pageWalk
  <|> firstPair (lanesAll m) (fun x => pollDue s x.1 x.2) .monitorPoll
  <|> whenDue (nextRetry s).isSome .qwaitRetry
  <|> firstNat (keysOf m.teams) (spillDue s) .spill
  <|> firstNat (keysOf m.teams) (copyDue s) .allocationCopyComplete
  <|> firstNat (keysOf m.teams) (backDue s) .copyBackComplete
  <|> firstNat m.hostLines (recallDue s) .backInvalidate

/-- Rows that start the next packet of a queue. -/
def packetRows : List (Nat × (Nat → Instr)) :=
  [(0, .nopPacket), (1, .launch), (2, .write), (3, .signalPacket), (4, .waitPacket), (5, .indirect), (7, .input), (8, .trigger),
   (96, .loadStandingGraph), (97, .startStandingGraph), (98, .stopStandingGraph), (99, .resetStandingGraph), (100, .unloadStandingGraph),
   (104, .loadTaskGraph), (105, .unloadTaskGraph)]

/-- The next packet of a queue. -/
def nextPacket (s : State) (q : Nat) : Option Instr := (packetRows.find? (fun r => pktDue s q r.1)).map (fun r => r.2 q)

/-- Rows that carry out a node of a task graph. -/
def nodeRows : List (Nat × (Nat → Nat → Instr)) :=
  [(0, .launchNode), (1, .standingNode), (2, .conditionalNode), (3, .loopNode), (4, .copyNode), (6, .signalNode)]

/-- The next step of a task graph. -/
def nextNode (s : State) (k : Nat) : Option Instr :=
  let p := k / 64
  let g := k % 64
  (nodeRows.find? (fun r => nodeDue s r.1 p g)).map (fun r => r.2 p g)
  <|> (if waitNodeDue s p g then some (.waitNode p g) else none)
  <|> (if waitMetDue s (2 * k + 1) then some (.waitConditionMet (2 * k + 1)) else none)
  <|> (if runEndDue s p g then some (.taskGraphRunEnd p g) else none)

def pktIds (s : State) : List Nat := s.sys.queues.flatMap (fun (_, x) => x.pkts.map (·.id))

/-- The Front End, bring-up and power. -/
def duePhase5 (s : State) : Option Instr :=
  firstNat (keysOf s.m.grids) (gridDue s) .gridComplete
  <|> firstNat (List.range 16) (sliceDue s) .timeSliceSwitch
  <|> (keysOf s.sys.queues).findSome? (nextPacket s)
  <|> (keysOf s.sys.tasks).findSome? (nextNode s)
  <|> firstNat (pktIds s) (fun k => waitMetDue s (2 * k)) (fun k => .waitConditionMet (2 * k))
  <|> firstNat (pktIds s) (slotDue s) .inputSlotFreed
  <|> firstNat (keysOf s.sys.queues) (owedDue s) .completionWordWrite
  <|> whenDue (loadDue s) .imageLoadComplete
  <|> whenDue (clockStepDue s) .clockStepUpdate
  <|> whenDue (tripDue s) .thermalTrip
  <|> firstNat (List.range 4) (resetDue s) .resetComplete

/-- Interrupt messages. -/
def duePhase6 (s : State) : Option Instr := firstNat (keysOf s.sys.vecs) (msixDue s) .msixMessage

/-- The step of the device that is due in the phase at hand. -/
def dueNow (s : State) : Option Instr :=
  match s.clk.phase with
  | 0 => duePhase0 s
  | 3 => duePhase3 s
  | 4 => duePhase4 s
  | 5 => duePhase5 s
  | 6 => duePhase6 s
  | _ => none

/-- The package counter against the core clock: one count in 16 − CSTEP sixteenths of a core clock (19 R427). -/
def tick (c : Clk) (cstep : Nat) : Clk :=
  { now := c.now + 1, pcnt := c.pcnt + (c.frac + 16) / (16 - cstep), frac := (c.frac + 16) % (16 - cstep), phase := 0, turn := [] }

/-- The clock's own memory of the causes it raised ends with it (16 R361). -/
def endRaised (m : Mach) : Mach := { m with groups := m.groups.map (fun x => (x.1, { x.2 with raised := 0 })) }

/-- Triggers of a clock no longer meet the end of a run of that clock (14 R355). -/
def endTriggers (sys : Sys) : Sys := { sys with tasks := sys.tasks.map (fun (k, t) => (k, { t with late := false })) }

/-- THRESH, TIMER and AGEL take effect at the next choice, which a Catalogue makes in every even clock (02 R47, R63). DEDUCED: they stand from the first of the Catalogue's events of that clock. -/
def takeDesc (gr : Graph) : Graph :=
  { gr with nodes := gr.nodes.zipIdx.map (fun (n, i) => (n.zip (lget gr.desc i n)).zipIdx.map (fun ((a, b), w) =>
      if w = 4 then a % 2 ^ 32 + b / 2 ^ 32 * 2 ^ 32 else if w = 3 then putBits (putBits a 63 48 (bitsOf b 63 48)) 27 23 (bitsOf b 27 23) else a)) }

def takeDescs (m : Mach) : Mach := { m with graphs := m.graphs.map (fun (k, gr) => (k, if gr.nodes == gr.desc then gr else takeDesc gr)) }

/-- The next phase, or the next clock. -/
def nextPhase (s : State) : State :=
  match s.clk.phase with
  | 1 => { s.mapM (fun e m => noteReady e (noteTable e m)) with clk := { s.clk with phase := 2, turn := [] } }
  | 2 => let s1 := endRuns s; { s1 with m := if s.clk.now % 2 = 0 then takeDescs s1.m else s1.m, clk := { s.clk with phase := 3, turn := [] } }
  | 6 => { s with m := freeFaults s.env (endRaised s.m), sys := endTriggers s.sys, clk := tick s.clk s.sys.dev.cstep }
  | p => { s with clk := { s.clk with phase := p + 1 } }

end Sys2Proof.Machine
end

