-- ==== Sys2Proof/Machine/Dispatch.lean ====
section
/-! DEFINITION. The meaning of every instruction: one arm per constructor of Instr. -/
namespace Sys2Proof.Machine
open Sys2Proof

/-- One instruction, or one step of the device. -/
def exec (i : Instr) (s : State) : Host.Outcome State Fault Refusal :=
  match i with
  | .add h o => Sys2Proof.Machine.execAdd h o s
  | .sub h o => Sys2Proof.Machine.execSub h o s
  | .mul h o => Sys2Proof.Machine.execMul h o s
  | .mulh h o => Sys2Proof.Machine.execMulh h o s
  | .mad h o => Sys2Proof.Machine.execMad h o s
  | .div h o => Sys2Proof.Machine.execDiv h o s
  | .rem h o => Sys2Proof.Machine.execRem h o s
  | .neg h o => Sys2Proof.Machine.execNeg h o s
  | .abs h o => Sys2Proof.Machine.execAbs h o s
  | .min h o => Sys2Proof.Machine.execMin h o s
  | .max h o => Sys2Proof.Machine.execMax h o s
  | .and h o => Sys2Proof.Machine.execAnd h o s
  | .or h o => Sys2Proof.Machine.execOr h o s
  | .xor h o => Sys2Proof.Machine.execXor h o s
  | .not h o => Sys2Proof.Machine.execNot h o s
  | .shl h o => Sys2Proof.Machine.execShl h o s
  | .shr h o => Sys2Proof.Machine.execShr h o s
  | .sra h o => Sys2Proof.Machine.execSra h o s
  | .rot h o => Sys2Proof.Machine.execRot h o s
  | .clz h o => Sys2Proof.Machine.execClz h o s
  | .popc h o => Sys2Proof.Machine.execPopc h o s
  | .brev h o => Sys2Proof.Machine.execBrev h o s
  | .bfx h o => Sys2Proof.Machine.execBfx h o s
  | .bfi h o => Sys2Proof.Machine.execBfi h o s
  | .cmp h o => Sys2Proof.Machine.execCmp h o s
  | .sel h o => Sys2Proof.Machine.execSel h o s
  | .lea h o => Sys2Proof.Machine.execLea h o s
  | .addc h o => Sys2Proof.Machine.execAddc h o s
  | .movi h o => Sys2Proof.Machine.execMovi h o s
  | .movw h o => Sys2Proof.Machine.execMovw h o s
  | .cvt h o => Sys2Proof.Machine.execCvt h o s
  | .mov h o => Sys2Proof.Machine.execMov h o s
  | .fadd h o => Sys2Proof.Machine.execFadd h o s
  | .fsub h o => Sys2Proof.Machine.execFsub h o s
  | .fmul h o => Sys2Proof.Machine.execFmul h o s
  | .fma h o => Sys2Proof.Machine.execFma h o s
  | .fmin h o => Sys2Proof.Machine.execFmin h o s
  | .fmax h o => Sys2Proof.Machine.execFmax h o s
  | .fabs h o => Sys2Proof.Machine.execFabs h o s
  | .fneg h o => Sys2Proof.Machine.execFneg h o s
  | .fcmp h o => Sys2Proof.Machine.execFcmp h o s
  | .fdiv h o => Sys2Proof.Machine.execFdiv h o s
  | .fsqrt h o => Sys2Proof.Machine.execFsqrt h o s
  | .frcp h o => Sys2Proof.Machine.execFrcp h o s
  | .frsq h o => Sys2Proof.Machine.execFrsq h o s
  | .fex2 h o => Sys2Proof.Machine.execFex2 h o s
  | .flg2 h o => Sys2Proof.Machine.execFlg2 h o s
  | .fsin h o => Sys2Proof.Machine.execFsin h o s
  | .fcos h o => Sys2Proof.Machine.execFcos h o s
  | .frnd h o => Sys2Proof.Machine.execFrnd h o s
  | .fcls h o => Sys2Proof.Machine.execFcls h o s
  | .fscl h o => Sys2Proof.Machine.execFscl h o s
  | .fclp h o => Sys2Proof.Machine.execFclp h o s
  | .fdot2 h o => Sys2Proof.Machine.execFdot2 h o s
  | .fcvt h o => Sys2Proof.Machine.execFcvt h o s
  | .nscl h o => Sys2Proof.Machine.execNscl h o s
  | .npck h o => Sys2Proof.Machine.execNpck h o s
  | .nunp h o => Sys2Proof.Machine.execNunp h o s
  | .ndot h o => Sys2Proof.Machine.execNdot h o s
  | .pchk h o => Sys2Proof.Machine.execPchk h o s
  | .pchkProv h o => Sys2Proof.Machine.execPchkProv h o s
  | .pmrk h o => Sys2Proof.Machine.execPmrk h o s
  | .pfix h o => Sys2Proof.Machine.execPfix h o s
  | .plog h o => Sys2Proof.Machine.execPlog h o s
  | .shfl h o => Sys2Proof.Machine.execShfl h o s
  | .vote h o => Sys2Proof.Machine.execVote h o s
  | .blot h o => Sys2Proof.Machine.execBlot h o s
  | .redx h o => Sys2Proof.Machine.execRedx h o s
  | .scan h o => Sys2Proof.Machine.execScan h o s
  | .sred h o => Sys2Proof.Machine.execSred h o s
  | .rdl h o => Sys2Proof.Machine.execRdl h o s
  | .wrl h o => Sys2Proof.Machine.execWrl h o s
  | .mtch h o => Sys2Proof.Machine.execMtch h o s
  | .getc h o => Sys2Proof.Machine.execGetc h o s
  | .setc h o => Sys2Proof.Machine.execSetc h o s
  | .getid h o => Sys2Proof.Machine.execGetid h o s
  | .clk h o => Sys2Proof.Machine.execClk h o s
  | .bra h o => Sys2Proof.Machine.execBra h o s
  | .brx h o => Sys2Proof.Machine.execBrx h o s
  | .call h o => Sys2Proof.Machine.execCall h o s
  | .cali h o => Sys2Proof.Machine.execCali h o s
  | .ret h o => Sys2Proof.Machine.execRet h o s
  | .cvb h o => Sys2Proof.Machine.execCvb h o s
  | .cvbCur h o => Sys2Proof.Machine.execCvbCur h o s
  | .cvw h o => Sys2Proof.Machine.execCvw h o s
  | .exit h o => Sys2Proof.Machine.execExit h o s
  | .yield h o => Sys2Proof.Machine.execYield h o s
  | .nop h o => Sys2Proof.Machine.execNop h o s
  | .loop h o => Sys2Proof.Machine.execLoop h o s
  | .ld h o => Sys2Proof.Machine.execLd h o s
  | .st h o => Sys2Proof.Machine.execSt h o s
  | .ldt h o => Sys2Proof.Machine.execLdt h o s
  | .stt h o => Sys2Proof.Machine.execStt h o s
  | .ldv h o => Sys2Proof.Machine.execLdv h o s
  | .pfx h o => Sys2Proof.Machine.execPfx h o s
  | .atom h o => Sys2Proof.Machine.execAtom h o s
  | .cas h o => Sys2Proof.Machine.execCas h o s
  | .red h o => Sys2Proof.Machine.execRed h o s
  | .rfl h o => Sys2Proof.Machine.execRfl h o s
  | .fence h o => Sys2Proof.Machine.execFence h o s
  | .mon h o => Sys2Proof.Machine.execMon h o s
  | .mwt h o => Sys2Proof.Machine.execMwt h o s
  | .qwait h o => Sys2Proof.Machine.execQwait h o s
  | .wake h o => Sys2Proof.Machine.execWake h o s
  | .bar h o => Sys2Proof.Machine.execBar h o s
  | .bsc h o => Sys2Proof.Machine.execBsc h o s
  | .arrvSet h o => Sys2Proof.Machine.execArrvSet h o s
  | .arrvAdd h o => Sys2Proof.Machine.execArrvAdd h o s
  | .awt h o => Sys2Proof.Machine.execAwt h o s
  | .qpush h o => Sys2Proof.Machine.execQpush h o s
  | .qpop h o => Sys2Proof.Machine.execQpop h o s
  | .lend h o => Sys2Proof.Machine.execLend h o s
  | .claim h o => Sys2Proof.Machine.execClaim h o s
  | .send h o => Sys2Proof.Machine.execSend h o s
  | .cpy h o => Sys2Proof.Machine.execCpy h o s
  | .cpym h o => Sys2Proof.Machine.execCpym h o s
  | .rfet h o => Sys2Proof.Machine.execRfet h o s
  | .rfett h o => Sys2Proof.Machine.execRfett h o s
  | .cseal h o => Sys2Proof.Machine.execCseal h o s
  | .mma h o => Sys2Proof.Machine.execMma h o s
  | .mmsp h o => Sys2Proof.Machine.execMmsp h o s
  | .tzro h o => Sys2Proof.Machine.execTzro h o s
  | .tmov h o => Sys2Proof.Machine.execTmov h o s
  | .kbnd h o => Sys2Proof.Machine.execKbnd h o s
  | .trmxGet h o => Sys2Proof.Machine.execTrmxGet h o s
  | .trmxPut h o => Sys2Proof.Machine.execTrmxPut h o s
  | .ralc h o => Sys2Proof.Machine.execRalc h o s
  | .rput h o => Sys2Proof.Machine.execRput h o s
  | .rputIn h o => Sys2Proof.Machine.execRputIn h o s
  | .rget h o => Sys2Proof.Machine.execRget h o s
  | .rdon h o => Sys2Proof.Machine.execRdon h o s
  | .rsd h o => Sys2Proof.Machine.execRsd h o s
  | .post h o => Sys2Proof.Machine.execPost h o s
  | .snap h o => Sys2Proof.Machine.execSnap h o s
  | .nest h o => Sys2Proof.Machine.execNest h o s
  | .nred h o => Sys2Proof.Machine.execNred h o s
  | .xcon h o => Sys2Proof.Machine.execXcon h o s
  | .trap h o => Sys2Proof.Machine.execTrap h o s
  | .tret h o => Sys2Proof.Machine.execTret h o s
  | .tclr h o => Sys2Proof.Machine.execTclr h o s
  | .brk h o => Sys2Proof.Machine.execBrk h o s
  | .park h o => Sys2Proof.Machine.execPark h o s
  | .tres h o => Sys2Proof.Machine.execTres h o s
  | .tresW h o => Sys2Proof.Machine.execTresW h o s
  | .plcw h o => Sys2Proof.Machine.execPlcw h o s
  | .xinv h o => Sys2Proof.Machine.execXinv h o s
  | .swap h o => Sys2Proof.Machine.execSwap h o s
  | .fcal h o => Sys2Proof.Machine.execFcal h o s
  | .diag h o => Sys2Proof.Machine.execDiag h o s
  | .memoryAccessPerform id => Sys2Proof.Machine.execMemoryAccessPerform id s
  | .monitorPoll g lane => Sys2Proof.Machine.execMonitorPoll g lane s
  | .mwtTimeout g lane => Sys2Proof.Machine.execMwtTimeout g lane s
  | .claimGrant k => Sys2Proof.Machine.execClaimGrant k s
  | .deadlockDetect team => Sys2Proof.Machine.execDeadlockDetect team s
  | .cvwRelease g cb => Sys2Proof.Machine.execCvwRelease g cb s
  | .barDeparture k => Sys2Proof.Machine.execBarDeparture k s
  | .atomicBufferDrain k => Sys2Proof.Machine.execAtomicBufferDrain k s
  | .causalBufferRelease id => Sys2Proof.Machine.execCausalBufferRelease id s
  | .handQueueApply id => Sys2Proof.Machine.execHandQueueApply id s
  | .inboxMessageArrival id => Sys2Proof.Machine.execInboxMessageArrival id s
  | .senderResetMarker core ring => Sys2Proof.Machine.execSenderResetMarker core ring s
  | .arrivalIncrement id => Sys2Proof.Machine.execArrivalIncrement id s
  | .colophonWrite id => Sys2Proof.Machine.execColophonWrite id s
  | .copyInstanceStart team chan => Sys2Proof.Machine.execCopyInstanceStart team chan s
  | .enginePacketWrite eng => Sys2Proof.Machine.execEnginePacketWrite eng s
  | .matrixGrant cluster => Sys2Proof.Machine.execMatrixGrant cluster s
  | .matrixPassComplete cluster => Sys2Proof.Machine.execMatrixPassComplete cluster s
  | .inputAccession id => Sys2Proof.Machine.execInputAccession id s
  | .recordArrival id => Sys2Proof.Machine.execRecordArrival id s
  | .residualPostApply id => Sys2Proof.Machine.execResidualPostApply id s
  | .catalogueAnswer id => Sys2Proof.Machine.execCatalogueAnswer id s
  | .blockActivation die => Sys2Proof.Machine.execBlockActivation die s
  | .coalescingTimerLapse graph blk => Sys2Proof.Machine.execCoalescingTimerLapse graph blk s
  | .catalogueChoice die => Sys2Proof.Machine.execCatalogueChoice die s
  | .dispatchLaunch g => Sys2Proof.Machine.execDispatchLaunch g s
  | .dispatchRetire graph blk => Sys2Proof.Machine.execDispatchRetire graph blk s
  | .probeStart graph => Sys2Proof.Machine.execProbeStart graph s
  | .probeAnswer graph => Sys2Proof.Machine.execProbeAnswer graph s
  | .reportWrite graph => Sys2Proof.Machine.execReportWrite graph s
  | .gridComplete grid => Sys2Proof.Machine.execGridComplete grid s
  | .handlerEntry g lane => Sys2Proof.Machine.execHandlerEntry g lane s
  | .faultFill cluster entry => Sys2Proof.Machine.execFaultFill cluster entry s
  | .faultRefuse cluster entry prot => Sys2Proof.Machine.execFaultRefuse cluster entry prot s
  | .stopArrival team => Sys2Proof.Machine.execStopArrival team s
  | .dbgcResume team => Sys2Proof.Machine.execDbgcResume team s
  | .resumeArrival team => Sys2Proof.Machine.execResumeArrival team s
  | .singleStep g lane => Sys2Proof.Machine.execSingleStep g lane s
  | .preemptionSignal cores => Sys2Proof.Machine.execPreemptionSignal cores s
  | .shadowSwapComplete core => Sys2Proof.Machine.execShadowSwapComplete core s
  | .spill team => Sys2Proof.Machine.execSpill team s
  | .packetDeferral id => Sys2Proof.Machine.execPacketDeferral id s
  | .allocationCopyComplete team => Sys2Proof.Machine.execAllocationCopyComplete team s
  | .teamResumption team => Sys2Proof.Machine.execTeamResumption team s
  | .qtailDoorbell q value => Sys2Proof.Machine.execQtailDoorbell q value s
  | .queueRunWrite q run => Sys2Proof.Machine.execQueueRunWrite q run s
  | .nopPacket q => Sys2Proof.Machine.execNopPacket q s
  | .launch q => Sys2Proof.Machine.execLaunch q s
  | .write q => Sys2Proof.Machine.execWrite q s
  | .signalPacket q => Sys2Proof.Machine.execSignalPacket q s
  | .waitPacket q => Sys2Proof.Machine.execWaitPacket q s
  | .waitConditionMet k => Sys2Proof.Machine.execWaitConditionMet k s
  | .indirect q => Sys2Proof.Machine.execIndirect q s
  | .loadStandingGraph q => Sys2Proof.Machine.execLoadStandingGraph q s
  | .startStandingGraph q => Sys2Proof.Machine.execStartStandingGraph q s
  | .stopStandingGraph q => Sys2Proof.Machine.execStopStandingGraph q s
  | .resetStandingGraph q => Sys2Proof.Machine.execResetStandingGraph q s
  | .unloadStandingGraph q => Sys2Proof.Machine.execUnloadStandingGraph q s
  | .loadTaskGraph q => Sys2Proof.Machine.execLoadTaskGraph q s
  | .unloadTaskGraph q => Sys2Proof.Machine.execUnloadTaskGraph q s
  | .input q => Sys2Proof.Machine.execInput q s
  | .inputSlotFreed k => Sys2Proof.Machine.execInputSlotFreed k s
  | .trigger q => Sys2Proof.Machine.execTrigger q s
  | .completionWordWrite q => Sys2Proof.Machine.execCompletionWordWrite q s
  | .taskGraphTrigger part graph => Sys2Proof.Machine.execTaskGraphTrigger part graph s
  | .launchNode part graph => Sys2Proof.Machine.execLaunchNode part graph s
  | .standingNode part graph => Sys2Proof.Machine.execStandingNode part graph s
  | .conditionalNode part graph => Sys2Proof.Machine.execConditionalNode part graph s
  | .loopNode part graph => Sys2Proof.Machine.execLoopNode part graph s
  | .copyNode part graph => Sys2Proof.Machine.execCopyNode part graph s
  | .waitNode part graph => Sys2Proof.Machine.execWaitNode part graph s
  | .signalNode part graph => Sys2Proof.Machine.execSignalNode part graph s
  | .taskGraphRunEnd part graph => Sys2Proof.Machine.execTaskGraphRunEnd part graph s
  | .timeSliceSwitch part => Sys2Proof.Machine.execTimeSliceSwitch part s
  | .msixMessage vector => Sys2Proof.Machine.execMsixMessage vector s
  | .msixUnmask vector => Sys2Proof.Machine.execMsixUnmask vector s
  | .imageLoadStart addr => Sys2Proof.Machine.execImageLoadStart addr s
  | .fcalReply die team g value => Sys2Proof.Machine.execFcalReply die team g value s
  | .invalidationStart die addr pages reach part => Sys2Proof.Machine.execInvalidationStart die addr pages reach part s
  | .parkRelease team => Sys2Proof.Machine.execParkRelease team s
  | .imgbWrite team value => Sys2Proof.Machine.execImgbWrite team value s
  | .partitionEnable part run => Sys2Proof.Machine.execPartitionEnable part run s
  | .placeTableCommit part => Sys2Proof.Machine.execPlaceTableCommit part s
  | .clusterResetGo die cluster => Sys2Proof.Machine.execClusterResetGo die cluster s
  | .isolation die => Sys2Proof.Machine.execIsolation die s
  | .cutPacketArrival id => Sys2Proof.Machine.execCutPacketArrival id s
  | .isolatedPacketAnswer id => Sys2Proof.Machine.execIsolatedPacketAnswer id s
  | .resetComplete die => Sys2Proof.Machine.execResetComplete die s
  | .restore die => Sys2Proof.Machine.execRestore die s
  | .hbmRelease die => Sys2Proof.Machine.execHbmRelease die s
  | .mailboxStart addr => Sys2Proof.Machine.execMailboxStart addr s
  | .hostMemAccess pa data write => Sys2Proof.Machine.execHostMemAccess pa data write s
  | .backInvalidate line => Sys2Proof.Machine.execBackInvalidate line s
  | .registerWrite agent offset size value => Sys2Proof.Machine.execRegisterWrite agent offset size value s
  | .copyBackComplete team => Sys2Proof.Machine.execCopyBackComplete team s
  | .resultLand => Sys2Proof.Machine.execResultLand s
  | .qwaitRetry => Sys2Proof.Machine.execQwaitRetry s
  | .pageWalk => Sys2Proof.Machine.execPageWalk s
  | .standingTeamFormed => Sys2Proof.Machine.execStandingTeamFormed s
  | .teamStart => Sys2Proof.Machine.execTeamStart s
  | .imageLoadComplete => Sys2Proof.Machine.execImageLoadComplete s
  | .moduleReset => Sys2Proof.Machine.execModuleReset s
  | .monitorLevel => Sys2Proof.Machine.execMonitorLevel s
  | .lpddrOnlyLevel => Sys2Proof.Machine.execLpddrOnlyLevel s
  | .functionLevelReset => Sys2Proof.Machine.execFunctionLevelReset s
  | .clockStepUpdate => Sys2Proof.Machine.execClockStepUpdate s
  | .thermalTrip => Sys2Proof.Machine.execThermalTrip s

end Sys2Proof.Machine
end

