-- ==== Sys2Proof/Machine/Run.lean ====
section
/-! DEFINITION. One step of the machine: the selected convergence set runs what stands at its PC, or the device takes the next step that is due; and a word placed where the next step fetches. -/
namespace Sys2Proof.Machine
open Sys2Proof

/-- The selected set with the instruction that it runs: one instruction, or the first of a pair. -/
def curOne (cu : Cur) (next : Nat) (pair : Bool) : Cur := { cu with next := next, pair := pair }

/-- In handler mode a set writes no scalar register outside the privileged instructions (16 R365): a pair that would is refused as a whole. -/
def pairRefused (cu : Cur) (a b : Instr) : Bool :=
  cu.hm && ((writesScalar a && !privileged a) || (writesScalar b && !privileged b))

/-- What the set issues from a line of code. -/
def runLine (e : Env) (s : State) (cu : Cur) (l : Nat) : Host.Outcome State Fault Refusal :=
  if cu.second then
    match instrAt l (cu.pc % 8) with
    | some i => exec i s
    | none => .next (s.withMach (fetchStop e s.m cu (.line l)))
  else
    match decodeAt l cu.pc cu.solo with
    | .one i n => exec i (s.withMach { s.m with cur := some (curOne cu n false) })
    | .two a b n =>
      if pairRefused cu a b then .next (s.withMach (fetchStop e s.m cu (.line l)))
      else exec a (s.withMach { s.m with cur := some (curOne cu n true) })
    | .bad => .next (s.withMach (fetchStop e s.m cu (.line l)))

/-- The set fetches the line at its PC and issues (06 R162). -/
def runCur (s : State) (cu : Cur) : Host.Outcome State Fault Refusal :=
  let gr := grpOf s.m cu.g
  let r := fetchLine s.env s.m gr.core (teamOf s.m gr.team).part cu.pc
  match r.2 with
  | .line l => runLine s.env (s.withMach r.1) cu l
  | x => .next (s.withMach (fetchStop s.env r.1 cu x))

/-- The input at a place is taken; what is no act of the environment does nothing. -/
def takeInput (s : State) (k : Nat) : Host.Outcome State Fault Refusal :=
  let s1 : State := { s with sys := { s.sys with inputs := s.sys.inputs.eraseIdx k } }
  match s.sys.inputs[k]? with
  | some (_, i) => if envRow i then exec i s1 else .next s1
  | none => .next s1

/-- No set stands selected: the next step of the device in this phase, the next set, or the next phase. -/
def runDevice (s : State) : Host.Outcome State Fault Refusal :=
  match s.clk.phase with
  | 1 => (match nextInput s false, nextAct s false with
      | some k, _ => takeInput s k
      | none, some k => .next (takeAct k s)
      | none, none => .next (nextPhase s))
  | 2 => (match nextIssue s with | some (k, cu, fresh) => .next (select s k cu fresh) | none => .next (nextPhase s))
  | 6 => (match nextInput s true, nextAct s true, dueNow s with
      | some k, _, _ => takeInput s k
      | none, some k, _ => .next (takeAct k s)
      | none, none, some i => exec i s
      | none, none, none => .next (nextPhase s))
  | _ => (match dueNow s with | some i => exec i s | none => .next (nextPhase s))

/-! A word where the next step fetches. -/

/-- A line of code with one instruction from slot 0 on, its continuation bits and its parity (06 R160, R161). -/
def lineOf (slots : List Nat) : Nat :=
  let body := (slots.zipIdx.map (fun (x, i) => x * 2 ^ (32 + 96 * i))).foldl (· + ·) 0
  let cont := (List.range slots.length).foldl (fun a i => if i = 0 then a else a + 2 ^ (19 + i)) 0
  (List.range 8).foldl (fun a k => if parityOf 60 (body / 2 ^ (32 + 60 * k)) then a + 2 ^ (24 + k) else a) (body + cont)

/-- Physical address of the line: the first byte of die 0's LPDDR. -/
def codeHome : Nat := lpddrBase

/-- The group that fetches: group 0 of team 0 on core 0, one thread with the greatest budget. -/
def codeGroup : Group := Group.launch 0 0 0 0 0 [Thread.launch 0 248 0] (List.replicate 96 0) 0

/-- The team that fetches: partition 0, shelf mark 0, all tiles. -/
def codeTeam : Team :=
  { part := 0, grid := none, graph := none, standing := false, tix := 0, marks := [(0, 1)], ngrp := 1, ent := 0, sh := [248, 0], tiles := 65535,
    spoff := 0, spsz := 0, polb := 0, logix := 0, qrec := [], qmask := 0, qhd := [], bars := List.replicate 4 BarSt.initial, chans := [], claims := [],
    stopAt := none, resumeAt := none, susp := .no, dlAt := none, occ := [0], gone := false, fcalOut := [] }

/-- The line of an instruction stands at virtual address 0 of partition 0, and a thread there stands selected for issue. -/
def placeWord (s : State) (nbits w : Nat) : State :=
  { s with
    sys := { s.sys with parts := tset s.sys.parts 0 { partOf s.sys 0 with en := true, place := tset (partOf s.sys 0).place 0 (2 ^ 63) } },
    m := { s.m with
      mem := memWrite s.m.mem codeHome (toBytes 64 (lineOf (tableSlots (w % 2 ^ max nbits 288)))),
      groups := tset s.m.groups 0 codeGroup,
      teams := tset s.m.teams 0 codeTeam,
      entries := tset s.m.entries 0 { Entry.initial with v := true },
      clusters := tupd s.m.clusters 0 (fun c => { c with code := tdel c.code codeHome }),
      tlb := { lvl := 0, unit := 0, part := 0, va := 0, size := 4096, pa := codeHome, perm := 7, dirty := true } :: s.m.tlb,
      cur := some { g := 0, pc := 0, next := 0, lanes := [0], hm := false, pair := false, second := false, solo := false, trapped := [] } } }

end Sys2Proof.Machine
end

