-- ==== Sys2Proof/Machine/Step.lean ====
section
/-! DEFINITION. The step function, and a word placed where it fetches next. -/
namespace Sys2Proof.Machine
open Sys2Proof

/-- One step: the selected convergence set issues one instruction; with none selected, the device takes its next step once every consequence of the last has settled. -/
def step (s : State) : Host.Outcome State Fault Refusal :=
  match s.m.cur with
  | some cu => runCur s cu
  | none => runDevice (settle s)

/-- The state with an instruction, its bits numbered as spec/opcode_table.json numbers them, where the next step fetches. -/
def State.withFetchWord (s : State) (nbits w : Nat) : State := placeWord s nbits w

end Sys2Proof.Machine
end

