-- ==== Sys2Proof/Safety.lean ====
section
/-! DEFINITION. Terms in which claims are stated: an issue in which every member acts, the state that it leaves, what a frame keeps, and a safe run. -/
namespace Sys2Proof.Machine
open Sys2Proof

/-- A set stands selected for `i` and every member acts: the instruction passes rows 1 to 4 of 06 R180, a privileged one is in handler mode (16 R365), every guard is true, every named register lies below its budget, and the first of the pair, if this is the second, stopped nobody. -/
structure Acts (i : Instr) (h : Hdr) (s : State) (cu : Cur) : Prop where
  sel : s.m.cur = some cu
  ok : legal i = true
  scal : cu.hm = true → writesScalar i = true → privileged i = true
  priv : privileged i = true → cu.hm = true
  fresh : cu.trapped = []
  some : cu.lanes ≠ []
  guard : ∀ l ∈ cu.lanes, guardOf (thrOf s.m cu.g l) h = true
  budget : ∀ l ∈ cu.lanes, budgetOk s.m (ctxOf s.m cu h) i l = true

/-- The same for a set of one thread, lane `l`. -/
structure Solo (i : Instr) (h : Hdr) (s : State) (cu : Cur) (l : Nat) : Prop where
  acts : Acts i h s cu
  one : cu.lanes = [l]

/-- The context of the issue. -/
def issueCtx (s : State) (cu : Cur) (h : Hdr) : Ctx := ctxOf s.m cu h

/-- The machine in which the members act: each stands at its next instruction (01 R36, 06 R165). -/
def issueMach (s : State) (cu : Cur) (h : Hdr) : Mach := advance s.env s.m cu h

/-- The state after an issue that left machine `m`: the run counts the instruction, and the second of a pair follows. -/
def afterIssue (s : State) (cu : Cur) (h : Hdr) (m : Mach) : State :=
  s.withMach { endIssue s.env m cu h.gap.toNat (hasTrapped m cu.g cu.lanes || diverged m cu.g cu.lanes) with cur := nextCur cu [] (pcAfter cu.pc 1) }

/-- One member acts, and its token counts the instruction (01 R38). -/
def memberActs (f : Ctx → Mach → Mach) (c : Ctx) (m : Mach) (l : Nat) : Mach := (c.tokOf l).foldl tokRise (f { c with lane := l } m)

/-- The members act one after another, in lane order. -/
def membersDone (s : State) (cu : Cur) (h : Hdr) (f : Ctx → Mach → Mach) : State :=
  afterIssue s cu h (cu.lanes.foldl (memberActs f (issueCtx s cu h)) (issueMach s cu h))

/-- The set acts once for all its members. -/
def setDone (s : State) (cu : Cur) (h : Hdr) (f : Ctx → Mach → Mach) : State :=
  afterIssue s cu h ((issueCtx s cu h).toks.foldl tokRise (f (issueCtx s cu h) (issueMach s cu h)))

/-- Once for the set when `once` holds (06 R174, 08 R222), else member by member. -/
def actsDone (once : Bool) (s : State) (cu : Cur) (h : Hdr) (f : Ctx → Mach → Mach) : State :=
  if once then setDone s cu h f else membersDone s cu h f

/-- A set of one thread has acted, leaving machine `m`. -/
def soloDone (s : State) (cu : Cur) (h : Hdr) (l : Nat) (m : Mach) : State := afterIssue s cu h (((issueCtx s cu h).tokOf l).foldl tokRise m)

/-- The machine in which the one thread acts, with its context. -/
def soloCtx (s : State) (cu : Cur) (h : Hdr) (l : Nat) : Ctx := { issueCtx s cu h with lane := l }

/-! Completion: where an instruction acts normally, and what it does there. -/

/-- How an instruction acts: once for the set or for each member, the condition that the spec puts on its normal execution, and the effect. -/
structure Effect where
  once : Bool
  cond : Env → Ctx → Mach → Prop
  eff : Env → Ctx → Mach → Mach

/-- An effect without a condition. -/
def Effect.free (once : Bool) (f : Env → Ctx → Mach → Mach) : Effect := { once := once, cond := fun _ _ _ => True, eff := f }

/-- Every member finds the condition when its turn comes, after the members before it have acted. -/
def Along (P : Ctx → Mach → Prop) (f : Ctx → Mach → Mach) (c : Ctx) : List Nat → Mach → Prop
  | [], _ => True
  | l :: r, m => P { c with lane := l } m ∧ Along P f c r (memberActs f c m l)

/-- The set, or every member of it, finds the condition. -/
def NormalCase (x : Effect) (s : State) (cu : Cur) (h : Hdr) : Prop :=
  if x.once then x.cond s.env (issueCtx s cu h) (issueMach s cu h)
  else Along (x.cond s.env) (x.eff s.env) (issueCtx s cu h) cu.lanes (issueMach s cu h)

/-- Where the set is legal and privileged enough, and finds the condition, the instruction answers the next state of its own effect. -/
def Completes (i : Instr) (h : Hdr) (x : Effect) : Prop :=
  ∀ s cu, Acts i h s cu → NormalCase x s cu h → exec i s = .next (actsDone x.once s cu h (x.eff s.env))

/-! Stops: a set of one thread that raises a cause. -/

/-- The state after an issue in which the one thread of the set stopped, leaving machine `m`. -/
def afterStop (s : State) (cu : Cur) (h : Hdr) (l : Nat) (m : Mach) : State :=
  s.withMach { endIssue s.env m cu h.gap.toNat (hasTrapped m cu.g cu.lanes || diverged m cu.g cu.lanes) with cur := nextCur cu [l] (pcAfter cu.pc 1) }

/-- The cause that one thread raises, with the address, the code, and the saved PC after the instruction (`next`) or at it (16 R363, R364). -/
structure Stop where
  cause : Nat
  addr : Nat
  info : Nat
  next : Bool

/-- The thread of context `c` raises a stop at machine `m`. -/
def Stop.raised (x : Stop) (e : Env) (c : Ctx) (m : Mach) : Mach :=
  raise e m c.g c.lane x.cause x.addr x.info (if x.next then c.next else c.pc) c.pc 0 c.pair

/-- Where a set of one thread finds the condition, it raises the cause with nothing of the instruction done; `m` is the machine once the operands have been read. -/
def StopsAt (i : Instr) (h : Hdr) (P : Env → Ctx → Mach → Prop) (x : Env → Ctx → Mach → Stop) (rd : Env → Ctx → Mach → Mach) : Prop :=
  ∀ s cu l, Solo i h s cu l → P s.env (soloCtx s cu h l) (issueMach s cu h) →
    exec i s = .next (afterStop s cu h l ((x s.env (soloCtx s cu h l) (issueMach s cu h)).raised s.env (soloCtx s cu h l)
      (rd s.env (soloCtx s cu h l) (issueMach s cu h))))

/-! What a frame keeps. -/

/-- Every byte of storage reads as before. -/
def SameMemory (m m' : Mach) : Prop := ∀ a, memGet m'.mem a = memGet m.mem a

/-- Everything but the groups, the schedulers, results on their way, and the counters stays: the system, time, memory with its metadata and failed bytes, cores with tiles and rings, clusters, dies, entries, grids, graphs, messages, walks, queues, copies, caches of translation, and the teams but for their log indexes. -/
structure SameDevice (s t : State) : Prop where
  clk : t.clk = s.clk
  sys : t.sys = s.sys
  mem : t.m.mem = s.m.mem
  bad : t.m.bad = s.m.bad
  frames : t.m.frames = s.m.frames
  cores : t.m.cores = s.m.cores
  clusters : t.m.clusters = s.m.clusters
  dies : t.m.dies = s.m.dies
  entries : t.m.entries = s.m.entries
  grids : t.m.grids = s.m.grids
  graphs : t.m.graphs = s.m.graphs
  flight : t.m.flight = s.m.flight
  walks : t.m.walks = s.m.walks
  queues : t.m.queues = s.m.queues
  copies : t.m.copies = s.m.copies
  tlb : t.m.tlb = s.m.tlb
  teams : ∀ k, { teamOf t.m k with logix := 0 } = { teamOf s.m k with logix := 0 }

/-- A group keeps its scalars, MODE, PCTL, format registers, barriers, atomic buffer and identity, and no bit of its CAUSE is cleared. -/
structure SameGroup (a b : Group) : Prop where
  s : b.s = a.s
  mode : b.mode = a.mode
  pctl : b.pctl = a.pctl
  fm : b.fm = a.fm
  cause : a.cause &&& b.cause = a.cause
  cbm : b.cbm = a.cbm
  cba : b.cba = a.cba
  ab : b.ab = a.ab
  resv : b.resv = a.resv
  disp : b.disp = a.disp
  team : b.team = a.team
  core : b.core = a.core

/-- Members that run in the program's own mode, whose traps find their vector (16 R363, R366), of a team that keeps no poison log (05 R148). -/
structure Calm (s : State) (cu : Cur) : Prop where
  run : ∀ l ∈ cu.lanes, (thrOf s.m cu.g l).st = .run ∧ (thrOf s.m cu.g l).hm = false
  vec : tvecOk s.env s.m (grpOf s.m cu.g).core (teamOf s.m (grpOf s.m cu.g).team).part = true
  log : (teamOf s.m (grpOf s.m cu.g).team).polb = 0

/-- A thread keeps its registers, predicates, trap record, state and monitor. -/
structure SameThread (a b : Thread) : Prop where
  v : b.v = a.v
  pv : b.pv = a.pv
  pt : b.pt = a.pt
  trec : b.trec = a.trec
  st : b.st = a.st
  hm : b.hm = a.hm
  mon : b.mon = a.mon

/-! Runs. -/

/-- A step that does not stop. -/
def Safe (s : State) : Prop := ∃ t, step s = .next t

/-- States that steps reach. -/
inductive Reaches : State → State → Prop
  | here (s : State) : Reaches s s
  | next (s t u : State) : Reaches s t → step t = .next u → Reaches s u

end Sys2Proof.Machine
end

