-- ==== Sys2Proof/Certificates/Slice0/Obligations.lean ====
section
/-! DEFINITION. The statements about the machine, by the rules of spec/: what each instruction and each step of the device does where it completes, where it stops, what it leaves alone, and what every step keeps. -/
namespace Sys2Proof.Machine
open Sys2Proof

/-! Effects of the arithmetic instructions. -/

/-- A format-A result that lands `lat` clocks after issue (06 R170, R172, R181). -/
def resA (e : Env) (c : Ctx) (h : Hdr) (o : FA) (ty : NTy) (lat n : Nat) (m : Mach) : Mach :=
  land m (e.now + lat) (wrA c h o ty n) (tokA c o.dst)

/-- The write of a predicate destination with its taint. -/
def wrP (c : Ctx) (dst : Opnd) (q : Bool × Bool) : List RegWr :=
  match dst with
  | .p n => [.p c.g c.lane n.toNat q.1 q.2]
  | _ => []

/-- Three operands of one type; of `n` sources only the first `n` are named. -/
def ops3 (e : Env) (c : Ctx) (ty : NTy) (o : FA) (n : Nat) (m : Mach) : Mach × Nat × Nat × Nat :=
  read3 e m c ty ty ty o.sa (if n < 2 then .v 0 else o.sb) (if n < 3 then .v 0 else o.sc)

/-- 07 R189: the exact result over the integers, wrapped under variant 0 and saturated under variant 1. -/
def intEff (h : Hdr) (o : FA) (n : Nat) (lat : Nat × Nat) (f : Int → Int → Int → Int) : Effect :=
  .free (isS o.dst) (fun e c m =>
    let ty := intTy h
    let r := ops3 e c ty o n m
    let x := f (intVal ty r.2.1) (intVal ty r.2.2.1) (intVal ty r.2.2.2)
    resA e c h o ty (latOf ty lat.1 lat.2) (if fnHi h = 1 then satTo ty x else wrapTo ty x) r.1)

/-- 07 R189: an instruction that gives its w bits directly. -/
def bitEff (h : Hdr) (o : FA) (n : Nat) (lat : Nat × Nat) (f : Nat → Nat → Nat → Nat) : Effect :=
  .free (isS o.dst) (fun e c m =>
    let ty := intTy h
    let r := ops3 e c ty o n m
    resA e c h o ty (latOf ty lat.1 lat.2) (f (tyBits ty) r.2.1 r.2.2.1) r.1)

/-- The same with the amount read as n32 (07 R189). -/
def shiftEff (h : Hdr) (o : FA) (f : Nat → Nat → Nat → Nat) : Effect :=
  .free (isS o.dst) (fun e c m =>
    let ty := intTy h
    let r := read3 e m c ty .n32 ty o.sa o.sb (.v 0)
    resA e c h o ty (latOf ty 1 2) (f (tyBits ty) r.2.1 r.2.2.1) r.1)

/-- 07 R190: a division by a divisor that is not zero, on the iterative unit of the lane-block. -/
def divEff (h : Hdr) (o : FA) (f : Int → Int → Int) : Effect where
  once := isS o.dst
  cond e c m := intVal (intTy h) (ops3 e c (intTy h) o 2 m).2.2.1 ≠ 0
  eff e c m :=
    let ty := intTy h
    let r := ops3 e c ty o 2 m
    let u := unitDone e r.1 c (latOf ty 20 36)
    let x := f (intVal ty r.2.1) (intVal ty r.2.2.1)
    land (nextFree u.2).2 (u.1 + Config.delay u.2.free) (wrA c h o ty (if fnHi h = 1 then satTo ty x else wrapTo ty x)) (tokA c o.dst)

/-- 07 R195: what `mov` delivers to a register, and to a predicate. -/
def movEff (h : Hdr) (o : FA) : Effect :=
  .free (isS o.dst) (fun e c m =>
    let ty := intTy h
    match o.dst, o.sa with
    | .p _, .p k => land m (e.now + 1) (wrP c o.dst (predV m c.g c.lane k.toNat, predT m c.g c.lane k.toNat)) c.tok
    | .p _, a => let r := readOp e m c ty a; land r.1 (e.now + latOf ty 1 2) (wrP c o.dst (r.2 != 0, false)) c.tok
    | _, a => let r := readOp e m c ty a; resA e c h o ty (latOf ty 1 2) r.2 r.1)

/-- 07 R196: the rows of the decision table but the trap on poison. -/
def cvtEff (h : Hdr) (o : FA) : Effect where
  once := isS o.dst
  cond e c m :=
    let sT := (tyOfCode o.md.toNat).getD .s32
    ¬ (tyFloat sT = true ∧ isPoison sT (readOp e m c sT o.sa).2 = true ∧ pcvOn m c.g = true)
  eff e c m :=
    let d := (tyOfCode (fnLo h)).getD .s32
    let sT := (tyOfCode o.md.toNat).getD .s32
    let r := readOp e m c sT o.sa
    let mode := modeOf (fnHi h) (bitsOf (grpOf m c.g).mode.toNat 2 0)
    resA e c h o d 4
      (if tyFloat sT then
        if isPoison sT r.2 then (if tySigned d then 2 ^ (tyBits d - 1) else 0) else floatToInt sT d mode r.2
      else if tyFloat d then roundDy d mode (decide (intVal sT r.2 < 0)) (intVal sT r.2).natAbs 0 false
      else if fnHi h = 1 then satTo d (intVal sT r.2) else wrapTo d (intVal sT r.2)) r.1

/-- 07 R197: poison first, then INVALID, then the rounded value; `f` gives the exact value. -/
def fltEff (h : Hdr) (o : FA) (n : Nat) (lat : Nat × Nat) (f : RMode → XVal → XVal → XVal → XVal) : Effect :=
  .free (isS o.dst) (fun e c m =>
    let ty := fltTy h
    let r := ops3 e c ty o n m
    let ex := fun (x : Nat) => (decodeF ty x).exact
    let v := settleF e r.1 c ty (used n r.2.1 r.2.2.1 r.2.2.2)
      (roundX ty (modeFn m c.g h) (f (modeFn m c.g h) (ex r.2.1) (ex r.2.2.1) (ex r.2.2.2)))
    resA e c h o ty (latOf ty lat.1 lat.2) v.2 v.1)

/-- The same for a function of the bits of its one operand, correctly rounded (07 R198). -/
def fltFun (h : Hdr) (o : FA) (f : NTy → RMode → Nat → Option Nat) : Effect :=
  .free (isS o.dst) (fun e c m =>
    let ty := fltTy h
    let r := ops3 e c ty o 1 m
    let v := settleF e r.1 c ty [r.2.1] (f ty (modeFn m c.g h) r.2.1)
    resA e c h o ty (latOf ty 12 24) v.2 v.1)

/-- 07 R198: division and square root, on the iterative unit. -/
def iterEff (h : Hdr) (o : FA) (n : Nat) (f : XVal → XVal → XVal) : Effect :=
  .free (isS o.dst) (fun e c m =>
    let ty := fltTy h
    let r := read3 e m c ty ty ty o.sa (if n < 2 then .v 0 else o.sb) (.v 0)
    let v := settleF e r.1 c ty (used n r.2.1 r.2.2.1 0) (roundX ty (modeFn m c.g h) (f (decodeF ty r.2.1).exact (decodeF ty r.2.2.1).exact))
    let u := unitDone e v.1 c (match tyBits ty with | 64 => 28 | 32 => 14 | _ => 10)
    land (nextFree u.2).2 (u.1 + Config.delay u.2.free) (wrA c h o ty v.2) (tokA c o.dst))

/-- An instruction that neither rounds nor makes poison (07 R199). -/
def plainEff (h : Hdr) (o : FA) (n : Nat) (f : NTy → Nat → Nat → Nat → Nat) : Effect :=
  .free (isS o.dst) (fun e c m =>
    let ty := fltTy h
    let r := ops3 e c ty o n m
    resA e c h o ty 2 (f ty r.2.1 r.2.2.1 r.2.2.2) r.1)

/-- 07 R203 to R207: a narrow instruction whose format register is usable. -/
def narrowOn (h : Hdr) (o : FA) (m : Mach) (c : Ctx) (f : NFmt) : Prop := nfmtOf (lget (grpOf m c.g).fm (h.fn.toNat % 8) 0) (narrowW o) = some f

/-! Effects of the narrow, cross-lane and control-register instructions. -/

/-- The results of a list for consecutive registers, the first to the latch as well (06 R172, 07 R206). -/
def resRange (e : Env) (c : Ctx) (h : Hdr) (o : FA) (lat : Nat) (xs : List Nat) (m : Mach) : Mach :=
  land m (e.now + lat) ((if h.ws then [] else xs.zipIdx.map (fun (x, i) => RegWr.v c.g c.lane (vNo o.dst + i) (BitVec.ofNat 32 x) c.sn))
    ++ wrLatch c .n32 o.lt.toNat [c.lane] (xs.headD 0)) c.tok

/-- The format register that FN names is usable at the width (05 R132, 07 R203). -/
def usable (h : Hdr) (o : FA) (c : Ctx) (m : Mach) : Prop := (narrowFmt m c h o).isSome = true

/-- That format. -/
def fmtHere (h : Hdr) (o : FA) (c : Ctx) (m : Mach) : NFmt := (narrowFmt m c h o).getD { man := 0, exp := 0, sgn := 0, bias := 0, sat := false, kinf := false }

/-- 07 R205: what `npck` finds before it packs: the container that keeps its other elements, and its check; a whole container is not looked at. -/
def packOld (h : Hdr) (o : FA) (c : Ctx) (m : Mach) : Nat × ContCheck :=
  if o.imm.toNat / 256 % 64 = nPer (narrowW o) then (0, .good)
  else (quadOf m c o.dst, contCheck (quadOf m c o.dst) (byteOf (regV m c.g c.lane (vNo o.sb)) (o.imm.toNat % 4)) (h.fn.toNat % 8))

/-- 07 R205: `npck` under a scale byte that is not 0xFF. -/
def packEff (h : Hdr) (o : FA) (e : Env) (c : Ctx) (m : Mach) : Mach :=
  let w := narrowW o
  let k := o.imm.toNat % 4
  let pos := o.imm.toNat / 4 % 64
  let cnt := o.imm.toNat / 256 % 64
  let vs := regV m c.g c.lane (vNo o.sb)
  let old := (packOld h o c m).1
  let st : Mach × Option (Nat × Nat) :=
    if (packOld h o c m).2 = .memuc then let r := genPoison e m c.g c.lane c.pc 1 0; (r.1, some (1, r.2)) else (m, none)
  let r := packBound e c (((List.range cnt).map (fun i => regV m c.g c.lane (vNo o.sa + i))).foldl
    (packElem e c (fmtHere h o c m) (modeFn m c.g h) (byteOf vs k)) { m := st.1, prov := st.2, codes := [], err := .dy false 0 0 false })
  let codes := (List.range (nPer w)).map (fun i => if pos ≤ i ∧ i < pos + cnt then lget r.codes (i - pos) 0 else contElem w old i)
  let elems := contJoin w codes + (if cnt = nPer w then 0 else old % 2 ^ 120 / 2 ^ (w * nPer w) * 2 ^ (w * nPer w))
  let q := match r.prov with
    | some p => contPoison elems p.1 p.2
    | none => contSeal elems (h.fn.toNat % 8)
  let sc := if r.prov.isSome then [RegWr.v c.g c.lane (vNo o.sb) (BitVec.ofNat 32 (putBits vs (8 * k + 7) (8 * k) 0xFF)) c.sn] else []
  land r.m (e.now + 4) ((if h.ws then [] else wrQuad c o.dst q ++ sc) ++ wrLatch c .n32 o.lt.toNat [c.lane] (q % 2 ^ 32)) c.tok

/-- 07 R206: the elements that `nunp` delivers, by the check of 05 R136. -/
def unpackEff (h : Hdr) (o : FA) (e : Env) (c : Ctx) (m : Mach) : Mach :=
  let w := narrowW o
  let pos := o.imm.toNat / 4 % 64
  let cnt := o.imm.toNat / 256 % 64
  let sc := byteOf (regV m c.g c.lane (vNo o.sb)) (o.imm.toNat % 4)
  let q := quadOf m c o.sa
  match contCheck q sc (h.fn.toNat % 8) with
  | .poisoned kind ix => resRange e c h o 4 (List.replicate cnt (poisonBits .f32 kind ix)) m
  | .memuc => let r := poisonVal e m c.g c.lane c.pc 1 0 .f32; resRange e c h o 4 (List.replicate cnt r.2) r.1
  | _ => resRange e c h o 4 ((List.range cnt).map (fun i =>
      (roundX .f32 (modeFn m c.g h) (nValue (fmtHere h o c m) sc (contElem w q (pos + i)))).getD 0)) m

/-- The scale bytes and the checks of the two containers of `ndot`. -/
def dotScales (o : FA) (c : Ctx) (m : Mach) : Nat × Nat :=
  (byteOf (regV m c.g c.lane (vNo o.sc)) (o.imm.toNat % 4), byteOf (regV m c.g c.lane (vNo o.sc)) (o.imm.toNat / 4 % 4))
def dotChecks (h : Hdr) (o : FA) (c : Ctx) (m : Mach) : ContCheck × ContCheck :=
  (contCheck (quadOf m c o.sa) (dotScales o c m).1 (h.fn.toNat % 8), contCheck (quadOf m c o.sb) (dotScales o c m).2 (h.fn.toNat % 8))

/-- 07 R207: poison of A, then of B, else the accumulator plus the exact dot product, rounded once. -/
def dotEff (h : Hdr) (o : FA) (e : Env) (c : Ctx) (m : Mach) : Mach :=
  let acc := regV m c.g c.lane (vNo o.dst)
  let v := match contF32 e m c (dotChecks h o c m).1 with
    | some r => r
    | none => match contF32 e m c (dotChecks h o c m).2 with
      | some r => r
      | none => settleF e m c .f32 [acc] (roundX .f32 (modeFn m c.g h) (xAdd (modeFn m c.g h) (decodeF .f32 acc).exact
          (contDot (fmtHere h o c m) (narrowW o) (dotScales o c m).1 (dotScales o c m).2 (quadOf m c o.sa) (quadOf m c o.sb))))
  resA e c h o .n32 6 v.2 v.1

/-- A value for each contributing member (07 R212). -/
def resLanes (e : Env) (c : Ctx) (h : Hdr) (o : FA) (ty : NTy) (lat : Nat) (f : Nat → Nat) (more : List RegWr) (m : Mach) : Mach :=
  land m (e.now + lat) (c.lanes.flatMap (fun l => wrA (c.at l) h o ty (f l)) ++ more) c.toks

/-- 05 R139, 07 R215: the lanes of the group after the steps of a reduction. -/
def redLanes (h : Hdr) (o : FA) (e : Env) (c : Ctx) (steps : List (Nat × Nat × Nat)) (m : Mach) : Mach × List Nat :=
  let a := readLanes e c (redTy h) o.sa m
  reduceLanes e c (redTy h) (fnHi h) (redMode m c o) steps a.1 a.2

/-! Effects of control flow and of accesses to memory. -/

/-- The transfer of 08 R226 may be made: no taint that traps, no bit above the address, and a legal target (06 R166). -/
def mayGo (h : Hdr) (t hi : Nat) (e : Env) (c : Ctx) (m : Mach) : Prop :=
  taintTrap m c.g c.lane h = false ∧ hi = 0 ∧ (checkTarget e m c (t % 2 ^ 56)).2 = .done

/-- The machine once the target has been fetched. -/
def seen (e : Env) (c : Ctx) (t : Nat) (m : Mach) : Mach := (checkTarget e m c (t % 2 ^ 56)).1

/-- The token of an instruction without a result falls after one clock. -/
def quietly (e : Env) (c : Ctx) (m : Mach) : Mach := land m (e.now + 1) [] c.tok

/-- An instruction of class VAR without a result in registers: what it writes lands, and its token falls, at an open time of two clocks or more (06 R182). -/
def afterVar (e : Env) (c : Ctx) (m : Mach) (wr : List RegWr) : Mach :=
  land { m with free := m.free + 1 } (e.now + 2 + Config.delay m.free) wr c.tok

/-- 06 R167. -/
def branchTo (c : Ctx) (o : FC) : Nat := ((((c.pc / 64 * 64 : Nat) : Int) + o.loff.toInt * 64) % (2 ^ 56 : Nat)).toNat + o.slot.toNat

/-- 08 R227, 01 R30: the link is written and the thread goes to the target, or it first claims the registers that it lacks. -/
def callEff (e : Env) (c : Ctx) (o : FC) (t budget : Nat) (m : Mach) : Mach :=
  if budget ≤ (thrOf m c.g c.lane).v.length then land (goTo m c t) (e.now + 1) (wrReg c .n64 (linkOf o) c.next) c.tok
  else
    let m1 := updThr m c.g c.lane (fun th => { th with wait := .claim, pc := c.pc, resume := t })
    updTeam { m1 with serial := m1.serial + 1 } c.team (fun tm => { tm with claims := tm.claims ++
      [{ id := m.serial, who := [c.ref], n := budget - (thrOf m c.g c.lane).v.length, tm := e.now, call := some (linkOf o, t, c.next), toks := c.tok }] })

/-- 08 R228: the counter less one. -/
def loopCount (e : Env) (c : Ctx) (o : FC) (m : Mach) : BitVec 32 := BitVec.ofNat 32 (readOp e m c .n32 o.src).2 - 1

/-- An operation with one part: a message of some members of the set, its order at a scope (04 R109), whose answer lands no sooner than two clocks after issue. -/
def askAs (e : Env) (c : Ctx) (toks : List TokRef) (who : List Nat) (scope dst : Nat) (acq rel wr : Bool) (b : Body) (m : Mach) : Mach :=
  send e (openOp m 1 (e.now + 2) toks).2 c.core dst false (some c.ref) who scope acq rel wr m.serial b

/-- The same of the acting member, at device scope. -/
def ask (e : Env) (c : Ctx) (toks : List TokRef) (dst : Nat) (acq rel wr : Bool) (b : Body) (m : Mach) : Mach :=
  askAs e c toks [c.lane] 3 dst acq rel wr b m

/-- Those who make an access: every member together where a scalar register receives the result, else the acting member (06 R174). -/
def actors (c : Ctx) (d : Opnd) : List Nat := if isS d then c.lanes else [c.lane]

/-- A format-M access whose result goes to D. -/
def askM (e : Env) (c : Ctx) (o : FM) (dst : Nat) (acq rel wr : Bool) (b : Body) (m : Mach) : Mach :=
  askAs e c (tokM c o) (actors c o.d) o.scope.toNat dst acq rel wr b m

/-- The address checks of 08 R223 for `n` bytes of a format-M access of a kind. -/
def addrOf (e : Env) (c : Ctx) (o : FM) (n kind : Nat) (b64 : Bool) (m : Mach) : AddrRes :=
  checkAddr e (effAddr e m c o).1 c (effAddr e m c o).2 n n kind b64

/-- The storage address when the checks pass. -/
def AddrRes.place : AddrRes → Nat
  | .ok sa => sa
  | _ => 0

/-- The checks pass. -/
def AddrRes.passes (r : AddrRes) : Prop := r = .ok r.place

/-- The checks stop with a cause and an address. -/
def AddrRes.causes (r : AddrRes) : Prop := ∃ k a, r = .stop (.cause k a 0 false 0)

/-- What is raised then. -/
def AddrRes.stops : AddrRes → Stop
  | .stop (.cause k a _ _ _) => ⟨k, a, 0, false⟩
  | _ => ⟨0, 0, 0, false⟩

/-- 08 R235: the number that a store writes, in its width. -/
def storeNat (e : Env) (c : Ctx) (o : FM) (m : Mach) : Nat := (storeData e m c o.width.toNat o.d).2 % 2 ^ (8 * widthBytes o.width.toNat)

/-- PSTORE does not stop the number (05 R149). -/
def mayStore (c : Ctx) (bits n : Nat) (m : Mach) : Prop := ¬ (pstOn m c.g = true ∧ storePoison bits n = true)

/-! Effects of synchronisation, engines, tiles, records and system instructions. -/

/-- 08 R254: an arrival word in the scratchpad or the alias window, whose checks pass. -/
def arrOk (e : Env) (c : Ctx) (o : FA) (m : Mach) : Prop :=
  (arrAddr e (readOp e (readOp e m c .n64 o.sa).1 c .n32 o.sb).1 c (readOp e m c .n64 o.sa).2).passes

/-- Amount and storage address of an arrival instruction. -/
def arrN (e : Env) (c : Ctx) (o : FA) (m : Mach) : Nat := (readOp e (readOp e m c .n64 o.sa).1 c .n32 o.sb).2
def arrSa (e : Env) (c : Ctx) (o : FA) (m : Mach) : Nat :=
  (arrAddr e (readOp e (readOp e m c .n64 o.sa).1 c .n32 o.sb).1 c (readOp e m c .n64 o.sa).2).place

/-- Every member's budget `b` and the amount `n` satisfy a bound (01 R27, R28). -/
def budgets (c : Ctx) (m : Mach) (p : Nat → Prop) : Prop := ∀ l ∈ c.lanes, p (thrOf m c.g l).v.length

/-- The graph that a record instruction acts on (09 R286). -/
def onGraph (c : Ctx) (m : Mach) (p : Nat → Prop) : Prop := ∃ g, (teamOf m c.team).graph = some g ∧ p g

/-- Its number. -/
def graphHere (c : Ctx) (m : Mach) : Nat := (teamOf m c.team).graph.getD 0

/-- The card of a retrieval and its element format (09 R275). -/
def cardHere (e : Env) (c : Ctx) (o : FE) (m : Mach) : Except Out Card := readCard e m c (readOp e m c .n64 o.sa).2

/-! Steps of the device. -/

/-- The step of a row at a state answers a next state. -/
def Takes (i : Instr) (s t : State) : Prop := exec i s = .next t

/-- A message that may be performed at its home: its turn in the order of 04 R108 to R116 has come, it is neither refused by an isolated core (18 R412) nor deferred (16 R388), it finds the send allowance that it needs (18 R411), and no post stands before it at its Catalogue (02 R46). -/
structure AtHome (s : State) (id : Nat) (x : Msg) : Prop where
  here : msgOf s.m id = some x
  order : performable s.env s.m x = true
  reach : toIsolated s.m x = false
  stays : mustDefer s.env s.m x = false
  room : deferFull s.m x = false
  grant : sendable s.m x = true
  turn : behindPost s.env s.m x = false

/-- The machine once a message has left the network, its banks have served it (03 R81), and failed bytes that it reads have been counted (05 R152). -/
def atHomeMach (s : State) (id : Nat) (x : Msg) : Mach := noteBad (dropMsg (useBanks s.env (markFar s.m x) x) id) (bodyAddrs x.body)

/-- The message performed: noted as applied and as acknowledged (04 R112, R115), and beside it words of rival writers (04 R117). -/
def performedAs (s : State) (x : Msg) (m : Mach) : State := s.withMach (blend (noteAck s.env (notePast s.env s.m m x) x) x)

/-- The header word of a hand queue with new HEAD, TAIL and COUNT; ALLOW is CAP less COUNT (03 R100). -/
def queueHead (w head tail count : Nat) : Nat := putBits (putBits (putBits (putBits w 31 0 head) 63 32 tail) 103 96 count) 111 104 (bitsOf w 119 112 - count)

/-- Lanes of a message's group that wait in one way for its operation. -/
def lanesWaiting (m : Mach) (x : Msg) (w : Wait) : List TRef :=
  (x.thr.map (fun r => (List.range 32).filterMap (fun j => if (thrOf m r.g j).wait == w && (thrOf m r.g j).wop == x.op then some { g := r.g, lane := j } else none))).getD []

/-- The first place of a list at which a condition holds. -/
def FirstAt {α : Type} (l : List α) (P : α → Prop) (k : Nat) (a : α) : Prop :=
  l[k]? = some a ∧ P a ∧ ∀ j b, j < k → l[j]? = some b → ¬ P b

/-- A step of the Front End or the device that leaves all but the system registers. -/
def withSys (s : State) (f : Sys → Sys) : State := { s with sys := f s.sys }

/-- The Front End of a partition serves queue `q`, whose next packet has row `row` and the words `ws` (14 R336, R348). -/
structure Reads (s : State) (q row : Nat) (ws : List Nat) : Prop where
  serves : serving s (queueOfNo s.sys q).part q = true
  next : peek s q = some (row, .ok ws)

/-- Task graph `g` of a partition stands at a node of a kind, in its first phase (0) or after its own work has been performed (1), and is served. -/
structure AtNode (s : State) (kind part g : Nat) (t : Task) : Prop where
  task : taskOf s.sys part g = some t
  run : t.node ≠ none
  kind : tKind (curNode t) = kind
  serves : serving s part (64 + g) = true

/-- What the choice of a block makes of it (02 R63 to R65, 09 R290): the block runs on a new group at its place, without the records taken, at residual 0 unless it is poison, dispatched now; the group's threads stand at the node's entry with its budget, its scalars hold what R64 gives, and it launches 12 clocks or more later; the team has one more group. -/
def Dispatched (s : State) (c : Cand) (t core lb sl : Nat) (m : Mach) : Prop :=
  let gr := graphOf s.m c.g
  let b := blockOf gr c.k
  let node := c.k / 4096
  let n := min 32 b.pend.length
  let gi := 24 * lb + sl
  let key := newKey s.m core gi
  let base := nfield gr node 178 159 + gi * 32 * slotSize gr node
  let hdrs := (b.pend.take n).map (fun x => ofBytes (x.2.take 16))
  m.graphs = tupd s.m.graphs c.g (fun gr => { gr with blocks := tset gr.blocks c.k { b with
    res := if isPoison .f32 b.res.toNat then b.res else 0, pend := b.pend.drop n, run := some key, taken := b.res, timer := none, lapsed := false, readyAt := none, lastDisp := s.clk.now } }) ∧
  m.groups = tset s.m.groups key { Group.launch core gi t gi 0 (List.replicate 32 (Thread.launch (nfield gr node 383 328) (8 * nBudg gr node) s.clk.now))
      (dispScalars node (c.k % 4096) n base (maxN (hdrs.map (fun h => bitsOf h 127 64))) b.res (maxN (hdrs.map (fun h => bitsOf h 31 24)))) s.clk.now with
    disp := some { graph := c.g, node := node, blk := c.k % 4096, count := n, rsz := nRsz gr node, base := base, launchAt := some (s.clk.now + 12 + Config.delay s.m.free),
                   recs := b.pend.take n, doneSn := none }
    accn := maxN (hdrs.map (fun h => bitsOf h 127 64)) } ∧
  m.teams = tupd s.m.teams t (fun tm => { tm with ngrp := tm.ngrp + 1 }) ∧ m.mem = s.m.mem

/-- What the arrival of a pre-emption signal at some cores does (16 R385): the signal is spent; every core begins its swap, over 10 clocks later; no lane-block of theirs has a run or latches; every team that the signal takes begins its spill, and RDR and IMGP of its marks are set (18 R407); memory stays. -/
def Signalled (s : State) (cores : List Nat) (t : State) : Prop :=
  let out := outgoing s.env s.m cores
  t.m.prem = s.m.prem.filter (fun p => !(p.cores == cores && decide (p.tm ≤ s.clk.now))) ∧
  t.m.teams = out.foldl (fun l x => tupd l x.1 (fun u => { u with susp := .spilling })) s.m.teams ∧
  (∀ c ∈ cores, (coreOf t.m c).swapUntil = some (s.clk.now + 10)) ∧
  (∀ c ∈ cores, ∀ lb, lb < 2 → (schedOf t.m (schedKey c lb)).run = none ∧ (schedOf t.m (schedKey c lb)).xs = []) ∧
  t.sys = out.foldl (fun y x => (teamMarks s.m x.2).foldl (fun y r => { y with parts := tupd y.parts x.2.part (fun p => { p with
    place := tupd p.place r.1 (fun w => putBits (putBits w 62 62 1) 51 16 (r.2 / 2 ^ 16)) }) }) y) s.sys ∧
  t.m.mem = s.m.mem ∧ t.clk = s.clk

/-- The queue moves past a packet that starts (14 R335, R338): in the ring QHEAD moves by its length, in a buffer the buffer's place does; the packet joins those that have started, and nothing else of the device but the serial moves. -/
def Passed (s : State) (q : Nat) (ws : List Nat) (step ref : Nat) (t : State) : Prop :=
  let x := queueOfNo s.sys q
  let y := queueOfNo t.sys q
  y.pkts = x.pkts ++ [{ id := s.m.serial, words := ws, top := x.tops, lvl := x.bufs.length, parent := ((x.bufs.head?).map (·.2.2)).getD 0, step := step, ref := ref }] ∧
  (x.bufs = [] → y.qhead = x.qhead + BitVec.ofNat 32 ws.length ∧ y.topHead = x.qhead ∧ y.tops = x.tops + 1 ∧ y.bufs = []) ∧
  (∀ a k id r, x.bufs = (a, k, id) :: r → y.qhead = x.qhead ∧ y.bufs = (a + 8 * ws.length, k - ws.length, id) :: r) ∧
  (y.run = x.run ∧ y.fault = x.fault ∧ y.detail = x.detail ∧ y.qtail = x.qtail ∧ y.qbase = x.qbase ∧ y.owed = x.owed ∧ y.count = x.count) ∧
  (∀ q', q' ≠ q → queueOfNo t.sys q' = queueOfNo s.sys q') ∧
  t.m = { s.m with serial := s.m.serial + 1 }

/-- The queue moves past a packet that completes at once (14 R337, R339): QHEAD moves, no packet is left to complete, and one of the ring's own level is counted once all before it are complete; a completion word is owed where QDADR names one. -/
def Counted (s : State) (q : Nat) (ws : List Nat) (t : State) : Prop :=
  let x := queueOfNo s.sys q
  let y := queueOfNo t.sys q
  (∀ p ∈ y.pkts, p.id ≠ s.m.serial) ∧
  (x.bufs = [] → y.qhead = x.qhead + BitVec.ofNat 32 ws.length ∧ y.tops = x.tops + 1 ∧ (x.tops = x.count → x.doneTops = [] → y.count = x.count + 1 ∧ y.doneTops = [])) ∧
  y.owed = (if qdAddr x = 0 then 0 else x.owed + 1) ∧
  t.m = { s.m with serial := s.m.serial + 1 }

/-- A function-level reset (19 R424) and a thermal trip (R427): LEVEL returns to MONITOR with no HBM part released, queues are at their reset values but for PART and VEC, task graphs and standing graphs are gone with all that ran, was on its way or waited. -/
def FunctionCleared (s t : State) : Prop :=
  (t.sys.dev.level = min 1 s.sys.dev.level ∧ (∀ d, released t.sys d = false)) ∧
  (t.sys.queues = s.sys.queues.map (fun x => (x.1, { Queue.initial with part := x.2.part, vec := x.2.vec })) ∧ t.sys.tasks = [] ∧ t.sys.waiting = [] ∧ t.sys.slice = []) ∧
  (t.m.graphs = [] ∧ t.m.grids = [] ∧ t.m.teams = [] ∧ t.m.groups = [] ∧ t.m.entries = [] ∧ t.m.copies = [] ∧ t.m.flushes = [] ∧ t.m.pending = [] ∧ t.m.flight = [] ∧
    t.m.queues = [] ∧ t.m.prem = [] ∧ t.m.cur = none) ∧
  t.clk = s.clk
/-! Encodings, frames and invariants. -/

/-- A number by its fields, each given by its lowest bit and its value. -/
def fieldsAt (l : List (Nat × Nat)) : Nat := (l.map (fun x => x.2 * 2 ^ x.1)).sum

/-- A frame with guard p7 and nothing else set (06 R168, R169). -/
def plainHdr (fn : BitVec 8) : Hdr := { fn := fn, pn := false, pg := 7, gap := 0, wt := 0, te := false, tk := 0, ws := false }

/-- Instructions that act on registers alone. -/
def regOnly : Instr → Bool
  | .add _ _ | .sub _ _ | .mul _ _ | .mulh _ _ | .mad _ _ | .div _ _ | .rem _ _ | .neg _ _ | .abs _ _ | .min _ _ | .max _ _ | .and _ _
  | .or _ _ | .xor _ _ | .not _ _ | .shl _ _ | .shr _ _ | .sra _ _ | .rot _ _ | .clz _ _ | .popc _ _ | .brev _ _ | .bfx _ _ | .bfi _ _
  | .cmp _ _ | .sel _ _ | .lea _ _ | .addc _ _ | .movi _ _ | .movw _ _ | .cvt _ _ | .mov _ _ | .fadd _ _ | .fsub _ _ | .fmul _ _ | .fma _ _
  | .fmin _ _ | .fmax _ _ | .fabs _ _ | .fneg _ _ | .fcmp _ _ | .fdiv _ _ | .fsqrt _ _ | .frcp _ _ | .frsq _ _ | .fex2 _ _ | .flg2 _ _
  | .fsin _ _ | .fcos _ _ | .frnd _ _ | .fcls _ _ | .fscl _ _ | .fclp _ _ | .fdot2 _ _ | .fcvt _ _ | .nscl _ _ | .npck _ _ | .nunp _ _
  | .ndot _ _ | .pchk _ _ | .pchkProv _ _ | .pmrk _ _ | .pfix _ _ | .shfl _ _ | .vote _ _ | .blot _ _ | .redx _ _ | .scan _ _ | .sred _ _
  | .rdl _ _ | .wrl _ _ | .mtch _ _ | .getc _ _ | .setc _ _ | .getid _ _ | .clk _ _ => true
  | _ => false

/-- Instructions of memory, of control flow and of waiting, which leave registers and memory alone when they issue: what they do to either lands or is performed later. -/
def deferring : Instr → Bool
  | .ld _ _ | .st _ _ | .ldt _ _ | .stt _ _ | .ldv _ _ | .pfx _ _ | .atom _ _ | .cas _ _ | .red _ _ | .rfl _ _ | .fence _ _ | .mon _ _
  | .mwt _ _ | .qwait _ _ | .wake _ _ | .bra _ _ | .brx _ _ | .call _ _ | .cali _ _ | .ret _ _ | .cvb _ _ | .cvbCur _ _ | .cvw _ _
  | .yield _ _ | .nop _ _ | .loop _ _ | .bar _ _ | .bsc _ _ | .arrvSet _ _ | .arrvAdd _ _ | .awt _ _ | .qpush _ _ | .qpop _ _
  | .claim _ _ | .send _ _ | .plog _ _ | .trap _ _ => true
  | _ => false

/-- Clock, power and bring-up stand as the machine leaves them: the phases of a clock, the fraction of a reference cycle, CSTEP at most 12 (19 R427), LEVEL at most FULL, an HBM part released from PARTIAL-HBM on and only then, every part that is not defective released at FULL (19 R416, R417). -/
structure DeviceInv (s : State) : Prop where
  phase : s.clk.phase ≤ 6
  frac : s.clk.frac < 16
  cstep : s.sys.dev.cstep ≤ 12
  parts : s.sys.dev.hbmr.length = 4
  level : s.sys.dev.level ≤ 4
  hbm : 3 ≤ s.sys.dev.level ↔ ∃ d, d < 4 ∧ released s.sys d = true
  full : s.sys.dev.level = 4 → allReleased s = true

/-- The words that a 32-bit immediate puts into the registers of a type (07 R185, R194). -/
def immWords (ty : NTy) (x : BitVec 32) : List Word :=
  match ty with
  | .s8 => [(x.setWidth 8).signExtend 32]
  | .n8 => [(x.setWidth 8).setWidth 32]
  | .s16 => [(x.setWidth 16).signExtend 32]
  | .n16 => [(x.setWidth 16).setWidth 32]
  | .s32 | .n32 => [x]
  | .s64 => [x, if x.msb then 0xFFFFFFFF else 0]
  | .n64 => [x, 0]
  | _ => []

/-- Writes of words to registers from an operand on. -/
def putWords (c : Ctx) (dst : Opnd) (ws : List Word) : List RegWr :=
  match dst with
  | .v n => ws.zipIdx.map (fun (x, i) => .v c.g c.lane (n.toNat + i) x c.sn)
  | .s n => ws.zipIdx.map (fun (x, i) => .s c.g (n.toNat + i) x)
  | _ => []

/-- The provenance of a pattern: bit 31, the kind and the index, or 0 (07 R208). -/
def poisonWord (ty : NTy) (n : Nat) : Nat := match decodeF ty n with | .nan _ k i => 2 ^ 31 + k * 2 ^ 18 + i | _ => 0

end Sys2Proof.Machine

open Sys2Proof Sys2Proof.Machine

/-- 07 R189, R193: integer arithmetic completes for every legal form, with the exact result wrapped or saturated. -/
def Obligations.IntegerArithmeticCompletes : Prop := ∀ h o,
  Completes (.add h o) h (intEff h o 2 (1, 2) (fun a b _ => a + b)) ∧
  Completes (.sub h o) h (intEff h o 2 (1, 2) (fun a b _ => a - b)) ∧
  Completes (.mul h o) h (intEff h o 2 (4, 6) (fun a b _ => a * b)) ∧
  Completes (.mulh h o) h (intEff h o 2 (4, 6) (fun a b _ => a * b / (2 ^ tyBits (intTy h) : Nat))) ∧
  Completes (.mad h o) h (intEff h o 3 (4, 6) (fun a b d => a * b + d)) ∧
  Completes (.neg h o) h (intEff h o 1 (1, 2) (fun a _ _ => -a)) ∧
  Completes (.abs h o) h (intEff h o 1 (1, 2) (fun a _ _ => (a.natAbs : Int))) ∧
  Completes (.min h o) h (intEff h o 2 (1, 2) (fun a b _ => min a b)) ∧
  Completes (.max h o) h (intEff h o 2 (1, 2) (fun a b _ => max a b)) ∧
  Completes (.lea h o) h (intEff h o 2 (1, 2) (fun a b _ => a + b * (2 ^ (o.md.toNat % 8) : Nat) + signExt o.imm.toNat 16))

/-- 07 R189, R191: bitwise instructions, shifts, counts and bit fields complete for every legal form. -/
def Obligations.IntegerBitsComplete : Prop := ∀ h o,
  Completes (.and h o) h (bitEff h o 2 (1, 2) (fun _ a b => a &&& b)) ∧
  Completes (.or h o) h (bitEff h o 2 (1, 2) (fun _ a b => a ||| b)) ∧
  Completes (.xor h o) h (bitEff h o 2 (1, 2) (fun _ a b => a ^^^ b)) ∧
  Completes (.not h o) h (bitEff h o 1 (1, 2) (fun w a _ => 2 ^ w - 1 - a)) ∧
  Completes (.shl h o) h (shiftEff h o shlBits) ∧
  Completes (.shr h o) h (shiftEff h o shrBits) ∧
  Completes (.sra h o) h (shiftEff h o sraBits) ∧
  Completes (.rot h o) h (shiftEff h o rotBits) ∧
  Completes (.clz h o) h (bitEff h o 1 (2, 3) (fun w a _ => leadZeros w a)) ∧
  Completes (.popc h o) h (bitEff h o 1 (2, 3) (fun w a _ => popCount w a)) ∧
  Completes (.brev h o) h (bitEff h o 1 (2, 3) (fun w a _ => bitRev w a)) ∧
  Completes (.bfx h o) h (bitEff h o 1 (2, 3) (fun _ a _ => bfxBits h o a)) ∧
  Completes (.bfi h o) h (bitEff h o 2 (2, 3) (fun _ a b => bfiBits h o a b))

/-- 07 R190: `div` and `rem` complete where no divisor is zero, and a thread whose divisor is zero raises DIVZ with nothing written, its saved PC at the instruction. Where it rests on the model's own reading or choice, see the log: entry 6. -/
def Obligations.DivisionCompletesOrTraps : Prop := ∀ h o,
  Completes (.div h o) h (divEff h o Int.tdiv) ∧
  Completes (.rem h o) h (divEff h o (fun a b => a - b * Int.tdiv a b)) ∧
  StopsAt (.div h o) h (fun e c m => intVal (intTy h) (ops3 e c (intTy h) o 2 m).2.2.1 = 0) (fun _ _ _ => ⟨11, 0, 0, false⟩)
    (fun e c m => (ops3 e c (intTy h) o 2 m).1) ∧
  StopsAt (.rem h o) h (fun e c m => intVal (intTy h) (ops3 e c (intTy h) o 2 m).2.2.1 = 0) (fun _ _ _ => ⟨11, 0, 0, false⟩)
    (fun e c m => (ops3 e c (intTy h) o 2 m).1)

/-- 07 R192, R193: comparison, selection and addition with carry. -/
def Obligations.CompareSelectCarryComplete : Prop := ∀ h o,
  Completes (.cmp h o) h (.free false (fun e c m =>
    let r := ops3 e c (intTy h) o 2 m
    land r.1 (e.now + 1) (wrP c o.dst (combineP r.1 c (o.md.toNat % 4) o.sc (condInt (fnHi h) (intVal (intTy h) r.2.1) (intVal (intTy h) r.2.2.1)))) c.tok)) ∧
  Completes (.sel h o) h (.free (isS o.dst) (fun e c m =>
    let r := ops3 e c (intTy h) o 2 m
    resA e c h o (intTy h) (latOf (intTy h) 1 2) (if (predSrc r.1 c o.sc).1 then r.2.1 else r.2.2.1) r.1)) ∧
  Completes (.addc h o) h (.free (isS o.dst) (fun e c m =>
    let r := ops3 e c (intTy h) o 2 m
    let k := carryIn r.1 c o.sc
    let sum := r.2.1 + r.2.2.1 + k.1
    let lanes := if isS o.dst then c.lanes else [c.lane]
    resA e c h o (intTy h) (latOf (intTy h) 1 2) (sum % 2 ^ tyBits (intTy h))
      (if bitOf o.md.toNat 3 then
        land r.1 (e.now + 1) (lanes.map (fun l => RegWr.p c.g l (o.md.toNat % 8) (decide (2 ^ tyBits (intTy h) ≤ sum)) k.2)) []
      else r.1)))

/-- 07 R195: `mov` by its decision table. -/
def Obligations.MoveCompletes : Prop := ∀ h o, Completes (.mov h o) h (movEff h o)

/-- 07 R196: `cvt` by its decision table; PCONV where a poison meets PCTL.PCV. Where it rests on the model's own reading or choice, see the log: entry 16. -/
def Obligations.ConversionCompletesOrTraps : Prop := ∀ h o,
  Completes (.cvt h o) h (cvtEff h o) ∧
  StopsAt (.cvt h o) h (fun e c m =>
      let sT := (tyOfCode o.md.toNat).getD .s32
      tyFloat sT = true ∧ isPoison sT (readOp e m c sT o.sa).2 = true ∧ pcvOn m c.g = true)
    (fun _ _ _ => ⟨9, 0, 0, false⟩) (fun e c m => (readOp e m c ((tyOfCode o.md.toNat).getD .s32) o.sa).1)

/-- 07 R197, R198, R201, R202: the rounding float instructions. Where it rests on the model's own reading or choice, see the log: entry 16. -/
def Obligations.FloatArithmeticCompletes : Prop := ∀ h o,
  Completes (.fadd h o) h (fltEff h o 2 (4, 8) (fun md a b _ => xAdd md a b)) ∧
  Completes (.fsub h o) h (fltEff h o 2 (4, 8) (fun md a b _ => xAdd md a (xNeg b))) ∧
  Completes (.fmul h o) h (fltEff h o 2 (4, 8) (fun _ a b _ => xMul a b)) ∧
  Completes (.fma h o) h (fltEff h o 3 (4, 8) (fun md a b d => xAdd md (xMul a b) d)) ∧
  Completes (.frcp h o) h (fltEff h o 1 (12, 24) (fun _ a _ _ => xDiv xOne a)) ∧
  Completes (.frsq h o) h (fltEff h o 1 (12, 24) (fun _ a _ _ => xRsqrt a)) ∧
  Completes (.fdiv h o) h (iterEff h o 2 xDiv) ∧
  Completes (.fsqrt h o) h (iterEff h o 1 (fun a _ => xSqrt a)) ∧
  Completes (.fex2 h o) h (fltFun h o (fun ty md a => some (exp2Bits ty md (decodeF ty a)))) ∧
  Completes (.flg2 h o) h (fltFun h o flg2Bits) ∧
  Completes (.fsin h o) h (fltFun h o (fun ty md a => trigBits ty md false a)) ∧
  Completes (.fcos h o) h (fltFun h o (fun ty md a => trigBits ty md true a)) ∧
  Completes (.fscl h o) h (.free (isS o.dst) (fun e c m =>
    let ty := fltTy h
    let r := read3 e m c ty .s32 ty o.sa o.sb (.v 0)
    let v := settleF e r.1 c ty [r.2.1] (roundX ty (modeFn m c.g h)
      (xScale (max (-20000) (min 20000 (signExt r.2.2.1 32))) (decodeF ty r.2.1).exact))
    resA e c h o ty (latOf ty 4 8) v.2 v.1)) ∧
  Completes (.frnd h o) h (.free (isS o.dst) (fun e c m =>
    let ty := fltTy h
    let r := readOp e m c ty o.sa
    let v := settleF e r.1 c ty [r.2] (some (frndBits ty (modeFn m c.g h) r.2))
    resA e c h o ty 4 v.2 v.1)) ∧
  Completes (.fcvt h o) h (.free (isS o.dst) (fun e c m =>
    let sT := (floatTyOf o.md.toNat).getD .f32
    let r := readOp e m c sT o.sa
    let v := if isPoison sT r.2 then convPoison e r.1 c sT (fltTy h) r.2
      else (r.1, (roundX (fltTy h) (modeFn m c.g h) (decodeF sT r.2).exact).getD 0)
    resA e c h o (fltTy h) 4 v.2 v.1)) ∧
  Completes (.fdot2 h o) h (.free (isS o.dst) (fun e c m =>
    let ty := fltTy h
    let md := modeFn m c.g h
    let r := read3 e m c .s32 .s32 .f32 o.sa o.sb o.sc
    let el := [r.2.1 % 2 ^ 16, r.2.1 / 2 ^ 16, r.2.2.1 % 2 ^ 16, r.2.2.1 / 2 ^ 16]
    let x := fun i => (decodeF ty (lget el i 0)).exact
    let v := match el.find? (isPoison ty) with
      | some p => convPoison e r.1 c ty .f32 p
      | none => settleF e r.1 c .f32 [r.2.2.2] (roundX .f32 md (xAdd md (xAdd md (xMul (x 0) (x 2)) (xMul (x 1) (x 3))) (decodeF .f32 r.2.2.2).exact))
    resA e c h o .f32 4 v.2 v.1))

/-- 07 R199 to R201: the float instructions that do not round. -/
def Obligations.FloatSelectionCompletes : Prop := ∀ h o,
  Completes (.fmin h o) h (plainEff h o 2 (fun ty a b _ => fminBits ty false a b)) ∧
  Completes (.fmax h o) h (plainEff h o 2 (fun ty a b _ => fminBits ty true a b)) ∧
  Completes (.fclp h o) h (plainEff h o 3 fclpBits) ∧
  Completes (.fabs h o) h (plainEff h o 1 (fun ty a _ _ => if isPoison ty a then a else a % 2 ^ (tyBits ty - 1))) ∧
  Completes (.fneg h o) h (plainEff h o 1 (fun ty a _ _ => if isPoison ty a then a else a ^^^ 2 ^ (tyBits ty - 1))) ∧
  Completes (.fcls h o) h (.free (isS o.dst) (fun e c m =>
    let r := readOp e m c (fltTy h) o.sa
    resA e c h o .n32 2 (fclsMask (fltTy h) r.2) r.1)) ∧
  Completes (.fcmp h o) h (.free false (fun e c m =>
    let ty := fltTy h
    let r := ops3 e c ty o 2 m
    land r.1 (e.now + 2) (wrP c o.dst
      (if isPoison ty r.2.1 || isPoison ty r.2.2.1 then (false, true)
       else combineP r.1 c (o.md.toNat / 8) o.sc (condOrd (o.md.toNat % 8) (xCmp (decodeF ty r.2.1).exact (decodeF ty r.2.2.1).exact)))) c.tok))

/-- 07 R209, R211: marks of poison, and a read of the poison log. Where it rests on the model's own reading or choice, see the log: entry 16. -/
def Obligations.PoisonMarkAndLogComplete : Prop := ∀ h o,
  Completes (.pmrk h o) h (.free (isS o.dst) (fun e c m =>
    let r := poisonVal e m c.g c.lane c.pc 4 0 (fltTy h)
    resA e c h o (fltTy h) 2 r.2 r.1)) ∧
  Completes (.plog h o) h ⟨isS o.dst, fun e c m =>
      let r := readOp e m c .n32 o.sa
      (teamOf m c.team).polb ≠ 0 → (checkAddr e r.1 c (((teamOf m c.team).polb + 32 * (r.2 % 4096) : Nat) : Int) 32 32 0 false).passes, fun e c m =>
    let r := readOp e m c .n32 o.sa
    let base := (teamOf m c.team).polb
    if base = 0 then
      land r.1 (e.now + 2) ((if h.ws then [] else wrWords c o.dst (List.replicate 8 0)) ++ wrLatch c .n32 o.lt.toNat (if isS o.dst then c.lanes else [c.lane]) 0) (tokA c o.dst)
    else
      let sa := (checkAddr e r.1 c ((base + 32 * (r.2 % 4096) : Nat) : Int) 32 32 0 false).place
      askAs e c (tokA c o.dst) (actors c o.dst) 3 (homeOf sa) false false false
        (.plogRead sa (if h.ws then .t 0 else o.dst) (some (latchA c o)) c.pc (base + 32 * (r.2 % 4096))) r.1⟩

/-- 07 R203 to R207: narrow instructions complete where the format register is usable and no TAG names another one, and raise FMT otherwise. Where it rests on the model's own reading or choice, see the log: entries 16 and 22. -/
def Obligations.NarrowCompletesOrTraps : Prop := ∀ h o,
  Completes (.nscl h o) h ⟨false, fun _ c m => usable h o c m, fun e c m =>
    let a := regV m c.g c.lane (vNo o.sa)
    let k := o.imm.toNat % 4
    resA e c h o .n32 4 (putBits (regV m c.g c.lane (vNo o.dst)) (8 * k + 7) (8 * k)
      (if isPoison .f32 a then 0xFF else nScaleByte (fmtHere h o c m) (decodeF .f32 (magBits .f32 a)).exact)) m⟩ ∧
  Completes (.npck h o) h ⟨false, fun _ c m => usable h o c m ∧
      (byteOf (regV m c.g c.lane (vNo o.sb)) (o.imm.toNat % 4) = 0xFF ∨ (packOld h o c m).2 ≠ .mismatch), fun e c m =>
    if byteOf (regV m c.g c.lane (vNo o.sb)) (o.imm.toNat % 4) = 0xFF then land m (e.now + 4) [] c.tok else packEff h o e c m⟩ ∧
  Completes (.nunp h o) h ⟨false, fun _ c m => usable h o c m ∧
      contCheck (quadOf m c o.sa) (byteOf (regV m c.g c.lane (vNo o.sb)) (o.imm.toNat % 4)) (h.fn.toNat % 8) ≠ .mismatch, unpackEff h o⟩ ∧
  Completes (.ndot h o) h ⟨false, fun _ c m => usable h o c m ∧ (dotChecks h o c m).1 ≠ .mismatch ∧ (dotChecks h o c m).2 ≠ .mismatch, dotEff h o⟩ ∧
  StopsAt (.nscl h o) h (fun _ c m => narrowFmt m c h o = none) (fun _ _ _ => ⟨17, 0, 0, false⟩) (fun _ _ m => m) ∧
  StopsAt (.npck h o) h (fun _ c m => narrowFmt m c h o = none ∨
      (byteOf (regV m c.g c.lane (vNo o.sb)) (o.imm.toNat % 4) ≠ 0xFF ∧ (packOld h o c m).2 = .mismatch)) (fun _ _ _ => ⟨17, 0, 0, false⟩) (fun _ _ m => m) ∧
  StopsAt (.nunp h o) h (fun _ c m => narrowFmt m c h o = none ∨
      contCheck (quadOf m c o.sa) (byteOf (regV m c.g c.lane (vNo o.sb)) (o.imm.toNat % 4)) (h.fn.toNat % 8) = .mismatch)
    (fun _ _ _ => ⟨17, 0, 0, false⟩) (fun _ _ m => m) ∧
  StopsAt (.ndot h o) h (fun _ c m => narrowFmt m c h o = none ∨ (dotChecks h o c m).1 = .mismatch ∨ (dotChecks h o c m).2 = .mismatch)
    (fun _ _ _ => ⟨17, 0, 0, false⟩) (fun _ _ m => m)

/-- 07 R212 to R216: cross-lane instructions act on the contributing members together; a lane that does not contribute gives nothing. Where it rests on the model's own reading or choice, see the log: entry 16. -/
def Obligations.CrossLaneCompletes : Prop := ∀ h o,
  Completes (.shfl h o) h (.free true (fun e c m =>
    let ty := (laneTy h).getD .s32
    let a := readLanes e c ty o.sa m
    let b := readLanes e c .n32 o.sb a.1
    let src := fun l => (shflLane (fnHi h) l ((laneVal b.2 l).getD 0)).bind (fun k => laneVal a.2 k)
    resLanes e c h o ty (latOf ty 6 8) (fun l => (src l).getD 0) (c.lanes.flatMap (fun l => wrValid c o.imm l (src l).isSome)) b.1)) ∧
  Completes (.vote h o) h (.free true (fun e c m =>
    let p := fun l => predSrc m (c.at l) o.sa
    let on := c.lanes.filter (fun l => (p l).1)
    if fnHi h = 3 then if isS o.dst then resA e c h o .n32 2 (laneMask on) m else resLanes e c h o .n32 2 (fun _ => laneMask on) [] m
    else
      let q := if fnHi h = 0 then c.lanes.all (fun l => (p l).1) else if fnHi h = 1 then c.lanes.any (fun l => (p l).1)
        else c.lanes.all (fun l => (p l).1) || c.lanes.all (fun l => !(p l).1)
      land m (e.now + 2) (c.lanes.flatMap (fun l => wrP (c.at l) o.dst (q, c.lanes.any (fun l => (p l).2)))) c.toks)) ∧
  Completes (.blot h o) h (.free true (fun e c m =>
    let on := c.lanes.filter (fun l => (predSrc m (c.at l) o.sa).1)
    resLanes e c h o .n32 4 (fun l => (on.filter (fun k => decide (k < l))).length) [] m)) ∧
  Completes (.redx h o) h (.free true (fun e c m =>
    let r := redLanes h o e c redSteps m
    resLanes e c h o (redTy h) (latOf (redTy h) 10 12) (fun _ => r.2.headD 0) [] r.1)) ∧
  Completes (.scan h o) h (.free true (fun e c m =>
    let r := redLanes h o e c scanSteps m
    resLanes e c h o (redTy h) (latOf (redTy h) 12 14)
      (fun l => if bitOf o.md.toNat 4 then (if l = 0 then redIdentity (redTy h) (fnHi h) else lget r.2 (l - 1) 0) else lget r.2 l 0) [] r.1)) ∧
  Completes (.sred h o) h (.free true (fun e c m =>
    let r := redLanes h o e c redSteps m
    resA e c h o (redTy h) (latOf (redTy h) 10 12) (r.2.headD 0) r.1)) ∧
  Completes (.rdl h o) h (.free true (fun e c m =>
    let ty := (laneTy h).getD .s32
    let a := readLanes e c ty o.sa m
    let b := readOp e a.1 c .n32 o.sb
    let v := laneVal a.2 b.2
    land b.1 (e.now + latOf ty 4 6) (wrA c h o ty (v.getD 0) ++ c.lanes.flatMap (fun l => wrValid c o.imm l v.isSome)) c.toks)) ∧
  Completes (.wrl h o) h (.free true (fun e c m =>
    let ty := (laneTy h).getD .s32
    let a := readOp e m c ty o.sa
    let b := readOp e a.1 c .n32 o.sb
    land b.1 (e.now + latOf ty 4 6) (if c.lanes.contains b.2 then wrA (c.at b.2) h o ty a.2 else []) c.toks)) ∧
  Completes (.mtch h o) h (.free true (fun e c m =>
    let ty := (laneTy h).getD .s32
    let a := readLanes e c ty o.sa m
    resLanes e c h o .n32 (latOf ty 8 10) (fun l => laneMask ((a.2.filter (fun p => some p.2 == laneVal a.2 l)).map (·.1))) [] a.1))

/-- 07 R217 to R220: control registers, identities and counters; `setc` keeps the bits that the register has, and refuses a reserved mode, a bad shape and a tile outside the allocation. Where it rests on the model's own reading or choice, see the log: entry 18. -/
def Obligations.ControlRegistersComplete : Prop := ∀ h o,
  Completes (.getc h o) h (.free (isS o.dst) (fun e c m => resA e c h o .n32 2 (readCreg m c o.imm.toNat).toNat m)) ∧
  Completes (.getid h o) h (.free (isS o.dst) (fun e c m => resA e c h o .n32 2 (idVal e m c o.imm.toNat) m)) ∧
  Completes (.clk h o) h (.free (isS o.dst) (fun e c m =>
    if o.imm = 0 then resA e c h o .n64 2 (e.clk.now % 2 ^ 64) m else if o.imm = 1 then resA e c h o .n64 2 (e.clk.pcnt % 2 ^ 64) m
    else resA e c h o .n32 2 (grpOf m c.g).icnt.toNat m)) ∧
  Completes (.setc h o) h ⟨false, fun e c m =>
      let x := (readOp e m c .n32 o.sa).2
      (o.imm = 0 → x % 8 < 5) ∧
      (16 ≤ o.imm.toNat → tcBad (BitVec.ofNat 32 x) = false ∧ tileHeld (readOp e m c .n32 o.sa).1 c.team (o.imm.toNat - 16) = true), fun e c m =>
    let r := readOp e m c .n32 o.sa
    let x : Word := BitVec.ofNat 32 r.2
    land r.1 (e.now + 2) (if o.imm = 0 then [.creg c.g 0 (x &&& 0xEFF0FF07)] else if o.imm = 1 then [.creg c.g 1 (x &&& 7)]
      else if o.imm.toNat < 16 then [.creg c.g o.imm.toNat (x &&& 0x0003FF7F)] else [.tc c.core (o.imm.toNat - 16) (x &&& 0x000FFF3F)]) c.tok⟩ ∧
  StopsAt (.setc h o) h (fun e c m =>
      let x := (readOp e m c .n32 o.sa).2
      (o.imm = 0 ∧ 5 ≤ x % 8) ∨ (16 ≤ o.imm.toNat ∧ tcBad (BitVec.ofNat 32 x) = true)) (fun _ _ _ => ⟨17, 0, 0, false⟩) (fun e c m => (readOp e m c .n32 o.sa).1) ∧
  StopsAt (.setc h o) h (fun e c m =>
      16 ≤ o.imm.toNat ∧ tcBad (BitVec.ofNat 32 (readOp e m c .n32 o.sa).2) = false ∧ tileHeld (readOp e m c .n32 o.sa).1 c.team (o.imm.toNat - 16) = false)
    (fun _ _ _ => ⟨5, 0, 0, false⟩) (fun e c m => (readOp e m c .n32 o.sa).1)

/-- 08 R226 to R228, 06 R166, R167: transfers complete where the target is legal; a tainted guard raises PBRANCH, and bits above the address ILLTGT. Where it rests on the model's own reading or choice, see the log: entry 23. -/
def Obligations.TransfersCompleteOrTrap : Prop := ∀ h o,
  Completes (.bra h o) h ⟨false, fun e c m => mayGo h (branchTo c o) 0 e c m, fun e c m => quietly e c (goTo (seen e c (branchTo c o) m) c (branchTo c o))⟩ ∧
  Completes (.brx h o) h ⟨false, fun e c m => mayGo h (readOp e m c .n64 o.src).2 ((readOp e m c .n64 o.src).2 / 2 ^ 56) e c m,
    fun e c m => let t := (readOp e m c .n64 o.src).2; quietly e c (goTo (seen e c t m) c t)⟩ ∧
  Completes (.ret h o) h ⟨false, fun e c m => mayGo h (readOp e m c .n64 o.src).2 ((readOp e m c .n64 o.src).2 / 2 ^ 56) e c m,
    fun e c m => let t := (readOp e m c .n64 o.src).2; quietly e c (goTo (seen e c t m) c t)⟩ ∧
  Completes (.call h o) h ⟨false, fun e c m => mayGo h (branchTo c o) 0 e c m,
    fun e c m => callEff e c o (branchTo c o) (8 * (o.aux.toNat % 32)) (seen e c (branchTo c o) m)⟩ ∧
  Completes (.cali h o) h ⟨false, fun e c m => mayGo h (readOp e m c .n64 o.src).2 ((readOp e m c .n64 o.src).2 / 2 ^ 61) e c m,
    fun e c m => let t := (readOp e m c .n64 o.src).2; callEff e c o (t % 2 ^ 56) (8 * (t / 2 ^ 56 % 32)) (seen e c t m)⟩ ∧
  Completes (.loop h o) h ⟨isS o.src, fun e c m => loopCount e c o m ≠ 0 → mayGo h (branchTo c o) 0 e c m, fun e c m =>
    let n := loopCount e c o m
    let m1 := if n = 0 then m
      else (if isS o.src then c.lanes else [c.lane]).foldl (fun m l => updThr m c.g l (fun th => { th with pc := branchTo c o })) (seen e c (branchTo c o) m)
    land m1 (e.now + 1) (wrReg c .n32 o.src n.toNat) (if isS o.src then c.toks else c.tok)⟩ ∧
  StopsAt (.bra h o) h (fun _ c m => taintTrap m c.g c.lane h = true) (fun _ _ _ => ⟨8, 0, 0, false⟩) (fun _ _ m => m) ∧
  StopsAt (.call h o) h (fun _ c m => taintTrap m c.g c.lane h = true) (fun _ _ _ => ⟨8, 0, 0, false⟩) (fun _ _ m => m) ∧
  StopsAt (.brx h o) h (fun e c m => taintTrap m c.g c.lane h = false ∧ 2 ^ 56 ≤ (readOp e m c .n64 o.src).2)
    (fun e c m => ⟨1, (readOp e m c .n64 o.src).2 % 2 ^ 56, 0, false⟩) (fun _ _ m => m) ∧
  StopsAt (.ret h o) h (fun e c m => taintTrap m c.g c.lane h = false ∧ 2 ^ 56 ≤ (readOp e m c .n64 o.src).2)
    (fun e c m => ⟨1, (readOp e m c .n64 o.src).2 % 2 ^ 56, 0, false⟩) (fun _ _ m => m)

/-- 08 R229 to R232: convergence barriers, the end of a thread, the end of a run, and nothing. Where it rests on the model's own reading or choice, see the log: entry 8. -/
def Obligations.ConvergenceCompletes : Prop := ∀ h o,
  Completes (.cvb h o) h (.free true (fun e c m =>
    land (updGrp m c.g (fun a => { a with cbm := setAt a.cbm (o.aux.toNat % 4) (BitVec.ofNat 32 (readOp e m c .n32 o.src).2) })) (e.now + 1) [] c.toks)) ∧
  Completes (.cvbCur h o) h (.free true (fun e c m =>
    land (updGrp m c.g (fun a => { a with cbm := setAt a.cbm (o.aux.toNat % 4) (BitVec.ofNat 32 (laneMask c.lanes)) })) (e.now + 1) [] c.toks)) ∧
  Completes (.cvw h o) h (.free false (fun e c m =>
    let k := o.aux.toNat % 4
    if bitOf (lget (grpOf m c.g).cbm k 0).toNat c.lane then
      quietly e c (updThr (updGrp m c.g (fun a => { a with cba := lupd a.cba k (fun w => w ||| BitVec.ofNat 32 (2 ^ c.lane)) })) c.g c.lane
        (fun t => { t with wait := .cvw k, pc := c.pc, resume := c.next }))
    else quietly e c m)) ∧
  Completes (.exit h o) h (.free false (fun _ c m =>
    let m1 := updThr m c.g c.lane (fun t => { t with st := .exited, wait := .none, mon := none, vecAt := none, step := false })
    if (grpOf m1 c.g).th.all (fun t => t.st == .exited) && !(grpOf m1 c.g).ab.isEmpty then startFlush m1 [c.g] [] none else m1)) ∧
  Completes (.yield h o) h (.free false (fun e c m => quietly e c (updSched m (schedKeyOf (grpOf m c.g)) (fun sc => { sc with run := sc.run.map (fun r => { r with n := 16 }) })))) ∧
  Completes (.nop h o) h (.free false quietly)

/-- 08 R223, R233 to R235, 03 R85, R87: loads and stores complete where their checks pass; a store of poison under PCTL.PST raises PSTORE. Where it rests on the model's own reading or choice, see the log: entries 6 and 14. -/
def Obligations.LoadStoreCompletesOrTraps : Prop := ∀ h o,
  Completes (.ld h o) h ⟨isS o.d,
    fun e c m => (addrOf e c o (widthBytes o.width.toNat) 0 (o.width == 3) m).passes ∨ ∃ f, addrOf e c o (widthBytes o.width.toNat) 0 (o.width == 3) m = .metaw f,
    fun e c m =>
      let m1 := (effAddr e m c o).1
      match addrOf e c o (widthBytes o.width.toNat) 0 (o.width == 3) m with
      | .metaw f => askM e c o (homeOf (f * 16384)) (bitOf o.order.toNat 0) false false (.metaRead f o.d c.pc (effAddr e m c o).2.toNat) m1
      | r => askM e c o (homeOf r.place) (bitOf o.order.toNat 0) false false
          (.load r.place (widthBytes o.width.toNat) (h.fn == 1) o.d none c.pc (effAddr e m c o).2.toNat) m1⟩ ∧
  Completes (.st h o) h ⟨false,
    fun e c m => ((addrOf e c o (widthBytes o.width.toNat) 1 (o.width == 3) m).passes ∨ ∃ k, addrOf e c o (widthBytes o.width.toNat) 1 (o.width == 3) m = .trig k) ∧
      mayStore c (8 * widthBytes o.width.toNat) (storeNat e c o (effAddr e m c o).1) m,
    fun e c m =>
      let m1 := (storeData e (effAddr e m c o).1 c o.width.toNat o.d).1
      match addrOf e c o (widthBytes o.width.toNat) 1 (o.width == 3) m with
      | .trig k => askAs e c c.tok [c.lane] o.scope.toNat (feHome (coreDie c.core)) false (bitOf o.order.toNat 1) true (.trigger c.part k) m1
      | r => askAs e c c.tok [c.lane] o.scope.toNat (homeOf r.place) false (bitOf o.order.toNat 1) true
          (.store [(r.place, toBytes (widthBytes o.width.toNat) (storeNat e c o (effAddr e m c o).1))] false true) m1⟩ ∧
  StopsAt (.ld h o) h (fun e c m => (addrOf e c o (widthBytes o.width.toNat) 0 (o.width == 3) m).causes)
    (fun e c m => (addrOf e c o (widthBytes o.width.toNat) 0 (o.width == 3) m).stops) (fun e c m => (effAddr e m c o).1) ∧
  StopsAt (.st h o) h (fun e c m => (addrOf e c o (widthBytes o.width.toNat) 1 (o.width == 3) m).causes)
    (fun e c m => (addrOf e c o (widthBytes o.width.toNat) 1 (o.width == 3) m).stops) (fun e c m => (effAddr e m c o).1) ∧
  StopsAt (.st h o) h (fun e c m => (addrOf e c o (widthBytes o.width.toNat) 1 (o.width == 3) m).passes ∧
      ¬ mayStore c (8 * widthBytes o.width.toNat) (storeNat e c o (effAddr e m c o).1) m)
    (fun e c m => ⟨7, lowBits 56 (effAddr e m c o).2, 0, false⟩) (fun e c m => (storeData e (effAddr e m c o).1 c o.width.toNat o.d).1)

/-- 08 R236 to R239, 03 R92: tile loads and stores, tile vectors and prefetches complete where every check of every row passes. Where it rests on the model's own reading or choice, see the log: entries 14 and 17. -/
def Obligations.TileAccessesComplete : Prop := ∀ h o,
  Completes (.ldt h o) h ⟨true, fun e c m =>
      let t := tileGeo e m c h o (bitsOf h.fn.toNat 5 4)
      tileCheck m c t = none ∧ (tileSegs e m c 0 (tileRows t) (if t.tr = 0 then c.prog else 0)).2 = none, fun e c m =>
    let t := tileGeo e m c h o (bitsOf h.fn.toNat 5 4)
    let p := if t.tr = 0 then c.prog else 0
    let msgs := byFrame ((tileSegs e m c 0 (tileRows t) p).1.flatMap (fun x => rowPieces t x.1 x.2))
    if msgs.isEmpty then land m (e.now + 2) [] c.toks
    else
      let q := openTile m msgs.length (e.now + 2) c t.k (p = 0)
      let m1 := msgs.foldl (fun m l => tileSend e m c o t q.1 l) q.2
      if c.prog = 0 then m1 else c.toks.foldl tokFall m1⟩ ∧
  Completes (.stt h o) h ⟨true, fun e c m =>
      let t := tileGeo e m c h o 0
      bitOf h.fn.toNat 4 = false ∧ tileCheck m c t = none ∧ (tileSegs e m c 1 (tileRows t) c.prog).2 = none ∧
      ¬ (pstOn m c.g = true ∧ tilePoison m c t (tcEw (shapeOf m c.core t.k)) = true ∧ c.prog = 0), fun e c m =>
    let t := tileGeo e m c h o 0
    let pcs := (tileSegs e m c 1 (tileRows t) c.prog).1.flatMap (fun x => rowPieces t x.1 x.2)
    if pcs.isEmpty then land m (e.now + 2) [] c.toks
    else
      let q := openOp m pcs.length (e.now + 2) c.toks
      let m1 := pcs.foldl (fun m r => sendSet e m c o.scope.toNat (homeOf r.1) false (bitOf o.order.toNat 1) true q.1
        (.store [(r.1, tileBytes m c.core t.k r.2.2 r.2.1)] false true)) q.2
      if c.prog = 0 then m1 else c.toks.foldl tokFall m1⟩ ∧
  Completes (.stt h o) h ⟨true, fun e c m =>
      let t := tileGeo e m c h o 0
      let pcs := (tileSegs e m c 1 (tileRows t) 0).1.flatMap (fun x => rowPieces t x.1 x.2)
      bitOf h.fn.toNat 4 = true ∧ tileCheck m c t = none ∧ oneFrame ((tileRows t).map (fun r => (r.1.toNat, r.2.1))) = true ∧
      (tileSegs e m c 1 (tileRows t) 0).2 = none ∧ oneFrame (pcs.map (fun r => (r.1, r.2.1))) = true ∧
      ¬ (pstOn m c.g = true ∧ tilePoison m c t (tcEw (shapeOf m c.core t.k)) = true), fun e c m =>
    let t := tileGeo e m c h o 0
    let pcs := (tileSegs e m c 1 (tileRows t) 0).1.flatMap (fun x => rowPieces t x.1 x.2)
    askAs e c c.toks c.lanes o.scope.toNat (homeOf ((pcs.map (·.1)).headD 0)) false (bitOf o.order.toNat 1) true (.store (pcs.map (fun r => (r.1, tileBytes m c.core t.k r.2.2 r.2.1))) true true) m⟩ ∧
  (o.width ≠ 5 → Completes (.ldv h o) h ⟨isS o.d,
    fun e c m => (addrOf e c o (widthBytes o.width.toNat) 0 (o.width == 3) m).passes,
    fun e c m =>
      let r := addrOf e c o (widthBytes o.width.toNat) 0 (o.width == 3) m
      askM e c o (homeOf r.place) (bitOf o.order.toNat 0) false false
        (.load r.place (widthBytes o.width.toNat) (h.fn == 1) o.d none c.pc (effAddr e m c o).2.toNat) (effAddr e m c o).1⟩) ∧
  (o.width = 5 → Completes (.ldv h o) h ⟨true, fun e c m =>
      let t := tileGeo e m c h o (bitsOf h.fn.toNat 5 4)
      let s := tileSegs e m c 0 (tileRows t) 0
      tileCheck m c t = none ∧ oneFrame ((tileRows t).map (fun r => (r.1.toNat, r.2.1))) = true ∧ s.2 = none ∧
      oneFrame ((s.1.flatMap (fun x => rowPieces t x.1 x.2)).map (fun r => (r.1, r.2.1))) = true, fun e c m =>
    let t := tileGeo e m c h o (bitsOf h.fn.toNat 5 4)
    let pcs := (tileSegs e m c 0 (tileRows t) 0).1.flatMap (fun x => rowPieces t x.1 x.2)
    let q := openTile m 1 (e.now + 2) c t.k true
    tileSend e q.2 c o t q.1 pcs⟩) ∧
  Completes (.pfx h o) h (.free false (fun e c m =>
    let a := effAddr e m c o
    let al := if o.width = 5 then 1 else widthBytes o.width.toNat
    match checkAddr e a.1 c a.2 al al 0 false with
    | .ok sa =>
      let r := if o.hint ≠ 2 then (sa, 0) else if o.width = 5 then (sa / 16384 * 16384, 16384) else (sa, 64)
      land { fillRetr a.1 (clusterOf c.core) r.1 r.2 with free := a.1.free + 1 + r.2 } (e.now + pfxFill a.1 (clusterOf c.core) r) [] c.tok
    | .stop (.walk va _ _) => joinWalk e a.1 (coreDie c.core) c.part va []
        [{ core := c.core, va := va, frame := o.hint == 2 && o.width == 5, lines := o.hint == 2, toks := c.tok }] []
    | _ => land a.1 (e.now + 2) [] c.tok))

/-- 04 R120 to R122, 08 R240 to R245: atomics, the buffered reductions, their flush, and fences. Where it rests on the model's own reading or choice, see the log: entries 6 and 13. -/
def Obligations.AtomicsAndFencesComplete : Prop := ∀ h o,
  Completes (.atom h o) h ⟨isS o.d, fun e c m =>
      let b := readOp e m c (atomTyOf h) o.d
      (addrOf e c o (tyBits (atomTyOf h) / 8) 2 false b.1).passes ∧ mayStore c (tyBits (atomTyOf h)) b.2 m, fun e c m =>
    let ty := atomTyOf h
    let b := readOp e m c ty o.d
    let sa := (addrOf e c o (tyBits ty / 8) 2 false b.1).place
    askM e c o (homeOf sa) (bitOf o.order.toNat 0) (bitOf o.order.toNat 1) true
      (.atom sa (fnHi h) ty (BitVec.ofNat 64 b.2) (some o.d) c.g c.lane c.pc (effAddr e b.1 c o).2.toNat) (effAddr e b.1 c o).1⟩ ∧
  Completes (.cas h o) h ⟨isS o.d, fun e c m =>
      let n := tyBits (casTy h) / 8
      let a := (effAddr e m c o).1
      (addrOf e c o n 2 false m).passes ∧ mayStore c (8 * n) (readOp e a c (casTy h) (opndUp o.d (n / 4))).2 m, fun e c m =>
    let n := tyBits (casTy h) / 8
    let a := (effAddr e m c o).1
    let sa := (addrOf e c o n 2 false m).place
    askM e c o (homeOf sa) (bitOf o.order.toNat 0) (bitOf o.order.toNat 1) true
      (.cas sa n (BitVec.ofNat 64 (readOp e a c (casTy h) o.d).2) (BitVec.ofNat 64 (readOp e a c (casTy h) (opndUp o.d (n / 4))).2) o.d c.pc
        (lowBits 56 (effAddr e m c o).2)) a⟩ ∧
  Completes (.red h o) h ⟨false, fun e c m => (addrOf e c o (tyBits (atomTyOf h) / 8) 2 false (readOp e m c (atomTyOf h) o.d).1).passes, fun e c m =>
    let ty := atomTyOf h
    let b := readOp e m c ty o.d
    let m1 := (effAddr e b.1 c o).1
    let sa := (addrOf e c o (tyBits ty / 8) 2 false b.1).place
    let half := if tyBits ty / 8 = 8 then 2 else sa / 4 % 2
    if redDrains (grpOf m c.g).ab (sa / 8 * 8) half (fnHi h) ty then
      redAdd e (drainSlot e { m1 with
        serial := m1.serial + 1
        flushes := tset m1.flushes m1.serial { slots := [], g := c.g, out := (grpOf m c.g).ab.length, ackAt := 0, toks := c.tok, bar := none } }
        c.g m1.serial) c ty (fnHi h) (sa / 8 * 8) half b.2
    else land (redAdd e m1 c ty (fnHi h) (sa / 8 * 8) half b.2) (e.now + 2) [] c.tok⟩ ∧
  Completes (.rfl h o) h (.free true (fun e c m => if (grpOf m c.g).ab = [] then land m (e.now + 2) [] c.toks else startFlush m [c.g] c.toks none)) ∧
  Completes (.fence h o) h (.free true (fun e c m =>
    let kind := h.fn.toNat % 4
    let sc := o.scope.toNat
    let least := if kind = 3 then (if sc = 2 then 36 else if 3 ≤ sc then 144 else 0) else 0
    c.lanes.foldl (fun m l => updThr (waitFor e (.fence kind sc) c m l) c.g l (fun t => { t with readyAt := max t.readyAt (e.now + least) }))
      (if 1 ≤ sc ∧ (grpOf m c.g).ab ≠ [] then startFlush m [c.g] [] none else m))) ∧
  StopsAt (.atom h o) h (fun e c m => (addrOf e c o (tyBits (atomTyOf h) / 8) 2 false (readOp e m c (atomTyOf h) o.d).1).causes)
    (fun e c m => (addrOf e c o (tyBits (atomTyOf h) / 8) 2 false (readOp e m c (atomTyOf h) o.d).1).stops)
    (fun e c m => (effAddr e (readOp e m c (atomTyOf h) o.d).1 c o).1) ∧
  StopsAt (.cas h o) h (fun e c m => (addrOf e c o (tyBits (casTy h) / 8) 2 false m).causes)
    (fun e c m => (addrOf e c o (tyBits (casTy h) / 8) 2 false m).stops) (fun e c m => (effAddr e m c o).1)

/-- 08 R246 to R249, 04 R123, R124: monitors and queued waits; `mwt` without a monitor raises WAITTO, and `wake` of an impossible count RANGE. Where it rests on the model's own reading or choice, see the log: entry 29. -/
def Obligations.MonitorsAndQueuedWaitsComplete : Prop := ∀ h,
  (∀ o, Completes (.mon h o) h ⟨false, fun e c m => (addrOf e c o (tyBits (atomTyOf h) / 8) 0 false m).passes, fun e c m =>
    let a := effAddr e m c o
    let d := readOp e a.1 c (atomTyOf h) o.d
    let sa := (addrOf e c o (tyBits (atomTyOf h) / 8) 0 false m).place
    armMon e (openOp d.1 1 (e.now + 2) c.tok).2 c
      { sn := 0, va := a.2.toNat, sa := sa, home := homeOf sa, b64 := decide (tyBits (atomTyOf h) = 64), signed := tySigned (atomTyOf h), cond := fnHi h,
        val := BitVec.ofNat 64 d.2, acq := bitOf o.order.toNat 0, scope := o.scope.toNat, awt := false, armed := false, poll := none, sat := none, learn := [] } d.1.serial⟩) ∧
  (∀ o, Completes (.mwt h o) h ⟨isS o.dst, fun _ c m => ∃ k, (thrOf m c.g c.lane).mon = some k ∧
      (k.b64 = true → pairDst o.dst = true ∧ vTop 2 o.dst ≤ (thrOf m c.g c.lane).v.length), fun e c m =>
    waitMon e (.mwt (if o.imm = 0xFFFFFFFF then none else some (e.now + o.imm.toNat)) o.dst) c o.dst m⟩) ∧
  (∀ o, StopsAt (.mwt h o) h (fun _ c m => (thrOf m c.g c.lane).mon = none) (fun _ _ _ => ⟨22, 0, 0, false⟩) (fun _ _ m => m)) ∧
  (∀ o, Completes (.qwait h o) h ⟨false, fun e c m => (addrOf e c o 8 2 false m).passes, fun e c m =>
    let sa := (addrOf e c o 8 2 false m).place
    sendThr e (waitFor e .qwait c (effAddr e m c o).1 c.lane) c (homeOf sa) false false false 0 (.qwait sa)⟩) ∧
  (∀ o, Completes (.wake h o) h ⟨false, fun e c m => (addrOf e c o 8 2 false m).passes ∧
      1 ≤ (readOp e (effAddr e m c o).1 c .n32 o.d).2 ∧ (readOp e (effAddr e m c o).1 c .n32 o.d).2 ≤ 65535, fun e c m =>
    let n := readOp e (effAddr e m c o).1 c .n32 o.d
    let sa := (addrOf e c o 8 2 false m).place
    askAs e c c.tok [c.lane] o.scope.toNat (homeOf sa) false true true (.wake sa n.2) n.1⟩) ∧
  (∀ o, StopsAt (.wake h o) h (fun e c m => (addrOf e c o 8 2 false m).passes ∧
      ((readOp e (effAddr e m c o).1 c .n32 o.d).2 = 0 ∨ 65535 < (readOp e (effAddr e m c o).1 c .n32 o.d).2))
    (fun e c m => ⟨4, lowBits 56 (effAddr e m c o).2, 0, false⟩) (fun e c m => (readOp e (effAddr e m c o).1 c .n32 o.d).1))

/-- 08 R251 to R255: barriers, broadcasts and arrival words; the members wait where the instruction says so. Where it rests on the model's own reading or choice, see the log: entry 33. -/
def Obligations.BarriersAndArrivalsComplete : Prop := ∀ h o,
  Completes (.bar h o) h (.free true (fun e c m => c.lanes.foldl (waitFor e (.bar (if h.fn = 0x10 then 4 else o.imm.toNat % 4)) c) m)) ∧
  Completes (.bsc h o) h (.free true (fun e c m => c.lanes.foldl
    (waitFor e (.bsc (if h.fn = 0x10 then 4 else o.imm.toNat % 4) (if h.ws then .t 0 else o.dst) (some (latchA c o)) (readOp e m c .s32 o.sa).2 (readOp e m c .n32 o.sb).2) c) m)) ∧
  Completes (.arrvSet h o) h ⟨false, fun e c m => arrOk e c o m ∧ arrN e c o m ≤ 0x0FFFFFFF, fun e c m =>
    ask e c c.tok (homeOf (arrSa e c o m)) false false true (.arrSet (arrSa e c o m) (arrN e c o m)) (readOp e (readOp e m c .n64 o.sa).1 c .n32 o.sb).1⟩ ∧
  Completes (.arrvAdd h o) h ⟨false, fun e c m => arrOk e c o m ∧ arrN e c o m ≤ 0x0FFFFFFF, fun e c m =>
    ask e c c.tok (homeOf (arrSa e c o m)) false true true (.arrInc (arrSa e c o m) (arrN e c o m) 0) (readOp e (readOp e m c .n64 o.sa).1 c .n32 o.sb).1⟩ ∧
  Completes (.awt h o) h ⟨isS o.dst, fun e c m =>
      (checkAddr e (readOp e (readOp e m c .n64 o.sa).1 c .n32 o.sb).1 c ((readOp e m c .n64 o.sa).2 : Int) 8 8 0 false).passes, fun e c m =>
    let a := readOp e m c .n64 o.sa
    let g := readOp e a.1 c .n32 o.sb
    let sa := (checkAddr e g.1 c (a.2 : Int) 8 8 0 false).place
    armMon e (waitMon e (.awt (if h.ws then .t 0 else o.dst) (some (latchA c o))) c o.dst g.1) c
      { sn := 0, va := a.2, sa := sa, home := homeOf sa, b64 := true, signed := false, cond := 0, val := BitVec.ofNat 64 (g.2 % 256), acq := true, scope := 3,
        awt := true, armed := false, poll := none, sat := none, learn := [] } 0⟩ ∧
  StopsAt (.arrvAdd h o) h (fun e c m => arrOk e c o m ∧ 0x0FFFFFFF < arrN e c o m) (fun e c m => ⟨4, (readOp e m c .n64 o.sa).2 % 2 ^ 56, 0, false⟩)
    (fun e c m => (readOp e (readOp e m c .n64 o.sa).1 c .n32 o.sb).1)

/-- 08 R256 to R259, 01 R27 to R31: hand queues, lending and claiming, and messages; a group that is not attached raises PROT, a wrong amount BUDGET, a place outside the partition RANGE. Where it rests on the model's own reading or choice, see the log: entries 9 and 32. -/
def Obligations.QueuesAndBudgetsCompleteOrTrap : Prop := ∀ h o,
  Completes (.qpush h o) h ⟨true, fun _ c m => attached m c (o.imm.toNat % 8) true = true, fun e c m =>
    let sa := queueAt e m c.team (o.imm.toNat % 8)
    let q := openOp m 1 (e.now + 2) c.toks
    sendSet e (c.lanes.foldl (fun m l => updThr m c.g l (waitThr .qpush q.1 c)) q.2) c 1 (homeOf sa) false true true q.1
      (.push sa c.team (o.imm.toNat % 8) (BitVec.ofNat 64 (readOp e m c .n64 o.sa).2))⟩ ∧
  Completes (.qpop h o) h ⟨true, fun _ c m => attached m c (o.imm.toNat % 8) false = true, fun e c m =>
    let sa := queueAt e m c.team (o.imm.toNat % 8)
    let q := openOp m 1 (e.now + 2) c.toks
    sendSet e (c.lanes.foldl (fun m l => updThr m c.g l (waitThr .qpop q.1 c)) q.2) c 1 (homeOf sa) true false false q.1
      (.pop sa c.team (o.imm.toNat % 8) (if h.ws then .t 0 else o.dst) (some (latchA c o)) c.pc 0)⟩ ∧
  Completes (.lend h o) h ⟨true, fun e c m =>
      let n := (readOp e m c .n32 o.sa).2
      n % 8 = 0 ∧ budgets c m (fun b => n + 8 ≤ b), fun e c m =>
    let n := (readOp e m c .n32 o.sa).2
    land (c.lanes.foldl (fun m l => updThr m c.g l (fun t => { t with v := t.v.take (t.v.length - n), lends := t.lends ++ [(c.sn, t.v.length - n)] })) m)
      (e.now + 2) [] c.toks⟩ ∧
  Completes (.claim h o) h ⟨true, fun e c m =>
      let n := (readOp e m c .n32 o.sa).2
      n % 8 = 0 ∧ budgets c m (fun b => b + n ≤ 248), fun e c m =>
    let m1 := c.lanes.foldl (fun m l => updThr m c.g l (waitThr .claim 0 c)) m
    updTeam { m1 with serial := m1.serial + 1 } c.team (fun tm => { tm with claims := tm.claims ++
      [{ id := m1.serial, who := c.lanes.map (fun l => { g := c.g, lane := l }), n := (readOp e m c .n32 o.sa).2, tm := e.now, call := none, toks := c.toks }] })⟩ ∧
  Completes (.send h o) h ⟨false, fun e c m =>
      let k := (readOp e m c .n32 o.sa).2
      k < 4096 ∧ (placeCore e.sys c.part k).isSome = true, fun e c m =>
    let r := readOp e m c .n32 o.sa
    let k := (placeCore e.sys c.part r.2).getD 0
    askAs e c c.tok [c.lane] o.md.toNat k false true true
      (.ring k (o.imm.toNat % 8) (markOf e.sys c.part c.core) (payloadBytes e r.1 c o.sb (bitsOf o.imm.toNat 13 8)) (predNo o.dst)) r.1⟩ ∧
  StopsAt (.qpush h o) h (fun _ c m => attached m c (o.imm.toNat % 8) true = false) (fun _ _ _ => ⟨5, 0, 0, false⟩) (fun _ _ m => m) ∧
  StopsAt (.qpop h o) h (fun _ c m => attached m c (o.imm.toNat % 8) false = false) (fun _ _ _ => ⟨5, 0, 0, false⟩) (fun _ _ m => m) ∧
  StopsAt (.lend h o) h (fun e c m =>
      let n := (readOp e m c .n32 o.sa).2
      n % 8 ≠ 0 ∨ ∃ l ∈ c.lanes, (thrOf m c.g l).v.length < n + 8) (fun _ _ _ => ⟨12, 0, 0, false⟩) (fun _ _ m => m) ∧
  StopsAt (.claim h o) h (fun e c m =>
      let n := (readOp e m c .n32 o.sa).2
      n % 8 ≠ 0 ∨ ∃ l ∈ c.lanes, 248 < (thrOf m c.g l).v.length + n) (fun _ _ _ => ⟨12, 0, 0, false⟩) (fun _ _ m => m) ∧
  StopsAt (.send h o) h (fun e c m =>
      let k := (readOp e m c .n32 o.sa).2
      4096 ≤ k ∨ placeCore e.sys c.part k = none) (fun _ _ _ => ⟨4, 0, 0, false⟩) (fun e c m => (readOp e m c .n32 o.sa).1)

/-- 09 R265 to R276: copies, retrieval and sealing complete where every check passes. Where it rests on the model's own reading or choice, see the log: entries 6, 11 and 18. -/
def Obligations.CopiesAndRetrievalComplete : Prop := ∀ h o,
  Completes (.cpy h o) h ⟨true, fun e c m =>
      let d := (readOp e m c .n64 o.sa).2
      let r := checkAddr e m c (d : Int) 32 32 0 false
      r.passes ∧ cpyCheck e (engRead e m c r.place 32).1 c (engRead e m c r.place 32).2 (compObj e m c o.sb) (compObj e m c o.sc)
        (bitsOf o.ctl.toNat 23 16 + 1, compObj e m c o.sb, compObj e m c o.sc, BitVec.ofNat 64 (bitsOf o.ext.toNat 63 0)) (bitsOf o.ctl.toNat 15 12) = none,
    fun e c m =>
      let r := engRead e m c (checkAddr e m c ((readOp e m c .n64 o.sa).2 : Int) 32 32 0 false).place 32
      let key := (e.now * 4096 + markOf e.sys c.part c.core) * 64 + (grpOf m c.g).gi
      addSlice r.1 c.team (bitsOf o.ctl.toNat 15 12)
        { n := bitsOf o.ctl.toNat 23 16 + 1, col := compObj e m c o.sb, arr := compObj e m c o.sc,
          stamp := BitVec.ofNat 64 (bitsOf o.ext.toNat 63 0), slices := [], toks := [] }
        key c.g ([c.core, r.2, c.lane, c.pc, m.serial, laneMask c.lanes] ++ knowOf m (some c.ref) c.lanes (.monArm 0)) c.toks⟩ ∧
  Completes (.cpym h o) h ⟨true, fun e c m =>
      let src := (readOp e m c .n64 o.sa).2
      let off := (readOp e m c .n32 o.sb).2
      let ctl := match o.sc with | .s _ => (readOp e m c .n64 o.sc).2 | _ => 0
      let marks := ((List.range 16).filter (bitOf (bitsOf o.ext.toNat 83 68))).map (fun k => bitsOf o.ext.toNat 95 84 + k)
      src % 4 = 0 ∧ off % 4 = 0 ∧ (∃ a, ctlWord (ctl % 2 ^ 32) = .ok a) ∧ (∃ a, ctlWord (ctl / 2 ^ 32) = .ok a) ∧
      (∀ k ∈ marks, k ≤ 0xFFF ∧ placeCore e.sys c.part k ≠ none) ∧ off + bitsOf o.ctl.toNat 19 0 ≤ 2 ^ 20 ∧ rowBad e c (src : Int) (bitsOf o.ctl.toNat 19 0) = false,
    fun e c m =>
      let ctl := match o.sc with | .s _ => (readOp e m c .n64 o.sc).2 | _ => 0
      let marks := ((List.range 16).filter (bitOf (bitsOf o.ext.toNat 83 68))).map (fun k => bitsOf o.ext.toNat 95 84 + k)
      let get := fun (w : Nat) => match ctlWord w with | .ok a => a | .error _ => none
      { m with
        serial := m.serial + 1
        copies := tset m.copies m.serial (cpymCopy c m (readOp e m c .n64 o.sa).2 (readOp e m c .n32 o.sb).2 (bitsOf o.ctl.toNat 19 0) marks
          (get (ctl % 2 ^ 32)) (get (ctl / 2 ^ 32)) (bitsOf o.ext.toNat 63 0)) }⟩ ∧
  Completes (.rfet h o) h ⟨false, fun e c m =>
      let mm := bitsOf o.ctl.toNat 4 0 + 1
      ∃ cd ek, rfetCheck e o c m = .ok (cd, ek) ∧
        max (vTop cd.ndim o.sb) (vTop (if outBits ek (retrCvt o) = 64 then 2 * mm else mm) o.dst) ≤ (thrOf m c.g c.lane).v.length ∧
        (rfetElems e c cd ek (retrCvt o) (retrMode m c o) (coords e m c o.sb cd.ndim) (mm - c.prog) c.prog (noteCard e m c (readOp e m c .n64 o.sa).2)).2.2 = none,
    fun e c m =>
      let mm := bitsOf o.ctl.toNat 4 0 + 1
      match rfetCheck e o c m with
      | .error _ => m
      | .ok (cd, ek) =>
        let r := rfetElems e c cd ek (retrCvt o) (retrMode m c o) (coords e m c o.sb cd.ndim) (mm - c.prog) c.prog (noteCard e m c (readOp e m c .n64 o.sa).2)
        replayToks c c.tok (land { r.1 with free := r.1.free + 1 }
          (e.now + 20 + 2 * mm + retrMiss m r.1 (clusterOf c.core) + Config.delay r.1.free)
          (r.2.1.flatMap (fun x => if outBits ek (retrCvt o) = 64 then wrReg c .n64 (opndUp o.dst (2 * x.1)) x.2 else wrReg c .n32 (opndUp o.dst x.1) x.2)) c.tok)⟩ ∧
  Completes (.rfett h o) h ⟨true, fun e c m =>
      let tc := shapeOf m c.core (tileNo o.dst)
      tileHeld m c.team (tileNo o.dst) = true ∧ ∃ cd, cardHere e c o m = .ok cd ∧
        fmRefused m c.g ((ekindOf cd.efmt).getD (.ty .s32)) = false ∧ rfettFits ((ekindOf cd.efmt).getD (.ty .s32)) (retrCvt o) (tcEw tc) = true ∧
        rangeFits o.sb cd.ndim = true ∧
        (rfettRows e c cd ((ekindOf cd.efmt).getD (.ty .s32)) (retrCvt o) (retrMode m c o) (coords e m c o.sb cd.ndim) (tcCols tc) (tcRows tc - c.prog) c.prog
          (noteCard e m c (readOp e m c .n64 o.sa).2)).2.2 = none,
    fun e c m =>
      let k := tileNo o.dst
      let tc := shapeOf m c.core k
      match cardHere e c o m with
      | .error _ => m
      | .ok cd =>
        let ek := (ekindOf cd.efmt).getD (.ty .s32)
        let r := rfettRows e c cd ek (retrCvt o) (retrMode m c o) (coords e m c o.sb cd.ndim) (tcCols tc) (tcRows tc - c.prog) c.prog
          (noteCard e m c (readOp e m c .n64 o.sa).2)
        replayToks c c.toks (land { r.1 with free := r.1.free + 1 }
          (e.now + 20 + 2 * tcRows tc + retrMiss m r.1 (clusterOf c.core) + Config.delay r.1.free)
          (r.2.1.map (fun x => RegWr.tile c.core k (x.1 * tcCols tc * ewBytes (tcEw tc)) (x.2.flatMap (toBytes (ewBytes (tcEw tc)))))
            ++ [RegWr.himag c.core k (c.prog == 0) (r.2.1.any (fun x => x.2.any (hiElem ek (retrCvt o))))]) c.toks)⟩ ∧
  Completes (.cseal h o) h ⟨isS o.dst, fun e c m =>
      (checkAddr e (readOp e m c .n64 o.sa).1 c ((readOp e m c .n64 o.sa).2 : Int) 128 128 2 false).passes, fun e c m =>
    let a := readOp e m c .n64 o.sa
    let sa := (checkAddr e a.1 c (a.2 : Int) 128 128 2 false).place
    askAs e c (if isS o.dst then c.toks else c.tok) (actors c o.dst) 3 (homeOf sa) false true true
      (.seal sa (if o.dst = .v 0 then none else some o.dst) c.pc a.2) a.1⟩

/-- 09 R277 to R284: matrix postings, tile moves, row access and key bounds; a tile outside the allocation raises PROT. Where it rests on the model's own reading or choice, see the log: entries 34 and 35. -/
def Obligations.TileInstructionsCompleteOrTrap : Prop := ∀ h o,
  Completes (.tzro h o) h ⟨true, fun _ c m => tileHeld m c.team (tileNo o.dst) = true, fun e c m =>
    land m (e.now + 2) [.tile c.core (tileNo o.dst) 0 (List.replicate 16384 0), .himag c.core (tileNo o.dst) true false] c.toks⟩ ∧
  Completes (.tmov h o) h ⟨true, fun _ c m => tileHeld m c.team (tileNo o.dst) = true ∧ tileHeld m c.team (tileNo o.sa) = true, fun e c m =>
    land m (e.now + 4) [.tile c.core (tileNo o.dst) 0 (tileBytes m c.core (tileNo o.sa) 0 16384),
      .himag c.core (tileNo o.dst) true (lget (coreOf m c.core).himag (tileNo o.sa) false)] c.toks⟩ ∧
  Completes (.trmxGet h o) h ⟨false, fun _ c m => trmxCheck m c o (tileNo o.sa) o.dst = none, fun e c m =>
    let k := tileNo o.sa
    let tc := shapeOf m c.core k
    let xs := (List.range (o.imm.toNat % 32 + 1)).map (fun i =>
      if tcRows tc ≤ trmxRow c o then 0 else tileElem m c.core k (tcEw tc) (trmxRow c o * tcCols tc + bitsOf o.imm.toNat 15 8 + i))
    land m (e.now + 6) ((if h.ws then [] else xs.zipIdx.flatMap (fun x =>
        if tcEw tc = 3 then wrReg c .n64 (opndUp o.dst (2 * x.2)) x.1 else wrReg c .n32 (opndUp o.dst x.2) x.1))
      ++ wrLatch c (if tcEw tc = 3 then .n64 else .n32) o.lt.toNat [c.lane] (xs.headD 0)) c.tok⟩ ∧
  Completes (.trmxPut h o) h ⟨false, fun _ c m => trmxCheck m c o (tileNo o.dst) o.sa = none, fun e c m =>
    let k := tileNo o.dst
    let tc := shapeOf m c.core k
    let eb := ewBytes (tcEw tc)
    let xs := (List.range (o.imm.toNat % 32 + 1)).map (fun i =>
      (if tcEw tc = 3 then (readOp e m c .n64 (opndUp o.sa (2 * i))).2 else (readOp e m c .n32 (opndUp o.sa i)).2) % 2 ^ (8 * eb))
    land m (e.now + 6) (if tcRows tc ≤ trmxRow c o then []
      else [.tile c.core k ((trmxRow c o * tcCols tc + bitsOf o.imm.toNat 15 8) * eb) (xs.flatMap (toBytes eb)),
        .himag c.core k false (xs.any (hiEw [] (tcEw tc)))]) c.tok⟩ ∧
  Completes (.kbnd h o) h ⟨isS o.dst, fun _ c m =>
      let Q := shapeOf m c.core (tileNo o.sa)
      let S := shapeOf m c.core (tileNo o.sb)
      tileHeld m c.team (tileNo o.sa) = true ∧ tileHeld m c.team (tileNo o.sb) = true ∧ tcEw Q = 2 ∧ tcEw S = 2 ∧ tcCols Q = tcCols S ∧
      2 * bitsOf o.imm.toNat 15 8 + 2 ≤ tcRows S, fun e c m => resA e c h o .f32 8 (kbndVal e c o m).2 (kbndVal e c o m).1⟩ ∧
  Completes (.mma h o) h ⟨true, fun e c m =>
      let f := fnLo h
      let narrow := 8 ≤ f
      (∀ t ∈ [tileNo o.dst, tileNo o.sa, tileNo o.sb] ++ (if narrow then [tileNo o.sc] else []), tileHeld m c.team t = true) ∧
      postBad m c f (if narrow then o.md.toNat % 8 + 3 else fmtBits f) false (tileNo o.dst) (tileNo o.sa) (tileNo o.sb) (tileNo o.sc) = false ∧
      ∃ z, zeroSkip e m c (bitOf h.fn.toNat 5) o.sc = .ok z, fun e c m =>
    let f := fnLo h
    updClus m (clusterOf c.core) (fun cl => { cl with
      table := cl.table ++
        [mkReq e m c o f (if 8 ≤ f then o.md.toNat % 8 + 3 else fmtBits f) false (bitOf h.fn.toNat 4) (if 8 ≤ f then some (tileNo o.sc) else none)
          (match zeroSkip e m c (bitOf h.fn.toNat 5) o.sc with | .ok z => z | .error _ => none)]
      mwait := cl.mwait.filter (· != c.g) })⟩ ∧
  Completes (.mmsp h o) h ⟨true, fun _ c m =>
      let f := fnLo h
      let narrow := 8 ≤ f
      (∀ t ∈ [tileNo o.dst, tileNo o.sa, tileNo o.sb] ++ (if narrow then [tileNo o.sc] else []), tileHeld m c.team t = true) ∧
      postBad m c f (if narrow then o.md.toNat % 8 + 3 else fmtBits f) true (tileNo o.dst) (tileNo o.sa) (tileNo o.sb) (tileNo o.sc) = false, fun e c m =>
    let f := fnLo h
    updClus m (clusterOf c.core) (fun cl => { cl with
      table := cl.table ++
        [mkReq e m c o f (if 8 ≤ f then o.md.toNat % 8 + 3 else fmtBits f) true (bitOf h.fn.toNat 4) (if 8 ≤ f then some (tileNo o.sc) else none) none]
      mwait := cl.mwait.filter (· != c.g) })⟩ ∧
  StopsAt (.tzro h o) h (fun _ c m => tileHeld m c.team (tileNo o.dst) = false) (fun _ _ _ => ⟨5, 0, 0, false⟩) (fun _ _ m => m) ∧
  StopsAt (.tmov h o) h (fun _ c m => tileHeld m c.team (tileNo o.dst) = false ∨ tileHeld m c.team (tileNo o.sa) = false)
    (fun _ _ _ => ⟨5, 0, 0, false⟩) (fun _ _ m => m) ∧
  StopsAt (.mma h o) h (fun _ c m => tileHeld m c.team (tileNo o.dst) = false ∨ tileHeld m c.team (tileNo o.sa) = false ∨ tileHeld m c.team (tileNo o.sb) = false)
    (fun _ _ _ => ⟨5, 0, 0, false⟩) (fun _ _ m => m)

/-- 09 R285 to R293: record instructions complete where the team has a graph and the operands are in range, and raise PROT or RANGE otherwise. Where it rests on the model's own reading or choice, see the log: entries 44 and 55. -/
def Obligations.RecordInstructionsCompleteOrTrap : Prop := ∀ h o,
  Completes (.ralc h o) h ⟨true, fun e c m => onGraph c m (fun g =>
      (readOp e m c .n32 o.sa).2 < gNodes (graphOf m g) ∧ 1 ≤ (readOp e m c .n32 o.sb).2 ∧ (readOp e m c .n32 o.sb).2 ≤ 32), fun e c m =>
    askAs e c c.toks c.lanes 3 (catHome (coreDie c.core)) false false false
      (.ralc (graphHere c m) (readOp e m c .n32 o.sa).2 (readOp e m c .n32 o.sb).2 (predNo o.dst) c.lanes) m⟩ ∧
  Completes (.rput h o) h ⟨false, fun _ c m => onGraph c m (fun _ => True), fun e c m =>
    let hd := quadOf m c o.sa
    let len := o.imm.toNat % 16
    let node := bitsOf hd 7 0
    let depth := newDepth m c (graphOf m (graphHere c m)) node
    let accn := if (teamOf m c.team).standing then (grpOf m c.g).accn else 0
    let m1 := waitFor e .answer c m c.lane
    sendThr e m1 c (catHome (coreDie c.core)) false true false (thrOf m1 c.g c.lane).wop
      (.rput (graphHere c m) (recordBytes accn (bitsOf hd 63 32) depth len (bitsOf hd 19 8) node (payloadBytes e m c o.sb (16 * len))) depth false (predNo o.dst))⟩ ∧
  Completes (.rputIn h o) h ⟨false, fun _ c m => onGraph c m (fun _ => True), fun e c m =>
    let hd := quadOf m c o.sa
    let len := o.imm.toNat % 16
    let m1 := waitFor e .answer c m c.lane
    sendThr e m1 c (catHome (coreDie c.core)) false true false (thrOf m1 c.g c.lane).wop
      (.rput (graphHere c m) (recordBytes 0 (bitsOf hd 63 32) 0 len (bitsOf hd 19 8) (bitsOf hd 7 0) (payloadBytes e m c o.sb (16 * len))) 0 true (predNo o.dst))⟩ ∧
  Completes (.rget h o) h ⟨false, fun e c m => onGraph c m (fun _ => True) ∧ inDispatch m c = true ∧ regS m c.g 1 ≤ (readOp e m c .n32 o.sa).2, fun e c m =>
    let words := 4 * (o.imm.toNat % 16 + 1)
    land (readOp e m c .n32 o.sa).1 (e.now + 8) ((if h.ws then [] else wrWords c o.dst (List.replicate words 0)) ++ wrLatch c .n32 o.lt.toNat [c.lane] 0) c.tok⟩ ∧
  Completes (.rget h o) h ⟨false, fun e c m => onGraph c m (fun _ => True) ∧ inDispatch m c = true ∧ (readOp e m c .n32 o.sa).2 < regS m c.g 1, fun e c m =>
    match (grpOf m c.g).disp with
    | none => m
    | some d =>
      let r := readOp e m c .n32 o.sa
      let words := 4 * (o.imm.toNat % 16 + 1)
      let slot := 16 * (d.rsz + 1)
      let n := min (4 * words) slot
      let off := (d.base + r.2 * slot) % 2 ^ 20
      let sa := sliceAddr e m c.core off
      let p := openOp r.1 1 (e.now + 2) c.tok
      let zero := if h.ws then [] else (List.range (words - n / 4)).map (fun i => RegWr.v c.g c.lane (vNo o.dst + n / 4 + i) 0 c.sn)
      sendThr e { p.2 with ops := tupd p.2.ops p.1 (fun x => { x with land := { x.land with wr := zero } }) } c (homeOf sa) false false false p.1
        (.load sa n false (if h.ws then .t 0 else o.dst) (some (latchA c o)) c.pc (padVa (markOf e.sys c.part c.core) off))⟩ ∧
  Completes (.rdon h o) h ⟨false, fun _ c m => onGraph c m (fun _ => True), fun e c m =>
    land (if inDispatch m c then updThr m c.g c.lane (fun t => { t with rdon := true, rdonSn := m.serial }) else m) (e.now + 2) [] c.tok⟩ ∧
  Completes (.rsd h o) h ⟨false, fun e c m => onGraph c m (fun g =>
      targetBad (graphOf m g) (readOp e m c .n32 o.sa).2 = false ∧ wgtBad (readOp e (readOp e m c .n32 o.sa).1 c .f32 o.sb).2 = false), fun e c m =>
    let g := graphHere c m
    let t := readOp e m c .n32 o.sa
    let w := readOp e t.1 c .f32 o.sb
    let p := openOp w.1 1 (e.now + 2) c.tok
    send e (countSent p.2 g (coreDie c.core)) c.core (catHome (blockDie (graphOf m g) (t.2 % 256) (t.2 / 256 % 4096))) true (some c.ref) [c.lane] 3 false true false p.1
      (.rsd g (t.2 % 256) (t.2 / 256 % 4096) (BitVec.ofNat 32 w.2))⟩ ∧
  Completes (.post h o) h ⟨true, fun _ c m => (teamOf m c.team).grid.isSome = true, fun e c m =>
    let g := (teamOf m c.team).grid.getD 0
    let x := readOp e m c .s32 o.sa
    askAs e c c.toks c.lanes 3 (feHome (((tget m.grids g).map (·.die)).getD 0)) false true true (.post g (o.imm.toNat % 4) (BitVec.ofNat 32 x.2)) x.1⟩ ∧
  Completes (.snap h o) h ⟨isS o.dst, fun e c m => ∃ g, snapGraph m c o.imm.toNat = .ok g ∧ targetBad (graphOf m g) (readOp e m c .n32 o.sa).2 = false, fun e c m =>
    let g := match snapGraph m c o.imm.toNat with | .ok g => g | .error _ => 0
    let t := readOp e m c .n32 o.sa
    askAs e c (tokA c o.dst) (actors c o.dst) 3 (catHome (blockDie (graphOf m g) (t.2 % 256) (t.2 / 256 % 4096))) true false false
      (.snap g (t.2 % 256) (t.2 / 256 % 4096) (if h.ws then .t 0 else o.dst) (some (latchA c o))) t.1⟩ ∧
  (∀ i ∈ [Instr.ralc h o, .rput h o, .rputIn h o, .rget h o, .rdon h o, .rsd h o],
    StopsAt i h (fun _ c m => (teamOf m c.team).graph = none) (fun _ _ _ => ⟨5, 0, 0, false⟩) (fun _ _ m => m)) ∧
  StopsAt (.post h o) h (fun _ c m => (teamOf m c.team).grid = none) (fun _ _ _ => ⟨5, 0, 0, false⟩) (fun _ _ m => m) ∧
  StopsAt (.rsd h o) h (fun e c m => onGraph c m (fun g =>
      targetBad (graphOf m g) (readOp e m c .n32 o.sa).2 = true ∨ wgtBad (readOp e (readOp e m c .n32 o.sa).1 c .f32 o.sb).2 = true))
    (fun _ _ _ => ⟨4, 0, 0, false⟩) (fun e c m => (readOp e (readOp e m c .n32 o.sa).1 c .f32 o.sb).1)

/-- 09 R294 to R300: loop nests and contractions complete where their bases, every access and the parameter block are good. Where it rests on the model's own reading or choice, see the log: entries 6, 11, 12 and 37. -/
def Obligations.LoopsAndContractionComplete : Prop := ∀ h,
  (∀ o, Completes (.nest h o) h ⟨true, fun e c m => baseBad m c o (if lNop o = 0 then [0, 2] else [0, 1, 2]) = none ∧
      (nestGo e c o (lCount o / 32 + 1) c.prog m).2 = none, fun e c m =>
    let m1 := (nestGo e c o (lCount o / 32 + 1) c.prog m).1
    land { m1 with free := m1.free + 1 } (e.now + 2 + 2 * ceilDiv (lCount o) 32 + Config.delay m1.free) [] c.toks⟩) ∧
  (∀ o, Completes (.nred h o) h ⟨true, fun e c m => baseBad m c o (if lNop o = 1 then [0, 1, 2] else [0, 2]) = none ∧
      (nredGo e c o (lCount o / lExt o 0 - c.prog) c.prog m).2 = none, fun e c m =>
    let m1 := (nredGo e c o (lCount o / lExt o 0 - c.prog) c.prog m).1
    land { m1 with free := m1.free + 1 } (e.now + 2 + 2 * ceilDiv (lCount o) 32 + Config.delay m1.free) [] c.toks⟩) ∧
  (∀ o, Completes (.xcon h o) h ⟨true, fun e c m =>
      let r := checkAddr e m c ((readOp e m c .n64 o.sa).2 : Int) 128 128 0 false
      let m1 := (engRead e m c r.place 128).1
      let n := (engRead e m c r.place 128).2
      e.sys.dev.images.contains 3 = true ∧
      (∀ i < bitsOf o.ctl.toNat 7 4, tileHeld m c.team (bitsOf o.ctl.toNat 3 0 + i) = true) ∧ r.passes ∧
      ∃ ca cb cc, readCard e m1 c (bitsOf n 55 0) = .ok ca ∧ readCard e m1 c (bitsOf n 119 64) = .ok cb ∧ readCard e m1 c (bitsOf n 183 128) = .ok cc ∧
        xBad n ca cb cc = false ∧ xFmtBad ca cb cc = false ∧ fmRefused m1 c.g (ekOf ca) = false ∧ xTagBad e m1 c n 0 ca = false ∧ xTagBad e m1 c n 1 cb = false,
    fun e c m =>
      let sa := (checkAddr e m c ((readOp e m c .n64 o.sa).2 : Int) 128 128 0 false).place
      let m1 := (engRead e m c sa 128).1
      let n := (engRead e m c sa 128).2
      let hs := [bitsOf n 55 0, bitsOf n 119 64, bitsOf n 183 128]
      { hs.foldl (fun m h => noteCard e m c h) m1 with
        serial := m1.serial + 1
        copies := tset m1.copies m1.serial { cpymCopy c m1 0 0 0 [] none none 0 with
          todo := []
          xcon := some { block := n, cards := hs.map (cardBits e m1 c), tile := bitsOf o.ctl.toNat 3 0, cnt := bitsOf o.ctl.toNat 7 4,
                         mode := (grpOf m1 c.g).mode, fm := (grpOf m1 c.g).fm, blk := 0, kpos := 0, accs := [], nexts := [], hia := false, hib := false,
                         posted := false } } }⟩) ∧
  (∀ o, StopsAt (.xcon h o) h (fun e _ _ => e.sys.dev.images.contains 3 = false) (fun _ _ _ => ⟨0, 0, 0, false⟩) (fun _ _ m => m))

/-- 16 R375: `trap` and `brk` raise their causes, with INFO from SYS24 and the saved PC at the next instruction; `brk` first sends a stop while STOPALL is set. -/
def Obligations.TrapAndBreakRaise : Prop := ∀ h o,
  StopsAt (.trap h o) h (fun _ _ _ => True) (fun _ _ _ => ⟨20, 0, o.sys.toNat, true⟩) (fun _ _ m => m) ∧
  StopsAt (.brk h o) h (fun _ _ _ => True) (fun _ _ _ => ⟨18, 0, o.sys.toNat, true⟩) (fun e c m => sendStop e m c.team)

/-- 16 R376 to R383, 18 R404: the privileged instructions and calls to the Front End complete. Where it rests on the model's own reading or choice, see the log: entries 6 and 39. -/
def Obligations.SystemInstructionsComplete : Prop := ∀ h o,
  Completes (.tret h o) h ⟨false, fun e c m => (startAt e m c (savedPc (thrOf m c.g c.lane))).2 = some .done, fun e c m =>
    let m1 := (startAt e m c (savedPc (thrOf m c.g c.lane))).1
    afterVar e c (if htokZero (thrOf m1 c.g c.lane) then updThr m1 c.g c.lane (tretThr (runState m1 c.team))
      else updThr m1 c.g c.lane (waitThr .tret 0 c)) []⟩ ∧
  Completes (.tclr h o) h (.free false (fun e c m => afterVar e c m [.causeClear c.g (BitVec.ofNat 32 (bitsOf o.sys.toNat 22 0))])) ∧
  Completes (.park h o) h (.free false (fun e c m => afterVar e c (updThr m c.g c.lane (fun t => { t with st := .heldPark })) [])) ∧
  Completes (.tres h o) h (.free false (fun e c m =>
    land m (e.now + 4) (wrReg c .n32 o.dst (if o.sys = 0 then dbgcOf (entOf m (teamOf m c.team).ent) else (lget (thrOf m c.g c.lane).trec o.sys.toNat 0).toNat)) c.tok)) ∧
  Completes (.tresW h o) h (.free false (fun e c m =>
    let a := readOp e m c .s32 o.sa
    if o.sys = 0 then
      land (if bitOf a.2 2 then updTeam a.1 c.team (fun t => { t with resumeAt := some (e.now + 4 + 18) }) else a.1) (e.now + 4) [.dbgc c.team (BitVec.ofNat 32 a.2)] c.tok
    else land a.1 (e.now + 4)
      [.trec c.g c.lane o.sys.toNat (BitVec.ofNat 32 (trecWord o.sys.toNat (lget (thrOf a.1 c.g c.lane).trec o.sys.toNat 0).toNat a.2))] c.tok)) ∧
  Completes (.plcw h o) h ⟨true, fun e c _ => ∃ k, placeOf e c o.place.toNat = .ok k, fun e c m =>
    let k := match placeOf e c o.place.toNat with | .ok k => k | .error _ => 0
    let a := readOp e m c .s32 o.sa
    askAs e c c.toks c.lanes 3 k false false true (.nireg k o.sys.toNat (BitVec.ofNat 32 a.2)) a.1⟩ ∧
  Completes (.diag h o) h ⟨true, fun e c _ => ∃ k, placeOf e c o.place.toNat = .ok k, fun e c m =>
    let k := match placeOf e c o.place.toNat with | .ok k => k | .error _ => 0
    askAs e c c.toks c.lanes 3 k false false false (.niread k o.sys.toNat o.dst) m⟩ ∧
  Completes (.xinv h o) h ⟨true, fun e c m =>
      (readOp e m c .n64 o.sa).2 % 4096 = 0 ∧ 1 ≤ (readOp e m c .n32 o.sb).2 ∧ (readOp e m c .n32 o.sb).2 ≤ 2 ^ 20, fun e c m =>
    askAs e c c.toks c.lanes 3 c.core false false false (.inval none ((readOp e m c .n64 o.sa).2 % 2 ^ 56) (readOp e m c .n32 o.sb).2 (bitsOf o.sys.toNat 1 0) (clusterOf c.core)) m⟩ ∧
  Completes (.swap h o) h (.free true (fun e c m =>
    let r := readOp e m c .s32 o.sa
    suspendTeam e (land r.1 (e.now + 2) [] c.toks) c.team 1 (BitVec.ofNat 32 r.2) c.pc 0)) ∧
  Completes (.fcal h o) h (.free true (fun e c m =>
    let a := readOp e m c .s32 o.sa
    let d := coreDie c.core
    let m1 := c.lanes.foldl (fun m l => updThr m c.g l (waitThr .fcal 0 c)) a.1
    let m2 := updTeam m1 c.team (fun t => { t with fcalOut := t.fcalOut ++ [(c.g, o.dst, c.lanes.map (fun l => { g := c.g, lane := l }), c.toks)] })
    updDie m2 d (fun x => { x with
      fcal := x.fcal ++ [(bitsOf o.sys.toNat 15 0, markOf e.sys c.part c.core, (grpOf m c.g).gteam, BitVec.ofNat 32 a.2)]
      intr := x.intr ||| 2 ^ 3 })))

/-- 01 R37: results land in the order in which they were issued; the first one whose clock has come lands with all its writes. 18 R413: what comes from elsewhere to an isolated core is discarded. -/
def Obligations.ResultsLand : Prop := ∀ s k l,
  FirstAt s.m.pending (fun l => l.tm ≤ s.clk.now) k l →
  ((∀ c, l.far = some c → (coreOf s.m c).isol = false) → Takes .resultLand s (s.withMach (landMerged { s.m with pending := s.m.pending.eraseIdx k } l))) ∧
  (∀ c, l.far = some c → (coreOf s.m c).isol = true → Takes .resultLand s (s.withMach { s.m with pending := s.m.pending.eraseIdx k }))

/-- 04 R108: at its home a message does what its kind does there, each row for its kinds; a read that lost a flit reads poison (05 R151). A push puts its doubleword behind the entries of its queue and a pop takes the oldest (03 R100, R101); a ring appends or refuses a message (03 R97, R98); an increment counts an arrival word on (03 R94), a colophon writes its stamp (03 R95); an input is numbered and sent on to its block (02 R53); a record or post is combined with its block's residual, or waits for an entry (02 R46, R58, R59); `rput`, `ralc` and `snap` are answered (09 R287, R288, R293; 02 R54); an invalidation drops what the translation caches hold of its pages (18 R404). Where it rests on the model's own reading or choice, see the log: entries 7, 36, 50, 51, 52, 63. -/
def Obligations.MessagesArePerformed : Prop := ∀ s id x, AtHome s id x →
  let e := s.env
  let m := atHomeMach s id x
  let done := performedAs s x
  let now := s.clk.now
  (msgRow x.body = .access → (∀ p g, x.body ≠ .trigger p g) → Takes (.memoryAccessPerform id) s (done (performMsg e m x))) ∧
  (∀ p g, x.body = .trigger p g → Takes (.memoryAccessPerform id) s
    { done (performMsg e m x) with sys := triggerTask s.sys p g, m := respondHere e (done (performMsg e m x)).m x }) ∧
  (msgRow x.body = .hand → Takes (.handQueueApply id) s (done (performMsg e m x))) ∧
  (∀ sa k j d, x.body = .push sa k j d →
    let h := queueHdr m sa
    let m1 := storeAt m (sa + 16 + 8 * ((lget (teamOf m k).qhd j 0 + h.2.1) % max 1 h.1)) (toBytes 8 d.toNat) false
    Takes (.handQueueApply id) s (done (closePart (mergeClocks (storeAt m1 sa (toBytes 16 (queueHead (readNat m1 sa 16) h.2.2.2 (h.2.2.1 + 1) (h.2.1 + 1))) false) x)
      x.op (now + x.back) [] (lanesWaiting m x .qpush)))) ∧
  (∀ sa k j dst latch pc va, x.body = .pop sa k j dst latch pc va → x.bad = false →
    let h := queueHdr m sa
    let i := lget (teamOf m k).qhd j 0 % max 1 h.1
    let v := loadChk e (attend m x) (msgCtx x pc) (sa + 16 + 8 * i) 8 va
    (queueHdr (attend m x) sa = h ∧ (teamOf (attend m x) k).qhd = (teamOf m k).qhd) ∧
    Takes (.handQueueApply id) s (done (closePart (mergeClocks (updTeam (storeAt v.1 sa (toBytes 16 (queueHead (readNat v.1 sa 16) (h.2.2.2 + 1) h.2.2.1 (h.2.1 - 1))) false) k
        (fun t => { t with qhd := lupd t.qhd j (fun _ => (i + 1) % max 1 h.1) })) x)
      x.op (now + x.back) (wrReg (msgCtx x 0) .n64 dst v.2 ++ latchWrs ((x.thr.map (·.g)).getD 0) latch (regWords .n64 v.2)) (lanesWaiting m x .qpop)))) ∧
  (msgRow x.body = .inbox → Takes (.inboxMessageArrival id) s (done (performMsg e m x))) ∧
  (∀ core j sender payload pd, x.body = .ring core j sender payload pd →
    let t := x.thr.getD { g := 0, lane := 0 }
    (ringAt (lget (coreOf m core).ring j 0) = none → Takes (.inboxMessageArrival id) s (done (respond e m x [.p t.g t.lane pd false false]))) ∧
    (∀ off, ringAt (lget (coreOf m core).ring j 0) = some off → 2 ^ 20 < off + 64 → Takes (.inboxMessageArrival id) s (done (respond e m x [.p t.g t.lane pd false false]))) ∧
    (∀ off, ringAt (lget (coreOf m core).ring j 0) = some off → off + 64 ≤ 2 ^ 20 →
      let h := ringHdr m (sliceAddr e m core off)
      let n := (tget (coreOf m core).sseq (sender * 8 + j)).getD 0
      (ringUsable off h = true → ringFill h < h.allow →
        let m1 := updCore m core (fun c => { c with sseq := tset c.sseq (sender * 8 + j) ((n + 1) % 2 ^ 32) })
        let m2 := storeAt m1 (sliceAddr e m core (off + 64 + 64 * (h.tail % 2 ^ h.size))) (toBytes 8 (pack [(32, n), (8, 0), (8, payload.length), (4, 0), (12, sender)]) ++ payload) false
        Takes (.inboxMessageArrival id) s (done (respond e (storeAt m2 (sliceAddr e m core (off + 4)) (toBytes 4 (h.tail + 1)) false) x [.p t.g t.lane pd true false]))) ∧
      (ringUsable off h = false ∨ h.allow ≤ ringFill h → ¬ (2 ≤ h.size ∧ h.size ≤ 12 ∧ ringFits off h = false) →
        Takes (.inboxMessageArrival id) s (done (respond e (storeAt m (sliceAddr e m core (off + 8)) (toBytes 2 (min 65535 (h.rfsd + 1))) false) x [.p t.g t.lane pd false false]))) ∧
      (2 ≤ h.size → h.size ≤ 12 → ringFits off h = false → Takes (.inboxMessageArrival id) s (done (respond e m x [.p t.g t.lane pd false false]))))) ∧
  (msgRow x.body = .inc → Takes (.arrivalIncrement id) s (done (performMsg e m x))) ∧
  (∀ sa n copy, x.body = .arrInc sa n copy →
    let w := readNat m sa 8
    let c := bitsOf w 35 8 + n
    let target := bitsOf w 63 36
    let after := fun (v : Nat) => let m1 := storeAt m sa (toBytes 8 v) false
      if copy = 0 then respond e m1 x [] else updCopy (mergeClocks m1 x) copy (fun c => { c with incs := c.incs - 1 })
    (target = 0 → Takes (.arrivalIncrement id) s (done (after (pack [(8, w % 256), (28, min c 0x0FFFFFFF), (28, 0)])))) ∧
    (target ≠ 0 → Takes (.arrivalIncrement id) s (done (after (pack [(8, (w % 256 + c / target) % 256), (28, c % target), (28, target)]))))) ∧
  (∀ sa stamp copy, x.body = .colophon sa stamp copy →
    Takes (.colophonWrite id) s (done (updCopy (mergeClocks (storeAt m sa (toBytes 8 stamp.toNat) false) x) copy (fun c => { c with colOut := c.colOut - 1 })))) ∧
  (∀ g data slot gr, x.body = .input g data slot → tget s.m.graphs g = some gr →
    Takes (.inputAccession id) s (done (send e (countSent (updGraph (mergeClocks m x) g (fun a => { a with accn := gr.accn + 1 })) g (gHome gr))
      (catHome (gHome gr)) (catHome (recordHome gr data false)) true none [] 3 false true false 0 (.record g (data.take 8 ++ toBytes 8 (gr.accn + 1) ++ data.drop 16) slot)))) ∧
  (∀ g data slot gr, x.body = .record g data slot → tget s.m.graphs g = some gr →
    let k := recKey data
    let b := blockOf gr k
    let n := noteProv (receipt gr (blockDie gr (k / 4096) (k % 4096))) (recWgt data)
    (mustWait m gr k = false → Takes (.recordArrival id) s (done (updGraph (mergeClocks m x) g (fun _ => { n with blocks := tset gr.blocks k { b with
      res := combine (nSum gr (k / 4096)) b.res (recWgt data), raise := now, pend := b.pend ++ [(slot, data)], held := false, active := true } })))) ∧
    (mustWait m gr k = true → Takes (.recordArrival id) s (done { updGraph (mergeClocks m x) g (fun _ => { n with blocks := tset gr.blocks k { b with
      pend := b.pend ++ [(slot, data)], waiting := some (b.waiting.getD s.m.serial) } }) with serial := s.m.serial + 1 }))) ∧
  (∀ g node blk w gr, x.body = .rsd g node blk w → tget s.m.graphs g = some gr →
    let k := blkKey node blk
    let b := blockOf gr k
    let n := noteProv (receipt gr (blockDie gr (k / 4096) (k % 4096))) w
    let r := combine (nSum gr (k / 4096)) b.res w
    (mustWait m gr k = false → Takes (.residualPostApply id) s (done (respondHere e (updGraph m g (fun _ => { n with blocks := tset gr.blocks k { b with
      res := r, raise := if resLt b.res r then now else b.raise, held := false, active := true } })) x))) ∧
    (mustWait m gr k = true → Takes (.residualPostApply id) s (done (respondHere e { updGraph m g (fun _ => { n with blocks := tset gr.blocks k { b with
      hres := some (match b.hres with | some q => combine (nSum gr (k / 4096)) q w | none => w), waiting := some (b.waiting.getD s.m.serial) } }) with serial := s.m.serial + 1 } x)))) ∧
  (msgRow x.body = .answer → Takes (.catalogueAnswer id) s (done (answerDo e m x))) ∧
  (∀ g data depth isIn pd r, x.body = .rput g data depth isIn pd → x.thr = some r →
    let d := (homePos x.dst).1
    (∀ slot m1, decideRput m g r.g d data depth isIn = .ok (slot, m1) → Takes (.catalogueAnswer id) s (done (closePart
      (send e (mergeClocks (if isIn then m1 else countSent m1 g d) x) x.src (catHome (recordHome (graphOf m g) data isIn)) true (some r) x.who 3 false true false 0
        (if isIn then .input g data slot else .record g data slot)) x.op (now + x.back + 4) [.p r.g r.lane pd true false] [r]))) ∧
    (decideRput m g r.g d data depth isIn = .error 32 → Takes (.catalogueAnswer id) s (done (closePart (mergeClocks m x) x.op (now + x.back + 4) [.p r.g r.lane pd false false] [r]))) ∧
    (∀ c, c ≠ 32 → decideRput m g r.g d data depth isIn = .error c → Takes (.catalogueAnswer id) s (done (let m1 := mergeClocks m x
      { m1 with serial := m1.serial + 1, flight := m1.flight ++ [{ x with id := m1.serial, due := now + x.back + 4, src := x.dst, dst := x.src, acq := false, rel := false, body := .outcome pd c }] })))) ∧
  (∀ pd c r, x.body = .outcome pd c → x.thr = some r →
    let t := thrOf m r.g r.lane
    (t.wait = .answer → t.wop = x.op → Takes (.catalogueAnswer id) s (done (raise e (applyWr (closePart m x.op now [] []) (.p r.g r.lane pd false false)) r.g r.lane c 0 0 t.resume t.pc 0 false))) ∧
    (t.wait ≠ .answer ∨ t.wop ≠ x.op → Takes (.catalogueAnswer id) s (done (closePart m x.op now [.p r.g r.lane pd false false] [])))) ∧
  (∀ g node n pd lanes r, x.body = .ralc g node n pd lanes → x.thr = some r →
    let gr := graphOf m g
    let held := sumL ((grpOf m r.g).resv.map (fun y => y.2.length))
    (held + n ≤ 64 → ∀ l g1, slotsTake gr (homePos x.dst).1 (slotSize gr node) n = some (l, g1) → Takes (.catalogueAnswer id) s (done (closePart
      (mergeClocks (updGrp (updGraph m g (fun _ => g1)) r.g (fun a => { a with resv := tset a.resv node ((tget a.resv node).getD [] ++ l) })) x)
      x.op (now + x.back + 4) (lanes.map (fun l => .p r.g l pd true false)) []))) ∧
    (64 < held + n ∨ slotsTake gr (homePos x.dst).1 (slotSize gr node) n = none →
      Takes (.catalogueAnswer id) s (done (closePart (mergeClocks m x) x.op (now + x.back + 4) (lanes.map (fun l => .p r.g l pd false false)) [])))) ∧
  (∀ g node blk dst latch, x.body = .snap g node blk dst latch →
    let gr := graphOf m g
    let b := blockOf gr (blkKey node blk)
    let bound := if b.run.isSome && resLt b.res b.taken then b.taken else b.res
    let xs := [b.ver.toNat + (if b.run.isSome then 2 ^ 31 else 0), bound.toNat, gr.wmark % 2 ^ 32, gr.wmark / 2 ^ 32, gr.ebnd.toNat]
    Takes (.catalogueAnswer id) s (done (respond e (attend m x) x (wordWrs (msgCtx x 0) dst xs ++ latchWrs (msgCtx x 0).g latch [BitVec.ofNat 32 (xs.headD 0)])))) ∧
  (∀ p a n reach cl, x.body = .inval p a n reach cl → Takes (.memoryAccessPerform id) s (done (respond e (invalidate e m p a n reach cl) x [])))

/-- 03 R98, 04 R116, R123, 08 R247, R248: markers of a reset sender, the causal buffer, polling monitors, timeouts and retries of queued waits. Where it rests on the model's own reading or choice, see the log: entries 7 and 29. -/
def Obligations.WaitsAtHomesEnd : Prop := ∀ s,
  (∀ id x, msgOf s.m id = some x → x.stage = .held → vcBlocked s.m x = false →
    Takes (.causalBufferRelease id) s (s.withMach { s.m with flight := s.m.flight.map (fun y => if y.id = id then { y with stage := .free } else y) })) ∧
  (∀ core k sender, (sender, k) ∈ (coreOf s.m core).markers → markerFits s.env s.m core k ≠ none →
    Takes (.senderResetMarker core k) s (s.withMach (appendMarker s.env s.m core k))) ∧
  (∀ core k sender off, (coreOf s.m core).markers.find? (fun x => x.2 == k) = some (sender, k) → markerFits s.env s.m core k = some off →
    let m1 := updCore s.m core (fun c => { c with markers := c.markers.filter (fun x => x != (sender, k)), sseq := tset c.sseq (sender * 8 + k) 0 })
    let h := ringHdr s.m (sliceAddr s.env s.m core off)
    let m2 := storeAt m1 (sliceAddr s.env s.m core (off + 64 + 64 * (h.tail % 2 ^ h.size)))
      (toBytes 8 (pack [(32, (tget (coreOf s.m core).sseq (sender * 8 + k)).getD 0), (8, 0), (8, 0), (4, 1), (12, sender)]) ++ []) false
    Takes (.senderResetMarker core k) s (s.withMach (storeAt m2 (sliceAddr s.env s.m core (off + 4)) (toBytes 4 (h.tail + 1)) false))) ∧
  (∀ g lane mo t, (thrOf s.m g lane).mon = some mo → mo.armed = true → mo.sat = none → mo.poll = some t → t ≤ s.clk.now →
    Takes (.monitorPoll g lane) s (s.withMach (testMon s.env (updThr s.m g lane (fun u => { u with
      mon := u.mon.map (fun mo => { mo with poll := some (s.clk.now + 64) }) })) { g := g, lane := lane }))) ∧
  (∀ g lane d dst, (thrOf s.m g lane).wait = .mwt (some d) dst → d ≤ s.clk.now → resident (teamOf s.m (grpOf s.m g).team) = true →
    (∀ mo, (thrOf s.m g lane).mon = some mo → (d = (thrOf s.m g lane).lastIssue → mo.armed = true ∧ mo.sat = none) ∧ ∀ v tm, mo.sat = some (v, tm) → s.clk.now < tm) →
    Takes (.mwtTimeout g lane) s (s.withMach ((waiters s.m g (thrOf s.m g lane).wop).foldl
      (fun m r => raise s.env m r.g r.lane 22 0 0 (thrOf m r.g r.lane).pc (thrOf m r.g r.lane).pc 0 (thrOf m r.g r.lane).solo)
      (dropOp s.m (thrOf s.m g lane).wop)))) ∧
  (∀ k sa r t, FirstAt s.m.retries (fun x => x.2.2 ≤ s.clk.now) k (sa, r, t) →
    Takes .qwaitRetry s (s.withMach (linkQueue s.env { s.m with retries := s.m.retries.eraseIdx k } sa r)))

/-- 01 R28 to R31, 04 R122, 08 R230, R252: a claim at the head of its team's queue that fits is granted, a deadlock ends every claim with its cause, satisfied barriers release their threads, and atomic buffers drain slot by slot. Where it rests on the model's own reading or choice, see the log: entries 6, 32 and 33. -/
def Obligations.ClaimsAndBarriersRelease : Prop := ∀ s,
  (∀ id k c, claimOf s.m id = some (k, c) → c.tm < s.clk.now → resident (teamOf s.m k) = true → atHead s.m (teamOf s.m k) c = true →
    claimFits s.m k c = true → Takes (.claimGrant id) s (s.withMach
      (let m1 := updTeam s.m k (fun t => { t with claims := t.claims.filter (fun d => d.id != id) })
       let m2 := c.who.foldl (fun m r => updThr m r.g r.lane (grantThr s.clk.now c.n)) m1
       land (land { m2 with serial := m2.serial + 1 } s.clk.now
         (match c.call, c.who.head? with
          | some (link, _, ret), some r => wrReg { logCtx r.g r.lane ret with sn := s.m.serial } .n64 link ret
          | _, _ => []) []) (max s.clk.now (c.tm + 2)) [] c.toks))) ∧
  (∀ k t, (teamOf s.m k).dlAt = some t → t ≤ s.clk.now → deadlocked s.m k = true → Takes (.deadlockDetect k) s (s.withMach
    ((teamOf s.m k).claims.foldl (fun m c => c.who.foldl
        (fun m r => raise s.env m r.g r.lane 13 0 0 (thrOf m r.g r.lane).pc (thrOf m r.g r.lane).pc 0 (thrOf m r.g r.lane).solo) (c.toks.foldl tokFall m))
      (updTeam s.m k (fun t => { t with claims := [], dlAt := none }))))) ∧
  (∀ g cb, cvwDone (grpOf s.m g) cb = true → (∀ t ∈ (grpOf s.m g).th, t.wait = .cvw cb → t.lastIssue < s.clk.now) → (grpOf s.m g).lastIssue < s.clk.now →
    Takes (.cvwRelease g cb) s (s.withMach (updGrp s.m g (fun gr =>
      { gr with cba := setAt gr.cba cb 0, th := gr.th.map (fun t => if t.wait == .cvw cb then wakeThr t else t) })))) ∧
  (∀ k a f, barOfKey s.m k = { sat := some a, flushed := some f } →
    a + (if k % 8 = 4 ∧ (tget s.m.grids (k / 8)).any (·.multi) = true then 72 else 18) ≤ s.clk.now → f + 1 ≤ s.clk.now →
    let gs := (barGroups s.m k).filter (fun x => liveGrp x.2)
    let v := bscValue s.m k gs
    Takes (.barDeparture k) s (s.withMach (gs.foldl (fun m x => x.2.th.zipIdx.foldl (fun m y =>
      match y.1.wait with
      | .bar b => if b = k % 8 then endWait s.env m { g := x.1, lane := y.2 } [] else m
      | .bsc b d l _ _ => if b = k % 8 then endWait s.env m { g := x.1, lane := y.2 }
          (wordWrs (logCtx x.1 y.2 y.1.pc) d [v] ++ latchWrs x.1 l [BitVec.ofNat 32 v]) else m
      | _ => m) m) (setBar (meetThrs s.m (barThrs s.m k)) k BarSt.initial)))) ∧
  (∀ k f g r, tget s.m.flushes k = some f → f.slots = g :: r → f.out = 0 → f.ackAt ≤ s.clk.now →
    Takes (.atomicBufferDrain k) s (s.withMach (updGrp ((grpOf s.m g).ab.foldl (fun m a =>
        let sa := a.sa + (if a.half = 1 then 4 else 0)
        let l := if a.disp then 32 else 33
        send s.env m (grpOf s.m g).core (homeOf sa) false (some { g := g, lane := l }) [l] 3 false false true k (.atom sa a.op a.ty a.acc none g a.lane a.pc 0))
      { s.m with flushes := tset s.m.flushes k { f with slots := r, g := g, out := (grpOf s.m g).ab.length } }) g (fun gr => { gr with ab := [] }))))

/-- 18 R403, R406, 09 R263 to R270, R278 to R281: walks end, under the root of their start, and the one that waits longest takes the slot, or they stop the machine by name where a table would be read without memory; channels start their instances, engines take their next packet, and the matrix engine grants and completes passes. Where it rests on the model's own reading or choice, see the log: entries 6, 20, 21, 34 and 50. -/
def Obligations.WalksAndEnginesStep : Prop := ∀ s,
  (∀ k w, FirstAt s.m.walks (fun w => ∃ t, w.due = some t ∧ t ≤ s.clk.now) k w →
    (∀ pa, walkVa s.m w.root (w.page * 4096) ≠ .noHome pa) →
    let m1 := w.who.foldl (walkOne s.env w.root w.part) { s.m with walks := s.m.walks.eraseIdx k }
    let m2 := w.engs.foldl (engOne s.env w.root w.part) (w.fills.foldl (fillOne s.env w.root w.part) m1)
    let free := fun (w2 : Walk) => w2.die = w.die ∧ w2.due = none
    ((∀ w2, w2 ∈ m2.walks → ¬ free w2) → Takes .pageWalk s (s.withMach m2)) ∧
    (∀ i w2, FirstAt m2.walks free i w2 → Takes .pageWalk s (s.withMach { m2 with free := m2.free + 1, walks := m2.walks.modify i (fun w2 => { w2 with
      root := (partOf s.sys w2.part).root
      due := some (s.clk.now + walkClocks m2 w2.die (partOf s.sys w2.part).root (w2.page * 4096) + Config.delay m2.free) }) }))) ∧
  (∀ k w pa, FirstAt s.m.walks (fun w => ∃ t, w.due = some t ∧ t ≤ s.clk.now) k w → walkVa s.m w.root (w.page * 4096) = .noHome pa →
    exec .pageWalk s = .fault (.noHome pa)) ∧
  (∀ t ch x, tget (teamOf s.m t).chans ch = some x → (x.slices.length = x.n ∨ sliceless s.m t x < x.n - x.slices.length) →
    Takes (.copyInstanceStart t ch) s (s.withMach { updTeam s.m t (fun u => { u with chans := tdel u.chans ch }) with
      serial := s.m.serial + 1, copies := tset s.m.copies s.m.serial (chanCopy s.m t x) })) ∧
  (∀ k cp, tget s.m.copies k = some cp → cp.blocked = false → cp.next ≤ s.clk.now → forkDone s.m cp = true → (coreOf s.m cp.core).isol = false →
    (∀ x, cp.xcon = some x → xReady cp x = true → Takes (.enginePacketWrite k) s (s.withMach (engContract s.env s.m k cp x))) ∧
    (∀ r rest, cp.xcon = none → cp.todo = r :: rest → Takes (.enginePacketWrite k) s (s.withMach (engPacket s.env s.m k cp r rest))) ∧
    (cp.xcon = none → cp.todo = [] → cp.out = 0 → cp.incs = 0 → cp.cols ≠ [] → cp.colSent = false →
      Takes (.enginePacketWrite k) s (s.withMach (engColophon s.env s.m k cp)))) ∧
  (∀ cl q i, (clusOf s.m cl).freeAt ≤ s.clk.now → nextGrant s.env s.m cl = some (q, i) →
    let m0 := updClus s.m cl (fun c => { c with table := c.table.eraseIdx i })
    let r := match q.xc with | some k => runXPass s.env m0 cl k q | none => runPass s.env m0 cl q
    Takes (.matrixGrant cl) s (s.withMach (updClus r.1 cl (fun c => { c with
      granted := c.granted ++ [(q, { tm := s.clk.now + r.2.2 + 5, wr := r.2.1, tok := q.toks, wake := [] })], freeAt := s.clk.now + r.2.2 })))) ∧
  (∀ cl q l r, (clusOf s.m cl).granted = (q, l) :: r → l.tm ≤ s.clk.now →
    Takes (.matrixPassComplete cl) s (s.withMach (xLanded (landMerged (updClus s.m cl (fun c => { c with granted := c.granted.drop 1 })) l) q)))

/-- 02 R46 to R73: a Catalogue activates the block that waited first, lets timers lapse, chooses and launches dispatches and retires them; probes start, are answered and reported. Where it rests on the model's own reading or choice, see the log: entries 6 and 43. -/
def Obligations.CatalogueSteps : Prop := ∀ s,
  (∀ d g k w, nextWaiting s.m d = some (g, k, w) → activeOn s.m d < 4096 →
    Takes (.blockActivation d) s (s.withMach (updGraph s.m g (fun gr =>
      let b := blockOf gr k
      let g1 := { gr with blocks := tset gr.blocks k { b with pend := [], waiting := none, hres := none, active := true } }
      let g2 := b.pend.foldl (fun g r => applyWeight s.env g k (recWgt r.2) (some r)) g1
      let g3 := match b.hres with | some w => applyWeight s.env g2 k w none | none => g2
      if b.pend.isEmpty && b.hres.isNone then g3 else { g3 with blocks := tupd g3.blocks k (fun b => { b with raise := s.clk.now }) })))) ∧
  (∀ g k t, (blockOf (graphOf s.m g) k).timer = some t → t ≤ s.clk.now →
    Takes (.coalescingTimerLapse g k) s (s.withMach (updGraph s.m g (fun gr => { gr with blocks := tupd gr.blocks k (fun b =>
      let b1 := { b with timer := none, lapsed := true }
      if blockReady gr k b1 then { b1 with readyAt := some (b1.readyAt.getD s.clk.now) } else b1) })))) ∧
  (∀ d c t core lb sl, s.clk.now % 2 = 0 → s.clk.turn.contains (100000 + d) = false → choose s.env s.m d = some (c, t, core, lb, sl) →
    Takes (.catalogueChoice d) s { s.withMach (dispatch s.env s.m c.g c.k t core lb sl) with clk := { s.clk with turn := s.clk.turn ++ [100000 + d] } } ∧
    Dispatched s c t core lb sl (dispatch s.env s.m c.g c.k t core lb sl)) ∧
  (∀ g d t, (grpOf s.m g).disp = some d → d.launchAt = some t → t ≤ s.clk.now →
    ((coreOf s.m (grpOf s.m g).core).isol = false →
      let core := (grpOf s.m g).core
      let size := 16 * (d.rsz + 1)
      let m1 := (d.recs.map (·.2)).zipIdx.foldl (fun m x => storeAt m (sliceAddr s.env m core (d.base + x.2 * size)) ((x.1 ++ List.replicate size 0).take size) false) s.m
      let m2 := updGraph m1 d.graph (fun gr => d.recs.foldl (fun gr x => slotFree gr x.1) gr)
      Takes (.dispatchLaunch g) s (s.withMach (updGrp m2 g (fun gr => { gr with
        disp := some { d with launchAt := none, recs := [] }
        th := gr.th.map (fun t => { learnThr (dieOf s.m (coreDie core)).vc t with readyAt := s.clk.now, lastIssue := s.clk.now })
        lastIssue := s.clk.now
        readySince := s.clk.now })))) ∧
    ((coreOf s.m (grpOf s.m g).core).isol = true →
      Takes (.dispatchLaunch g) s (s.withMach (updGrp (linkPoison s.env (freeRecs (returnResv s.m g) d) d.graph (blkKey d.node d.blk) g) g
        (fun gr => { gr with disp := none, th := gr.th.map (fun t => { t with st := .exited, wait := .none, vecAt := none }) }))))) ∧
  (∀ graph k g, (blockOf (graphOf s.m graph) k).run = some g → dispDone s.m g (grpOf s.m g) = true →
    Takes (.dispatchRetire graph k) s (s.withMach (updGrp (bumpDie (updGraph (returnResv s.m g) graph (fun gr => { gr with
        blocks := tupd gr.blocks k (fun b => { b with run := none, ver := b.ver + 1, taken := 0, held := isPoison .f32 b.taken.toNat }) })) (coreDie (grpOf s.m g).core))
      g (fun a => { a with disp := none })))) ∧
  (∀ g gr, tget s.m.graphs g = some gr → gr.probe = none → quietOn gr (gHome gr) = true →
    (gr.lastProbe = 0 ∨ gr.lastProbe + gProbe gr ≤ s.clk.now) →
    Takes (.probeStart g) s (s.withMach (updGraph s.m g (fun gr => { gr with probe := some { start := s.clk.now, mark := gr.accn }, lastProbe := s.clk.now })))) ∧
  (∀ g gr p, tget s.m.graphs g = some gr → gr.probe = some p → p.start + 72 ≤ s.clk.now →
    Takes (.probeAnswer g) s (s.withMach (updGraph s.m g (fun gr => match gr.probe with | some p => answerProbe s.env gr p | none => gr))) ∧
    (let quietNow := (List.range 4).all (quietOn gr)
     let n := { gr with probe := none, prev := some (quietNow, sumL gr.sent, sumL gr.rcvd, p.mark), disturbed := [false, false, false, false] }
     (∀ mark, gr.prev = some (true, sumL gr.sent, sumL gr.sent, mark) → quietNow = true → sumL gr.rcvd = sumL gr.sent → gr.disturbed.all (fun b => !b) = true →
       gr.settled = false → answerProbe s.env gr p = { n with settled := true, due := some (s.clk.now + 1, mark) }) ∧
     (gr.prev = none ∨ quietNow = false ∨ sumL gr.sent ≠ sumL gr.rcvd ∨ gr.disturbed.any (fun b => b) = true ∨ gr.settled = true → answerProbe s.env gr p = n))) ∧
  (∀ g gr t mk, tget s.m.graphs g = some gr → gr.due = some (t, mk) → t ≤ s.clk.now →
    let r := writeReport s.env s.m g mk
    Takes (.reportWrite g) s { s with m := r.1, sys := if r.2 && gfield gr 140 140 == 1 then countEvent s.sys (gfield gr 151 141) s.clk.now else s.sys } ∧
    (∀ tsa tail head sa, agentAddr s.env s.m gr.part (gRing gr) 8 1 = .ok tsa → agentNat s.env s.m gr.part (gRing gr) 8 = .ok tail → agentNat s.env s.m gr.part (gRing gr + 8) 8 = .ok head →
      agentAddr s.env s.m gr.part (gRing gr + 64 + 64 * (tail % 2 ^ gRlog gr)) 64 1 = .ok sa →
      ((tail + 2 ^ 64 - head) % 2 ^ 64 < 2 ^ gRlog gr → r = (updGraph (storeAt (storeAt s.m sa (toBytes 64 (reportOf s.env g gr mk)) false) tsa (toBytes 8 (tail + 1)) false) g
        (fun a => { a with due := none, drop := 0, seq := (a.seq + 1) % 2 ^ 32, wmark := mk }), true)) ∧
      (2 ^ gRlog gr ≤ (tail + 2 ^ 64 - head) % 2 ^ 64 → r = (updGraph s.m g (fun a => { a with due := none, drop := min 65535 (a.drop + 1) }), false))))

/-- 16 R363, R369, R372, R373, R378, R383, R394, 18 R404, 19 R430: a parked thread enters the handler, faults are filled and refused, with those that join in the same clock, and their entries are free in the next, stops and resumes arrive, single steps raise their cause, and the Front End answers calls, starts invalidations, releases parked threads and gives an image. Where it rests on the model's own reading or choice, see the log: entries 39 and 40. -/
def Obligations.TrapAndMonitorSteps : Prop := ∀ s,
  (∀ g lane v, (thrOf s.m g lane).st = .parked → (thrOf s.m g lane).vecAt = some v → v ≤ s.clk.now →
    resident (teamOf s.m (grpOf s.m g).team) = true → Takes (.handlerEntry g lane) s (s.withMach (updThr s.m g lane (fun t => { t with
      st := if (teamOf s.m (grpOf s.m g).team).susp == .inPlace then .heldStop else .handler
      hm := true
      pc := (partOf s.sys (teamOf s.m (grpOf s.m g).team).part).tvec
      vecAt := none
      readyAt := s.clk.now })))) ∧
  (∀ cl k, (∀ f, tget (clusOf s.m cl).fbuf k = some f → f.st ≠ 1) → Takes (.faultFill cl k) s s ∧ ∀ prot, Takes (.faultRefuse cl k prot) s s) ∧
  (∀ cl k f, tget (clusOf s.m cl).fbuf k = some f → f.st = 1 →
    let held := fun (st : Nat) (prot : Bool) (m : Mach) => updClus m cl (fun c => { c with fbuf := tset c.fbuf k { f with st := st, protf := prot, who := [], engines := [] } })
    (let m1 := withImages (f.who.map (·.1.g)) (fun m => f.who.foldl (fun m r => unpark m r.1) m) s.m
     let m2 := f.engines.foldl (fun m c => updCopy m c (fun cp => { cp with blocked := false, next := max cp.next s.clk.now })) m1
     let m3 := if f.kind = 3 then updClus m2 cl (fun c => { c with code := [] }) else m2
     Takes (.faultFill cl k) s (s.withMach (held 2 false m3))) ∧
    ∀ prot,
      let m1 := withImages (f.who.map (·.1.g)) (fun m => f.who.foldl (fun m r =>
        if (thrOf m r.1.g r.1.lane).st = .parked then
          let t := thrOf m r.1.g r.1.lane
          raise s.env (updThr m r.1.g r.1.lane (fun t => { t with st := if t.hm then .handler else .run })) r.1.g r.1.lane (if prot then 5 else 6) (r.2 % 2 ^ 56) 0 t.pc t.pc
            (lget t.trec 7 0).toNat (bitOf (lget t.trec 5 0).toNat 20)
        else m) m) s.m
      let m2 := f.engines.foldl (fun m c => updCopy { m with flight := m.flight.filter (fun x => !ofCopy c x.body) } c
        (fun cp => { cp with todo := [], out := 0, incs := 0, xcon := none, ended := true, blocked := false, next := max cp.next s.clk.now })) m1
      Takes (.faultRefuse cl k prot) s (s.withMach (held 3 prot m2))) ∧
  (∀ t a, (teamOf s.m t).stopAt = some a → a ≤ s.clk.now → Takes (.stopArrival t) s (s.withMach
    (eachOfTeam t (fun t => if t.st == .run then { t with st := .heldStop } else t)
      (updTeam (updEnt s.m (teamOf s.m t).ent (fun en => { en with stopped := true })) t (fun t => { t with stopAt := none }))))) ∧
  (∀ t, Takes (.dbgcResume t) s (s.withMach (updTeam s.m t (fun t => { t with resumeAt := some (s.clk.now + 18) })))) ∧
  (∀ t a, (teamOf s.m t).resumeAt = some a → a ≤ s.clk.now → Takes (.resumeArrival t) s (s.withMach
    (let m1 := updTeam (updEnt s.m (teamOf s.m t).ent (fun en => { en with stopped := false })) t (fun t => { t with resumeAt := none })
     if (teamOf m1 t).susp == .inPlace then m1 else eachOfTeam t unholdThr m1))) ∧
  (∀ g lane, (thrOf s.m g lane).step = true → (thrOf s.m g lane).rp = false → waitEnds s.m { g := g, lane := lane } = true → (thrOf s.m g lane).st = .run →
    (thrOf s.m g lane).lastIssue < s.clk.now → resident (teamOf s.m (grpOf s.m g).team) = true →
    Takes (.singleStep g lane) s (s.withMach (raise s.env (leaveWait s.env (sendStop s.env s.m (grpOf s.m g).team) { g := g, lane := lane }) g lane 19 0 0
      (thrOf s.m g lane).pc (thrOf s.m g lane).pc 0 (thrOf s.m g lane).solo))) ∧
  (∀ d ent g x, 4 ≤ d ∨ teamOfEntry s.m ent = none → Takes (.fcalReply d ent g x) s s) ∧
  (∀ d ent gi x t, teamOfEntry s.m ent = some t → (teamOf s.m t).fcalOut.find? (fun y => (grpOf s.m y.1).gteam == gi) = none → Takes (.fcalReply d ent gi x) s s) ∧
  (∀ d ent gi x t g dst who toks, d < 4 → teamOfEntry s.m ent = some t → (teamOf s.m t).fcalOut.find? (fun y => (grpOf s.m y.1).gteam == gi) = some (g, dst, who, toks) →
    Takes (.fcalReply d ent gi x) s (s.withMach (pushLand { updTeam s.m t (fun u => { u with fcalOut := u.fcalOut.filter (fun y => !(y.1 == g && y.2.2.1 == who)) }) with serial := s.m.serial + 1 }
      { tm := s.clk.now + 1, wr := (match dst with | .s _ => wrReg { logCtx g 0 0 with sn := s.m.serial } .n32 dst x.toNat | _ => []), tok := toks, wake := who }))) ∧
  (∀ d (a : BitVec 64) n reach p, Takes (.invalidationStart d a n reach p) s (s.withMach
    (updDie (send s.env s.m (feHome d) (feHome d) false none [] 3 false false false 0 (.inval (some p) (a.toNat % 2 ^ 56 / 4096 * 4096) n reach (36 * d))) d
      (fun x => { x with invAddr := a.toNat, invArg := n + reach * 2 ^ 24 + p * 2 ^ 28 })))) ∧
  (∀ t, Takes (.parkRelease t) s (s.withMach (eachOfTeam t (fun u =>
    if u.st == .heldPark then { u with st := if (teamOf s.m t).susp == .inPlace then .heldStop else .handler } else u) s.m))) ∧
  (∀ t (v : BitVec 56),
    let base := v.toNat / 65536 * 65536
    let m1 := updEnt s.m (teamOf s.m t).ent (fun en => { en with imgb := base })
    (base = 0 ∨ (teamOf s.m t).susp ≠ .inPlace → Takes (.imgbWrite t v) s (s.withMach m1)) ∧
    (base ≠ 0 → (teamOf s.m t).susp = .inPlace →
      let go := fun (u : Thread) => { (if u.hm || !(entOf m1 (teamOf s.m t).ent).stopped then unholdThr u else u) with readyAt := s.clk.now + 72 + 1 }
      let m2 := updTeam (eachOfTeam t go m1) t (fun u => { u with susp := .no })
      let m3 := preempt s.env m2 (teamCores s.sys (teamOf m2 t))
      Takes (.imgbWrite t v) s (s.withMach (if m3.prem.length = s.m.prem.length then { m1 with dies := m3.dies } else m3)))) ∧
  (s.m.cur = none → (settle s).clk.phase = 6 → nextInput (settle s) true = none → nextAct (settle s) true = none → dueNow (settle s) = none →
    ∃ t, step s = .next t ∧ t.clk.now = (settle s).clk.now + 1 ∧ t.clk.phase = 0 ∧ t.m = freeFaults (settle s).env (endRaised (settle s).m)) ∧
  (∀ cl, (∀ f, f ∈ (clusOf s.m cl).fbuf → f.2.st = 1) → freeAnswered s.env s.m cl = s.m) ∧
  (∀ cl k f, (clusOf s.m cl).fbuf.filter (fun x => x.2.st != 1) = [(k, f)] →
    freeAnswered s.env s.m cl = admitWaiting (updClus (releaseReqs s.env s.m cl f) cl (fun c => { c with fbuf := c.fbuf.filter (fun x => x.2.st == 1) })) cl)

/-- 16 R384 to R389: the pre-emption signal, the swap of the banks, the spill, deferral, the copy of the allocation, and the way back. Where it rests on the model's own reading or choice, see the log: entries 30, 41 and 56. -/
def Obligations.PreemptionSteps : Prop := ∀ s,
  (∀ cores, premOf s cores = true → Takes (.preemptionSignal cores) s (signalState cores s) ∧ Signalled s cores (signalState cores s)) ∧
  (∀ cores, premOf s cores = false →
    let set := preemptSet s.env s.m s.m.teams.length cores
    let on := teamsOn s.env s.m set
    let tm := s.clk.now + (if set.all (fun c => coreDie c == coreDie (cores.headD 0)) then 18 else 72)
    (on.any (fun x => (entOf s.m x.2.ent).imgb == 0) = true → Takes (.preemptionSignal cores) s (s.withMach (setIntr s.m (coreDie (cores.headD 0)) 5))) ∧
    (on.any (fun x => (entOf s.m x.2.ent).imgb == 0) = false → Takes (.preemptionSignal cores) s (s.withMach
      { (on.foldl (fun m x => updTeam m x.1 (fun t => if t.susp == .no then { t with susp := .signalled tm } else t)) s.m) with prem := s.m.prem ++ [{ tm := tm, cores := set }] }))) ∧
  (∀ c t, (coreOf s.m c).swapUntil = some t → t ≤ s.clk.now →
    let m1 := updCore s.m c (fun x => { x with swapUntil := none })
    Takes (.shadowSwapComplete c) s (s.withMach { m1 with groups := m1.groups.map (fun x =>
      if x.2.core = c && resident (teamOf s.m x.2.team) then (x.1, { x.2 with lastIssue := s.clk.now, readySince := s.clk.now }) else x) })) ∧
  (∀ t, (teamOf s.m t).susp = .spilling → drainOrder s.env s.m (teamGroups s.m t) = [] → Takes (.spill t) s (s.withMach
    (updTeam s.m t (fun u => { u with susp := .copying (s.clk.now + ceilDiv u.spsz 256 * 2) })))) ∧
  (∀ t, (teamOf s.m t).susp = .spilling → drainOrder s.env s.m (teamGroups s.m t) ≠ [] → Takes (.spill t) s (s.withMach
    (updTeam (startFlush s.m (drainOrder s.env s.m (teamGroups s.m t)) [] none) t (fun u => { u with susp := .draining s.m.serial })))) ∧
  (∀ t f, (teamOf s.m t).susp = .draining f → tget s.m.flushes f = none → Takes (.spill t) s (s.withMach
    (updTeam s.m t (fun u => { u with susp := .copying (s.clk.now + ceilDiv u.spsz 256 * 2) })))) ∧
  (∀ t, (teamOf s.m t).susp = .copied → tilesPending s.env s.m t = false → Takes (.spill t) s (s.withMach
    (endSpill s.env (updTeam (writeImage s.env s.m t) t (fun u => { u with susp := .out })) (teamCores s.sys (teamOf s.m t))))) ∧
  (∀ id x, msgOf s.m id = some x → arrived s.env s.m x = true → x.stage ≠ .held → mustDefer s.env s.m x = true →
    (s.m.flight.filter (fun y => y.stage == .deferred && y.dst == x.dst)).length < 64 →
    Takes (.packetDeferral id) s (s.withMach (setStage s.m id .deferred))) ∧
  (∀ t a, (teamOf s.m t).susp = .copying a → a ≤ s.clk.now → Takes (.allocationCopyComplete t) s (s.withMach
    (updTeam (moveRanges s.m (allocRanges s.env s.m (teamOf s.m t))) t (fun u => { u with susp := .copied })))) ∧
  (∀ t, (teamOf s.m t).susp = .out → bankFree s.m (teamCores s.sys (teamOf s.m t)) = true →
    let m1 := preempt s.env s.m (teamCores s.sys (teamOf s.m t))
    (∀ p, m1.prem = s.m.prem ++ [p] → Takes (.teamResumption t) s (s.withMach (updTeam m1 t (fun u => { u with susp := .resuming p.tm })))) ∧
    (m1.prem = s.m.prem → Takes (.teamResumption t) s (s.withMach m1))) ∧
  (∀ t a, (teamOf s.m t).susp = .resuming a → a ≤ s.clk.now → (∀ p ∈ s.m.prem, s.clk.now < p.tm) →
    Takes (.teamResumption t) s (s.withMach (updTeam (readImage s.env s.m t) t (fun u => { u with susp := .swapped })))) ∧
  (∀ t a, (teamOf s.m t).susp = .copyback a → a ≤ s.clk.now → 
    let m1 := moveRanges s.m ((allocRanges s.env s.m (teamOf s.m t)).map (fun x => (x.2.1, x.1, x.2.2)))
    Takes (.copyBackComplete t) s { s with
      m := updTeam m1 t (fun u => { u with susp := .no })
      sys := (teamOf s.m t).marks.foldl (fun y x => { y with parts := tupd y.parts (teamOf s.m t).part (fun p => { p with
        place := tupd p.place x.1 (fun w => putBits (putBits w 62 62 0) 51 16 0) }) }) s.sys })

/-- 14 R343, 02 R50, 01 R16: the team that waits first and finds its resources starts, a standing team is formed, and a grid is complete once its last team has ended. Where it rests on the model's own reading or choice, see the log: entry 46. -/
def Obligations.TeamSteps : Prop := ∀ s,
  (∀ k gid g en ent plan, nextStart s = some k → startable s k = some (gid, g, en, ent, plan) → Takes .teamStart s
    { s with
      m := startTeam s.env s.m gid g en ent plan
      sys := if g.started + 1 < g.nteam then s.sys else { s.sys with waiting := s.sys.waiting.eraseIdx k } }) ∧
  (∀ k g mk c ent, nextFormed s = some k → formable s k = some (g, mk, c, ent) →
    let t := standingTeam g (graphOf s.m g) mk ent
    let w := s.sys.waiting.eraseIdx k
    Takes .standingTeamFormed s { s with
      sys := { s.sys with waiting := w }
      m := updGraph (initCore t.tiles (takeEntry { s.m with serial := s.m.serial + 1, teams := tset s.m.teams s.m.serial t } ent t.part mk) c) g
        (fun gr => { gr with teams := gr.teams ++ [s.m.serial], starting := w.any (fun x => x.graph.any (fun y => y.1 == g)) }) }) ∧
  (∀ k g, tget s.m.grids k = some g → g.comp = false → g.started = g.nteam → (∀ x ∈ s.m.teams, x.2.grid = some k → x.2.gone = true) →
    gridWrites s.m k = false → (g.node = true → ∀ x ∈ s.m.copies, (teamOf s.m x.2.team).grid ≠ some k) →
    Takes (.gridComplete k) s (s.withMach { s.m with grids := tupd s.m.grids k (fun g => { g with comp := true }) }))

/-- 14 R335 to R345: the registers of a queue; and each packet that passes its checks starts with the effect of its type, the queue moving past it: QHEAD moves by the packet's length, and a packet that completes at once is counted. Where it rests on the model's own reading or choice, see the log: entries 6, 45, 46 and 49. -/
def Obligations.QueuePacketsStart : Prop := ∀ s q,
  let p := (queueOfNo s.sys q).part
  (∀ v, 1 ≤ s.sys.dev.level → q < 64 → Takes (.qtailDoorbell q v) s (updQueue s q (fun x => refuseLow s { x with qtail := v }))) ∧
  (∀ r, 1 ≤ s.sys.dev.level → q < 64 → Takes (.queueRunWrite q r) s (updQueue s q (fun x => refuseLow s (runWrite x r)))) ∧
  (∀ s1 : State, ∀ ws step ref, Passed s1 q ws step ref (startPkt s1 q ws step ref)) ∧
  (∀ s1 : State, ∀ ws, Counted s1 q ws (startDone s1 q ws)) ∧
  (∀ ws, Reads s q 0 ws → Takes (.nopPacket q) s (spend p 0 (startDone s q ws))) ∧
  (∀ ws maps, Reads s q 1 ws → checkLaunch s.env s.m p ws false = .ok maps →
    let s1 := (newGrid s p ws maps false).2
    (s1.m.mem = s.m.mem ∧ s1.sys.waiting = s.sys.waiting ++ [{ grid := some s.m.serial, graph := none }] ∧
      ∃ g, tget s1.m.grids s.m.serial = some g ∧ g.lp = ws ∧ g.maps = maps ∧ g.part = p ∧ g.nteam = maps.length ∧ g.started = 0 ∧ g.comp = false) ∧
    Takes (.launch q) s (spend p 0 (startPkt s1 q ws 1 s.m.serial))) ∧
  (∀ ws sa, Reads s q 2 ws → agentAddr s.env s.m p (lget ws 1 0) 8 1 = .ok sa →
    Takes (.write q) s (spend p 0 (startPkt (feStore s sa (lget ws 2 0)) q ws 0 s.m.serial))) ∧
  (∀ ws sa, Reads s q 3 ws → agentAddr s.env s.m p (lget ws 1 0) 8 1 = .ok sa →
    Takes (.signalPacket q) s (spend p 0 (startPkt (feStore s sa (lget ws 2 0)) q ws 0 s.m.serial))) ∧
  (∀ ws v, Reads s q 4 ws → agentNat s.env s.m p (lget ws 1 0) 8 = .ok v → Takes (.waitPacket q) s (spend p 0 (startPkt s q ws 0 0))) ∧
  (∀ ws v, Reads s q 5 ws → agentNat s.env s.m p (lget ws 1 0) 8 = .ok v → Takes (.indirect q) s (spend p 0
    (updQueue (startPkt s q ws 0 0) q (fun x => { x with bufs := (lget ws 1 0, lget ws 0 0 / 2 ^ 32 % 2 ^ 32, s.m.serial) :: x.bufs })))) ∧
  (∀ ws, Reads s q 8 ws → Takes (.trigger q) s (spend p 0
    { startDone s q ws with sys := triggerTask (startDone s q ws).sys p (hArg (lget ws 0 0)) })) ∧
  (∀ ws gr, Reads s q 7 ws →
    let g := hArg (lget ws 0 0)
    let h := ofBytes ((inputRecord ws).take 16)
    graphFor s.m p g = some gr → inGraph gr (bitsOf h 7 0) (bitsOf h 19 8) = true → bitsOf h 23 20 ≤ nRsz gr (bitsOf h 7 0) → wgtBad (bitsOf h 63 32) = false →
    Takes (.input q) s (spend p 0 (match sendInput s g (inputRecord ws) with
      | some s1 => startPkt s1 q ws 0 s.m.serial
      | none => startPkt s q ws 0 0)))

/-- 14 R345, R350, R351, 02 R50: the GRAPH packets. Where it rests on the model's own reading or choice, see the log: entry 47. -/
def Obligations.GraphPacketsStart : Prop := ∀ s q ws,
  let p := (queueOfNo s.sys q).part
  let g := bitsOf (hArg (lget ws 0 0)) 13 8
  (∀ gr, Reads s q 96 ws → tget s.m.graphs g = none → readGraph s.env s.m p (lget ws 1 0) = .ok gr → entryOk s.sys s.m g gr = true →
    Takes (.loadStandingGraph q) s (spend p 0 (startDone { s with m := { s.m with graphs := tset s.m.graphs g gr } } q ws))) ∧
  (∀ gr, graphFor s.m p g = some gr → gr.running = true → Reads s q 97 ws → Takes (.startStandingGraph q) s (spend p 0 (startPkt s q ws 0 0))) ∧
  (∀ gr0 b, graphFor s.m p g = some gr0 → gr0.running = false → Reads s q 97 ws → agentRead s.env s.m p 3 (65536 * gfield gr0 249 210) 32 = .ok b →
    let gr := { gr0 with nodes := gr0.desc, entry := gr0.entry.take 16 ++ (List.range 4).map (fun i => ofBytes ((b.drop (8 * i)).take 8)) }
    (partOf s.sys p).en = true → staOk gr = true → (∀ n, n < gNodes gr → nodeOk s.env s.m gr n = true) →
    let stand := s.m.teams.filterMap (fun x => if x.2.standing && !x.2.gone && x.2.graph == some g then x.2.marks.head?.map (·.1) else none)
    let new := (graphMarks s.env gr).filter (fun k => !stand.contains k)
    Takes (.startStandingGraph q) s (spend p 0 (startPkt { s with
      sys := { s.sys with waiting := s.sys.waiting ++ new.map (fun k => { grid := none, graph := some (g, k) }) }
      m := updGraph s.m g (fun _ => { gr with running := true, starting := !new.isEmpty, stopping := false }) } q ws 0 0))) ∧
  (∀ gr, graphFor s.m p g = some gr →
    let s1 : State := { s with
      sys := { s.sys with waiting := s.sys.waiting.filter (fun w => !w.graph.any (fun x => x.1 == g)) }
      m := updGraph s.m g (fun gr => { gr with running := false, starting := false, stopping := true }) }
    (Reads s q 98 ws → Takes (.stopStandingGraph q) s (spend p 0 (startPkt s1 q ws 0 0))) ∧
    (Reads s q 99 ws → Takes (.resetStandingGraph q) s (spend p 0 (startPkt s1 q ws 0 0))) ∧
    (Reads s q 100 ws → Takes (.unloadStandingGraph q) s (spend p 0 (startPkt s1 q ws 0 0)))) ∧
  (∀ s1 : State, ∀ x pk, hType (lget pk.words 0 0) = 6 → queueOfNo s1.sys q = x → (tget s1.m.graphs (bitsOf (hArg (lget pk.words 0 0)) 13 8)).all graphStill = true →
    let k := bitsOf (hArg (lget pk.words 0 0)) 13 8
    (bitsOf (hArg (lget pk.words 0 0)) 3 0 = 2 → pktDone s1 q pk = some s1) ∧
    (bitsOf (hArg (lget pk.words 0 0)) 3 0 = 3 → pktDone s1 q pk = some { s1 with m := clearGraph s1.m k }) ∧
    (bitsOf (hArg (lget pk.words 0 0)) 3 0 = 4 → pktDone s1 q pk = some { s1 with m := { s1.m with graphs := tdel s1.m.graphs k } })) ∧
  (∀ t, Reads s q 104 ws → tget s.sys.tasks (64 * p + g) = none → readTask s.env s.m p (lget ws 1 0) = .ok (some t) →
    Takes (.loadTaskGraph q) s (spend p 0 (startDone (withSys s (fun y => { y with tasks := tset y.tasks (64 * p + g) t })) q ws))) ∧
  (∀ t, Reads s q 105 ws → tget s.sys.tasks (64 * p + g) = some t → Takes (.unloadTaskGraph q) s (spend p 0 (startPkt
    (withSys s (fun y => { y with tasks := if t.node.isNone then tdel y.tasks (64 * p + g) else tset y.tasks (64 * p + g) { t with unload := true } })) q ws 0 0)))

/-- 14 R337 to R340: what stops a queue stops it at the packet with FAULT and DETAIL; a waiting INPUT takes a freed slot; completions are counted out. Where it rests on the model's own reading or choice, see the log: entry 45. -/
def Obligations.QueueStopsAndCompletions : Prop := ∀ s,
  (∀ q row c d, serving s (queueOfNo s.sys q).part q = true → peek s q = some (row, .error (c, d)) →
    ∀ i ∈ [(0, Instr.nopPacket q), (1, .launch q), (2, .write q), (3, .signalPacket q), (4, .waitPacket q), (5, .indirect q), (7, .input q), (8, .trigger q),
      (96, .loadStandingGraph q), (97, .startStandingGraph q), (98, .stopStandingGraph q), (99, .resetStandingGraph q), (100, .unloadStandingGraph q),
      (104, .loadTaskGraph q), (105, .unloadTaskGraph q)], i.1 = row →
    Takes i.2 s (spend (queueOfNo s.sys q).part 0 (updQueue s q (fun x => stopAtPkt x c d)))) ∧
  (∀ k q p s1, pktById s k = some (q, p) → hType (lget p.words 0 0) = 7 → p.ref = 0 → serving s (partOfQueue s q) q = true → queueOn (queueOfNo s.sys q) = true →
    graphFor s.m (partOfQueue s q) (hArg (lget p.words 0 0)) ≠ none → sendInput s (hArg (lget p.words 0 0)) (inputRecord p.words) = some s1 →
    Takes (.inputSlotFreed k) s (spend (partOfQueue s q) 0
      (updQueue s1 q (fun x => { x with pkts := x.pkts.map (fun r => if r.id = k then { r with ref := s.m.serial } else r) })))) ∧
  (∀ q x sa, queueOfNo s.sys q = x → 0 < x.owed → qdAddr x ≠ 0 → x.part < 16 → ¬ (x.fault ≠ 0 ∧ x.detail = 255) →
    agentAddr s.env s.m x.part (qdAddr x) 8 1 = .ok sa →
    Takes (.completionWordWrite q) s (updQueue (feStore s sa (x.count % 2 ^ 64)) q (fun x => { x with owed := x.owed - 1 })))

/-- 14 R344, R346: the nodes of a task graph, its triggers, and the end of a run. Where it rests on the model's own reading or choice, see the log: entries 6 and 48. -/
def Obligations.TaskGraphSteps : Prop := ∀ s part g,
  (∀ t lp maps, AtNode s 0 part g t → t.phase = 0 → nodePacket s.env s.m part (tArgA (curNode t)) = .ok lp → hType (lget lp 0 0) = 1 →
    checkLaunch s.env s.m part lp true = .ok maps →
    let r := newGrid { s with m := dropGrid s.m (lget t.grids (t.node.getD 0) 0) } part lp maps true
    Takes (.launchNode part g) s (spend part 1 (updTask r.2 part g (fun u => { u with phase := 1, ref := r.1, grids := setAt u.grids (t.node.getD 0) r.1 })))) ∧
  (∀ t gr s1, AtNode s 1 part g t → t.phase = 0 → graphFor s.m part (bitsOf (tArgC (curNode t)) 5 0) = some gr →
    startGraph s part (bitsOf (tArgC (curNode t)) 5 0) = .ok s1 →
    Takes (.standingNode part g) s (spend part 1 (updTask s1 part g (fun t => { t with phase := 1, ref := gr.seq })))) ∧
  (∀ t, AtNode s 2 part g t → t.phase = 0 →
    let n := curNode t
    Takes (.conditionalNode part g) s (spend part 1 (updTask s part g (goNext
      (if nodeHolds (tCC n) (resultWord s.m t (bitsOf (tArgC n) 7 0) (bitsOf (tArgC n) 9 8)) (tArgD n) then 1 else 0))))) ∧
  (∀ t, AtNode s 3 part g t → t.phase = 0 →
    let i := t.node.getD 0
    Takes (.loopNode part g) s (spend part 1 (updTask s part g (fun u =>
      if lget t.ctrs i 0 < tArgC (curNode t) then goNext 1 { u with ctrs := setAt u.ctrs i (lget t.ctrs i 0 + 1) } else goNext 0 { u with ctrs := setAt u.ctrs i 0 })))) ∧
  (∀ t, AtNode s 4 part g t → t.phase = 0 →
    let n := curNode t
    let r := copyPieces s.env part (tArgC n / 4096 + 2) (tArgA n) (tArgB n) (tArgC n) s.m
    Takes (.copyNode part g) s (spend part 1 (updTask { s with m := r.1 } part g (if r.2 = 0 then goNext 0 else endEarly (128 + r.2))))) ∧
  (∀ t, AtNode s 5 part g t → t.phase = 0 → Takes (.waitNode part g) s (spend part 1 (updTask s part g (fun t => { t with phase := 1 })))) ∧
  (∀ t sa, AtNode s 6 part g t → t.phase = 0 → agentAddr s.env s.m part (tArgA (curNode t)) 8 1 = .ok sa →
    Takes (.signalNode part g) s (spend part 1 (updTask (feStore s sa (tArgB (curNode t))) part g (fun t => { t with phase := 1, ref := s.m.serial })))) ∧
  (Takes (.taskGraphTrigger part g) s (withSys s (fun y => { y with tasks := tupd y.tasks (64 * part + g) (fun t =>
    if t.node.isSome || t.pend then { t with pend := true, late := t.pend } else { t with node := some t.entry, phase := 0, ctrs := t.nodes.map (fun _ => 0) }) }))) ∧
  (∀ t, taskOf s.sys part g = some t → t.node ≠ none → t.phase = 99 → serving s part (64 + g) = true →
    Takes (.taskGraphRunEnd part g) s (spend part 1 (if t.unload then
        { s with sys := { s.sys with tasks := tdel s.sys.tasks (64 * part + g) }, m := t.grids.foldl dropGrid s.m }
      else updTask s part g (fun t =>
        let u := { t with endCode := t.ref, endNode := t.node.getD 0, phase := 0, ref := 0 }
        if t.pend then { u with pend := t.late, late := false, node := some t.entry, ctrs := t.nodes.map (fun _ => 0) } else { u with node := none }))))

/-- 14 R337, R346, R348, R349: a WAIT packet completes once its condition holds, slices end, and interrupt messages are sent and counted. Where it rests on the model's own reading or choice, see the log: entries 25 and 26. -/
def Obligations.WaitsSlicesAndInterrupts : Prop := ∀ s,
  (∀ k q p v, pktById s k = some (q, p) → hType (lget p.words 0 0) = 4 → queueOn (queueOfNo s.sys q) = true → serving s (partOfQueue s q) q = true →
    agentNat s.env s.m (partOfQueue s q) (lget p.words 1 0) 8 = .ok v → waitHolds (bitsOf (hArg (lget p.words 0 0)) 2 0) v (lget p.words 2 0) = true →
    Takes (.waitConditionMet (2 * k)) s (spend (partOfQueue s q) 0 (finishPkt (feAcquire s (partOfQueue s q) (lget p.words 1 0)) q p))) ∧
  (∀ p i, inSignal s p (sliceOfPart s.sys p).cur = false → 2 ≤ s.sys.dev.level → (sliceOfPart s.sys p).due ≤ s.clk.now →
    ((sliceOfPart s.sys p).ends ≤ s.clk.now ∨ itemWork s p (sliceOfPart s.sys p).cur = false) → nextItem s p = some i →
    Takes (.timeSliceSwitch p) s (withSys s (fun y => { y with
      slice := tset y.slice p { sliceOfPart s.sys p with cur := i, ends := s.clk.now + (sliceOfPart s.sys p).len } }))) ∧
  (∀ v x, vecOf s.sys v = x → x.masked = false → 1 ≤ x.pend → (max 1 x.cnt ≤ x.pend ∨ (x.time ≠ 0 ∧ x.first + x.time ≤ s.clk.now)) →
    Takes (.msixMessage v) s (withSys s (fun y => { y with vecs := tupd y.vecs v (fun x => { x with pend := 0, sent := x.sent + 1 }) }))) ∧
  (∀ v, v < 2048 → Takes (.msixUnmask v) s (withSys s (fun y => { y with vecs := tset y.vecs v { vecOf y v with masked := false } })))

/-- 18 R406 to R414: partitions and Place Tables; isolation, the answers of an isolated core, the reset of a cluster, and the restore of its credits. Where it rests on the model's own reading or choice, see the log: entries 27, 42 and 59. -/
def Obligations.PartitionAndContainmentSteps : Prop := ∀ s,
  let e := s.env
  let now := s.clk.now
  (∀ p r, p < 16 → Takes (.partitionEnable p r) s { s with
    sys := { s.sys with parts := tset s.sys.parts p { partOf s.sys p with en := r } }
    m := if r then s.m else { s.m with tlb := s.m.tlb.filter (fun t => t.part != p) } }) ∧
  (∀ p, p < 16 →
    let x := partOf s.sys p
    let l := (x.staged.filter (fun y => bitOf y.2 63)).map (·.2)
    let code := if s.m.teams.any (fun y => y.2.part == p && !y.2.gone && y.2.susp != .out) then 4
      else if l.any (fun w => decide (11 < bitsOf w 7 4) || decide (11 < bitsOf w 3 0)) then 3
      else if !decide ((l.map entryCore).Nodup) then 2
      else if l.any (fun w => coreDefective s.sys (entryCore w) || (corePart s.sys (entryCore w) != 16 && corePart s.sys (entryCore w) != p)) then 5 else 1
    (code ≠ 1 → Takes (.placeTableCommit p) s (withSys s (fun y => { y with parts := tset y.parts p { x with cst := code } }))) ∧
    (code = 1 → Takes (.placeTableCommit p) s (withSys s (fun y => { y with parts := tset y.parts p { x with cst := 1, place := x.staged.map (fun w =>
      let o := (tget x.place w.1).getD 0
      (w.1, putBits (putBits w.2 62 62 (bitsOf o 62 62)) 51 16 (bitsOf o 51 16))) } })))) ∧
  (∀ d cl, d ≤ 3 →
    ((dieOf s.m d).rbusy = false → cl ≤ 35 → Takes (.clusterResetGo d cl) s (s.withMach
      (updDie s.m d (fun x => { x with rclus := cl, rrun := cl, rdone := false, rbusy := true, isoAt := some (now + 18) })))) ∧
    ((dieOf s.m d).rbusy = true ∨ 35 < cl → Takes (.clusterResetGo d cl) s (s.withMach (updDie s.m d (fun x => { x with rclus := cl }))))) ∧
  (∀ d t, (dieOf s.m d).isoAt = some t → t ≤ now →
    let cores := clusterCores (resetCluster s.m d)
    let hit := fun (x : Msg) => cores.contains x.src && x.src != x.dst && decide (now < x.due) && x.stage == .flight && Config.pick (s.m.free + x.id)
    let cut := s.m.flight.filter hit
    let lost := lostBy cores cut
    let m1 := { s.m with flight := s.m.flight.map (fun x => if hit x then { x with stage := .cut } else x), free := s.m.free + s.m.serial + 1 }
    let m2 := cores.foldl (fun m c => updCore m c (fun x => { x with isol := true })) m1
    let m3 := lost.foldl (fun m x => updCore m (lget cores x.1 0) (fun y => { y with credit := lupd y.credit x.2.1 (· - x.2.2) })) m2
    Takes (.isolation d) s (s.withMach (updDie m3 d (fun x => { x with
      isoAt := none, rstAt := some (now + Config.stepTime s.m.free % 4096), cut := cut.length, refd := 0, lost := lost })))) ∧
  (∀ id x, msgOf s.m id = some x → x.stage = .cut → x.due ≤ now →
    let h := homePos x.dst
    let m1 := bumpErr (dropMsg s.m id) h.1 (32 + 12 * h.2.1 + h.2.2) 0 1
    (∀ core k sender data pd, x.body = .ring core k sender data pd →
      Takes (.cutPacketArrival id) s (s.withMach (updCore m1 core (fun c => { c with markers := c.markers ++ [(sender, k)] })))) ∧
    (∀ g data slot, x.body = .record g data slot →
      Takes (.cutPacketArrival id) s (s.withMach (updGraph m1 g (fun gr => slotFree { gr with sent := lupd gr.sent x.die (· - 1) } slot)))) ∧
    (∀ g data slot, x.body = .input g data slot → Takes (.cutPacketArrival id) s (s.withMach (updGraph m1 g (fun gr => slotFree gr slot)))) ∧
    (∀ g n b w, x.body = .rsd g n b w → Takes (.cutPacketArrival id) s (s.withMach (updGraph m1 g (fun gr => { gr with sent := lupd gr.sent x.die (· - 1) })))) ∧
    ((∀ core k sender data pd, x.body ≠ .ring core k sender data pd) → (∀ g data slot, x.body ≠ .record g data slot ∧ x.body ≠ .input g data slot) →
      (∀ g n b w, x.body ≠ .rsd g n b w) → Takes (.cutPacketArrival id) s (s.withMach m1))) ∧
  (∀ id x, msgOf s.m id = some x → toIsolated s.m x = true → arrived e s.m x = true → x.stage ≠ .held →
    let m := dropMsg s.m id
    let answers := fun (n : Mach) => Takes (.isolatedPacketAnswer id) s (s.withMach (updDie n (coreDie x.dst) (fun d => { d with refd := d.refd + 1 })))
    let link := fun pc va ty => poisonVal e (setCause m (x.thr.getD ⟨0, 0⟩).g 21) (x.thr.getD ⟨0, 0⟩).g (x.thr.getD ⟨0, 0⟩).lane pc 2 va ty
    (readsOnly x.body = true → (∀ sa k j d l pc va, x.body ≠ .pop sa k j d l pc va) → (∀ cc sa n sx fp rd, x.body ≠ .ctlLoad cc sa n sx fp rd) →
      answers { performBody e { m with bad := (bodyAddrs x.body).flatMap (fun r => (List.range r.2).map (fun i => (r.1 + i, 2))) ++ m.bad } x with bad := m.bad }) ∧
    (∀ rows aon prog, x.body = .store rows aon prog → answers (respond e m x [])) ∧
    (∀ sa op ty b d g l pc va, x.body = .atom sa op ty b (some d) g l pc va → answers (respond e (link pc va ty).1 x (wrReg (msgCtx x pc) ty d (link pc va ty).2))) ∧
    (∀ sa op ty b g l pc va, x.body = .atom sa op ty b none g l pc va → answers (flushAck e m x)) ∧
    (∀ sa w ex new d pc va, x.body = .cas sa w ex new d pc va →
      let ty : NTy := if w = 8 then .n64 else .n32
      answers (respond e (link pc va ty).1 x (wrReg (msgCtx x pc) ty d (link pc va ty).2))) ∧
    (∀ f d pc va, x.body = .metaRead f d pc va → answers (respond e (link pc va .n64).1 x (wrReg (msgCtx x pc) .n64 d (link pc va .n64).2))) ∧
    (∀ sa k j d, x.body = .push sa k j d → answers (closePart m x.op (now + x.back) [] (msgWaiters m x))) ∧
    (∀ copy i sa d ep, x.body = .packet copy i sa d ep → answers (updCopy m copy (fun c => { c with out := c.out - 1 }))) ∧
    (∀ sa st copy, x.body = .colophon sa st copy → answers (updCopy m copy (fun c => { c with colOut := c.colOut - 1 }))) ∧
    (∀ sa n, x.body = .arrInc sa n 0 → answers (respond e m x [])) ∧
    (∀ core k sender data pd, x.body = .ring core k sender data pd → answers (respond e m x [.p (x.thr.getD ⟨0, 0⟩).g (x.thr.getD ⟨0, 0⟩).lane pd false false])) ∧
    (∀ core reg w, x.body = .nireg core reg w → answers (respond e (writeNi m core reg w) x [])) ∧
    (∀ core reg d, x.body = .niread core reg d → answers (respond e m x (wrReg (msgCtx x 0) .n32 d (readNi e m core reg))))) ∧
  (∀ d t, (dieOf s.m d).rstAt = some t → t ≤ now → ∃ n, Takes (.resetComplete d) s n ∧
    ((dieOf n.m d).rdone = true ∧ (dieOf n.m d).rbusy = false ∧ (dieOf n.m d).rstAt = none ∧ bitOf (dieOf n.m d).intr 0 = true ∧ (clusOf n.m (resetCluster s.m d)).restoreDue = true) ∧
    (Memory.wf s.m.mem = true → served (dieOf s.m d).reca = true →
      memRead n.m.mem (dieOf s.m d).reca 64 = toBytes 64 (resetRecord s d)) ∧
    (Memory.wf s.m.mem = true → ∀ a, clusterStore (resetCluster s.m d) a = true → served (dieOf s.m d).reca = false ∨ a < (dieOf s.m d).reca ∨ (dieOf s.m d).reca + 64 ≤ a → memGet n.m.mem a = 0) ∧
    (∀ g, (grpOf s.m g).team ∈ (teamsOfCluster s (resetCluster s.m d)).map (·.1) → liveGrp (grpOf n.m g) = false)) ∧
  (∀ d, d ≤ 3 →
    let x := dieOf s.m d
    let cred := if served x.reca then bitsOf (readNat s.m x.reca 64) 511 384 else 0
    let cl := resetCluster s.m d
    Takes (.restore d) s (s.withMach (updDie (updClus ((clusterCores cl).zipIdx.foldl (fun m y => updCore m y.1 (fun c => { c with
        credit := c.credit.zipIdx.map (fun z => z.1 + bitsOf cred (32 * y.2 + 8 * z.2 + 7) (32 * y.2 + 8 * z.2)) })) s.m) cl
      (fun c => { c with restoreDue := false })) d (fun x => { x with lost := [] }))))

/-- 19 R416 to R430: levels of bring-up, images and the mailbox, the resets, the sensors, accesses of the host, and the register map. Where it rests on the model's own reading or choice, see the log: entries 6, 28, 53 and 54. -/
def Obligations.BringUpAndHostSteps : Prop := ∀ s,
  let v := s.sys.dev
  let dev := fun (s : State) (f : Dev → Dev) => withSys s (fun y => { y with dev := f y.dev })
  let drew := fun (n : Nat) => s.withMach { s.m with free := s.m.free + n }
  (v.level ≠ 0 → Takes .monitorLevel s s) ∧
  (v.level = 0 →
    let fl := Config.flashImage v.flash 5
    let s1 := dev s (fun d => { d with floor := some (imgBody fl) })
    (v.floor ≠ some (imgBody fl) → floorOk s.sys fl = false → Takes .monitorLevel s (dev s (fun d => { d with fail := 1 }))) ∧
    (v.floor = some (imgBody fl) ∨ floorOk s.sys fl = true → imageOk s1.sys 0 (Config.flashImage v.flash 0) = false → Takes .monitorLevel s (dev s1 (fun d => { d with fail := 2 }))) ∧
    (v.floor = some (imgBody fl) ∨ floorOk s.sys fl = true → imageOk s1.sys 0 (Config.flashImage v.flash 0) = true →
      let s2 := s1.withMach { s.m with free := s.m.free + 1 }
      (Config.trained s.m.free = true → Takes .monitorLevel s (dev s2 (fun d => { d with level := 1, link := true, images := d.images ++ [0] }))) ∧
      (Config.trained s.m.free = false → Takes .monitorLevel s s2))) ∧
  (v.level ≠ 1 → Takes .lpddrOnlyLevel s s) ∧
  (v.level = 1 →
    let bad := (List.range 32).any (fun c => floorField s.sys (1088 + c) (1088 + c) == 0 && !Config.trained (s.m.free + c))
    (bad = true → Takes .lpddrOnlyLevel s (dev (drew 32) (fun d => { d with fail := 4 }))) ∧
    (bad = false → imageOk s.sys 1 (Config.flashImage v.flash 1) = false → Takes .lpddrOnlyLevel s (dev (drew 32) (fun d => { d with fail := 3 }))) ∧
    (bad = false → imageOk s.sys 1 (Config.flashImage v.flash 1) = true → Takes .lpddrOnlyLevel s (dev (drew 32) (fun d => { d with level := 2, images := d.images ++ [1] })))) ∧
  (∀ d, v.level < 2 ∨ 3 < d ∨ released s.sys d = true ∨ lget v.hbmBad d false = true ∨ floorField s.sys (1120 + d) (1120 + d) = 1 → Takes (.hbmRelease d) s s) ∧
  (∀ d, 2 ≤ v.level → d ≤ 3 → released s.sys d = false → lget v.hbmBad d false = false → floorField s.sys (1120 + d) (1120 + d) ≠ 1 →
    (Config.trained s.m.free = true → Config.trained (s.m.free + 1) = true →
      let s2 := dev (drew 2) (fun x => { x with hbmr := setAt x.hbmr d true })
      Takes (.hbmRelease d) s (dev s2 (fun x => { x with level := if allReleased s2 then 4 else 3 }))) ∧
    (Config.trained s.m.free = false ∨ Config.trained (s.m.free + 1) = false →
      Takes (.hbmRelease d) s (dev (drew 2) (fun x => { x with hbmBad := setAt x.hbmBad d true, fail := 5 })))) ∧
  (Takes .moduleReset s { State.reset with
    sys := { Sys.reset with
      dev := { Dev.reset with flash := v.flash, floor := v.floor }
      inputs := s.sys.inputs.map (fun x => (x.1 - s.clk.now, x.2))
      acts := s.sys.acts.map (fun x => (x.1 - s.clk.now, x.2)) }
    m := { Mach.reset with mem := s.m.mem, bad := s.m.bad, free := s.m.free } }) ∧
  (∀ a, v.level ≠ 0 → Takes (.mailboxStart a) s s) ∧
  (∀ a, v.level = 0 →
    let head := memRead s.m.mem (hostBase + a.toNat) 128
    let img := head ++ (if imgLen head ≤ 2 ^ 32 then memRead s.m.mem (hostBase + (a.toNat + 128)) (imgLen head) else [])
    (imageOk s.sys 6 img = true → Takes (.mailboxStart a) s (moduleReset (dev s (fun d => { d with flash := img })))) ∧
    (imageOk s.sys 6 img = false → Takes (.mailboxStart a) s (dev s (fun d => { d with mboxAddr := a.toNat, mboxStat := d.mboxStat + 1 })))) ∧
  (∀ a, v.level = 0 → Takes (.imageLoadStart a) s s) ∧
  (∀ a, v.level ≠ 0 → Takes (.imageLoadStart a) s (dev (drew 1) (fun d => { d with loadAddr := a.toNat, loading := some (s.clk.now + Config.stepTime s.m.free % 2 ^ 32) }))) ∧
  (∀ t, v.loading = some t → t ≤ s.clk.now →
    let head := memRead s.m.mem v.loadAddr 128
    let img := head ++ (if imgLen head ≤ 2 ^ 32 then memRead s.m.mem (v.loadAddr + 128) (imgLen head) else [])
    let k := bitsOf (imgHead img) 127 96
    let loaded := dev s (fun d => { d with loading := none, loadRes := 0, images := if d.images.contains k then d.images else d.images ++ [k] })
    (k = 3 → imageOk s.sys k img = true → Takes .imageLoadComplete s loaded) ∧
    (k = 4 → imageOk s.sys k img = true → Takes .imageLoadComplete s (loaded.withMach ((List.range 144).foldl (fun m cl => updClus m cl (fun c => { c with
      pred := (List.range 8).map (fun i => bitsOf (floorField s.sys 3967 1664) (16 * cl + 2 * i + 1) (16 * cl + 2 * i)) })) s.m))) ∧
    (k ≠ 3 ∧ k ≠ 4 ∨ imageOk s.sys k img = false → Takes .imageLoadComplete s (dev s (fun d => { d with loading := none, loadRes := 6, fail := 6 })))) ∧
  (∃ t, Takes .functionLevelReset s t ∧ FunctionCleared s t ∧ t.sys.dev.fail = v.fail) ∧
  (s.clk.now % 15000 = 0 → 0 < s.clk.now → s.clk.turn.contains 200000 = false →
    let temp := Config.temperature s.m.free % 65536
    let pwr := Config.power s.m.free % 65536
    let plim := min 3200 v.plim
    let st := if plim < pwr ∨ 760 ≤ temp then min 12 (v.cstep + 1) else if pwr + 100 < plim ∧ temp < 720 then v.cstep - 1 else v.cstep
    let m1 := { s.m with free := s.m.free + 1 }
    Takes .clockStepUpdate s { s with
      clk := { s.clk with turn := s.clk.turn ++ [200000] }
      sys := { s.sys with dev := { v with temp := temp, pwr := pwr, cstep := st } }
      m := if st = v.cstep then m1 else (List.range 4).foldl (fun m k => setIntr m k 4) m1 }) ∧
  (840 ≤ v.temp → 1 ≤ v.level → ¬ (v.level = 1 ∧ v.fail = 7) → ∃ t, Takes .thermalTrip s t ∧ FunctionCleared s t ∧ t.sys.dev.fail = 7) ∧
  (∀ pa d w, d ≠ [] → hostReaches s.sys pa = true → hostReaches s.sys (pa + d.length - 1) = true →
    let lines := (List.range ((pa + d.length - 1) / 64 - pa / 64 + 1)).map (· + pa / 64)
    let holds := s.m.hostLines ++ lines.filter (fun l => !s.m.hostLines.contains l)
    (w = true → Takes (.hostMemAccess pa d w) s (s.withMach { storeAt s.m pa d false with hostLines := holds })) ∧
    (w = false → Takes (.hostMemAccess pa d w) s (dev (s.withMach { noteBad s.m [(pa, d.length)] with hostLines := holds })
      (fun x => { x with hostAns := some (memRead s.m.mem pa d.length, (badKind s.m pa d.length).isSome) })))) ∧
  (∀ line x, line ∈ s.m.hostLines → x ∈ s.m.flight → x.due ≤ s.clk.now → (∃ a ∈ bodyAddrs x.body, overlaps (64 * line) 64 a.1 a.2 = true) →
    Takes (.backInvalidate line) s (s.withMach { s.m with hostLines := s.m.hostLines.filter (· != line) })) ∧
  (∀ a o n (x : BitVec 64), Takes (.registerWrite a o n x) s (registerWrite s (agentOf a) o n x.toNat) ∧
    (¬ (n = 4 ∨ n = 8) ∨ o % n ≠ 0 ∨ accessAt s (agentOf a) o = .silent ∨ accessAt s (agentOf a) o = .ro → Takes (.registerWrite a o n x) s s)) ∧
  (∀ a (x : BitVec 64),
    (accessAt s (agentOf a) 0x10000 = .rw → Takes (.registerWrite a 0x10000 8 x) s (dev s (fun d => { d with plim := bitsOf x.toNat 31 16 }))) ∧
    (accessAt s (agentOf a) 0x1000 = .rw → Takes (.registerWrite a 0x1000 8 x) s (dev s (fun d => { d with mboxAddr := x.toNat }))) ∧
    (accessAt s (agentOf a) 0x20000 = .rw → Takes (.registerWrite a 0x20000 8 x) s (dev s (fun d => { d with loadAddr := x.toNat }))) ∧
    (∀ p, p < 16 → accessAt s (agentOf a) (0x40000 + 16 * p) = .rw → Takes (.registerWrite a (0x40000 + 16 * p) 8 x) s
      (withSys s (fun y => { y with parts := tset y.parts p { partOf y p with root := bitsOf x.toNat 51 12 } }))) ∧
    (∀ k, k < 2048 → accessAt s (agentOf a) (0x190000 + 8 * k) = .rw → Takes (.registerWrite a (0x190000 + 8 * k) 8 x) s
      (withSys s (fun y => { y with vecs := tset y.vecs k { vecOf y k with time := bitsOf x.toNat 63 32, cnt := bitsOf x.toNat 31 24 } }))))
/-- 06 R168 to R178: every well-formed instruction comes back from its slots, whatever follows them, and from its bytes, with every operand at every value. -/
def Obligations.DecodeInvertsEncode : Prop := ∀ i, opOf i ≠ none → i.WellFormed →
  (∀ rest, decode (encode i ++ rest) = .ok i) ∧ decodeBytes (encodeBytes i) = .ok i

/-- 06 R171, R175: slots that decode are the slots of a well-formed instruction, so no bit of an accepted instruction is ignored. -/
def Obligations.EncodeInvertsDecode : Prop := ∀ slots i, (∀ x ∈ slots, x < 2 ^ 96) → decode slots = .ok i →
  opOf i ≠ none ∧ i.WellFormed ∧ ∃ rest, slots = encode i ++ rest

/-- 06 R168 to R177: words written from the encoding tables, field by field, stand for their instructions; one of each format and of the families of the opcode map. -/
def Obligations.SpecWordsDecode : Prop :=
  decodeTableWord 96 (fieldsAt [(88, 0x00), (80, 4), (76, 7), (54, 3), (44, 1), (34, 256 + 2)]) =
    some (.add (plainHdr 4) { dst := .v 3, sa := .v 1, sb := .s 2, sc := .v 0, lt := 0, md := 0, imm := 0 }) ∧
  decodeTableWord 96 (fieldsAt [(88, 0x23), (80, 1), (79, 1), (76, 2), (72, 5), (68, 9), (67, 1), (65, 3), (54, 7), (44, 4), (34, 512 + 1), (24, 6), (21, 2)]) =
    some (.fma { fn := 1, pn := true, pg := 2, gap := 5, wt := 9, te := true, tk := 3, ws := false }
      { dst := .v 7, sa := .v 4, sb := .x 1, sc := .v 6, lt := 2, md := 0, imm := 0 }) ∧
  decodeTableWord 96 (fieldsAt [(88, 0x48), (80, 0x11), (76, 7), (54, 9), (44, 8)]) =
    some (.pchkProv (plainHdr 0x11) { dst := .v 9, sa := .v 8, sb := .v 0, sc := .v 0, lt := 0, md := 0, imm := 0 }) ∧
  decodeTableWord 96 (fieldsAt [(88, 0x1C), (80, 5), (76, 7), (54, 3), (0, 0x3FC00000)]) =
    some (.movi (plainHdr 5) { dst := .v 3, sa := .v 0, sb := .v 0, imm := 0x3FC00000 }) ∧
  decodeTableWord 192 (fieldsAt [(88, 0x1D), (80, 7), (76, 7), (54, 4), (96, 0x0123456789ABCDEF)]) =
    some (.movw (plainHdr 7) { dst := .v 4, imm := 0x0123456789ABCDEF }) ∧
  decodeTableWord 96 (fieldsAt [(88, 0x80), (76, 7), (54, 5), (44, 256 + 6), (34, 768), (31, 2), (28, 1), (26, 1), (0, 0xFFFFFC)]) =
    some (.ld (plainHdr 0) { d := .v 5, base := .s 6, index := .c 0, width := 2, scope := 1, order := 1, hint := 0, off := 0xFFFFFC }) ∧
  decodeTableWord 96 (fieldsAt [(88, 0x70), (79, 1), (76, 1), (30, 0xFFFFFF), (27, 4)]) =
    some (.bra { fn := 0, pn := true, pg := 1, gap := 0, wt := 0, te := false, tk := 0, ws := false } { src := .v 0, loff := 0xFFFFFF, slot := 4, aux := 0 }) ∧
  decodeTableWord 96 (fieldsAt [(88, 0xA0), (76, 7), (0, 2)]) =
    some (.bar (plainHdr 0) { dst := .v 0, sa := .v 0, sb := .v 0, sc := .v 0, lt := 0, md := 0, imm := 2 }) ∧
  decodeTableWord 192 (fieldsAt [(88, 0xB0), (76, 7), (44, 256 + 8), (34, 768), (24, 256 + 10), (12, 0xF), (96, 1)]) =
    some (.cpy (plainHdr 0) { dst := .v 0, sa := .s 8, sb := .c 0, sc := .s 10, ctl := 0xF000, ext := 1 }) ∧
  decodeTableWord 96 (fieldsAt [(88, 0xC0), (76, 7), (54, 528 + 3), (44, 528 + 1), (34, 528 + 2)]) =
    some (.mma (plainHdr 0) { dst := .t 3, sa := .t 1, sb := .t 2, sc := .v 0, lt := 0, md := 0, imm := 0 }) ∧
  decodeTableWord 96 (fieldsAt [(88, 0xD0), (76, 7), (54, 520 + 1), (44, 256 + 4), (34, 256 + 5)]) =
    some (.ralc (plainHdr 0) { dst := .p 1, sa := .s 4, sb := .s 5, sc := .v 0, lt := 0, md := 0, imm := 0 }) ∧
  decodeTableWord 288 (fieldsAt [(88, 0xE1), (76, 7), (25, 1), (21, 1), (14, 4), (7, 2), (0, 6), (29, 7)]) =
    some (.nred (plainHdr 0) { body := BitVec.ofNat 256 (fieldsAt [(25, 1), (21, 1), (14, 4), (7, 2), (0, 6), (29, 7)]) }) ∧
  decodeTableWord 96 (fieldsAt [(88, 0xF0), (76, 7), (0, 0xABCDEF)]) =
    some (.trap (plainHdr 0) { dst := .v 0, sa := .v 0, sb := .v 0, place := 0, sys := 0xABCDEF })

/-- 06 R160 to R165, R179: the step of a selected set runs the instruction that stands at its PC in a well-formed line, with the PC of the next slot as the next one; a pair runs its first instruction and then, in the following step of the same clock, its second, unless one of the two is refused; a thread that finished one half issues the other alone; anything else at the PC is a stop. Where it rests on the model's own reading or choice, see the log: entries 4 and 15. -/
def Obligations.StepRunsTheDecodedInstruction : Prop := ∀ s cu m r, s.m.cur = some cu →
  fetchLine s.env s.m (grpOf s.m cu.g).core (teamOf s.m (grpOf s.m cu.g).team).part cu.pc = (m, r) →
  (∀ l, r = .line l → cu.second = false → lineWf l = true → cu.pc % 8 < 5 → bitsOf cu.pc 5 3 = 0 → lineCont l (cu.pc % 8) = false →
    (¬ (linePair l (cu.pc % 8 + 1) = true ∧ cu.pc % 8 < 4 ∧ slotLen l (cu.pc % 8) = 1) → ∀ i, decode (slotsFrom l (cu.pc % 8)) = .ok i →
      step s = exec i (s.withMach { m with cur := some (curOne cu (pcAfter cu.pc (slotLen l (cu.pc % 8))) false) })) ∧
    (linePair l (cu.pc % 8 + 1) = true → cu.pc % 8 < 4 → slotLen l (cu.pc % 8) = 1 → ∀ a, decode (slotsFrom l (cu.pc % 8)) = .ok a →
      (cu.solo = true → step s = exec a (s.withMach { m with cur := some (curOne cu (pcAfter cu.pc 2) false) })) ∧
      (cu.solo = false → ∀ b, decode (slotsFrom l (cu.pc % 8 + 1)) = .ok b →
        (pairRefused cu a b = false → step s = exec a (s.withMach { m with cur := some (curOne cu (pcAfter cu.pc 2) true) })) ∧
        (pairRefused cu a b = true → step s = .next (s.withMach (fetchStop s.env m cu (.line l))))))) ∧
  (∀ l, r = .line l → cu.second = true → ∀ b, decode (slotsFrom l (cu.pc % 8)) = .ok b → step s = exec b (s.withMach m)) ∧
  (∀ l, r = .line l → cu.second = false → lineWf l = false ∨ 5 ≤ cu.pc % 8 ∨ bitsOf cu.pc 5 3 ≠ 0 ∨ lineCont l (cu.pc % 8) = true →
    step s = .next (s.withMach (fetchStop s.env m cu (.line l)))) ∧
  ((∀ l, r ≠ .line l) → step s = .next (s.withMach (fetchStop s.env m cu r)))

/-- 06 R169, R180, 16 R365, R374: the checks at issue. An illegal encoding, and outside the system instructions a scalar destination in handler mode, raise ILLOP for every member whatever its guard; a register at or above the budget raises BUDGET; a system instruction outside handler mode raises PROT; a false guard does nothing. Whatever the checks find, an instruction of a program answers a next state with the same clock and the same system registers. Where it rests on the model's own reading or choice, see the log: entries 15 and 23. -/
def Obligations.ChecksAtIssue : Prop := ∀ i h s cu, hdrOfInstr i = some h → s.m.cur = some cu →
  (∃ m, exec i s = .next (s.withMach m)) ∧
  (legal i = false → exec i s = .next (s.withMach (failAll s.env s.m cu cILLOP 0))) ∧
  (cu.hm = true → writesScalar i = true → privileged i = false → exec i s = .next (s.withMach (failAll s.env s.m cu cILLOP 0))) ∧
  (legal i = true → ¬ (cu.hm = true ∧ writesScalar i = true ∧ privileged i = false) → cu.trapped = [] →
    (∀ l, cu.lanes = [l] → guardOf (thrOf s.m cu.g l) h = true →
      (privileged i = true → cu.hm = false → budgetOk s.m (ctxOf s.m cu h) i l = true →
        exec i s = .next (afterStop s cu h l (raise s.env (issueMach s cu h) cu.g l cPROT 0 0 cu.pc cu.pc 0 (soloCtx s cu h l).pair))) ∧
      (budgetOk s.m (ctxOf s.m cu h) i l = false →
        exec i s = .next (afterStop s cu h l (raise s.env (issueMach s cu h) cu.g l cBUDGET 0 0 cu.pc cu.pc 0 (soloCtx s cu h l).pair)))) ∧
    ((∀ l ∈ cu.lanes, guardOf (thrOf s.m cu.g l) h = false) → (guardTraps i = true → ∀ l ∈ cu.lanes, taintTrap s.m cu.g l h = false) →
      exec i s = .next (afterIssue s cu h (issueMach s cu h))))

/-- 01 R37, 06 R170: an instruction that acts on registers changes, when it issues, neither memory nor any other part of the device but counters, log indexes and results on their way; every group keeps its registers, with no bit of CAUSE cleared, and every thread that keeps its state keeps its registers, predicates and trap record. -/
def Obligations.RegisterInstructionsFrame : Prop := ∀ i h s cu t, regOnly i = true → hdrOfInstr i = some h → Acts i h s cu → Calm s cu →
  exec i s = .next t →
  SameDevice s t ∧ (∀ g, SameGroup (grpOf s.m g) (grpOf t.m g)) ∧
  (∀ g l, (thrOf t.m g l).v = (thrOf s.m g l).v ∧ (thrOf t.m g l).pv = (thrOf s.m g l).pv ∧ (thrOf t.m g l).pt = (thrOf s.m g l).pt) ∧
  ∀ g l, (thrOf t.m g l).st = (thrOf s.m g l).st → SameThread (thrOf s.m g l) (thrOf t.m g l)

/-- 01 R37, 04 R108: an instruction of memory, control flow or waiting changes, when it issues, no byte of memory, no tile metadata, no register, predicate or taint, neither MODE nor PCTL nor a format register, clears no bit of CAUSE, and writes the trap record only of a thread that it parks or that waits for a translation. -/
def Obligations.DeferringInstructionsFrame : Prop := ∀ i h s cu t, deferring i = true → hdrOfInstr i = some h → Acts i h s cu → Calm s cu →
  exec i s = .next t →
  SameMemory s.m t.m ∧ t.m.frames = s.m.frames ∧ t.sys = s.sys ∧
  (∀ g, (grpOf t.m g).s = (grpOf s.m g).s ∧ (grpOf t.m g).mode = (grpOf s.m g).mode ∧ (grpOf t.m g).pctl = (grpOf s.m g).pctl ∧
    (grpOf t.m g).fm = (grpOf s.m g).fm ∧ (grpOf s.m g).cause &&& (grpOf t.m g).cause = (grpOf s.m g).cause) ∧
  (∀ g l, (thrOf t.m g l).v = (thrOf s.m g l).v ∧ (thrOf t.m g l).pv = (thrOf s.m g l).pv ∧ (thrOf t.m g l).pt = (thrOf s.m g l).pt) ∧
  ∀ g l, (thrOf t.m g l).st = (thrOf s.m g l).st → (thrOf t.m g l).wait ≠ .walk → (thrOf t.m g l).trec = (thrOf s.m g l).trec

/-- 01 R13, R37, 06 R171, 08 R257: what a write to a vector, scalar or predicate register leaves in it, and that it leaves every other register alone; a write to a register lent after the issue, and one to p7, changes nothing. Where it rests on the model's own reading or choice, see the log: entry 9. -/
def Obligations.RegisterWritesReadBack : Prop := ∀ m g,
  (∀ l n x sn, lentAway (thrOf m g l) n sn = false → n < (thrOf m g l).v.length → regV (applyWr m (.v g l n x sn)) g l n = x.toNat) ∧
  (∀ l n x sn k l' n', (k ≠ g ∨ l' ≠ l ∨ n' ≠ n ∨ lentAway (thrOf m g l) n sn = true) → regV (applyWr m (.v g l n x sn)) k l' n' = regV m k l' n') ∧
  (∀ n x, n < (grpOf m g).s.length → regS (applyWr m (.s g n x)) g n = x.toNat) ∧
  (∀ n x k n', (k ≠ g ∨ n' ≠ n) → regS (applyWr m (.s g n x)) k n' = regS m k n') ∧
  (∀ l n b t, l < (grpOf m g).th.length → n < 7 → predV (applyWr m (.p g l n b t)) g l n = b ∧ predT (applyWr m (.p g l n b t)) g l n = t) ∧
  (∀ l n b t k l' n', n < 8 → n' < 8 → (k ≠ g ∨ l' ≠ l ∨ n' ≠ n ∨ n = 7) →
    predV (applyWr m (.p g l n b t)) k l' n' = predV m k l' n' ∧ predT (applyWr m (.p g l n b t)) k l' n' = predT m k l' n')

/-- 16 R363, R364, R376: a trap parks the thread, saves v0 to v3, the predicates with their taints, the PC, the address, the code, the progress index, PSOLO and the cause's number in the record, clears HSTEP, and enters the handler eight clocks later; a return from such a record restores what it saved and leaves every other register. -/
def Obligations.TrapSavesAndTretRestores : Prop := ∀ (t : Thread) now cause faddr info spc prog psolo, cause < 32 → faddr < 2 ^ 56 → spc < 2 ^ 56 → info < 2 ^ 24 → prog < 2 ^ 32 →
  let u := trapThr now cause faddr info spc prog psolo t
  let w := fun n => (lget u.trec n 0).toNat
  (u.st = .parked ∧ u.pc = spc ∧ u.vecAt = some (now + 8) ∧ u.v = t.v ∧ u.pv = t.pv ∧ u.pt = t.pt ∧ u.trec.length = 16) ∧
  (∀ k, k < 5 → w k = 0) ∧
  (bitsOf (w 5) 4 0 = cause ∧ bitsOf (w 5) 11 5 = t.pv.toNat ∧ bitsOf (w 5) 18 12 = t.pt.toNat ∧ bitOf (w 5) 19 = false ∧ bitOf (w 5) 20 = psolo ∧ w 5 < 2 ^ 21) ∧
  (w 6 = info ∧ w 7 = prog ∧ w 8 + 2 ^ 32 * w 9 = faddr ∧ w 10 + 2 ^ 32 * w 11 = spc) ∧
  (∀ k, k < 4 → lget u.trec (12 + k) 0 = lget t.v k 0) ∧
  (∀ (a : Thread) st, a.trec = u.trec → 4 ≤ a.v.length →
    let b := tretThr st a
    b.st = st ∧ b.hm = false ∧ b.pc = spc ∧ b.solo = psolo ∧ b.step = false ∧ b.pv = t.pv ∧ b.pt = t.pt ∧ b.v.length = a.v.length ∧
    (∀ k, k < 4 → lget b.v k 0 = lget t.v k 0) ∧ (∀ k, 4 ≤ k → lget b.v k 0 = lget a.v k 0) ∧
    bitOf (lget b.trec 5 0).toNat 20 = false)

/-- 03 R86, R96, R100, 04 R108, 08 R235, R248: a store that is performed writes its bytes from its address on, but for those that stores leave alone: TAIL and RFSD of a registered ring, the header of a hand queue but CAP, a word at which threads wait. It writes no other byte, but for ALLOW of a queue whose CAP it writes; it keeps the memory in its canonical form, and advances VER by one and clears ZF in each tile frame that it touches. Where it rests on the model's own reading or choice, see the log: entry 7. -/
def Obligations.StoresWriteTheirBytes : Prop := ∀ s id x sa data, AtHome s id x → x.body = .store [(sa, data)] false true → Memory.wf s.m.mem = true →
  let ro := readOnly s.env s.m sa data.length
  let locked := fun a => ro.any (fun r => decide (r.1 ≤ a) && decide (a < r.1 + r.2))
  let follows := fun a => (queueHdrs s.env s.m).any (fun h => a == h + 13 && overlaps sa data.length (h + 14) 1)
  ∃ t, Takes (.memoryAccessPerform id) s t ∧
    (∀ a, a < sa ∨ sa + data.length ≤ a → follows a = false → memGet t.m.mem a = memGet s.m.mem a) ∧
    (∀ k b, data[k]? = some b → follows (sa + k) = false → memGet t.m.mem (sa + k) = if locked (sa + k) then memGet s.m.mem (sa + k) else b) ∧
    Memory.wf t.m.mem = true ∧
    (ro = [] → data ≠ [] → ∀ f, f ∈ framesOf sa data.length → frameOf t.m f = ((frameOf s.m f).1 + 1, false)) ∧
    (∀ f, f ∉ framesOf sa data.length → frameOf t.m f = frameOf s.m f)

/-- Every step keeps the memory in its canonical form: addresses strictly rising, no listed byte zero. Where it rests on the model's own reading or choice, see the log: entry 1. -/
def Obligations.EveryStepKeepsMemoryCanonical : Prop := ∀ s t, Memory.wf s.m.mem = true → step s = .next t → Memory.wf t.m.mem = true

/-- 19 R416, R417, R427: every step keeps the clock's phases, CSTEP, LEVEL and the released HBM parts as they must stand. -/
def Obligations.EveryStepKeepsDeviceInv : Prop := ∀ s t, DeviceInv s → step s = .next t → DeviceInv t

/-- After reset the memory is in its canonical form and the device as every step keeps it. Where it rests on the model's own reading or choice, see the log: entry 1. -/
def Obligations.ResetInv : Prop := Memory.wf State.reset.m.mem = true ∧ DeviceInv State.reset

/-- 19 R417: LEVEL rises only from ROM to MONITOR, from MONITOR to LPDDR-ONLY, and where an HBM part is released; it falls only at a module reset, a function-level reset or a thermal trip, whatever instruction or step is taken. -/
def Obligations.LevelRisesAndFallsAsStated : Prop := ∀ i s t, DeviceInv s → exec i s = .next t →
  (s.sys.dev.level < t.sys.dev.level →
    (i = .monitorLevel ∧ s.sys.dev.level = 0 ∧ t.sys.dev.level = 1) ∨ (i = .lpddrOnlyLevel ∧ s.sys.dev.level = 1 ∧ t.sys.dev.level = 2) ∨
    ∃ d, i = .hbmRelease d ∧ 2 ≤ s.sys.dev.level ∧ released s.sys d = false ∧ released t.sys d = true) ∧
  (t.sys.dev.level < s.sys.dev.level → i = .moduleReset ∨ i = .functionLevelReset ∨ i = .thermalTrip)

/-- The values that the spec gives for reset: LEVEL, FAIL, HBMR, TEMP, PWR, PLIM, CSTEP (19 R416, R427), every register of the host queues (14 R335), TIME, CNT and PEND (14 R349), the partitions' control blocks (18 R406), the control entries of teams (19 R430), TC of every tile (07 R218), metadata of every frame (03 R85), the send allowances (18 R411), RECA, DONE and BUSY (18 R410). -/
def Obligations.ResetValues : Prop :=
  let s := State.reset
  (s.clk.now = 0 ∧ s.sys.dev.level = 0 ∧ s.sys.dev.fail = 0 ∧ (∀ d, released s.sys d = false)) ∧
  (s.sys.dev.temp = 0 ∧ s.sys.dev.pwr = 0 ∧ s.sys.dev.plim = 3200 ∧ s.sys.dev.cstep = 0) ∧
  (∀ q, let x := queueOfNo s.sys q
    x.qbase = 0 ∧ x.qdadr = 0 ∧ x.qtail = 0 ∧ x.qhead = 0 ∧ x.part = 0 ∧ x.vec = 0 ∧ x.qlog = 0 ∧ x.detail = 0 ∧ x.step = 0 ∧ x.run = false ∧ x.fault = 0) ∧
  (∀ v, let x := vecOf s.sys v
    x.time = 0 ∧ x.cnt = 1 ∧ x.pend = 0) ∧
  (∀ p, let x := partOf s.sys p
    x.tvec = 0 ∧ x.cst = 0 ∧ x.en = false ∧ x.root = 0 ∧ x.place = []) ∧
  (∀ k, let x := entOf s.m k
    x.imgb = 0 ∧ x.spc = 0 ∧ x.saddr = 0 ∧ x.srsn = 0 ∧ x.skind = 0 ∧ x.part = 0 ∧ x.smark = 0 ∧ x.stopall = false ∧ x.stopped = false ∧ x.ldrop = 0 ∧ x.v = false) ∧
  (∀ c k, k < 16 → shapeOf s.m c k = 0x00023F3F) ∧
  (∀ c, (coreOf s.m c).credit = [8, 8, 8, 8]) ∧
  (∀ f, frameOf s.m f = (0, true)) ∧
  (∀ d, let x := dieOf s.m d
    x.reca = 0 ∧ x.rdone = false ∧ x.rbusy = false)

/-- 07 R194: `movi` writes the immediate under its type and `movw` a pair; both are of class IA, one clock at 32 bits and two at 64; unused fields must be zero and `movw` has no other type. -/
def Obligations.ImmediateMoves : Prop := ∀ h,
  (∀ o, Completes (.movi h o) h (.free (isS o.dst) (fun e c m =>
    land m (e.now + (if tyBits (intTy h) = 64 then 2 else 1)) (putWords c o.dst (immWords (intTy h) o.imm)) (tokA c o.dst)))) ∧
  (∀ o, Completes (.movw h o) h (.free (isS o.dst) (fun e c m =>
    land m (e.now + 2) (putWords c o.dst [o.imm.setWidth 32, (o.imm >>> 32).setWidth 32]) (tokA c o.dst)))) ∧
  (∀ o, legal (.movi h o) = true → o.sa = .v 0 ∧ o.sb = .v 0) ∧
  (∀ o, legal (.movw h o) = true ↔ (h.fn = 6 ∨ h.fn = 7) ∧ legal (.movw { h with fn := 6 } o) = true) ∧
  immWords .n32 0x3FC00000 = [0x3FC00000] ∧ decodeF .f32 0x3FC00000 = .fin false (3 * 2 ^ 22) (-23)

/-- 07 R208, R210: `pchk` tests for poison and gives its provenance, `pfix` replaces it; neither makes an entry in the log, and no other variant is legal. -/
def Obligations.PoisonTestAndFix : Prop := ∀ h o,
  Completes (.pchk h o) h (.free false (fun e c m =>
    let r := readOp e m c (fltTy h) o.sa
    land r.1 (e.now + 2) (wrP c o.dst (isPoison (fltTy h) r.2, false)) c.tok)) ∧
  Completes (.pchkProv h o) h (.free (isS o.dst) (fun e c m =>
    let r := readOp e m c (fltTy h) o.sa
    resA e c h o .n32 2 (poisonWord (fltTy h) r.2) r.1)) ∧
  Completes (.pfix h o) h (.free (isS o.dst) (fun e c m =>
    let r := ops3 e c (fltTy h) o 2 m
    resA e c h o (fltTy h) 2 (if isPoison (fltTy h) r.2.1 then r.2.2.1 else r.2.1) r.1)) ∧
  (∀ ty n, isPoison ty n = false → poisonWord ty n = 0) ∧
  (∀ ty n, isPoison ty n = true → bitOf (poisonWord ty n) 31 = true ∧ bitsOf (poisonWord ty n) 30 22 = 0 ∧
    ∃ q, decodeF ty n = .nan q (bitsOf (poisonWord ty n) 21 18) (bitsOf (poisonWord ty n) 17 0)) ∧
  (∀ e m c ty x, isX x = false → (readOp e m c ty x).1 = m) ∧
  (legal (.pchk h o) = true → fnHi h = 0 ∧ ∃ n, o.dst = .p n) ∧ (legal (.pchkProv h o) = true → fnHi h = 1) ∧ (legal (.pfix h o) = true → fnHi h = 0)

/-- 16 R377, 06 R182: `tclr` completes, and where its result lands it clears in the group's CAUSE the bits set in SYS24[22:0], but for those that were raised in the same clock, and no other bit of it or of another group's. -/
def Obligations.TclrClearsCauses : Prop := ∀ h o,
  Completes (.tclr h o) h (.free false (fun e c m => afterVar e c m [.causeClear c.g (BitVec.ofNat 32 (bitsOf o.sys.toNat 22 0))])) ∧
  ∀ m g,
    let n := applyWr m (.causeClear g (BitVec.ofNat 32 (bitsOf o.sys.toNat 22 0)))
    (∀ k, bitOf (grpOf n g).cause.toNat k = (bitOf (grpOf m g).cause.toNat k && !(decide (k < 23) && bitOf o.sys.toNat k && !bitOf (grpOf m g).raised.toNat k))) ∧
    ∀ g', g' ≠ g → (grpOf n g').cause = (grpOf m g').cause
end

