-- ==== Sys2Proof/Laws/Encoding.lean ====
section
/-! SUPPORT. Fields, operand bits and bytes come back as they went in: the lemmas on which the agreement of decoder and encoder rests. -/
namespace Sys2Proof
open Machine

/-- Fields that fit their widths come back, whatever stands above them. -/
theorem unpack_pack_append (l r : List (Nat × Nat)) (h : ∀ x ∈ l, x.2 < 2 ^ x.1) : unpack (l.map (·.1)) (pack (l ++ r)) = l.map (·.2) := by
  induction l with
  | nil => rfl
  | cons x l ih =>
    obtain ⟨w, v⟩ := x
    have hv : v < 2 ^ w := h (w, v) (by simp)
    have hp : 0 < 2 ^ w := Nat.two_pow_pos w
    simp only [List.cons_append, List.map_cons, unpack, pack, Nat.mod_eq_of_lt hv, List.cons.injEq]
    refine ⟨by rw [Nat.add_mul_mod_self_left, Nat.mod_eq_of_lt hv], ?_⟩
    rw [Nat.add_mul_div_left _ _ hp, Nat.div_eq_of_lt hv, Nat.zero_add]
    exact ih (fun x hx => h x (by simp [hx]))

theorem unpack_pack (l : List (Nat × Nat)) (h : ∀ x ∈ l, x.2 < 2 ^ x.1) : unpack (l.map (·.1)) (pack l) = l.map (·.2) := by
  have := unpack_pack_append l [] h
  rwa [List.append_nil] at this

/-- Joined fields stay below the sum of their widths. -/
theorem pack_lt (l : List (Nat × Nat)) : pack l < 2 ^ (l.map (·.1)).sum := by
  induction l with
  | nil => simp [pack]
  | cons x r ih =>
    obtain ⟨w, v⟩ := x
    simp only [pack, List.map_cons, List.sum_cons, Nat.pow_add]
    have h1 : v % 2 ^ w < 2 ^ w := Nat.mod_lt _ (Nat.two_pow_pos w)
    calc v % 2 ^ w + 2 ^ w * pack r < 2 ^ w * 1 + 2 ^ w * pack r := by omega
      _ = 2 ^ w * (pack r + 1) := by rw [Nat.mul_add]; omega
      _ ≤ 2 ^ w * 2 ^ (r.map (·.1)).sum := Nat.mul_le_mul_left _ ih

/-- Two groups of fields, the second above the first. -/
theorem pack_append (a b : List (Nat × Nat)) : pack (a ++ b) = pack a + 2 ^ (a.map (·.1)).sum * pack b := by
  induction a with
  | nil => simp [pack]
  | cons x r ih =>
    obtain ⟨w, v⟩ := x
    simp only [List.cons_append, pack, ih, List.map_cons, List.sum_cons, Nat.pow_add, Nat.mul_add, Nat.mul_assoc]
    omega

/-- A number splits into fields and joins again. -/
theorem pack_unpack (ws : List Nat) (n : Nat) : pack (ws.zip (unpack ws n)) = n % 2 ^ ws.sum := by
  induction ws generalizing n with
  | nil => simp [unpack, pack, Nat.mod_one]
  | cons w r ih =>
    simp only [unpack, List.zip_cons_cons, pack, ih, List.sum_cons, Nat.mod_mod]
    rw [Nat.pow_add, Nat.mod_mul]

/-- What stands above the first fields. -/
theorem pack_above (a b : List (Nat × Nat)) : pack (a ++ b) / 2 ^ (a.map (·.1)).sum = pack b := by
  have hp : 0 < 2 ^ (a.map (·.1)).sum := Nat.two_pow_pos _
  rw [pack_append, Nat.add_mul_div_left _ _ hp, Nat.div_eq_of_lt (pack_lt a), Nat.zero_add]

/-- The frame of a slot (06 R168) comes back, with its opcode. -/
theorem hdrOf_slotOf (area : List (Nat × Nat)) (h : Hdr) (op : Nat) (hw : (area.map (·.1)).sum = 64) (ho : op < 256) :
    hdrOf (slotOf area h op) = some (h, op) := by
  have h1 : unpack frameWidths (slotOf area h op / 2 ^ 64) = (hdrFields h op).map (·.2) := by
    rw [slotOf, ← hw, pack_above]
    exact unpack_pack (hdrFields h op) (by
      simp only [hdrFields, List.mem_cons, List.not_mem_nil, or_false]
      rintro x (rfl | rfl | rfl | rfl | rfl | rfl | rfl | rfl | rfl)
      · cases h.ws <;> decide
      · exact h.tk.isLt
      · cases h.te <;> decide
      · exact h.wt.isLt
      · exact h.gap.isLt
      · exact h.pg.isLt
      · cases h.pn <;> decide
      · exact h.fn.isLt
      · exact ho)
  simp only [hdrOf, h1, hdrFields, List.map_cons, List.map_nil]
  obtain ⟨fn, pn, pg, gap, wt, te, tk, ws⟩ := h
  cases pn <;> cases te <;> cases ws <;> simp

@[simp] theorem opndOfBits_opndBits (o : Opnd) : opndOfBits (opndBits o) = some o := by
  cases o <;> rename_i n <;> have h := n.isLt
  · show opndOfBits n.toNat = _
    rw [opndOfBits, if_pos (by omega)]; simp
  · show opndOfBits (256 + n.toNat) = _
    rw [opndOfBits, if_neg (by omega), if_pos (by omega)]; simp
  · show opndOfBits (512 + n.toNat) = _
    rw [opndOfBits, if_neg (by omega), if_neg (by omega), if_pos (by omega)]; simp
  · show opndOfBits (520 + n.toNat) = _
    rw [opndOfBits, if_neg (by omega), if_neg (by omega), if_neg (by omega), if_pos (by omega)]; simp
  · show opndOfBits (528 + n.toNat) = _
    rw [opndOfBits, if_neg (by omega), if_neg (by omega), if_neg (by omega), if_neg (by omega), if_pos (by omega)]; simp
  · show opndOfBits (544 + n.toNat) = _
    rw [opndOfBits, if_neg (by omega), if_neg (by omega), if_neg (by omega), if_neg (by omega), if_neg (by omega), if_pos (by omega)]; simp
  · show opndOfBits (768 + n.toNat) = _
    rw [opndOfBits, if_neg (by omega), if_neg (by omega), if_neg (by omega), if_neg (by omega), if_neg (by omega), if_neg (by omega), if_neg (by omega)]; simp

theorem opndBits_lt (o : Opnd) : opndBits o < 2 ^ 10 := by
  cases o <;> rename_i n <;> have h := n.isLt <;> simp only [opndBits] <;> omega

/-- Only the bits of an operand read as that operand. -/
theorem opndBits_of (n : Nat) (o : Opnd) (hn : n < 2 ^ 10) (h : opndOfBits n = some o) : opndBits o = n := by
  unfold opndOfBits at h
  split at h
  · cases h; simp [opndBits]; omega
  split at h
  · cases h; simp [opndBits]; omega
  split at h
  · cases h; simp [opndBits]; omega
  split at h
  · cases h; simp [opndBits]; omega
  split at h
  · cases h; simp [opndBits]; omega
  split at h
  · cases h; simp [opndBits]; omega
  split at h
  · cases h
  · cases h; simp [opndBits]; omega

/-- The operand area of format A comes back. -/
theorem faOf_slot (o : FA) (h : Hdr) (op : Nat) : faOf (slotOf (faFields o) h op) = some o := by
  have h1 : unpack [16, 5, 3, 10, 10, 10, 10] (slotOf (faFields o) h op) = (faFields o).map (·.2) :=
    unpack_pack_append (faFields o) (hdrFields h op) (by
      simp only [faFields, List.mem_cons, List.not_mem_nil, or_false]
      rintro x (rfl | rfl | rfl | rfl | rfl | rfl | rfl) <;> first | exact BitVec.isLt _ | exact opndBits_lt _)
  rw [faOf, h1]; simp only [faFields, List.map_cons, List.map_nil, opndOfBits_opndBits, BitVec.ofNat_toNat, BitVec.setWidth_eq]

/-- The operand area of format C comes back. -/
theorem fcOf_slot (o : FC) (h : Hdr) (op : Nat) : fcOf (slotOf (fcFields o) h op) = some o := by
  have h1 : unpack [27, 3, 24, 10] (slotOf (fcFields o) h op) = (fcFields o).map (·.2) :=
    unpack_pack_append (fcFields o) (hdrFields h op) (by
      simp only [fcFields, List.mem_cons, List.not_mem_nil, or_false]
      rintro x (rfl | rfl | rfl | rfl) <;> first | exact BitVec.isLt _ | exact opndBits_lt _)
  rw [fcOf, h1]; simp only [fcFields, List.map_cons, List.map_nil, opndOfBits_opndBits, BitVec.ofNat_toNat, BitVec.setWidth_eq]

/-- The operand area of format M comes back. -/
theorem fmOf_slot (o : FM) (h : Hdr) (op : Nat) : fmOf (slotOf (fmFields o) h op) = some o := by
  have h1 : unpack [24, 2, 2, 3, 3, 10, 10, 10] (slotOf (fmFields o) h op) = (fmFields o).map (·.2) :=
    unpack_pack_append (fmFields o) (hdrFields h op) (by
      simp only [fmFields, List.mem_cons, List.not_mem_nil, or_false]
      rintro x (rfl | rfl | rfl | rfl | rfl | rfl | rfl | rfl) <;> first | exact BitVec.isLt _ | exact opndBits_lt _)
  rw [fmOf, h1]; simp only [fmFields, List.map_cons, List.map_nil, opndOfBits_opndBits, BitVec.ofNat_toNat, BitVec.setWidth_eq]

/-- The operand area of format E comes back. -/
theorem feOf_slot (o : FE) (h : Hdr) (op : Nat) : feOf (slotOf (feFields o) h op) o.ext.toNat = some o := by
  have h1 : unpack [24, 10, 10, 10, 10] (slotOf (feFields o) h op) = (feFields o).map (·.2) :=
    unpack_pack_append (feFields o) (hdrFields h op) (by
      simp only [feFields, List.mem_cons, List.not_mem_nil, or_false]
      rintro x (rfl | rfl | rfl | rfl | rfl) <;> first | exact BitVec.isLt _ | exact opndBits_lt _)
  rw [feOf, h1]; simp only [feFields, List.map_cons, List.map_nil, opndOfBits_opndBits, BitVec.ofNat_toNat, BitVec.setWidth_eq]

/-- The operand area of format S comes back. -/
theorem fsOf_slot (o : FS) (h : Hdr) (op : Nat) : fsOf (slotOf (fsFields o) h op) = some o := by
  have h1 : unpack [24, 10, 10, 10, 10] (slotOf (fsFields o) h op) = (fsFields o).map (·.2) :=
    unpack_pack_append (fsFields o) (hdrFields h op) (by
      simp only [fsFields, List.mem_cons, List.not_mem_nil, or_false]
      rintro x (rfl | rfl | rfl | rfl | rfl) <;> first | exact BitVec.isLt _ | exact opndBits_lt _)
  rw [fsOf, h1]; simp only [fsFields, List.map_cons, List.map_nil, opndOfBits_opndBits, BitVec.ofNat_toNat, BitVec.setWidth_eq]

/-- The operand area of format I comes back. -/
theorem fiOf_slot (o : FI) (h : Hdr) (op : Nat) : fiOf (slotOf (fiFields o) h op) = some o := by
  have h1 : unpack [32, 2, 10, 10, 10] (slotOf (fiFields o) h op) = (fiFields o).map (·.2) :=
    unpack_pack_append (fiFields o) (hdrFields h op) (by
      simp only [fiFields, List.mem_cons, List.not_mem_nil, or_false]
      rintro x (rfl | rfl | rfl | rfl | rfl) <;> first | exact BitVec.isLt _ | exact opndBits_lt _ | decide)
  rw [fiOf, h1]; simp only [fiFields, List.map_cons, List.map_nil, opndOfBits_opndBits, BitVec.ofNat_toNat, BitVec.setWidth_eq, ↓reduceIte]

/-- The operand area of format W comes back. -/
theorem fwOf_slot (o : FW) (h : Hdr) (op : Nat) : fwOf (slotOf (fwFields o) h op) o.imm.toNat = some o := by
  have h1 : unpack [54, 10] (slotOf (fwFields o) h op) = (fwFields o).map (·.2) :=
    unpack_pack_append (fwFields o) (hdrFields h op) (by
      simp only [fwFields, List.mem_cons, List.not_mem_nil, or_false]
      rintro x (rfl | rfl) <;> first | exact BitVec.isLt _ | exact opndBits_lt _ | decide)
  have hb := o.imm.isLt
  rw [fwOf, h1]; simp only [fwFields, List.map_cons, List.map_nil, opndOfBits_opndBits, BitVec.ofNat_toNat, BitVec.setWidth_eq, hb, and_self, ↓reduceIte]

/-- Bytes of a number that fits come back as the number (00 R5). -/
theorem ofBytes_toBytes (k n : Nat) : ofBytes (toBytes k n) = n % 256 ^ k := by
  induction k generalizing n with
  | zero => simp [toBytes, ofBytes, Nat.mod_one]
  | succ k ih =>
    rw [toBytes, ofBytes, ih, BitVec.toNat_ofNat, Nat.pow_succ 256 k, Nat.mul_comm (256 ^ k) 256, Nat.mod_mul]

@[simp] theorem length_toBytes (k n : Nat) : (toBytes k n).length = k := by
  induction k generalizing n with
  | zero => rfl
  | succ k ih => simp [toBytes, ih]

theorem toBytes_ofBytes (l : List Byte) : toBytes l.length (ofBytes l) = l := by
  induction l with
  | nil => rfl
  | cons b r ih =>
    have hb := b.isLt
    simp only [List.length_cons, toBytes, ofBytes, List.cons.injEq]
    refine ⟨?_, ?_⟩
    · apply BitVec.eq_of_toNat_eq
      simp only [BitVec.toNat_ofNat]
      omega
    · have : (b.toNat + 256 * ofBytes r) / 256 = ofBytes r := by omega
      rw [this, ih]

end Sys2Proof
end

