-- ==== Sys2Proof/Laws/Issue.lean ====
section
/-! SUPPORT. What an issue does when every member acts, said once: every completion of a program instruction cites these. -/
namespace Sys2Proof.Machine
open Sys2Proof

theorem filter_all {α : Type} (p : α → Bool) (l : List α) (h : ∀ a ∈ l, p a = true) : l.filter p = l := List.filter_eq_self.mpr h

theorem filter_none {α : Type} (p : α → Bool) (l : List α) (h : ∀ a ∈ l, p a = false) : l.filter p = [] := by
  rw [List.filter_eq_nil_iff]
  intro a ha
  simp [h a ha]

/-- The issue of a set whose members all act is the body, once or member by member, on the advanced machine. -/
theorem issue_acts {i : Instr} {h : Hdr} {s : State} {cu : Cur} (once : Bool) (body : Env → Ctx → Mach → BRes) (A : Acts i h s cu) :
    issue i h once body s.env cu s.m =
      let r := if once then runOnce s.env (issueCtx s cu h) [] body (issueMach s cu h)
        else cu.lanes.foldl (runMember s.env (issueCtx s cu h) [] body) (issueMach s cu h, [])
      { endIssue s.env r.1 cu h.gap.toNat (hasTrapped r.1 cu.g cu.lanes || diverged r.1 cu.g cu.lanes) with
        cur := nextCur cu r.2 (pcAfter cu.pc 1) } := by
  have ha : cu.lanes.filter (fun l => guardOf (thrOf s.m cu.g l) h) = cu.lanes := filter_all _ _ A.guard
  have hg : cu.lanes.filter (fun l => if cu.lanes.contains l then budgetOk s.m (ctxOf s.m cu h) i l else guardTraps i && taintTrap s.m cu.g l h) = cu.lanes := by
    apply filter_all
    intro l hl
    simp [hl, A.budget l hl]
  have hb : cu.lanes.filter (fun l => !budgetOk s.m (ctxOf s.m cu h) i l && !([] : List Nat).contains l) = [] := by
    apply filter_none
    intro l hl
    simp [A.budget l hl]
  have hc : cu.lanes.filter (fun l => !budgetOk s.m (ctxOf s.m cu h) i l && ([] : List Nat).contains l) = [] := by
    apply filter_none
    intro l hl
    simp [A.budget l hl]
  have hw : (cu.hm && writesScalar i && !privileged i) = false := by
    have k := A.scal
    revert k
    cases cu.hm <;> cases writesScalar i <;> cases privileged i <;> simp
  have hp : (privileged i && !cu.hm) = false := by
    have k := A.priv
    revert k
    cases cu.hm <;> cases privileged i <;> simp
  have he : cu.lanes.isEmpty = false := by simpa using A.some
  have hctx : ({ ctxOf s.m cu h with lanes := cu.lanes, lane := cu.lanes.headD 0 } : Ctx) = issueCtx s cu h := rfl
  unfold issue
  simp only [A.ok, hw, Bool.not_true, ha, hg, hb, hc, hp, he, Bool.false_eq_true, ↓reduceIte, List.foldl_nil, List.nil_append, hctx, A.fresh]
  rfl

/-- A set that acts as one completes. -/
theorem runI_once {i : Instr} {h : Hdr} {s : State} {cu : Cur} {body : Env → Ctx → Mach → BRes} {m' : Mach} (A : Acts i h s cu)
    (hb : body s.env (issueCtx s cu h) (issueMach s cu h) = { m := m', out := .done }) :
    runI i h true body s = .next (afterIssue s cu h ((issueCtx s cu h).toks.foldl tokRise m')) := by
  simp only [runI, A.sel, issue_acts true body A, ↓reduceIte, runOnce, hb]
  rfl

theorem fold_members {e : Env} {c : Ctx} {body : Env → Ctx → Mach → BRes} {f : Ctx → Mach → Mach}
    (hb : ∀ c m, body e c m = { m := f c m, out := .done }) (ls : List Nat) (m : Mach) :
    ls.foldl (runMember e c [] body) (m, []) = (ls.foldl (memberActs f c) m, []) := by
  induction ls generalizing m with
  | nil => rfl
  | cons l r ih => simp only [List.foldl_cons, runMember, hb, memberActs]; exact ih _

/-- Members that all complete. -/
theorem runI_members {i : Instr} {h : Hdr} {s : State} {cu : Cur} {body : Env → Ctx → Mach → BRes} {f : Ctx → Mach → Mach} (A : Acts i h s cu)
    (hb : ∀ c m, body s.env c m = { m := f c m, out := .done }) : runI i h false body s = .next (membersDone s cu h f) := by
  simp only [runI, A.sel, issue_acts false body A, Bool.false_eq_true, ↓reduceIte, fold_members hb]
  rfl

theorem fold_along {e : Env} {c : Ctx} {body : Env → Ctx → Mach → BRes} {P : Ctx → Mach → Prop} {f : Ctx → Mach → Mach}
    (hb : ∀ c m, P c m → body e c m = { m := f c m, out := .done }) (ls : List Nat) (m : Mach) (k : Along P f c ls m) :
    ls.foldl (runMember e c [] body) (m, []) = (ls.foldl (memberActs f c) m, []) := by
  induction ls generalizing m with
  | nil => rfl
  | cons l r ih =>
    obtain ⟨h1, h2⟩ := k
    simp only [List.foldl_cons, runMember, hb _ _ h1]
    exact ih _ h2

/-- Where the condition holds the body is the effect, so the issue is the effect. -/
theorem runI_normal {i : Instr} {h : Hdr} {s : State} {cu : Cur} {body : Env → Ctx → Mach → BRes} (x : Effect) (A : Acts i h s cu)
    (N : NormalCase x s cu h) (hb : ∀ c m, x.cond s.env c m → body s.env c m = { m := x.eff s.env c m, out := .done }) :
    runI i h x.once body s = .next (actsDone x.once s cu h (x.eff s.env)) := by
  obtain ⟨once, P, f⟩ := x
  cases once
  · have k : Along (P s.env) (f s.env) (issueCtx s cu h) cu.lanes (issueMach s cu h) := N
    simp only [runI, A.sel, issue_acts false body A, Bool.false_eq_true, ↓reduceIte, fold_along hb _ _ k]
    rfl
  · have k : P s.env (issueCtx s cu h) (issueMach s cu h) := N
    exact runI_once A (hb _ _ k)

/-- The one thread of a set raises a cause, whether the instruction acts once or member by member. -/
theorem runI_stops {i : Instr} {h : Hdr} {s : State} {cu : Cur} {l : Nat} {body : Env → Ctx → Mach → BRes} {m' : Mach} {x : Stop} (once : Bool)
    (S : Solo i h s cu l) (hb : body s.env (soloCtx s cu h l) (issueMach s cu h) = { m := m', out := .cause x.cause x.addr x.info x.next 0 }) :
    runI i h once body s = .next (afterStop s cu h l (x.raised s.env (soloCtx s cu h l) m')) := by
  have hc : issueCtx s cu h = soloCtx s cu h l := by simp [issueCtx, soloCtx, ctxOf, S.one]
  cases once
  · have hb' : body s.env { issueCtx s cu h with lane := l } (issueMach s cu h) = _ := hb
    simp only [runI, S.acts.sel, issue_acts false body S.acts, Bool.false_eq_true, ↓reduceIte, S.one, List.foldl_cons, List.foldl_nil, runMember, hb']
    simp only [afterStop, S.one, List.contains_nil, Bool.false_eq_true, ↓reduceIte, failMember, List.nil_append]
    rfl
  · simp only [runI, S.acts.sel, issue_acts true body S.acts, ↓reduceIte, runOnce, hc, hb]
    have hl : (soloCtx s cu h l).lanes = [l] := S.one
    simp only [afterStop, hl, S.one, List.foldl_cons, List.foldl_nil, List.contains_nil, Bool.false_eq_true, ↓reduceIte, failMember]
    rfl

/-- Either way, when the body always completes. -/
theorem runI_done {i : Instr} {h : Hdr} {s : State} {cu : Cur} {body : Env → Ctx → Mach → BRes} {f : Ctx → Mach → Mach} (once : Bool) (A : Acts i h s cu)
    (hb : ∀ c m, body s.env c m = { m := f c m, out := .done }) : runI i h once body s = .next (actsDone once s cu h f) := by
  cases once
  · exact runI_members A hb
  · exact runI_once A (hb _ _)

/-- The one thread of a set completes. -/
theorem runI_solo {i : Instr} {h : Hdr} {s : State} {cu : Cur} {l : Nat} {body : Env → Ctx → Mach → BRes} {m' : Mach} (S : Solo i h s cu l)
    (hb : body s.env (soloCtx s cu h l) (issueMach s cu h) = { m := m', out := .done }) :
    runI i h false body s = .next (soloDone s cu h l m') := by
  have hb' : body s.env { issueCtx s cu h with lane := l } (issueMach s cu h) = { m := m', out := .done } := hb
  simp only [runI, S.acts.sel, issue_acts false body S.acts, Bool.false_eq_true, ↓reduceIte, S.one, List.foldl_cons, List.foldl_nil, runMember, hb']
  simp only [soloDone, afterIssue, S.one]
  rfl

/-- An instruction whose meaning is a body that is its effect wherever its condition holds. -/
theorem completes_of {i : Instr} {h : Hdr} {x : Effect} {body : Env → Ctx → Mach → BRes} (he : ∀ s, exec i s = runI i h x.once body s)
    (hb : ∀ e c m, x.cond e c m → body e c m = { m := x.eff e c m, out := .done }) : Completes i h x := by
  intro s cu A N
  rw [he]
  exact runI_normal x A N (hb s.env)

/-- An instruction whose body answers a cause wherever a condition holds. -/
theorem stopsAt_of {i : Instr} {h : Hdr} {once : Bool} {body : Env → Ctx → Mach → BRes} {P : Env → Ctx → Mach → Prop} {x : Env → Ctx → Mach → Stop}
    {rd : Env → Ctx → Mach → Mach} (he : ∀ s, exec i s = runI i h once body s)
    (hb : ∀ e c m, P e c m → body e c m = { m := rd e c m, out := .cause (x e c m).cause (x e c m).addr (x e c m).info (x e c m).next 0 }) :
    StopsAt i h P x rd := by
  intro s cu l S k
  rw [he]
  exact runI_stops once S (hb _ _ _ k)

end Sys2Proof.Machine
end

