-- ==== Sys2Proof/Laws/Tab.lean ====
section
/-! SUPPORT. Reads after writes of tables and lists. -/
namespace Sys2Proof.Machine

theorem tget_tset {α : Type} (t : Tab α) (i j : Nat) (a : α) (w : tabWf t = true) : tget (tset t i a) j = if j = i then some a else tget t j := by
  induction t with
  | nil => simp [tset, tget]
  | cons x r ih =>
    obtain ⟨k, b⟩ := x
    have wr : tabWf r = true := by
      cases r with
      | nil => rfl
      | cons y z => obtain ⟨p, q⟩ := y; simp only [tabWf, Bool.and_eq_true] at w; exact w.2
    simp only [tset]
    split
    · simp only [tget]
    · split
      · next h => subst h; simp only [tget]; split <;> simp_all
      · simp only [tget, ih wr]
        by_cases hj : j = k
        · subst hj; simp_all; omega
        · simp [hj]

@[simp] theorem tget_tset_self {α : Type} (t : Tab α) (i : Nat) (a : α) : tget (tset t i a) i = some a := by
  induction t with
  | nil => simp [tset, tget]
  | cons x r ih =>
    obtain ⟨k, b⟩ := x
    simp only [tset]
    split
    · simp [tget]
    · split
      · simp [tget]
      · next h => simp [tget, h, ih]

theorem tget_tset_other {α : Type} (t : Tab α) (i j : Nat) (a : α) (h : j ≠ i) : tget (tset t i a) j = tget t j := by
  induction t with
  | nil => simp [tset, tget, h]
  | cons x r ih =>
    obtain ⟨k, b⟩ := x
    simp only [tset]
    split
    · simp [tget, h]
    · split
      · next hk => subst hk; simp [tget, h]
      · simp only [tget, ih]

@[simp] theorem tset_tset {α : Type} (t : Tab α) (i : Nat) (a b : α) : tset (tset t i a) i b = tset t i b := by
  induction t with
  | nil => simp [tset]
  | cons x r ih =>
    obtain ⟨k, c⟩ := x
    simp only [tset]
    split
    · simp [tset]
    · split
      · simp [tset]
      · next h1 h2 => simp [tset, h1, h2, ih]

@[simp] theorem tget_tupd {α : Type} (t : Tab α) (i j : Nat) (f : α → α) : tget (tupd t i f) j = if j = i then (tget t j).map f else tget t j := by
  induction t with
  | nil => simp [tupd, tget]
  | cons x r ih =>
    obtain ⟨k, b⟩ := x
    simp only [tupd]
    split
    · next h => subst h; simp only [tget]; split <;> simp_all
    · next h =>
      simp only [tget, ih]
      by_cases hj : j = k
      · subst hj; simp [Ne.symm h]
      · simp [hj]

@[simp] theorem keys_tupd {α : Type} (t : Tab α) (i : Nat) (f : α → α) : (tupd t i f).map (·.1) = t.map (·.1) := by
  induction t with
  | nil => rfl
  | cons x r ih => simp only [tupd]; split <;> simp [ih]

theorem tget_tdel_other {α : Type} (t : Tab α) (i j : Nat) (h : j ≠ i) : tget (tdel t i) j = tget t j := by
  induction t with
  | nil => rfl
  | cons x r ih =>
    obtain ⟨k, b⟩ := x
    simp only [tdel]
    split
    · next hk => subst hk; simp [tget, h]
    · simp only [tget, ih]

/-- Writing keeps the keys rising. -/
theorem tset_wf {α : Type} (t : Tab α) (i : Nat) (a : α) (w : tabWf t = true) : tabWf (tset t i a) = true := by
  induction t with
  | nil => rfl
  | cons x r ih =>
    obtain ⟨k, b⟩ := x
    simp only [tset]
    split
    · next h => simp [tabWf, h]; exact w
    · split
      · next h1 h2 =>
        subst h2
        cases r with
        | nil => rfl
        | cons y z => obtain ⟨p, q⟩ := y; simpa [tabWf] using w
      · next h1 h2 =>
        cases r with
        | nil => simp [tset, tabWf]; omega
        | cons y z =>
          obtain ⟨p, q⟩ := y
          simp only [tabWf, Bool.and_eq_true, decide_eq_true_eq] at w
          have hr := ih w.2
          simp only [tset] at hr ⊢
          split <;> simp_all [tabWf] <;> (try omega)
          split <;> simp_all [tabWf]

@[simp] theorem length_lupd {α : Type} (l : List α) (i : Nat) (f : α → α) : (lupd l i f).length = l.length := by
  induction l generalizing i with
  | nil => rfl
  | cons x r ih => cases i <;> simp [lupd, ih]

@[simp] theorem get_lupd {α : Type} (l : List α) (i j : Nat) (f : α → α) : (lupd l i f)[j]? = if j = i then l[j]?.map f else l[j]? := by
  induction l generalizing i j with
  | nil => simp [lupd]
  | cons x r ih => cases i <;> cases j <;> simp [lupd, ih]

end Sys2Proof.Machine
end

