-- ==== Sys2Proof/Laws/State.lean ====
section
/-! SUPPORT. What each update of the state leaves alone, and what reads after it, field by field: no later proof unfolds a record update. -/
namespace Sys2Proof.Machine
open Sys2Proof

/-! `updGrp` changes `groups` alone. -/

@[simp] theorem updGrp_mem (m : Mach) (g : Nat) (f : Group → Group) : (updGrp m g f).mem = m.mem := rfl
@[simp] theorem updGrp_bad (m : Mach) (g : Nat) (f : Group → Group) : (updGrp m g f).bad = m.bad := rfl
@[simp] theorem updGrp_frames (m : Mach) (g : Nat) (f : Group → Group) : (updGrp m g f).frames = m.frames := rfl
@[simp] theorem updGrp_hostLines (m : Mach) (g : Nat) (f : Group → Group) : (updGrp m g f).hostLines = m.hostLines := rfl
@[simp] theorem updGrp_groups (m : Mach) (g : Nat) (f : Group → Group) : (updGrp m g f).groups = tupd m.groups g f := rfl
@[simp] theorem updGrp_scheds (m : Mach) (g : Nat) (f : Group → Group) : (updGrp m g f).scheds = m.scheds := rfl
@[simp] theorem updGrp_cores (m : Mach) (g : Nat) (f : Group → Group) : (updGrp m g f).cores = m.cores := rfl
@[simp] theorem updGrp_clusters (m : Mach) (g : Nat) (f : Group → Group) : (updGrp m g f).clusters = m.clusters := rfl
@[simp] theorem updGrp_dies (m : Mach) (g : Nat) (f : Group → Group) : (updGrp m g f).dies = m.dies := rfl
@[simp] theorem updGrp_teams (m : Mach) (g : Nat) (f : Group → Group) : (updGrp m g f).teams = m.teams := rfl
@[simp] theorem updGrp_entries (m : Mach) (g : Nat) (f : Group → Group) : (updGrp m g f).entries = m.entries := rfl
@[simp] theorem updGrp_grids (m : Mach) (g : Nat) (f : Group → Group) : (updGrp m g f).grids = m.grids := rfl
@[simp] theorem updGrp_copies (m : Mach) (g : Nat) (f : Group → Group) : (updGrp m g f).copies = m.copies := rfl
@[simp] theorem updGrp_flushes (m : Mach) (g : Nat) (f : Group → Group) : (updGrp m g f).flushes = m.flushes := rfl
@[simp] theorem updGrp_graphs (m : Mach) (g : Nat) (f : Group → Group) : (updGrp m g f).graphs = m.graphs := rfl
@[simp] theorem updGrp_tlb (m : Mach) (g : Nat) (f : Group → Group) : (updGrp m g f).tlb = m.tlb := rfl
@[simp] theorem updGrp_walks (m : Mach) (g : Nat) (f : Group → Group) : (updGrp m g f).walks = m.walks := rfl
@[simp] theorem updGrp_pending (m : Mach) (g : Nat) (f : Group → Group) : (updGrp m g f).pending = m.pending := rfl
@[simp] theorem updGrp_flight (m : Mach) (g : Nat) (f : Group → Group) : (updGrp m g f).flight = m.flight := rfl
@[simp] theorem updGrp_ops (m : Mach) (g : Nat) (f : Group → Group) : (updGrp m g f).ops = m.ops := rfl
@[simp] theorem updGrp_queues (m : Mach) (g : Nat) (f : Group → Group) : (updGrp m g f).queues = m.queues := rfl
@[simp] theorem updGrp_retries (m : Mach) (g : Nat) (f : Group → Group) : (updGrp m g f).retries = m.retries := rfl
@[simp] theorem updGrp_cur (m : Mach) (g : Nat) (f : Group → Group) : (updGrp m g f).cur = m.cur := rfl
@[simp] theorem updGrp_serial (m : Mach) (g : Nat) (f : Group → Group) : (updGrp m g f).serial = m.serial := rfl
@[simp] theorem updGrp_free (m : Mach) (g : Nat) (f : Group → Group) : (updGrp m g f).free = m.free := rfl
@[simp] theorem updGrp_prem (m : Mach) (g : Nat) (f : Group → Group) : (updGrp m g f).prem = m.prem := rfl
@[simp] theorem updGrp_acks (m : Mach) (g : Nat) (f : Group → Group) : (updGrp m g f).acks = m.acks := rfl
@[simp] theorem updGrp_past (m : Mach) (g : Nat) (f : Group → Group) : (updGrp m g f).past = m.past := rfl
@[simp] theorem updGrp_ctl (m : Mach) (g : Nat) (f : Group → Group) : (updGrp m g f).ctl = m.ctl := rfl

/-! `updThr` changes `groups` alone. -/

@[simp] theorem updThr_mem (m : Mach) (g l : Nat) (f : Thread → Thread) : (updThr m g l f).mem = m.mem := rfl
@[simp] theorem updThr_bad (m : Mach) (g l : Nat) (f : Thread → Thread) : (updThr m g l f).bad = m.bad := rfl
@[simp] theorem updThr_frames (m : Mach) (g l : Nat) (f : Thread → Thread) : (updThr m g l f).frames = m.frames := rfl
@[simp] theorem updThr_hostLines (m : Mach) (g l : Nat) (f : Thread → Thread) : (updThr m g l f).hostLines = m.hostLines := rfl
@[simp] theorem updThr_groups (m : Mach) (g l : Nat) (f : Thread → Thread) : (updThr m g l f).groups = tupd m.groups g (fun a => { a with th := lupd a.th l f }) := rfl
@[simp] theorem updThr_scheds (m : Mach) (g l : Nat) (f : Thread → Thread) : (updThr m g l f).scheds = m.scheds := rfl
@[simp] theorem updThr_cores (m : Mach) (g l : Nat) (f : Thread → Thread) : (updThr m g l f).cores = m.cores := rfl
@[simp] theorem updThr_clusters (m : Mach) (g l : Nat) (f : Thread → Thread) : (updThr m g l f).clusters = m.clusters := rfl
@[simp] theorem updThr_dies (m : Mach) (g l : Nat) (f : Thread → Thread) : (updThr m g l f).dies = m.dies := rfl
@[simp] theorem updThr_teams (m : Mach) (g l : Nat) (f : Thread → Thread) : (updThr m g l f).teams = m.teams := rfl
@[simp] theorem updThr_entries (m : Mach) (g l : Nat) (f : Thread → Thread) : (updThr m g l f).entries = m.entries := rfl
@[simp] theorem updThr_grids (m : Mach) (g l : Nat) (f : Thread → Thread) : (updThr m g l f).grids = m.grids := rfl
@[simp] theorem updThr_copies (m : Mach) (g l : Nat) (f : Thread → Thread) : (updThr m g l f).copies = m.copies := rfl
@[simp] theorem updThr_flushes (m : Mach) (g l : Nat) (f : Thread → Thread) : (updThr m g l f).flushes = m.flushes := rfl
@[simp] theorem updThr_graphs (m : Mach) (g l : Nat) (f : Thread → Thread) : (updThr m g l f).graphs = m.graphs := rfl
@[simp] theorem updThr_tlb (m : Mach) (g l : Nat) (f : Thread → Thread) : (updThr m g l f).tlb = m.tlb := rfl
@[simp] theorem updThr_walks (m : Mach) (g l : Nat) (f : Thread → Thread) : (updThr m g l f).walks = m.walks := rfl
@[simp] theorem updThr_pending (m : Mach) (g l : Nat) (f : Thread → Thread) : (updThr m g l f).pending = m.pending := rfl
@[simp] theorem updThr_flight (m : Mach) (g l : Nat) (f : Thread → Thread) : (updThr m g l f).flight = m.flight := rfl
@[simp] theorem updThr_ops (m : Mach) (g l : Nat) (f : Thread → Thread) : (updThr m g l f).ops = m.ops := rfl
@[simp] theorem updThr_queues (m : Mach) (g l : Nat) (f : Thread → Thread) : (updThr m g l f).queues = m.queues := rfl
@[simp] theorem updThr_retries (m : Mach) (g l : Nat) (f : Thread → Thread) : (updThr m g l f).retries = m.retries := rfl
@[simp] theorem updThr_cur (m : Mach) (g l : Nat) (f : Thread → Thread) : (updThr m g l f).cur = m.cur := rfl
@[simp] theorem updThr_serial (m : Mach) (g l : Nat) (f : Thread → Thread) : (updThr m g l f).serial = m.serial := rfl
@[simp] theorem updThr_free (m : Mach) (g l : Nat) (f : Thread → Thread) : (updThr m g l f).free = m.free := rfl
@[simp] theorem updThr_prem (m : Mach) (g l : Nat) (f : Thread → Thread) : (updThr m g l f).prem = m.prem := rfl
@[simp] theorem updThr_acks (m : Mach) (g l : Nat) (f : Thread → Thread) : (updThr m g l f).acks = m.acks := rfl
@[simp] theorem updThr_past (m : Mach) (g l : Nat) (f : Thread → Thread) : (updThr m g l f).past = m.past := rfl
@[simp] theorem updThr_ctl (m : Mach) (g l : Nat) (f : Thread → Thread) : (updThr m g l f).ctl = m.ctl := rfl

/-! `updTeam` changes `teams` alone. -/

@[simp] theorem updTeam_mem (m : Mach) (t : Nat) (f : Team → Team) : (updTeam m t f).mem = m.mem := rfl
@[simp] theorem updTeam_bad (m : Mach) (t : Nat) (f : Team → Team) : (updTeam m t f).bad = m.bad := rfl
@[simp] theorem updTeam_frames (m : Mach) (t : Nat) (f : Team → Team) : (updTeam m t f).frames = m.frames := rfl
@[simp] theorem updTeam_hostLines (m : Mach) (t : Nat) (f : Team → Team) : (updTeam m t f).hostLines = m.hostLines := rfl
@[simp] theorem updTeam_groups (m : Mach) (t : Nat) (f : Team → Team) : (updTeam m t f).groups = m.groups := rfl
@[simp] theorem updTeam_scheds (m : Mach) (t : Nat) (f : Team → Team) : (updTeam m t f).scheds = m.scheds := rfl
@[simp] theorem updTeam_cores (m : Mach) (t : Nat) (f : Team → Team) : (updTeam m t f).cores = m.cores := rfl
@[simp] theorem updTeam_clusters (m : Mach) (t : Nat) (f : Team → Team) : (updTeam m t f).clusters = m.clusters := rfl
@[simp] theorem updTeam_dies (m : Mach) (t : Nat) (f : Team → Team) : (updTeam m t f).dies = m.dies := rfl
@[simp] theorem updTeam_teams (m : Mach) (t : Nat) (f : Team → Team) : (updTeam m t f).teams = tupd m.teams t f := rfl
@[simp] theorem updTeam_entries (m : Mach) (t : Nat) (f : Team → Team) : (updTeam m t f).entries = m.entries := rfl
@[simp] theorem updTeam_grids (m : Mach) (t : Nat) (f : Team → Team) : (updTeam m t f).grids = m.grids := rfl
@[simp] theorem updTeam_copies (m : Mach) (t : Nat) (f : Team → Team) : (updTeam m t f).copies = m.copies := rfl
@[simp] theorem updTeam_flushes (m : Mach) (t : Nat) (f : Team → Team) : (updTeam m t f).flushes = m.flushes := rfl
@[simp] theorem updTeam_graphs (m : Mach) (t : Nat) (f : Team → Team) : (updTeam m t f).graphs = m.graphs := rfl
@[simp] theorem updTeam_tlb (m : Mach) (t : Nat) (f : Team → Team) : (updTeam m t f).tlb = m.tlb := rfl
@[simp] theorem updTeam_walks (m : Mach) (t : Nat) (f : Team → Team) : (updTeam m t f).walks = m.walks := rfl
@[simp] theorem updTeam_pending (m : Mach) (t : Nat) (f : Team → Team) : (updTeam m t f).pending = m.pending := rfl
@[simp] theorem updTeam_flight (m : Mach) (t : Nat) (f : Team → Team) : (updTeam m t f).flight = m.flight := rfl
@[simp] theorem updTeam_ops (m : Mach) (t : Nat) (f : Team → Team) : (updTeam m t f).ops = m.ops := rfl
@[simp] theorem updTeam_queues (m : Mach) (t : Nat) (f : Team → Team) : (updTeam m t f).queues = m.queues := rfl
@[simp] theorem updTeam_retries (m : Mach) (t : Nat) (f : Team → Team) : (updTeam m t f).retries = m.retries := rfl
@[simp] theorem updTeam_cur (m : Mach) (t : Nat) (f : Team → Team) : (updTeam m t f).cur = m.cur := rfl
@[simp] theorem updTeam_serial (m : Mach) (t : Nat) (f : Team → Team) : (updTeam m t f).serial = m.serial := rfl
@[simp] theorem updTeam_free (m : Mach) (t : Nat) (f : Team → Team) : (updTeam m t f).free = m.free := rfl
@[simp] theorem updTeam_prem (m : Mach) (t : Nat) (f : Team → Team) : (updTeam m t f).prem = m.prem := rfl
@[simp] theorem updTeam_acks (m : Mach) (t : Nat) (f : Team → Team) : (updTeam m t f).acks = m.acks := rfl
@[simp] theorem updTeam_past (m : Mach) (t : Nat) (f : Team → Team) : (updTeam m t f).past = m.past := rfl
@[simp] theorem updTeam_ctl (m : Mach) (t : Nat) (f : Team → Team) : (updTeam m t f).ctl = m.ctl := rfl

/-! `updCore` changes `cores` alone. -/

@[simp] theorem updCore_mem (m : Mach) (c : Nat) (f : Core → Core) : (updCore m c f).mem = m.mem := rfl
@[simp] theorem updCore_bad (m : Mach) (c : Nat) (f : Core → Core) : (updCore m c f).bad = m.bad := rfl
@[simp] theorem updCore_frames (m : Mach) (c : Nat) (f : Core → Core) : (updCore m c f).frames = m.frames := rfl
@[simp] theorem updCore_hostLines (m : Mach) (c : Nat) (f : Core → Core) : (updCore m c f).hostLines = m.hostLines := rfl
@[simp] theorem updCore_groups (m : Mach) (c : Nat) (f : Core → Core) : (updCore m c f).groups = m.groups := rfl
@[simp] theorem updCore_scheds (m : Mach) (c : Nat) (f : Core → Core) : (updCore m c f).scheds = m.scheds := rfl
@[simp] theorem updCore_cores (m : Mach) (c : Nat) (f : Core → Core) : (updCore m c f).cores = tset m.cores c (f (coreOf m c)) := rfl
@[simp] theorem updCore_clusters (m : Mach) (c : Nat) (f : Core → Core) : (updCore m c f).clusters = m.clusters := rfl
@[simp] theorem updCore_dies (m : Mach) (c : Nat) (f : Core → Core) : (updCore m c f).dies = m.dies := rfl
@[simp] theorem updCore_teams (m : Mach) (c : Nat) (f : Core → Core) : (updCore m c f).teams = m.teams := rfl
@[simp] theorem updCore_entries (m : Mach) (c : Nat) (f : Core → Core) : (updCore m c f).entries = m.entries := rfl
@[simp] theorem updCore_grids (m : Mach) (c : Nat) (f : Core → Core) : (updCore m c f).grids = m.grids := rfl
@[simp] theorem updCore_copies (m : Mach) (c : Nat) (f : Core → Core) : (updCore m c f).copies = m.copies := rfl
@[simp] theorem updCore_flushes (m : Mach) (c : Nat) (f : Core → Core) : (updCore m c f).flushes = m.flushes := rfl
@[simp] theorem updCore_graphs (m : Mach) (c : Nat) (f : Core → Core) : (updCore m c f).graphs = m.graphs := rfl
@[simp] theorem updCore_tlb (m : Mach) (c : Nat) (f : Core → Core) : (updCore m c f).tlb = m.tlb := rfl
@[simp] theorem updCore_walks (m : Mach) (c : Nat) (f : Core → Core) : (updCore m c f).walks = m.walks := rfl
@[simp] theorem updCore_pending (m : Mach) (c : Nat) (f : Core → Core) : (updCore m c f).pending = m.pending := rfl
@[simp] theorem updCore_flight (m : Mach) (c : Nat) (f : Core → Core) : (updCore m c f).flight = m.flight := rfl
@[simp] theorem updCore_ops (m : Mach) (c : Nat) (f : Core → Core) : (updCore m c f).ops = m.ops := rfl
@[simp] theorem updCore_queues (m : Mach) (c : Nat) (f : Core → Core) : (updCore m c f).queues = m.queues := rfl
@[simp] theorem updCore_retries (m : Mach) (c : Nat) (f : Core → Core) : (updCore m c f).retries = m.retries := rfl
@[simp] theorem updCore_cur (m : Mach) (c : Nat) (f : Core → Core) : (updCore m c f).cur = m.cur := rfl
@[simp] theorem updCore_serial (m : Mach) (c : Nat) (f : Core → Core) : (updCore m c f).serial = m.serial := rfl
@[simp] theorem updCore_free (m : Mach) (c : Nat) (f : Core → Core) : (updCore m c f).free = m.free := rfl
@[simp] theorem updCore_prem (m : Mach) (c : Nat) (f : Core → Core) : (updCore m c f).prem = m.prem := rfl
@[simp] theorem updCore_acks (m : Mach) (c : Nat) (f : Core → Core) : (updCore m c f).acks = m.acks := rfl
@[simp] theorem updCore_past (m : Mach) (c : Nat) (f : Core → Core) : (updCore m c f).past = m.past := rfl
@[simp] theorem updCore_ctl (m : Mach) (c : Nat) (f : Core → Core) : (updCore m c f).ctl = m.ctl := rfl

/-! `updClus` changes `clusters` alone. -/

@[simp] theorem updClus_mem (m : Mach) (c : Nat) (f : Cluster → Cluster) : (updClus m c f).mem = m.mem := rfl
@[simp] theorem updClus_bad (m : Mach) (c : Nat) (f : Cluster → Cluster) : (updClus m c f).bad = m.bad := rfl
@[simp] theorem updClus_frames (m : Mach) (c : Nat) (f : Cluster → Cluster) : (updClus m c f).frames = m.frames := rfl
@[simp] theorem updClus_hostLines (m : Mach) (c : Nat) (f : Cluster → Cluster) : (updClus m c f).hostLines = m.hostLines := rfl
@[simp] theorem updClus_groups (m : Mach) (c : Nat) (f : Cluster → Cluster) : (updClus m c f).groups = m.groups := rfl
@[simp] theorem updClus_scheds (m : Mach) (c : Nat) (f : Cluster → Cluster) : (updClus m c f).scheds = m.scheds := rfl
@[simp] theorem updClus_cores (m : Mach) (c : Nat) (f : Cluster → Cluster) : (updClus m c f).cores = m.cores := rfl
@[simp] theorem updClus_clusters (m : Mach) (c : Nat) (f : Cluster → Cluster) : (updClus m c f).clusters = tset m.clusters c (f (clusOf m c)) := rfl
@[simp] theorem updClus_dies (m : Mach) (c : Nat) (f : Cluster → Cluster) : (updClus m c f).dies = m.dies := rfl
@[simp] theorem updClus_teams (m : Mach) (c : Nat) (f : Cluster → Cluster) : (updClus m c f).teams = m.teams := rfl
@[simp] theorem updClus_entries (m : Mach) (c : Nat) (f : Cluster → Cluster) : (updClus m c f).entries = m.entries := rfl
@[simp] theorem updClus_grids (m : Mach) (c : Nat) (f : Cluster → Cluster) : (updClus m c f).grids = m.grids := rfl
@[simp] theorem updClus_copies (m : Mach) (c : Nat) (f : Cluster → Cluster) : (updClus m c f).copies = m.copies := rfl
@[simp] theorem updClus_flushes (m : Mach) (c : Nat) (f : Cluster → Cluster) : (updClus m c f).flushes = m.flushes := rfl
@[simp] theorem updClus_graphs (m : Mach) (c : Nat) (f : Cluster → Cluster) : (updClus m c f).graphs = m.graphs := rfl
@[simp] theorem updClus_tlb (m : Mach) (c : Nat) (f : Cluster → Cluster) : (updClus m c f).tlb = m.tlb := rfl
@[simp] theorem updClus_walks (m : Mach) (c : Nat) (f : Cluster → Cluster) : (updClus m c f).walks = m.walks := rfl
@[simp] theorem updClus_pending (m : Mach) (c : Nat) (f : Cluster → Cluster) : (updClus m c f).pending = m.pending := rfl
@[simp] theorem updClus_flight (m : Mach) (c : Nat) (f : Cluster → Cluster) : (updClus m c f).flight = m.flight := rfl
@[simp] theorem updClus_ops (m : Mach) (c : Nat) (f : Cluster → Cluster) : (updClus m c f).ops = m.ops := rfl
@[simp] theorem updClus_queues (m : Mach) (c : Nat) (f : Cluster → Cluster) : (updClus m c f).queues = m.queues := rfl
@[simp] theorem updClus_retries (m : Mach) (c : Nat) (f : Cluster → Cluster) : (updClus m c f).retries = m.retries := rfl
@[simp] theorem updClus_cur (m : Mach) (c : Nat) (f : Cluster → Cluster) : (updClus m c f).cur = m.cur := rfl
@[simp] theorem updClus_serial (m : Mach) (c : Nat) (f : Cluster → Cluster) : (updClus m c f).serial = m.serial := rfl
@[simp] theorem updClus_free (m : Mach) (c : Nat) (f : Cluster → Cluster) : (updClus m c f).free = m.free := rfl
@[simp] theorem updClus_prem (m : Mach) (c : Nat) (f : Cluster → Cluster) : (updClus m c f).prem = m.prem := rfl
@[simp] theorem updClus_acks (m : Mach) (c : Nat) (f : Cluster → Cluster) : (updClus m c f).acks = m.acks := rfl
@[simp] theorem updClus_past (m : Mach) (c : Nat) (f : Cluster → Cluster) : (updClus m c f).past = m.past := rfl
@[simp] theorem updClus_ctl (m : Mach) (c : Nat) (f : Cluster → Cluster) : (updClus m c f).ctl = m.ctl := rfl

/-! `updDie` changes `dies` alone. -/

@[simp] theorem updDie_mem (m : Mach) (d : Nat) (f : Die → Die) : (updDie m d f).mem = m.mem := rfl
@[simp] theorem updDie_bad (m : Mach) (d : Nat) (f : Die → Die) : (updDie m d f).bad = m.bad := rfl
@[simp] theorem updDie_frames (m : Mach) (d : Nat) (f : Die → Die) : (updDie m d f).frames = m.frames := rfl
@[simp] theorem updDie_hostLines (m : Mach) (d : Nat) (f : Die → Die) : (updDie m d f).hostLines = m.hostLines := rfl
@[simp] theorem updDie_groups (m : Mach) (d : Nat) (f : Die → Die) : (updDie m d f).groups = m.groups := rfl
@[simp] theorem updDie_scheds (m : Mach) (d : Nat) (f : Die → Die) : (updDie m d f).scheds = m.scheds := rfl
@[simp] theorem updDie_cores (m : Mach) (d : Nat) (f : Die → Die) : (updDie m d f).cores = m.cores := rfl
@[simp] theorem updDie_clusters (m : Mach) (d : Nat) (f : Die → Die) : (updDie m d f).clusters = m.clusters := rfl
@[simp] theorem updDie_dies (m : Mach) (d : Nat) (f : Die → Die) : (updDie m d f).dies = tset m.dies d (f (dieOf m d)) := rfl
@[simp] theorem updDie_teams (m : Mach) (d : Nat) (f : Die → Die) : (updDie m d f).teams = m.teams := rfl
@[simp] theorem updDie_entries (m : Mach) (d : Nat) (f : Die → Die) : (updDie m d f).entries = m.entries := rfl
@[simp] theorem updDie_grids (m : Mach) (d : Nat) (f : Die → Die) : (updDie m d f).grids = m.grids := rfl
@[simp] theorem updDie_copies (m : Mach) (d : Nat) (f : Die → Die) : (updDie m d f).copies = m.copies := rfl
@[simp] theorem updDie_flushes (m : Mach) (d : Nat) (f : Die → Die) : (updDie m d f).flushes = m.flushes := rfl
@[simp] theorem updDie_graphs (m : Mach) (d : Nat) (f : Die → Die) : (updDie m d f).graphs = m.graphs := rfl
@[simp] theorem updDie_tlb (m : Mach) (d : Nat) (f : Die → Die) : (updDie m d f).tlb = m.tlb := rfl
@[simp] theorem updDie_walks (m : Mach) (d : Nat) (f : Die → Die) : (updDie m d f).walks = m.walks := rfl
@[simp] theorem updDie_pending (m : Mach) (d : Nat) (f : Die → Die) : (updDie m d f).pending = m.pending := rfl
@[simp] theorem updDie_flight (m : Mach) (d : Nat) (f : Die → Die) : (updDie m d f).flight = m.flight := rfl
@[simp] theorem updDie_ops (m : Mach) (d : Nat) (f : Die → Die) : (updDie m d f).ops = m.ops := rfl
@[simp] theorem updDie_queues (m : Mach) (d : Nat) (f : Die → Die) : (updDie m d f).queues = m.queues := rfl
@[simp] theorem updDie_retries (m : Mach) (d : Nat) (f : Die → Die) : (updDie m d f).retries = m.retries := rfl
@[simp] theorem updDie_cur (m : Mach) (d : Nat) (f : Die → Die) : (updDie m d f).cur = m.cur := rfl
@[simp] theorem updDie_serial (m : Mach) (d : Nat) (f : Die → Die) : (updDie m d f).serial = m.serial := rfl
@[simp] theorem updDie_free (m : Mach) (d : Nat) (f : Die → Die) : (updDie m d f).free = m.free := rfl
@[simp] theorem updDie_prem (m : Mach) (d : Nat) (f : Die → Die) : (updDie m d f).prem = m.prem := rfl
@[simp] theorem updDie_acks (m : Mach) (d : Nat) (f : Die → Die) : (updDie m d f).acks = m.acks := rfl
@[simp] theorem updDie_past (m : Mach) (d : Nat) (f : Die → Die) : (updDie m d f).past = m.past := rfl
@[simp] theorem updDie_ctl (m : Mach) (d : Nat) (f : Die → Die) : (updDie m d f).ctl = m.ctl := rfl

/-! `updSched` changes `scheds` alone. -/

@[simp] theorem updSched_mem (m : Mach) (k : Nat) (f : Sched → Sched) : (updSched m k f).mem = m.mem := rfl
@[simp] theorem updSched_bad (m : Mach) (k : Nat) (f : Sched → Sched) : (updSched m k f).bad = m.bad := rfl
@[simp] theorem updSched_frames (m : Mach) (k : Nat) (f : Sched → Sched) : (updSched m k f).frames = m.frames := rfl
@[simp] theorem updSched_hostLines (m : Mach) (k : Nat) (f : Sched → Sched) : (updSched m k f).hostLines = m.hostLines := rfl
@[simp] theorem updSched_groups (m : Mach) (k : Nat) (f : Sched → Sched) : (updSched m k f).groups = m.groups := rfl
@[simp] theorem updSched_scheds (m : Mach) (k : Nat) (f : Sched → Sched) : (updSched m k f).scheds = tset m.scheds k (f (schedOf m k)) := rfl
@[simp] theorem updSched_cores (m : Mach) (k : Nat) (f : Sched → Sched) : (updSched m k f).cores = m.cores := rfl
@[simp] theorem updSched_clusters (m : Mach) (k : Nat) (f : Sched → Sched) : (updSched m k f).clusters = m.clusters := rfl
@[simp] theorem updSched_dies (m : Mach) (k : Nat) (f : Sched → Sched) : (updSched m k f).dies = m.dies := rfl
@[simp] theorem updSched_teams (m : Mach) (k : Nat) (f : Sched → Sched) : (updSched m k f).teams = m.teams := rfl
@[simp] theorem updSched_entries (m : Mach) (k : Nat) (f : Sched → Sched) : (updSched m k f).entries = m.entries := rfl
@[simp] theorem updSched_grids (m : Mach) (k : Nat) (f : Sched → Sched) : (updSched m k f).grids = m.grids := rfl
@[simp] theorem updSched_copies (m : Mach) (k : Nat) (f : Sched → Sched) : (updSched m k f).copies = m.copies := rfl
@[simp] theorem updSched_flushes (m : Mach) (k : Nat) (f : Sched → Sched) : (updSched m k f).flushes = m.flushes := rfl
@[simp] theorem updSched_graphs (m : Mach) (k : Nat) (f : Sched → Sched) : (updSched m k f).graphs = m.graphs := rfl
@[simp] theorem updSched_tlb (m : Mach) (k : Nat) (f : Sched → Sched) : (updSched m k f).tlb = m.tlb := rfl
@[simp] theorem updSched_walks (m : Mach) (k : Nat) (f : Sched → Sched) : (updSched m k f).walks = m.walks := rfl
@[simp] theorem updSched_pending (m : Mach) (k : Nat) (f : Sched → Sched) : (updSched m k f).pending = m.pending := rfl
@[simp] theorem updSched_flight (m : Mach) (k : Nat) (f : Sched → Sched) : (updSched m k f).flight = m.flight := rfl
@[simp] theorem updSched_ops (m : Mach) (k : Nat) (f : Sched → Sched) : (updSched m k f).ops = m.ops := rfl
@[simp] theorem updSched_queues (m : Mach) (k : Nat) (f : Sched → Sched) : (updSched m k f).queues = m.queues := rfl
@[simp] theorem updSched_retries (m : Mach) (k : Nat) (f : Sched → Sched) : (updSched m k f).retries = m.retries := rfl
@[simp] theorem updSched_cur (m : Mach) (k : Nat) (f : Sched → Sched) : (updSched m k f).cur = m.cur := rfl
@[simp] theorem updSched_serial (m : Mach) (k : Nat) (f : Sched → Sched) : (updSched m k f).serial = m.serial := rfl
@[simp] theorem updSched_free (m : Mach) (k : Nat) (f : Sched → Sched) : (updSched m k f).free = m.free := rfl
@[simp] theorem updSched_prem (m : Mach) (k : Nat) (f : Sched → Sched) : (updSched m k f).prem = m.prem := rfl
@[simp] theorem updSched_acks (m : Mach) (k : Nat) (f : Sched → Sched) : (updSched m k f).acks = m.acks := rfl
@[simp] theorem updSched_past (m : Mach) (k : Nat) (f : Sched → Sched) : (updSched m k f).past = m.past := rfl
@[simp] theorem updSched_ctl (m : Mach) (k : Nat) (f : Sched → Sched) : (updSched m k f).ctl = m.ctl := rfl

/-! `updEnt` changes `entries` alone. -/

@[simp] theorem updEnt_mem (m : Mach) (k : Nat) (f : Entry → Entry) : (updEnt m k f).mem = m.mem := rfl
@[simp] theorem updEnt_bad (m : Mach) (k : Nat) (f : Entry → Entry) : (updEnt m k f).bad = m.bad := rfl
@[simp] theorem updEnt_frames (m : Mach) (k : Nat) (f : Entry → Entry) : (updEnt m k f).frames = m.frames := rfl
@[simp] theorem updEnt_hostLines (m : Mach) (k : Nat) (f : Entry → Entry) : (updEnt m k f).hostLines = m.hostLines := rfl
@[simp] theorem updEnt_groups (m : Mach) (k : Nat) (f : Entry → Entry) : (updEnt m k f).groups = m.groups := rfl
@[simp] theorem updEnt_scheds (m : Mach) (k : Nat) (f : Entry → Entry) : (updEnt m k f).scheds = m.scheds := rfl
@[simp] theorem updEnt_cores (m : Mach) (k : Nat) (f : Entry → Entry) : (updEnt m k f).cores = m.cores := rfl
@[simp] theorem updEnt_clusters (m : Mach) (k : Nat) (f : Entry → Entry) : (updEnt m k f).clusters = m.clusters := rfl
@[simp] theorem updEnt_dies (m : Mach) (k : Nat) (f : Entry → Entry) : (updEnt m k f).dies = m.dies := rfl
@[simp] theorem updEnt_teams (m : Mach) (k : Nat) (f : Entry → Entry) : (updEnt m k f).teams = m.teams := rfl
@[simp] theorem updEnt_entries (m : Mach) (k : Nat) (f : Entry → Entry) : (updEnt m k f).entries = tset m.entries k (f (entOf m k)) := rfl
@[simp] theorem updEnt_grids (m : Mach) (k : Nat) (f : Entry → Entry) : (updEnt m k f).grids = m.grids := rfl
@[simp] theorem updEnt_copies (m : Mach) (k : Nat) (f : Entry → Entry) : (updEnt m k f).copies = m.copies := rfl
@[simp] theorem updEnt_flushes (m : Mach) (k : Nat) (f : Entry → Entry) : (updEnt m k f).flushes = m.flushes := rfl
@[simp] theorem updEnt_graphs (m : Mach) (k : Nat) (f : Entry → Entry) : (updEnt m k f).graphs = m.graphs := rfl
@[simp] theorem updEnt_tlb (m : Mach) (k : Nat) (f : Entry → Entry) : (updEnt m k f).tlb = m.tlb := rfl
@[simp] theorem updEnt_walks (m : Mach) (k : Nat) (f : Entry → Entry) : (updEnt m k f).walks = m.walks := rfl
@[simp] theorem updEnt_pending (m : Mach) (k : Nat) (f : Entry → Entry) : (updEnt m k f).pending = m.pending := rfl
@[simp] theorem updEnt_flight (m : Mach) (k : Nat) (f : Entry → Entry) : (updEnt m k f).flight = m.flight := rfl
@[simp] theorem updEnt_ops (m : Mach) (k : Nat) (f : Entry → Entry) : (updEnt m k f).ops = m.ops := rfl
@[simp] theorem updEnt_queues (m : Mach) (k : Nat) (f : Entry → Entry) : (updEnt m k f).queues = m.queues := rfl
@[simp] theorem updEnt_retries (m : Mach) (k : Nat) (f : Entry → Entry) : (updEnt m k f).retries = m.retries := rfl
@[simp] theorem updEnt_cur (m : Mach) (k : Nat) (f : Entry → Entry) : (updEnt m k f).cur = m.cur := rfl
@[simp] theorem updEnt_serial (m : Mach) (k : Nat) (f : Entry → Entry) : (updEnt m k f).serial = m.serial := rfl
@[simp] theorem updEnt_free (m : Mach) (k : Nat) (f : Entry → Entry) : (updEnt m k f).free = m.free := rfl
@[simp] theorem updEnt_prem (m : Mach) (k : Nat) (f : Entry → Entry) : (updEnt m k f).prem = m.prem := rfl
@[simp] theorem updEnt_acks (m : Mach) (k : Nat) (f : Entry → Entry) : (updEnt m k f).acks = m.acks := rfl
@[simp] theorem updEnt_past (m : Mach) (k : Nat) (f : Entry → Entry) : (updEnt m k f).past = m.past := rfl
@[simp] theorem updEnt_ctl (m : Mach) (k : Nat) (f : Entry → Entry) : (updEnt m k f).ctl = m.ctl := rfl

/-! `updCtl` changes `ctl` alone. -/

@[simp] theorem updCtl_mem (m : Mach) (k : Nat) (f : CtlCore → CtlCore) : (updCtl m k f).mem = m.mem := rfl
@[simp] theorem updCtl_bad (m : Mach) (k : Nat) (f : CtlCore → CtlCore) : (updCtl m k f).bad = m.bad := rfl
@[simp] theorem updCtl_frames (m : Mach) (k : Nat) (f : CtlCore → CtlCore) : (updCtl m k f).frames = m.frames := rfl
@[simp] theorem updCtl_hostLines (m : Mach) (k : Nat) (f : CtlCore → CtlCore) : (updCtl m k f).hostLines = m.hostLines := rfl
@[simp] theorem updCtl_groups (m : Mach) (k : Nat) (f : CtlCore → CtlCore) : (updCtl m k f).groups = m.groups := rfl
@[simp] theorem updCtl_scheds (m : Mach) (k : Nat) (f : CtlCore → CtlCore) : (updCtl m k f).scheds = m.scheds := rfl
@[simp] theorem updCtl_cores (m : Mach) (k : Nat) (f : CtlCore → CtlCore) : (updCtl m k f).cores = m.cores := rfl
@[simp] theorem updCtl_clusters (m : Mach) (k : Nat) (f : CtlCore → CtlCore) : (updCtl m k f).clusters = m.clusters := rfl
@[simp] theorem updCtl_dies (m : Mach) (k : Nat) (f : CtlCore → CtlCore) : (updCtl m k f).dies = m.dies := rfl
@[simp] theorem updCtl_teams (m : Mach) (k : Nat) (f : CtlCore → CtlCore) : (updCtl m k f).teams = m.teams := rfl
@[simp] theorem updCtl_entries (m : Mach) (k : Nat) (f : CtlCore → CtlCore) : (updCtl m k f).entries = m.entries := rfl
@[simp] theorem updCtl_grids (m : Mach) (k : Nat) (f : CtlCore → CtlCore) : (updCtl m k f).grids = m.grids := rfl
@[simp] theorem updCtl_copies (m : Mach) (k : Nat) (f : CtlCore → CtlCore) : (updCtl m k f).copies = m.copies := rfl
@[simp] theorem updCtl_flushes (m : Mach) (k : Nat) (f : CtlCore → CtlCore) : (updCtl m k f).flushes = m.flushes := rfl
@[simp] theorem updCtl_graphs (m : Mach) (k : Nat) (f : CtlCore → CtlCore) : (updCtl m k f).graphs = m.graphs := rfl
@[simp] theorem updCtl_tlb (m : Mach) (k : Nat) (f : CtlCore → CtlCore) : (updCtl m k f).tlb = m.tlb := rfl
@[simp] theorem updCtl_walks (m : Mach) (k : Nat) (f : CtlCore → CtlCore) : (updCtl m k f).walks = m.walks := rfl
@[simp] theorem updCtl_pending (m : Mach) (k : Nat) (f : CtlCore → CtlCore) : (updCtl m k f).pending = m.pending := rfl
@[simp] theorem updCtl_flight (m : Mach) (k : Nat) (f : CtlCore → CtlCore) : (updCtl m k f).flight = m.flight := rfl
@[simp] theorem updCtl_ops (m : Mach) (k : Nat) (f : CtlCore → CtlCore) : (updCtl m k f).ops = m.ops := rfl
@[simp] theorem updCtl_queues (m : Mach) (k : Nat) (f : CtlCore → CtlCore) : (updCtl m k f).queues = m.queues := rfl
@[simp] theorem updCtl_retries (m : Mach) (k : Nat) (f : CtlCore → CtlCore) : (updCtl m k f).retries = m.retries := rfl
@[simp] theorem updCtl_cur (m : Mach) (k : Nat) (f : CtlCore → CtlCore) : (updCtl m k f).cur = m.cur := rfl
@[simp] theorem updCtl_serial (m : Mach) (k : Nat) (f : CtlCore → CtlCore) : (updCtl m k f).serial = m.serial := rfl
@[simp] theorem updCtl_free (m : Mach) (k : Nat) (f : CtlCore → CtlCore) : (updCtl m k f).free = m.free := rfl
@[simp] theorem updCtl_prem (m : Mach) (k : Nat) (f : CtlCore → CtlCore) : (updCtl m k f).prem = m.prem := rfl
@[simp] theorem updCtl_acks (m : Mach) (k : Nat) (f : CtlCore → CtlCore) : (updCtl m k f).acks = m.acks := rfl
@[simp] theorem updCtl_past (m : Mach) (k : Nat) (f : CtlCore → CtlCore) : (updCtl m k f).past = m.past := rfl
@[simp] theorem updCtl_ctl (m : Mach) (k : Nat) (f : CtlCore → CtlCore) : (updCtl m k f).ctl = tset m.ctl k (f (ctlOf m k)) := rfl

/-! `pushLand` changes `pending` alone. -/

@[simp] theorem pushLand_mem (m : Mach) (l : Landing) : (pushLand m l).mem = m.mem := rfl
@[simp] theorem pushLand_bad (m : Mach) (l : Landing) : (pushLand m l).bad = m.bad := rfl
@[simp] theorem pushLand_frames (m : Mach) (l : Landing) : (pushLand m l).frames = m.frames := rfl
@[simp] theorem pushLand_hostLines (m : Mach) (l : Landing) : (pushLand m l).hostLines = m.hostLines := rfl
@[simp] theorem pushLand_groups (m : Mach) (l : Landing) : (pushLand m l).groups = m.groups := rfl
@[simp] theorem pushLand_scheds (m : Mach) (l : Landing) : (pushLand m l).scheds = m.scheds := rfl
@[simp] theorem pushLand_cores (m : Mach) (l : Landing) : (pushLand m l).cores = m.cores := rfl
@[simp] theorem pushLand_clusters (m : Mach) (l : Landing) : (pushLand m l).clusters = m.clusters := rfl
@[simp] theorem pushLand_dies (m : Mach) (l : Landing) : (pushLand m l).dies = m.dies := rfl
@[simp] theorem pushLand_teams (m : Mach) (l : Landing) : (pushLand m l).teams = m.teams := rfl
@[simp] theorem pushLand_entries (m : Mach) (l : Landing) : (pushLand m l).entries = m.entries := rfl
@[simp] theorem pushLand_grids (m : Mach) (l : Landing) : (pushLand m l).grids = m.grids := rfl
@[simp] theorem pushLand_copies (m : Mach) (l : Landing) : (pushLand m l).copies = m.copies := rfl
@[simp] theorem pushLand_flushes (m : Mach) (l : Landing) : (pushLand m l).flushes = m.flushes := rfl
@[simp] theorem pushLand_graphs (m : Mach) (l : Landing) : (pushLand m l).graphs = m.graphs := rfl
@[simp] theorem pushLand_tlb (m : Mach) (l : Landing) : (pushLand m l).tlb = m.tlb := rfl
@[simp] theorem pushLand_walks (m : Mach) (l : Landing) : (pushLand m l).walks = m.walks := rfl
@[simp] theorem pushLand_pending (m : Mach) (l : Landing) : (pushLand m l).pending = m.pending ++ [l] := rfl
@[simp] theorem pushLand_flight (m : Mach) (l : Landing) : (pushLand m l).flight = m.flight := rfl
@[simp] theorem pushLand_ops (m : Mach) (l : Landing) : (pushLand m l).ops = m.ops := rfl
@[simp] theorem pushLand_queues (m : Mach) (l : Landing) : (pushLand m l).queues = m.queues := rfl
@[simp] theorem pushLand_retries (m : Mach) (l : Landing) : (pushLand m l).retries = m.retries := rfl
@[simp] theorem pushLand_cur (m : Mach) (l : Landing) : (pushLand m l).cur = m.cur := rfl
@[simp] theorem pushLand_serial (m : Mach) (l : Landing) : (pushLand m l).serial = m.serial := rfl
@[simp] theorem pushLand_free (m : Mach) (l : Landing) : (pushLand m l).free = m.free := rfl
@[simp] theorem pushLand_prem (m : Mach) (l : Landing) : (pushLand m l).prem = m.prem := rfl
@[simp] theorem pushLand_acks (m : Mach) (l : Landing) : (pushLand m l).acks = m.acks := rfl
@[simp] theorem pushLand_past (m : Mach) (l : Landing) : (pushLand m l).past = m.past := rfl
@[simp] theorem pushLand_ctl (m : Mach) (l : Landing) : (pushLand m l).ctl = m.ctl := rfl

/-! `land` changes `pending` alone. -/

@[simp] theorem land_mem (m : Mach) (tm : Nat) (wr : List RegWr) (tok : List TokRef) : (land m tm wr tok).mem = m.mem := rfl
@[simp] theorem land_bad (m : Mach) (tm : Nat) (wr : List RegWr) (tok : List TokRef) : (land m tm wr tok).bad = m.bad := rfl
@[simp] theorem land_frames (m : Mach) (tm : Nat) (wr : List RegWr) (tok : List TokRef) : (land m tm wr tok).frames = m.frames := rfl
@[simp] theorem land_hostLines (m : Mach) (tm : Nat) (wr : List RegWr) (tok : List TokRef) : (land m tm wr tok).hostLines = m.hostLines := rfl
@[simp] theorem land_groups (m : Mach) (tm : Nat) (wr : List RegWr) (tok : List TokRef) : (land m tm wr tok).groups = m.groups := rfl
@[simp] theorem land_scheds (m : Mach) (tm : Nat) (wr : List RegWr) (tok : List TokRef) : (land m tm wr tok).scheds = m.scheds := rfl
@[simp] theorem land_cores (m : Mach) (tm : Nat) (wr : List RegWr) (tok : List TokRef) : (land m tm wr tok).cores = m.cores := rfl
@[simp] theorem land_clusters (m : Mach) (tm : Nat) (wr : List RegWr) (tok : List TokRef) : (land m tm wr tok).clusters = m.clusters := rfl
@[simp] theorem land_dies (m : Mach) (tm : Nat) (wr : List RegWr) (tok : List TokRef) : (land m tm wr tok).dies = m.dies := rfl
@[simp] theorem land_teams (m : Mach) (tm : Nat) (wr : List RegWr) (tok : List TokRef) : (land m tm wr tok).teams = m.teams := rfl
@[simp] theorem land_entries (m : Mach) (tm : Nat) (wr : List RegWr) (tok : List TokRef) : (land m tm wr tok).entries = m.entries := rfl
@[simp] theorem land_grids (m : Mach) (tm : Nat) (wr : List RegWr) (tok : List TokRef) : (land m tm wr tok).grids = m.grids := rfl
@[simp] theorem land_copies (m : Mach) (tm : Nat) (wr : List RegWr) (tok : List TokRef) : (land m tm wr tok).copies = m.copies := rfl
@[simp] theorem land_flushes (m : Mach) (tm : Nat) (wr : List RegWr) (tok : List TokRef) : (land m tm wr tok).flushes = m.flushes := rfl
@[simp] theorem land_graphs (m : Mach) (tm : Nat) (wr : List RegWr) (tok : List TokRef) : (land m tm wr tok).graphs = m.graphs := rfl
@[simp] theorem land_tlb (m : Mach) (tm : Nat) (wr : List RegWr) (tok : List TokRef) : (land m tm wr tok).tlb = m.tlb := rfl
@[simp] theorem land_walks (m : Mach) (tm : Nat) (wr : List RegWr) (tok : List TokRef) : (land m tm wr tok).walks = m.walks := rfl
@[simp] theorem land_pending (m : Mach) (tm : Nat) (wr : List RegWr) (tok : List TokRef) : (land m tm wr tok).pending = m.pending ++ [{ tm := tm, wr := wr, tok := tok, wake := [] }] := rfl
@[simp] theorem land_flight (m : Mach) (tm : Nat) (wr : List RegWr) (tok : List TokRef) : (land m tm wr tok).flight = m.flight := rfl
@[simp] theorem land_ops (m : Mach) (tm : Nat) (wr : List RegWr) (tok : List TokRef) : (land m tm wr tok).ops = m.ops := rfl
@[simp] theorem land_queues (m : Mach) (tm : Nat) (wr : List RegWr) (tok : List TokRef) : (land m tm wr tok).queues = m.queues := rfl
@[simp] theorem land_retries (m : Mach) (tm : Nat) (wr : List RegWr) (tok : List TokRef) : (land m tm wr tok).retries = m.retries := rfl
@[simp] theorem land_cur (m : Mach) (tm : Nat) (wr : List RegWr) (tok : List TokRef) : (land m tm wr tok).cur = m.cur := rfl
@[simp] theorem land_serial (m : Mach) (tm : Nat) (wr : List RegWr) (tok : List TokRef) : (land m tm wr tok).serial = m.serial := rfl
@[simp] theorem land_free (m : Mach) (tm : Nat) (wr : List RegWr) (tok : List TokRef) : (land m tm wr tok).free = m.free := rfl
@[simp] theorem land_prem (m : Mach) (tm : Nat) (wr : List RegWr) (tok : List TokRef) : (land m tm wr tok).prem = m.prem := rfl
@[simp] theorem land_acks (m : Mach) (tm : Nat) (wr : List RegWr) (tok : List TokRef) : (land m tm wr tok).acks = m.acks := rfl
@[simp] theorem land_past (m : Mach) (tm : Nat) (wr : List RegWr) (tok : List TokRef) : (land m tm wr tok).past = m.past := rfl
@[simp] theorem land_ctl (m : Mach) (tm : Nat) (wr : List RegWr) (tok : List TokRef) : (land m tm wr tok).ctl = m.ctl := rfl

/-! `withMach` and `mapM` change the machine part alone. -/

@[simp] theorem withMach_m (s : State) (m : Mach) : (s.withMach m).m = m := rfl
@[simp] theorem withMach_sys (s : State) (m : Mach) : (s.withMach m).sys = s.sys := rfl
@[simp] theorem withMach_clk (s : State) (m : Mach) : (s.withMach m).clk = s.clk := rfl
@[simp] theorem withMach_env (s : State) (m : Mach) : (s.withMach m).env = s.env := rfl
@[simp] theorem mapM_m (s : State) (f : Env → Mach → Mach) : (s.mapM f).m = f s.env s.m := rfl
@[simp] theorem mapM_sys (s : State) (f : Env → Mach → Mach) : (s.mapM f).sys = s.sys := rfl
@[simp] theorem mapM_clk (s : State) (f : Env → Mach → Mach) : (s.mapM f).clk = s.clk := rfl
@[simp] theorem mapM_env (s : State) (f : Env → Mach → Mach) : (s.mapM f).env = s.env := rfl

/-! Reads after updates. -/

theorem grpOf_updGrp (m : Mach) (g h : Nat) (f : Group → Group) (k : (tget m.groups h).isSome = true) :
    grpOf (updGrp m g f) h = if h = g then f (grpOf m h) else grpOf m h := by
  obtain ⟨a, ha⟩ := Option.isSome_iff_exists.mp k
  simp only [grpOf, updGrp_groups, tget_tupd, ha]
  split <;> simp

theorem teamOf_updTeam (m : Mach) (t u : Nat) (f : Team → Team) (k : (tget m.teams u).isSome = true) :
    teamOf (updTeam m t f) u = if u = t then f (teamOf m u) else teamOf m u := by
  obtain ⟨a, ha⟩ := Option.isSome_iff_exists.mp k
  simp only [teamOf, updTeam_teams, tget_tupd, ha]
  split <;> simp

@[simp] theorem coreOf_updCore_self (m : Mach) (c : Nat) (f : Core → Core) : coreOf (updCore m c f) c = f (coreOf m c) := by simp [coreOf]

@[simp] theorem clusOf_updClus_self (m : Mach) (c : Nat) (f : Cluster → Cluster) : clusOf (updClus m c f) c = f (clusOf m c) := by simp [clusOf]

@[simp] theorem dieOf_updDie_self (m : Mach) (d : Nat) (f : Die → Die) : dieOf (updDie m d f) d = f (dieOf m d) := by simp [dieOf]

@[simp] theorem schedOf_updSched_self (m : Mach) (k : Nat) (f : Sched → Sched) : schedOf (updSched m k f) k = f (schedOf m k) := by simp [schedOf]

@[simp] theorem entOf_updEnt_self (m : Mach) (k : Nat) (f : Entry → Entry) : entOf (updEnt m k f) k = f (entOf m k) := by simp [entOf]

@[simp] theorem ctlOf_updCtl_self (m : Mach) (k : Nat) (f : CtlCore → CtlCore) : ctlOf (updCtl m k f) k = f (ctlOf m k) := by simp [ctlOf]

/-- Two updates of one die are one. -/
theorem updDie_updDie (m : Mach) (d : Nat) (f g : Die → Die) : updDie (updDie m d f) d g = updDie m d (fun x => g (f x)) := by
  simp only [updDie, dieOf, tget_tset_self, tset_tset, Option.getD_some]

theorem updCore_updCore (m : Mach) (c : Nat) (f g : Core → Core) : updCore (updCore m c f) c g = updCore m c (fun x => g (f x)) := by
  simp only [updCore, coreOf, tget_tset_self, tset_tset, Option.getD_some]


end Sys2Proof.Machine
end

