-- ==== Sys2Proof/Laws/Memory.lean ====
section
/-! SUPPORT. The memory's canonical form, kept by every operation on it, and what reads after a write. -/
namespace Sys2Proof.Machine
open Sys2Proof

/-- No entry of a memory lies at or below `a`. -/
def Above (mem : Memory) (a : Nat) : Prop := ∀ x ∈ mem, a < x.1

/-- The canonical form, one entry at a time. -/
theorem wf_cons (k : Nat) (b : Byte) (r : Memory) : Memory.wf ((k, b) :: r) = true ↔ b ≠ 0 ∧ Above r k ∧ Memory.wf r = true := by
  induction r generalizing k b with
  | nil => simp [Memory.wf, Above]
  | cons x r ih =>
    obtain ⟨j, c⟩ := x
    simp only [Memory.wf, Bool.and_eq_true, decide_eq_true_eq, bne_iff_ne, ne_eq]
    constructor
    · rintro ⟨⟨h1, h2⟩, h3⟩
      refine ⟨h1, ?_, h3⟩
      intro y hy
      rcases List.mem_cons.mp hy with rfl | hy
      · exact h2
      · exact Nat.lt_trans h2 (((ih j c).mp h3).2.1 y hy)
    · rintro ⟨h1, h2, h3⟩
      exact ⟨⟨h1, h2 (j, c) (List.mem_cons_self)⟩, h3⟩

@[simp] theorem wf_nil : Memory.wf [] = true := rfl

theorem memGet_above (mem : Memory) (a : Nat) (h : Above mem a) : memGet mem a = 0 := by
  induction mem with
  | nil => rfl
  | cons x r ih =>
    obtain ⟨k, b⟩ := x
    have hk : a < k := h (k, b) (List.mem_cons_self)
    rw [memGet, if_neg (by omega)]
    exact ih (fun y hy => h y (List.mem_cons_of_mem _ hy))

theorem above_memSet (mem : Memory) (a k : Nat) (b : Byte) (h : Above mem k) (hk : k < a) : Above (memSet mem a b) k := by
  induction mem with
  | nil =>
    simp only [memSet]
    split
    · intro y hy; cases hy
    · intro y hy; rw [List.mem_singleton.mp hy]; exact hk
  | cons x r ih =>
    obtain ⟨j, c⟩ := x
    have hj : k < j := h (j, c) (List.mem_cons_self)
    have hr : Above r k := fun y hy => h y (List.mem_cons_of_mem _ hy)
    simp only [memSet]
    split
    · split
      · exact h
      · intro y hy
        rcases List.mem_cons.mp hy with rfl | hy
        · exact hk
        · exact h y hy
    · split
      · split
        · exact hr
        · intro y hy
          rcases List.mem_cons.mp hy with rfl | hy
          · exact hk
          · exact hr y hy
      · intro y hy
        rcases List.mem_cons.mp hy with rfl | hy
        · exact hj
        · exact ih hr y hy

/-- A write of one byte keeps the canonical form. -/
theorem memSet_wf (mem : Memory) (a : Nat) (b : Byte) (h : Memory.wf mem = true) : Memory.wf (memSet mem a b) = true := by
  induction mem with
  | nil =>
    simp only [memSet]
    split
    · rfl
    · rename_i hb
      rw [wf_cons]
      exact ⟨hb, fun y hy => (by cases hy), rfl⟩
  | cons x r ih =>
    obtain ⟨k, c⟩ := x
    obtain ⟨h1, h2, h3⟩ := (wf_cons k c r).mp h
    simp only [memSet]
    split
    · rename_i ha
      split
      · exact h
      · rename_i hb
        rw [wf_cons]
        refine ⟨hb, ?_, h⟩
        intro y hy
        rcases List.mem_cons.mp hy with rfl | hy
        · exact ha
        · exact Nat.lt_trans ha (h2 y hy)
    · split
      · rename_i ha
        split
        · exact h3
        · rename_i hb
          rw [wf_cons]
          exact ⟨hb, by rw [ha]; exact h2, h3⟩
      · rw [wf_cons]
        exact ⟨h1, above_memSet r a k b h2 (by omega), ih h3⟩

/-- A byte that was written reads as written, and every other byte as before. -/
theorem memGet_memSet (mem : Memory) (a a' : Nat) (b : Byte) (h : Memory.wf mem = true) : memGet (memSet mem a b) a' = if a' = a then b else memGet mem a' := by
  induction mem with
  | nil =>
    simp only [memSet]
    split
    · rename_i hb
      simp only [memGet, hb, ite_self]
    · simp only [memGet]
  | cons x r ih =>
    obtain ⟨k, c⟩ := x
    obtain ⟨h1, h2, h3⟩ := (wf_cons k c r).mp h
    simp only [memSet]
    split
    · rename_i ha
      split
      · rename_i hb
        by_cases he : a' = a
        · rw [if_pos he, hb]
          refine memGet_above _ _ ?_
          intro y hy
          rcases List.mem_cons.mp hy with rfl | hy
          · show a' < k; omega
          · have := h2 y hy; omega
        · rw [if_neg he]
      · simp only [memGet]
    · split
      · rename_i ha
        split
        · rename_i hb
          by_cases he : a' = a
          · rw [if_pos he, hb]
            exact memGet_above _ _ (fun y hy => by have := h2 y hy; omega)
          · rw [if_neg he, memGet, if_neg (by omega)]
        · simp only [memGet]
          by_cases he : a' = a
          · simp [he]
          · rw [if_neg he, if_neg he, if_neg (by omega)]
      · simp only [memGet]
        by_cases he : a' = k
        · rw [if_pos he, if_neg (by omega), if_pos he]
        · rw [if_neg he, ih h3, if_neg he]

/-- A write of bytes keeps the canonical form. -/
theorem memWrite_wf (l : List Byte) (mem : Memory) (a : Nat) (h : Memory.wf mem = true) : Memory.wf (memWrite mem a l) = true := by
  induction l generalizing mem a with
  | nil => exact h
  | cons b r ih => exact ih _ _ (memSet_wf mem a b h)

/-- What reads after a write of bytes. -/
theorem memGet_memWrite (l : List Byte) (mem : Memory) (a a' : Nat) (h : Memory.wf mem = true) :
    memGet (memWrite mem a l) a' = if a ≤ a' then (l[a' - a]?).getD (memGet mem a') else memGet mem a' := by
  induction l generalizing mem a with
  | nil => simp [memWrite]
  | cons b r ih =>
    rw [memWrite, ih _ _ (memSet_wf mem a b h), memGet_memSet mem a a' b h]
    by_cases h1 : a + 1 ≤ a'
    · have h2 : a ≤ a' := by omega
      have h3 : a' ≠ a := by omega
      have h4 : a' - a = (a' - (a + 1)) + 1 := by omega
      rw [if_pos h1, if_pos h2, if_neg h3, h4, List.getElem?_cons_succ]
    · by_cases h2 : a' = a
      · subst h2
        rw [if_neg h1, if_pos (Nat.le_refl _), if_pos rfl, Nat.sub_self, List.getElem?_cons_zero, Option.getD_some]
      · rw [if_neg h1, if_neg h2, if_neg (by omega)]

/-- A byte outside the bytes written reads as before. -/
theorem memGet_memWrite_out (l : List Byte) (mem : Memory) (a a' : Nat) (h : Memory.wf mem = true) (o : a' < a ∨ a + l.length ≤ a') :
    memGet (memWrite mem a l) a' = memGet mem a' := by
  rw [memGet_memWrite l mem a a' h]
  split
  · rw [List.getElem?_eq_none (by omega), Option.getD_none]
  · rfl

/-- Leaving out entries keeps the canonical form. -/
theorem wf_filter (p : Nat × Byte → Bool) (mem : Memory) (h : Memory.wf mem = true) : Memory.wf (mem.filter p) = true := by
  induction mem with
  | nil => rfl
  | cons x r ih =>
    obtain ⟨k, c⟩ := x
    obtain ⟨h1, h2, h3⟩ := (wf_cons k c r).mp h
    rw [List.filter_cons]
    split
    · rw [wf_cons]
      exact ⟨h1, fun y hy => h2 y (List.mem_filter.mp hy).1, ih h3⟩
    · exact ih h3

theorem reset_wf : Memory.wf State.reset.m.mem = true := rfl

/-! Operations of the machine: each keeps the canonical form. -/

theorem touchFrame_mem (z : Bool) (m : Mach) (f : Nat) : (touchFrame z m f).mem = m.mem := rfl

theorem touchFrames_mem (z : Bool) (fs : List Nat) (m : Mach) : (fs.foldl (touchFrame z) m).mem = m.mem := by
  induction fs generalizing m with
  | nil => rfl
  | cons f r ih => rw [List.foldl_cons, ih, touchFrame_mem]

/-- A store at a home writes its bytes. -/
theorem storeAt_mem (m : Mach) (sa : Nat) (data : List Byte) (aon : Bool) : (storeAt m sa data aon).mem = memWrite m.mem sa data := by
  rw [storeAt, touchFrames_mem]

theorem storeAt_wf (m : Mach) (sa : Nat) (data : List Byte) (aon : Bool) (h : Memory.wf m.mem = true) : Memory.wf (storeAt m sa data aon).mem = true := by
  rw [storeAt_mem]
  exact memWrite_wf _ _ _ h

theorem foldRuns_wf (f : Mach → Nat × List Byte → Mach) (hf : ∀ m r, (f m r).mem = memWrite m.mem r.1 r.2) (rs : List (Nat × List Byte)) (m : Mach)
    (h : Memory.wf m.mem = true) : Memory.wf (rs.foldl f m).mem = true := by
  induction rs generalizing m with
  | nil => exact h
  | cons r s ih => exact ih _ (by rw [hf]; exact memWrite_wf _ _ _ h)

/-- Keeping ALLOW of the hand queues keeps the canonical form. -/
theorem keepAllow_wf (e : Env) (m : Mach) (rows : List (Nat × List Byte)) (h : Memory.wf m.mem = true) : Memory.wf (keepAllow e m rows).mem = true := by
  unfold keepAllow
  generalize (queueHdrs e m).filter _ = hs
  induction hs generalizing m with
  | nil => exact h
  | cons a r ih => exact ih _ (memSet_wf _ _ _ h)

/-- A store of a thread keeps the canonical form. -/
theorem threadStore_wf (e : Env) (m : Mach) (rows : List (Nat × List Byte)) (aon : Bool) (h : Memory.wf m.mem = true) : Memory.wf (threadStore e m rows aon).mem = true := by
  unfold threadStore
  refine keepAllow_wf _ _ _ ?_
  split
  · simp only
    split
    · exact h
    · rw [touchFrame_mem]
      exact foldRuns_wf _ (fun _ _ => rfl) _ _ h
  · simp only
    rw [touchFrames_mem]
    exact foldRuns_wf _ (fun _ _ => rfl) _ _ h

/-- A write that lands keeps the canonical form. -/
theorem applyWr_wf (m : Mach) (w : RegWr) (h : Memory.wf m.mem = true) : Memory.wf (applyWr m w).mem = true := by
  cases w
  case tile c k off b => exact memWrite_wf _ _ _ h
  case x g l n x run =>
    simp only [applyWr]
    split <;> exact h
  all_goals exact h

theorem logEntry_wf (e : Env) (m : Mach) (team core ix words : Nat) (h : Memory.wf m.mem = true) : Memory.wf (logEntry e m team core ix words).mem = true := by
  unfold logEntry
  simp only
  split
  · exact h
  · split
    · exact storeAt_wf _ _ _ _ h
    · exact h

/-- A new poison keeps the canonical form: its log entry is a store. -/
theorem genPoison_wf (e : Env) (m : Mach) (g lane pc kind addr : Nat) (h : Memory.wf m.mem = true) : Memory.wf (genPoison e m g lane pc kind addr).1.mem = true := by
  unfold genPoison
  exact logEntry_wf _ _ _ _ _ _ h

theorem poisonVal_wf (e : Env) (m : Mach) (g lane pc kind addr : Nat) (ty : NTy) (h : Memory.wf m.mem = true) :
    Memory.wf (poisonVal e m g lane pc kind addr ty).1.mem = true := genPoison_wf e m g lane pc kind addr h

/-- Reading an operand keeps the canonical form. -/
theorem readOp_wf (e : Env) (m : Mach) (c : Ctx) (ty : NTy) (o : Opnd) (h : Memory.wf m.mem = true) : Memory.wf (readOp e m c ty o).1.mem = true := by
  cases o
  case x n =>
    simp only [readOp]
    split
    · exact h
    · exact poisonVal_wf _ _ _ _ _ _ _ _ h
  all_goals exact h

end Sys2Proof.Machine
end

