-- ==== Sys2Proof/Laws/Ops.lean ====
section
/-! SUPPORT. What each shared operation can do, said once, so that no later proof unfolds it. -/
namespace Sys2Proof.Machine
open Sys2Proof

/-! Poison and its log. -/

/-- Without a log a new poison only takes the team's next index (05 R148). -/
theorem genPoison_quiet (e : Env) (m : Mach) (g lane pc kind addr : Nat) (h : (teamOf m (grpOf m g).team).polb = 0) :
    genPoison e m g lane pc kind addr =
      (updTeam m (grpOf m g).team (fun t => { t with logix := (t.logix + 1) % 2 ^ 18 }), (teamOf m (grpOf m g).team).logix) := by
  have k : (teamOf (updTeam m (grpOf m g).team (fun t => { t with logix := (t.logix + 1) % 2 ^ 18 })) (grpOf m g).team).polb = 0 := by
    simp only [teamOf, updTeam_teams, tget_tupd, ↓reduceIte]
    cases r : tget m.teams (grpOf m g).team with
    | none => rfl
    | some t =>
      simp only [teamOf, r, Option.getD_some] at h
      exact h
  simp only [genPoison, logEntry, k, decide_true, Bool.true_or, ↓reduceIte]

/-- An operand that is no latch is read without any effect (06 R183). -/
theorem readOp_mach (e : Env) (m : Mach) (c : Ctx) (ty : NTy) (o : Opnd) (h : isX o = false) : (readOp e m c ty o).1 = m := by
  cases o <;> first | rfl | (simp [isX] at h)

/-- A valid latch of a 32-bit type is read without any effect (01 R39). -/
theorem readOp_latch (e : Env) (m : Mach) (c : Ctx) (ty : NTy) (n : BitVec 3) (a : Nat) (hw : tyBits ty ≠ 64) (h : latchV m c n.toNat = some a) :
    readOp e m c ty (.x n) = (m, a % 2 ^ tyBits ty) := by
  simp only [readOp, h, hw, ↓reduceIte, Nat.mul_zero, Nat.add_zero]

/-- An invalid latch gives new poison and sets LATCH (01 R40). -/
theorem readOp_noLatch (e : Env) (m : Mach) (c : Ctx) (ty : NTy) (n : BitVec 3) (h : latchV m c n.toNat = none) :
    readOp e m c ty (.x n) = poisonVal e (setCause m c.g cLATCH) c.g c.lane c.pc 3 0 ty := by
  simp only [readOp, h]

/-! Taking an exception. -/

/-- A cause parks a thread that is not in handler mode and finds its vector (16 R363). -/
theorem raise_parks (e : Env) (m : Mach) (g lane cause faddr info spc ipc prog : Nat) (psolo : Bool) (h1 : (thrOf m g lane).hm = false)
    (h2 : tvecOk e m (grpOf m g).core (teamOf m (grpOf m g).team).part = true) :
    raise e m g lane cause faddr info spc ipc prog psolo = updThr (setCause m g cause) g lane (trapThr e.now cause faddr info spc prog psolo) := by
  simp only [raise, h1, h2, Bool.not_true, Bool.or_self, Bool.false_eq_true, ↓reduceIte]

/-- Any other is a double fault (16 R366). -/
theorem raise_double (e : Env) (m : Mach) (g lane cause faddr info spc ipc prog : Nat) (psolo : Bool)
    (h : (thrOf m g lane).hm = true ∨ tvecOk e m (grpOf m g).core (teamOf m (grpOf m g).team).part = false) :
    raise e m g lane cause faddr info spc ipc prog psolo = doubleFault e (setCause m g cause) g lane cause spc ipc faddr := by
  have k : ((thrOf m g lane).hm || !tvecOk e m (grpOf m g).core (teamOf m (grpOf m g).team).part) = true := by
    rcases h with h | h <;> simp [h]
  simp only [raise, k, ↓reduceIte]

/-- A cause leaves the record of the thread with its number in the lowest bits of word 5 (16 R364). -/
theorem trapRecord_length (t : Thread) (cause faddr info spc prog : Nat) (psolo : Bool) : (trapRecord t cause faddr info spc prog psolo).length = 16 := by
  simp [trapRecord]

/-! Addresses. -/

/-- An address that passes lies in range, is aligned, and translates (08 R223). -/
theorem checkAddr_ok (e : Env) (m : Mach) (c : Ctx) (ea : Int) (al len kind : Nat) (b64 : Bool) (sa : Nat) (h : checkAddr e m c ea al len kind b64 = .ok sa) :
    0 ≤ ea ∧ ea < 2 ^ 56 ∧ ea.toNat % al = 0 ∧ xlate e m c.core c.part ea.toNat len kind b64 = .ok sa := by
  simp only [checkAddr] at h
  split at h
  · cases h
  · rename_i h1
    split at h
    · cases h
    · rename_i h2
      refine ⟨by omega, by omega, by omega, ?_⟩
      split at h
      · rename_i x hx
        cases h
        exact hx
      all_goals first | cases h | (split at h <;> cases h)

/-- An address outside the 56 bits raises RANGE with its low bits (06 R176). -/
theorem checkAddr_range (e : Env) (m : Mach) (c : Ctx) (ea : Int) (al len kind : Nat) (b64 : Bool) (h : ea < 0 ∨ 2 ^ 56 ≤ ea) :
    checkAddr e m c ea al len kind b64 = .stop (.cause cRANGE (lowBits 56 ea) 0 false 0) := by
  simp only [checkAddr, h, ↓reduceIte]

/-- An address that is not aligned raises MISAL (03 R82). -/
theorem checkAddr_misal (e : Env) (m : Mach) (c : Ctx) (a al len kind : Nat) (b64 : Bool) (h1 : a < 2 ^ 56) (h2 : a % al ≠ 0) :
    checkAddr e m c (a : Int) al len kind b64 = .stop (.cause cMISAL a 0 false 0) := by
  have k : ¬ ((a : Int) < 0 ∨ (2 ^ 56 : Int) ≤ (a : Int)) := by omega
  simp only [checkAddr, k, ↓reduceIte, Int.toNat_natCast, h2, ne_eq, not_false_eq_true]

/-! Messages and operations. -/

/-- A message joins those in flight; beside it only the issuing die's vector clock and the counters change (03 R104, 04 R116). -/
theorem send_flight (e : Env) (m : Mach) (src dst : Nat) (rc : Bool) (thr : Option TRef) (who : List Nat) (scope : Nat) (acq rel wr : Bool) (op : Nat) (b : Body) :
    ∃ x, (send e m src dst rc thr who scope acq rel wr op b).flight = m.flight ++ [x] ∧ x.id = m.serial ∧ x.src = src ∧ x.dst = dst ∧ x.body = b ∧ x.thr = thr ∧ x.op = op ∧
      x.who = who ∧ x.scope = scope ∧ x.acq = acq ∧ x.rel = rel ∧ x.wr = wr := ⟨_, rfl, rfl, rfl, rfl, rfl, rfl, rfl, rfl, rfl, rfl, rfl, rfl⟩

@[simp] theorem send_mem (e : Env) (m : Mach) (src dst : Nat) (rc : Bool) (thr : Option TRef) (who : List Nat) (scope : Nat) (acq rel wr : Bool) (op : Nat) (b : Body) :
    (send e m src dst rc thr who scope acq rel wr op b).mem = m.mem := rfl

@[simp] theorem send_groups (e : Env) (m : Mach) (src dst : Nat) (rc : Bool) (thr : Option TRef) (who : List Nat) (scope : Nat) (acq rel wr : Bool) (op : Nat) (b : Body) :
    (send e m src dst rc thr who scope acq rel wr op b).groups = m.groups := rfl

@[simp] theorem send_teams (e : Env) (m : Mach) (src dst : Nat) (rc : Bool) (thr : Option TRef) (who : List Nat) (scope : Nat) (acq rel wr : Bool) (op : Nat) (b : Body) :
    (send e m src dst rc thr who scope acq rel wr op b).teams = m.teams := rfl

@[simp] theorem send_frames (e : Env) (m : Mach) (src dst : Nat) (rc : Bool) (thr : Option TRef) (who : List Nat) (scope : Nat) (acq rel wr : Bool) (op : Nat) (b : Body) :
    (send e m src dst rc thr who scope acq rel wr op b).frames = m.frames := rfl

/-- The last part of an operation lets its result land, at the latest clock that a part asked for (06 R182). -/
theorem closePart_last (m : Mach) (op tm : Nat) (wr : List RegWr) (wake : List TRef) (o : Op) (h : tget m.ops op = some o) (k : o.left = 1) :
    closePart m op tm wr wake =
      pushLand { m with ops := tdel m.ops op } { o.land with tm := max o.tm tm, wr := o.land.wr ++ wr, wake := o.land.wake ++ wake } := by
  simp only [closePart, h, k, Nat.sub_self, ↓reduceIte]

/-- An earlier part only adds what it delivers. -/
theorem closePart_more (m : Mach) (op tm : Nat) (wr : List RegWr) (wake : List TRef) (o : Op) (h : tget m.ops op = some o) (k : 2 ≤ o.left) :
    closePart m op tm wr wake = { m with ops := tset m.ops op { left := o.left - 1, tm := max o.tm tm, land := { o.land with wr := o.land.wr ++ wr, wake := o.land.wake ++ wake } } } := by
  have n : ¬ o.left - 1 = 0 := by omega
  simp only [closePart, h, n, ↓reduceIte]

/-! Landing. -/

/-- A vector write that was not lent away sets its register and no other (01 R37, 08 R257). -/
theorem applyWr_v (m : Mach) (g l n : Nat) (x : Word) (sn : Nat) :
    applyWr m (.v g l n x sn) = updThr m g l (fun t => if lentAway t n sn then t else { t with v := setAt t.v n x }) := rfl

theorem applyWr_s (m : Mach) (g n : Nat) (x : Word) : applyWr m (.s g n x) = updGrp m g (fun a => { a with s := setAt a.s n x }) := rfl

/-- A landing with nothing to deliver changes nothing. -/
theorem applyLanding_nil (m : Mach) (tm : Nat) : applyLanding m { tm := tm, wr := [], tok := [], wake := [] } = m := rfl

end Sys2Proof.Machine
end

