-- ==== Sys2Proof/Laws/PerInstr.lean ====
section
/-! SUPPORT. Statements made of every instruction, one lemma per constructor. -/

namespace Sys2Proof.Laws.EncodedLength
open Sys2Proof

/-- An instruction with an opcode has a format and as many slots as the opcode takes (06 R164, R175, R177); a step of the device has no slots. -/
def Statement (i : Instr) : Prop :=
  match opOf i with
  | some op => op < 256 ∧ (fmtOf op).isSome = true ∧ (encode i).length = slotsOf op
  | none => encode i = []

theorem add (h : Hdr) (o : FA) : Statement (.add h o) := ⟨by decide, Eq.refl _, Eq.refl _⟩
theorem sub (h : Hdr) (o : FA) : Statement (.sub h o) := ⟨by decide, Eq.refl _, Eq.refl _⟩
theorem mul (h : Hdr) (o : FA) : Statement (.mul h o) := ⟨by decide, Eq.refl _, Eq.refl _⟩
theorem mulh (h : Hdr) (o : FA) : Statement (.mulh h o) := ⟨by decide, Eq.refl _, Eq.refl _⟩
theorem mad (h : Hdr) (o : FA) : Statement (.mad h o) := ⟨by decide, Eq.refl _, Eq.refl _⟩
theorem div (h : Hdr) (o : FA) : Statement (.div h o) := ⟨by decide, Eq.refl _, Eq.refl _⟩
theorem rem (h : Hdr) (o : FA) : Statement (.rem h o) := ⟨by decide, Eq.refl _, Eq.refl _⟩
theorem neg (h : Hdr) (o : FA) : Statement (.neg h o) := ⟨by decide, Eq.refl _, Eq.refl _⟩
theorem abs (h : Hdr) (o : FA) : Statement (.abs h o) := ⟨by decide, Eq.refl _, Eq.refl _⟩
theorem min (h : Hdr) (o : FA) : Statement (.min h o) := ⟨by decide, Eq.refl _, Eq.refl _⟩
theorem max (h : Hdr) (o : FA) : Statement (.max h o) := ⟨by decide, Eq.refl _, Eq.refl _⟩
theorem and (h : Hdr) (o : FA) : Statement (.and h o) := ⟨by decide, Eq.refl _, Eq.refl _⟩
theorem or (h : Hdr) (o : FA) : Statement (.or h o) := ⟨by decide, Eq.refl _, Eq.refl _⟩
theorem xor (h : Hdr) (o : FA) : Statement (.xor h o) := ⟨by decide, Eq.refl _, Eq.refl _⟩
theorem not (h : Hdr) (o : FA) : Statement (.not h o) := ⟨by decide, Eq.refl _, Eq.refl _⟩
theorem shl (h : Hdr) (o : FA) : Statement (.shl h o) := ⟨by decide, Eq.refl _, Eq.refl _⟩
theorem shr (h : Hdr) (o : FA) : Statement (.shr h o) := ⟨by decide, Eq.refl _, Eq.refl _⟩
theorem sra (h : Hdr) (o : FA) : Statement (.sra h o) := ⟨by decide, Eq.refl _, Eq.refl _⟩
theorem rot (h : Hdr) (o : FA) : Statement (.rot h o) := ⟨by decide, Eq.refl _, Eq.refl _⟩
theorem clz (h : Hdr) (o : FA) : Statement (.clz h o) := ⟨by decide, Eq.refl _, Eq.refl _⟩
theorem popc (h : Hdr) (o : FA) : Statement (.popc h o) := ⟨by decide, Eq.refl _, Eq.refl _⟩
theorem brev (h : Hdr) (o : FA) : Statement (.brev h o) := ⟨by decide, Eq.refl _, Eq.refl _⟩
theorem bfx (h : Hdr) (o : FA) : Statement (.bfx h o) := ⟨by decide, Eq.refl _, Eq.refl _⟩
theorem bfi (h : Hdr) (o : FA) : Statement (.bfi h o) := ⟨by decide, Eq.refl _, Eq.refl _⟩
theorem cmp (h : Hdr) (o : FA) : Statement (.cmp h o) := ⟨by decide, Eq.refl _, Eq.refl _⟩
theorem sel (h : Hdr) (o : FA) : Statement (.sel h o) := ⟨by decide, Eq.refl _, Eq.refl _⟩
theorem lea (h : Hdr) (o : FA) : Statement (.lea h o) := ⟨by decide, Eq.refl _, Eq.refl _⟩
theorem addc (h : Hdr) (o : FA) : Statement (.addc h o) := ⟨by decide, Eq.refl _, Eq.refl _⟩
theorem movi (h : Hdr) (o : FI) : Statement (.movi h o) := ⟨by decide, Eq.refl _, Eq.refl _⟩
theorem movw (h : Hdr) (o : FW) : Statement (.movw h o) := ⟨by decide, Eq.refl _, Eq.refl _⟩
theorem cvt (h : Hdr) (o : FA) : Statement (.cvt h o) := ⟨by decide, Eq.refl _, Eq.refl _⟩
theorem mov (h : Hdr) (o : FA) : Statement (.mov h o) := ⟨by decide, Eq.refl _, Eq.refl _⟩
theorem fadd (h : Hdr) (o : FA) : Statement (.fadd h o) := ⟨by decide, Eq.refl _, Eq.refl _⟩
theorem fsub (h : Hdr) (o : FA) : Statement (.fsub h o) := ⟨by decide, Eq.refl _, Eq.refl _⟩
theorem fmul (h : Hdr) (o : FA) : Statement (.fmul h o) := ⟨by decide, Eq.refl _, Eq.refl _⟩
theorem fma (h : Hdr) (o : FA) : Statement (.fma h o) := ⟨by decide, Eq.refl _, Eq.refl _⟩
theorem fmin (h : Hdr) (o : FA) : Statement (.fmin h o) := ⟨by decide, Eq.refl _, Eq.refl _⟩
theorem fmax (h : Hdr) (o : FA) : Statement (.fmax h o) := ⟨by decide, Eq.refl _, Eq.refl _⟩
theorem fabs (h : Hdr) (o : FA) : Statement (.fabs h o) := ⟨by decide, Eq.refl _, Eq.refl _⟩
theorem fneg (h : Hdr) (o : FA) : Statement (.fneg h o) := ⟨by decide, Eq.refl _, Eq.refl _⟩
theorem fcmp (h : Hdr) (o : FA) : Statement (.fcmp h o) := ⟨by decide, Eq.refl _, Eq.refl _⟩
theorem fdiv (h : Hdr) (o : FA) : Statement (.fdiv h o) := ⟨by decide, Eq.refl _, Eq.refl _⟩
theorem fsqrt (h : Hdr) (o : FA) : Statement (.fsqrt h o) := ⟨by decide, Eq.refl _, Eq.refl _⟩
theorem frcp (h : Hdr) (o : FA) : Statement (.frcp h o) := ⟨by decide, Eq.refl _, Eq.refl _⟩
theorem frsq (h : Hdr) (o : FA) : Statement (.frsq h o) := ⟨by decide, Eq.refl _, Eq.refl _⟩
theorem fex2 (h : Hdr) (o : FA) : Statement (.fex2 h o) := ⟨by decide, Eq.refl _, Eq.refl _⟩
theorem flg2 (h : Hdr) (o : FA) : Statement (.flg2 h o) := ⟨by decide, Eq.refl _, Eq.refl _⟩
theorem fsin (h : Hdr) (o : FA) : Statement (.fsin h o) := ⟨by decide, Eq.refl _, Eq.refl _⟩
theorem fcos (h : Hdr) (o : FA) : Statement (.fcos h o) := ⟨by decide, Eq.refl _, Eq.refl _⟩
theorem frnd (h : Hdr) (o : FA) : Statement (.frnd h o) := ⟨by decide, Eq.refl _, Eq.refl _⟩
theorem fcls (h : Hdr) (o : FA) : Statement (.fcls h o) := ⟨by decide, Eq.refl _, Eq.refl _⟩
theorem fscl (h : Hdr) (o : FA) : Statement (.fscl h o) := ⟨by decide, Eq.refl _, Eq.refl _⟩
theorem fclp (h : Hdr) (o : FA) : Statement (.fclp h o) := ⟨by decide, Eq.refl _, Eq.refl _⟩
theorem fdot2 (h : Hdr) (o : FA) : Statement (.fdot2 h o) := ⟨by decide, Eq.refl _, Eq.refl _⟩
theorem fcvt (h : Hdr) (o : FA) : Statement (.fcvt h o) := ⟨by decide, Eq.refl _, Eq.refl _⟩
theorem nscl (h : Hdr) (o : FA) : Statement (.nscl h o) := ⟨by decide, Eq.refl _, Eq.refl _⟩
theorem npck (h : Hdr) (o : FA) : Statement (.npck h o) := ⟨by decide, Eq.refl _, Eq.refl _⟩
theorem nunp (h : Hdr) (o : FA) : Statement (.nunp h o) := ⟨by decide, Eq.refl _, Eq.refl _⟩
theorem ndot (h : Hdr) (o : FA) : Statement (.ndot h o) := ⟨by decide, Eq.refl _, Eq.refl _⟩
theorem pchk (h : Hdr) (o : FA) : Statement (.pchk h o) := ⟨by decide, Eq.refl _, Eq.refl _⟩
theorem pchkProv (h : Hdr) (o : FA) : Statement (.pchkProv h o) := ⟨by decide, Eq.refl _, Eq.refl _⟩
theorem pmrk (h : Hdr) (o : FA) : Statement (.pmrk h o) := ⟨by decide, Eq.refl _, Eq.refl _⟩
theorem pfix (h : Hdr) (o : FA) : Statement (.pfix h o) := ⟨by decide, Eq.refl _, Eq.refl _⟩
theorem plog (h : Hdr) (o : FA) : Statement (.plog h o) := ⟨by decide, Eq.refl _, Eq.refl _⟩
theorem shfl (h : Hdr) (o : FA) : Statement (.shfl h o) := ⟨by decide, Eq.refl _, Eq.refl _⟩
theorem vote (h : Hdr) (o : FA) : Statement (.vote h o) := ⟨by decide, Eq.refl _, Eq.refl _⟩
theorem blot (h : Hdr) (o : FA) : Statement (.blot h o) := ⟨by decide, Eq.refl _, Eq.refl _⟩
theorem redx (h : Hdr) (o : FA) : Statement (.redx h o) := ⟨by decide, Eq.refl _, Eq.refl _⟩
theorem scan (h : Hdr) (o : FA) : Statement (.scan h o) := ⟨by decide, Eq.refl _, Eq.refl _⟩
theorem sred (h : Hdr) (o : FA) : Statement (.sred h o) := ⟨by decide, Eq.refl _, Eq.refl _⟩
theorem rdl (h : Hdr) (o : FA) : Statement (.rdl h o) := ⟨by decide, Eq.refl _, Eq.refl _⟩
theorem wrl (h : Hdr) (o : FA) : Statement (.wrl h o) := ⟨by decide, Eq.refl _, Eq.refl _⟩
theorem mtch (h : Hdr) (o : FA) : Statement (.mtch h o) := ⟨by decide, Eq.refl _, Eq.refl _⟩
theorem getc (h : Hdr) (o : FA) : Statement (.getc h o) := ⟨by decide, Eq.refl _, Eq.refl _⟩
theorem setc (h : Hdr) (o : FA) : Statement (.setc h o) := ⟨by decide, Eq.refl _, Eq.refl _⟩
theorem getid (h : Hdr) (o : FA) : Statement (.getid h o) := ⟨by decide, Eq.refl _, Eq.refl _⟩
theorem clk (h : Hdr) (o : FA) : Statement (.clk h o) := ⟨by decide, Eq.refl _, Eq.refl _⟩
theorem bra (h : Hdr) (o : FC) : Statement (.bra h o) := ⟨by decide, Eq.refl _, Eq.refl _⟩
theorem brx (h : Hdr) (o : FC) : Statement (.brx h o) := ⟨by decide, Eq.refl _, Eq.refl _⟩
theorem call (h : Hdr) (o : FC) : Statement (.call h o) := ⟨by decide, Eq.refl _, Eq.refl _⟩
theorem cali (h : Hdr) (o : FC) : Statement (.cali h o) := ⟨by decide, Eq.refl _, Eq.refl _⟩
theorem ret (h : Hdr) (o : FC) : Statement (.ret h o) := ⟨by decide, Eq.refl _, Eq.refl _⟩
theorem cvb (h : Hdr) (o : FC) : Statement (.cvb h o) := ⟨by decide, Eq.refl _, Eq.refl _⟩
theorem cvbCur (h : Hdr) (o : FC) : Statement (.cvbCur h o) := ⟨by decide, Eq.refl _, Eq.refl _⟩
theorem cvw (h : Hdr) (o : FC) : Statement (.cvw h o) := ⟨by decide, Eq.refl _, Eq.refl _⟩
theorem exit (h : Hdr) (o : FC) : Statement (.exit h o) := ⟨by decide, Eq.refl _, Eq.refl _⟩
theorem yield (h : Hdr) (o : FC) : Statement (.yield h o) := ⟨by decide, Eq.refl _, Eq.refl _⟩
theorem nop (h : Hdr) (o : FC) : Statement (.nop h o) := ⟨by decide, Eq.refl _, Eq.refl _⟩
theorem loop (h : Hdr) (o : FC) : Statement (.loop h o) := ⟨by decide, Eq.refl _, Eq.refl _⟩
theorem ld (h : Hdr) (o : FM) : Statement (.ld h o) := ⟨by decide, Eq.refl _, Eq.refl _⟩
theorem st (h : Hdr) (o : FM) : Statement (.st h o) := ⟨by decide, Eq.refl _, Eq.refl _⟩
theorem ldt (h : Hdr) (o : FM) : Statement (.ldt h o) := ⟨by decide, Eq.refl _, Eq.refl _⟩
theorem stt (h : Hdr) (o : FM) : Statement (.stt h o) := ⟨by decide, Eq.refl _, Eq.refl _⟩
theorem ldv (h : Hdr) (o : FM) : Statement (.ldv h o) := ⟨by decide, Eq.refl _, Eq.refl _⟩
theorem pfx (h : Hdr) (o : FM) : Statement (.pfx h o) := ⟨by decide, Eq.refl _, Eq.refl _⟩
theorem atom (h : Hdr) (o : FM) : Statement (.atom h o) := ⟨by decide, Eq.refl _, Eq.refl _⟩
theorem cas (h : Hdr) (o : FM) : Statement (.cas h o) := ⟨by decide, Eq.refl _, Eq.refl _⟩
theorem red (h : Hdr) (o : FM) : Statement (.red h o) := ⟨by decide, Eq.refl _, Eq.refl _⟩
theorem rfl (h : Hdr) (o : FM) : Statement (.rfl h o) := ⟨by decide, Eq.refl _, Eq.refl _⟩
theorem fence (h : Hdr) (o : FM) : Statement (.fence h o) := ⟨by decide, Eq.refl _, Eq.refl _⟩
theorem mon (h : Hdr) (o : FM) : Statement (.mon h o) := ⟨by decide, Eq.refl _, Eq.refl _⟩
theorem mwt (h : Hdr) (o : FI) : Statement (.mwt h o) := ⟨by decide, Eq.refl _, Eq.refl _⟩
theorem qwait (h : Hdr) (o : FM) : Statement (.qwait h o) := ⟨by decide, Eq.refl _, Eq.refl _⟩
theorem wake (h : Hdr) (o : FM) : Statement (.wake h o) := ⟨by decide, Eq.refl _, Eq.refl _⟩
theorem bar (h : Hdr) (o : FA) : Statement (.bar h o) := ⟨by decide, Eq.refl _, Eq.refl _⟩
theorem bsc (h : Hdr) (o : FA) : Statement (.bsc h o) := ⟨by decide, Eq.refl _, Eq.refl _⟩
theorem arrvSet (h : Hdr) (o : FA) : Statement (.arrvSet h o) := ⟨by decide, Eq.refl _, Eq.refl _⟩
theorem arrvAdd (h : Hdr) (o : FA) : Statement (.arrvAdd h o) := ⟨by decide, Eq.refl _, Eq.refl _⟩
theorem awt (h : Hdr) (o : FA) : Statement (.awt h o) := ⟨by decide, Eq.refl _, Eq.refl _⟩
theorem qpush (h : Hdr) (o : FA) : Statement (.qpush h o) := ⟨by decide, Eq.refl _, Eq.refl _⟩
theorem qpop (h : Hdr) (o : FA) : Statement (.qpop h o) := ⟨by decide, Eq.refl _, Eq.refl _⟩
theorem lend (h : Hdr) (o : FA) : Statement (.lend h o) := ⟨by decide, Eq.refl _, Eq.refl _⟩
theorem claim (h : Hdr) (o : FA) : Statement (.claim h o) := ⟨by decide, Eq.refl _, Eq.refl _⟩
theorem send (h : Hdr) (o : FA) : Statement (.send h o) := ⟨by decide, Eq.refl _, Eq.refl _⟩
theorem cpy (h : Hdr) (o : FE) : Statement (.cpy h o) := ⟨by decide, Eq.refl _, Eq.refl _⟩
theorem cpym (h : Hdr) (o : FE) : Statement (.cpym h o) := ⟨by decide, Eq.refl _, Eq.refl _⟩
theorem rfet (h : Hdr) (o : FE) : Statement (.rfet h o) := ⟨by decide, Eq.refl _, Eq.refl _⟩
theorem rfett (h : Hdr) (o : FE) : Statement (.rfett h o) := ⟨by decide, Eq.refl _, Eq.refl _⟩
theorem cseal (h : Hdr) (o : FE) : Statement (.cseal h o) := ⟨by decide, Eq.refl _, Eq.refl _⟩
theorem mma (h : Hdr) (o : FA) : Statement (.mma h o) := ⟨by decide, Eq.refl _, Eq.refl _⟩
theorem mmsp (h : Hdr) (o : FA) : Statement (.mmsp h o) := ⟨by decide, Eq.refl _, Eq.refl _⟩
theorem tzro (h : Hdr) (o : FA) : Statement (.tzro h o) := ⟨by decide, Eq.refl _, Eq.refl _⟩
theorem tmov (h : Hdr) (o : FA) : Statement (.tmov h o) := ⟨by decide, Eq.refl _, Eq.refl _⟩
theorem kbnd (h : Hdr) (o : FA) : Statement (.kbnd h o) := ⟨by decide, Eq.refl _, Eq.refl _⟩
theorem trmxGet (h : Hdr) (o : FA) : Statement (.trmxGet h o) := ⟨by decide, Eq.refl _, Eq.refl _⟩
theorem trmxPut (h : Hdr) (o : FA) : Statement (.trmxPut h o) := ⟨by decide, Eq.refl _, Eq.refl _⟩
theorem ralc (h : Hdr) (o : FA) : Statement (.ralc h o) := ⟨by decide, Eq.refl _, Eq.refl _⟩
theorem rput (h : Hdr) (o : FA) : Statement (.rput h o) := ⟨by decide, Eq.refl _, Eq.refl _⟩
theorem rputIn (h : Hdr) (o : FA) : Statement (.rputIn h o) := ⟨by decide, Eq.refl _, Eq.refl _⟩
theorem rget (h : Hdr) (o : FA) : Statement (.rget h o) := ⟨by decide, Eq.refl _, Eq.refl _⟩
theorem rdon (h : Hdr) (o : FA) : Statement (.rdon h o) := ⟨by decide, Eq.refl _, Eq.refl _⟩
theorem rsd (h : Hdr) (o : FA) : Statement (.rsd h o) := ⟨by decide, Eq.refl _, Eq.refl _⟩
theorem post (h : Hdr) (o : FA) : Statement (.post h o) := ⟨by decide, Eq.refl _, Eq.refl _⟩
theorem snap (h : Hdr) (o : FA) : Statement (.snap h o) := ⟨by decide, Eq.refl _, Eq.refl _⟩
theorem nest (h : Hdr) (o : FL) : Statement (.nest h o) := ⟨by decide, Eq.refl _, Eq.refl _⟩
theorem nred (h : Hdr) (o : FL) : Statement (.nred h o) := ⟨by decide, Eq.refl _, Eq.refl _⟩
theorem xcon (h : Hdr) (o : FE) : Statement (.xcon h o) := ⟨by decide, Eq.refl _, Eq.refl _⟩
theorem trap (h : Hdr) (o : FS) : Statement (.trap h o) := ⟨by decide, Eq.refl _, Eq.refl _⟩
theorem tret (h : Hdr) (o : FS) : Statement (.tret h o) := ⟨by decide, Eq.refl _, Eq.refl _⟩
theorem tclr (h : Hdr) (o : FS) : Statement (.tclr h o) := ⟨by decide, Eq.refl _, Eq.refl _⟩
theorem brk (h : Hdr) (o : FS) : Statement (.brk h o) := ⟨by decide, Eq.refl _, Eq.refl _⟩
theorem park (h : Hdr) (o : FS) : Statement (.park h o) := ⟨by decide, Eq.refl _, Eq.refl _⟩
theorem tres (h : Hdr) (o : FS) : Statement (.tres h o) := ⟨by decide, Eq.refl _, Eq.refl _⟩
theorem tresW (h : Hdr) (o : FS) : Statement (.tresW h o) := ⟨by decide, Eq.refl _, Eq.refl _⟩
theorem plcw (h : Hdr) (o : FS) : Statement (.plcw h o) := ⟨by decide, Eq.refl _, Eq.refl _⟩
theorem xinv (h : Hdr) (o : FS) : Statement (.xinv h o) := ⟨by decide, Eq.refl _, Eq.refl _⟩
theorem swap (h : Hdr) (o : FS) : Statement (.swap h o) := ⟨by decide, Eq.refl _, Eq.refl _⟩
theorem fcal (h : Hdr) (o : FS) : Statement (.fcal h o) := ⟨by decide, Eq.refl _, Eq.refl _⟩
theorem diag (h : Hdr) (o : FS) : Statement (.diag h o) := ⟨by decide, Eq.refl _, Eq.refl _⟩
theorem memoryAccessPerform (id : Nat) : Statement (.memoryAccessPerform id) := Eq.refl _
theorem monitorPoll (g : Nat) (lane : Nat) : Statement (.monitorPoll g lane) := Eq.refl _
theorem mwtTimeout (g : Nat) (lane : Nat) : Statement (.mwtTimeout g lane) := Eq.refl _
theorem claimGrant (k : Nat) : Statement (.claimGrant k) := Eq.refl _
theorem deadlockDetect (team : Nat) : Statement (.deadlockDetect team) := Eq.refl _
theorem cvwRelease (g : Nat) (cb : Nat) : Statement (.cvwRelease g cb) := Eq.refl _
theorem barDeparture (k : Nat) : Statement (.barDeparture k) := Eq.refl _
theorem atomicBufferDrain (k : Nat) : Statement (.atomicBufferDrain k) := Eq.refl _
theorem causalBufferRelease (id : Nat) : Statement (.causalBufferRelease id) := Eq.refl _
theorem handQueueApply (id : Nat) : Statement (.handQueueApply id) := Eq.refl _
theorem inboxMessageArrival (id : Nat) : Statement (.inboxMessageArrival id) := Eq.refl _
theorem senderResetMarker (core : Nat) (ring : Nat) : Statement (.senderResetMarker core ring) := Eq.refl _
theorem arrivalIncrement (id : Nat) : Statement (.arrivalIncrement id) := Eq.refl _
theorem colophonWrite (id : Nat) : Statement (.colophonWrite id) := Eq.refl _
theorem copyInstanceStart (team : Nat) (chan : Nat) : Statement (.copyInstanceStart team chan) := Eq.refl _
theorem enginePacketWrite (eng : Nat) : Statement (.enginePacketWrite eng) := Eq.refl _
theorem matrixGrant (cluster : Nat) : Statement (.matrixGrant cluster) := Eq.refl _
theorem matrixPassComplete (cluster : Nat) : Statement (.matrixPassComplete cluster) := Eq.refl _
theorem inputAccession (id : Nat) : Statement (.inputAccession id) := Eq.refl _
theorem recordArrival (id : Nat) : Statement (.recordArrival id) := Eq.refl _
theorem residualPostApply (id : Nat) : Statement (.residualPostApply id) := Eq.refl _
theorem catalogueAnswer (id : Nat) : Statement (.catalogueAnswer id) := Eq.refl _
theorem blockActivation (die : Nat) : Statement (.blockActivation die) := Eq.refl _
theorem coalescingTimerLapse (graph : Nat) (blk : Nat) : Statement (.coalescingTimerLapse graph blk) := Eq.refl _
theorem catalogueChoice (die : Nat) : Statement (.catalogueChoice die) := Eq.refl _
theorem dispatchLaunch (g : Nat) : Statement (.dispatchLaunch g) := Eq.refl _
theorem dispatchRetire (graph : Nat) (blk : Nat) : Statement (.dispatchRetire graph blk) := Eq.refl _
theorem probeStart (graph : Nat) : Statement (.probeStart graph) := Eq.refl _
theorem probeAnswer (graph : Nat) : Statement (.probeAnswer graph) := Eq.refl _
theorem reportWrite (graph : Nat) : Statement (.reportWrite graph) := Eq.refl _
theorem gridComplete (grid : Nat) : Statement (.gridComplete grid) := Eq.refl _
theorem handlerEntry (g : Nat) (lane : Nat) : Statement (.handlerEntry g lane) := Eq.refl _
theorem faultFill (cluster : Nat) (entry : Nat) : Statement (.faultFill cluster entry) := Eq.refl _
theorem faultRefuse (cluster : Nat) (entry : Nat) (prot : Bool) : Statement (.faultRefuse cluster entry prot) := Eq.refl _
theorem stopArrival (team : Nat) : Statement (.stopArrival team) := Eq.refl _
theorem dbgcResume (team : Nat) : Statement (.dbgcResume team) := Eq.refl _
theorem resumeArrival (team : Nat) : Statement (.resumeArrival team) := Eq.refl _
theorem singleStep (g : Nat) (lane : Nat) : Statement (.singleStep g lane) := Eq.refl _
theorem preemptionSignal (cores : List Nat) : Statement (.preemptionSignal cores) := Eq.refl _
theorem shadowSwapComplete (core : Nat) : Statement (.shadowSwapComplete core) := Eq.refl _
theorem spill (team : Nat) : Statement (.spill team) := Eq.refl _
theorem packetDeferral (id : Nat) : Statement (.packetDeferral id) := Eq.refl _
theorem allocationCopyComplete (team : Nat) : Statement (.allocationCopyComplete team) := Eq.refl _
theorem teamResumption (team : Nat) : Statement (.teamResumption team) := Eq.refl _
theorem qtailDoorbell (q : Nat) (value : BitVec 32) : Statement (.qtailDoorbell q value) := Eq.refl _
theorem queueRunWrite (q : Nat) (run : Bool) : Statement (.queueRunWrite q run) := Eq.refl _
theorem nopPacket (q : Nat) : Statement (.nopPacket q) := Eq.refl _
theorem launch (q : Nat) : Statement (.launch q) := Eq.refl _
theorem write (q : Nat) : Statement (.write q) := Eq.refl _
theorem signalPacket (q : Nat) : Statement (.signalPacket q) := Eq.refl _
theorem waitPacket (q : Nat) : Statement (.waitPacket q) := Eq.refl _
theorem waitConditionMet (k : Nat) : Statement (.waitConditionMet k) := Eq.refl _
theorem indirect (q : Nat) : Statement (.indirect q) := Eq.refl _
theorem loadStandingGraph (q : Nat) : Statement (.loadStandingGraph q) := Eq.refl _
theorem startStandingGraph (q : Nat) : Statement (.startStandingGraph q) := Eq.refl _
theorem stopStandingGraph (q : Nat) : Statement (.stopStandingGraph q) := Eq.refl _
theorem resetStandingGraph (q : Nat) : Statement (.resetStandingGraph q) := Eq.refl _
theorem unloadStandingGraph (q : Nat) : Statement (.unloadStandingGraph q) := Eq.refl _
theorem loadTaskGraph (q : Nat) : Statement (.loadTaskGraph q) := Eq.refl _
theorem unloadTaskGraph (q : Nat) : Statement (.unloadTaskGraph q) := Eq.refl _
theorem input (q : Nat) : Statement (.input q) := Eq.refl _
theorem inputSlotFreed (k : Nat) : Statement (.inputSlotFreed k) := Eq.refl _
theorem trigger (q : Nat) : Statement (.trigger q) := Eq.refl _
theorem completionWordWrite (q : Nat) : Statement (.completionWordWrite q) := Eq.refl _
theorem taskGraphTrigger (part : Nat) (graph : Nat) : Statement (.taskGraphTrigger part graph) := Eq.refl _
theorem launchNode (part : Nat) (graph : Nat) : Statement (.launchNode part graph) := Eq.refl _
theorem standingNode (part : Nat) (graph : Nat) : Statement (.standingNode part graph) := Eq.refl _
theorem conditionalNode (part : Nat) (graph : Nat) : Statement (.conditionalNode part graph) := Eq.refl _
theorem loopNode (part : Nat) (graph : Nat) : Statement (.loopNode part graph) := Eq.refl _
theorem copyNode (part : Nat) (graph : Nat) : Statement (.copyNode part graph) := Eq.refl _
theorem waitNode (part : Nat) (graph : Nat) : Statement (.waitNode part graph) := Eq.refl _
theorem signalNode (part : Nat) (graph : Nat) : Statement (.signalNode part graph) := Eq.refl _
theorem taskGraphRunEnd (part : Nat) (graph : Nat) : Statement (.taskGraphRunEnd part graph) := Eq.refl _
theorem timeSliceSwitch (part : Nat) : Statement (.timeSliceSwitch part) := Eq.refl _
theorem msixMessage (vector : Nat) : Statement (.msixMessage vector) := Eq.refl _
theorem msixUnmask (vector : Nat) : Statement (.msixUnmask vector) := Eq.refl _
theorem imageLoadStart (addr : BitVec 64) : Statement (.imageLoadStart addr) := Eq.refl _
theorem fcalReply (die : Nat) (team : Nat) (g : Nat) (value : BitVec 32) : Statement (.fcalReply die team g value) := Eq.refl _
theorem invalidationStart (die : Nat) (addr : BitVec 64) (pages : Nat) (reach : Nat) (part : Nat) : Statement (.invalidationStart die addr pages reach part) := Eq.refl _
theorem parkRelease (team : Nat) : Statement (.parkRelease team) := Eq.refl _
theorem imgbWrite (team : Nat) (value : BitVec 56) : Statement (.imgbWrite team value) := Eq.refl _
theorem partitionEnable (part : Nat) (run : Bool) : Statement (.partitionEnable part run) := Eq.refl _
theorem placeTableCommit (part : Nat) : Statement (.placeTableCommit part) := Eq.refl _
theorem clusterResetGo (die : Nat) (cluster : Nat) : Statement (.clusterResetGo die cluster) := Eq.refl _
theorem isolation (die : Nat) : Statement (.isolation die) := Eq.refl _
theorem cutPacketArrival (id : Nat) : Statement (.cutPacketArrival id) := Eq.refl _
theorem isolatedPacketAnswer (id : Nat) : Statement (.isolatedPacketAnswer id) := Eq.refl _
theorem resetComplete (die : Nat) : Statement (.resetComplete die) := Eq.refl _
theorem restore (die : Nat) : Statement (.restore die) := Eq.refl _
theorem hbmRelease (die : Nat) : Statement (.hbmRelease die) := Eq.refl _
theorem mailboxStart (addr : BitVec 64) : Statement (.mailboxStart addr) := Eq.refl _
theorem hostMemAccess (pa : Nat) (data : List (BitVec 8)) (write : Bool) : Statement (.hostMemAccess pa data write) := Eq.refl _
theorem backInvalidate (line : Nat) : Statement (.backInvalidate line) := Eq.refl _
theorem registerWrite (agent : Nat) (offset : Nat) (size : Nat) (value : BitVec 64) : Statement (.registerWrite agent offset size value) := Eq.refl _
theorem copyBackComplete (team : Nat) : Statement (.copyBackComplete team) := Eq.refl _
theorem resultLand : Statement (.resultLand) := Eq.refl _
theorem qwaitRetry : Statement (.qwaitRetry) := Eq.refl _
theorem pageWalk : Statement (.pageWalk) := Eq.refl _
theorem standingTeamFormed : Statement (.standingTeamFormed) := Eq.refl _
theorem teamStart : Statement (.teamStart) := Eq.refl _
theorem imageLoadComplete : Statement (.imageLoadComplete) := Eq.refl _
theorem moduleReset : Statement (.moduleReset) := Eq.refl _
theorem monitorLevel : Statement (.monitorLevel) := Eq.refl _
theorem lpddrOnlyLevel : Statement (.lpddrOnlyLevel) := Eq.refl _
theorem functionLevelReset : Statement (.functionLevelReset) := Eq.refl _
theorem clockStepUpdate : Statement (.clockStepUpdate) := Eq.refl _
theorem thermalTrip : Statement (.thermalTrip) := Eq.refl _

end Sys2Proof.Laws.EncodedLength
end

