-- ==== Sys2Proof/Tests/Slice0.lean ====
section
/-! SUPPORT. Tests: ill-formed terms that the check refuses, words of the spec's encodings, single steps, and for each statement a state that meets its hypotheses. -/
namespace Sys2Proof.Tests
set_option maxRecDepth 100000
set_option Elab.async false
open Sys2Proof Sys2Proof.Machine

/-! Small states. A thread of group 0 on core 0 in team 0 of partition 0 stands selected; partition 0 holds cores 0 and 1 under marks 0 and 1 and sees its first page in LPDDR memory. -/

def cu0 (hm : Bool) : Cur := { g := 0, pc := 0, next := 1, lanes := [0], hm := hm, pair := false, second := false, solo := false, trapped := [] }

/-- Registers: pair s8 the address of the own window, s10 of the metadata window, s12 of mark 1's window at 8, s14 an odd address; s16 is -1. -/
def scal : List Word :=
  [0, 0, 0, 0, 0, 0, 0, 0, 0, 0x00F10000, 0, 0x00F21E20, 0x100008, 0x00F00000, 1, 0, 0xFFFFFFFF, 0x7FC40001] ++ List.replicate 78 0

def grp0 (th : Thread) : Group := Group.launch 0 0 0 0 0 [th] scal 0

def thr0 : Thread := Thread.launch 0 240 0

/-- The small state with a thread, a team and further changes to the machine. -/
def small (hm : Bool) (th : Thread) (tm : Team) (f : Mach → Mach) : State :=
  { State.reset with
    sys := { Sys.reset with parts := [(0, { Part.initial with en := true, tvec := 64, place := [(0, 2 ^ 63), (1, 2 ^ 63 + 1)] })] },
    m := f { Mach.reset with
      groups := [(0, grp0 { th with hm := hm, st := if hm then .handler else .run })],
      teams := [(0, tm)],
      entries := [(0, { Entry.initial with v := true })],
      tlb := [{ lvl := 0, unit := 0, part := 0, va := 0, size := 4096, pa := codeHome, perm := 7, dirty := true }],
      cur := some (cu0 hm) } }

def s0 : State := small false thr0 codeTeam id

/-- The same in handler mode. -/
def s1 : State := small true thr0 codeTeam id

/-- A team of grid 0. -/
def gridTeam : Team := { codeTeam with grid := some 0 }

/-- A standing team of graph 0, whose one node is all zeros. -/
def graphTeam : Team := { codeTeam with graph := some 0, standing := true }

/-! Fields of instructions. -/

def fa (dst sa sb sc : Opnd) (imm : BitVec 16) (md : BitVec 5) : FA := { dst := dst, sa := sa, sb := sb, sc := sc, lt := 0, md := md, imm := imm }
def fm (d base index : Opnd) (width : BitVec 3) : FM := { d := d, base := base, index := index, width := width, scope := 0, order := 0, hint := 0, off := 0 }
def fc (src : Opnd) (aux : BitVec 27) : FC := { src := src, loff := 0, slot := 0, aux := aux }
def fe (dst sa sb sc : Opnd) (ctl : BitVec 24) (ext : BitVec 96) : FE := { dst := dst, sa := sa, sb := sb, sc := sc, ctl := ctl, ext := ext }
def fs (dst sa : Opnd) (sys : BitVec 24) : FS := { dst := dst, sa := sa, sb := .v 0, place := 0, sys := sys }

/-! A set in which every member acts, by evaluation. -/

def actsB (i : Instr) (h : Hdr) (s : State) (cu : Cur) : Bool :=
  decide (s.m.cur = some cu) && legal i && (!(cu.hm && writesScalar i) || privileged i) && (!privileged i || cu.hm) && cu.trapped.isEmpty && !cu.lanes.isEmpty
    && cu.lanes.all (fun l => guardOf (thrOf s.m cu.g l) h && budgetOk s.m (ctxOf s.m cu h) i l)

theorem acts_of {i : Instr} {h : Hdr} {s : State} {cu : Cur} (hb : actsB i h s cu = true) : Acts i h s cu := by
  simp only [actsB, Bool.and_eq_true, Bool.or_eq_true, Bool.not_eq_true', Bool.and_eq_false_iff, decide_eq_true_eq, List.all_eq_true,
    List.isEmpty_iff] at hb
  obtain ⟨⟨⟨⟨⟨⟨a, b⟩, c⟩, d⟩, e⟩, f⟩, g⟩ := hb
  refine ⟨a, b, fun x y => ?_, fun x => ?_, e, ?_, fun l hl => (g l hl).1, fun l hl => (g l hl).2⟩
  · rcases c with c | c
    · rcases c with c | c <;> simp_all
    · exact c
  · rcases d with d | d <;> simp_all
  · intro h; simp [h] at f

theorem solo_of {i : Instr} {h : Hdr} {s : State} {cu : Cur} {l : Nat} (hb : actsB i h s cu = true) (hl : cu.lanes = [l]) : Solo i h s cu l :=
  ⟨acts_of hb, hl⟩

/-- Instructions that all act in one state, each under its own frame. -/
def actAll (s : State) (cu : Cur) (l : List Instr) : Bool :=
  l.all (fun i => match hdrOfInstr i with | some h => actsB i h s cu | none => false)

theorem acts_all {s : State} {cu : Cur} {l : List Instr} (hb : actAll s cu l = true) : ∀ i ∈ l, ∃ h, hdrOfInstr i = some h ∧ Acts i h s cu := by
  intro i hi
  have := List.all_eq_true.1 hb i hi
  revert this
  cases hdrOfInstr i with
  | none => simp
  | some h => exact fun hb => ⟨h, rfl, acts_of hb⟩

/-- A set of one thread is in the normal case when its one member finds the condition. -/
theorem normal_of {x : Effect} {s : State} {cu : Cur} {h : Hdr} {l : Nat} (hl : cu.lanes = [l]) (hc : x.cond s.env (soloCtx s cu h l) (issueMach s cu h)) :
    NormalCase x s cu h := by
  have e : issueCtx s cu h = soloCtx s cu h l := by simp [soloCtx, issueCtx, ctxOf, hl]
  unfold NormalCase
  cases x.once
  · simp only [Bool.false_eq_true, if_false, hl, Along, and_true]; exact hc
  · simp only [if_true, e]; exact hc

/-- A frame with FN alone. -/
def P (fn : BitVec 8) : Hdr := plainHdr fn

theorem eq_ok {ε α : Type} {x : Except ε α} {a : α} (h : x.toOption = some a) : x = .ok a := by
  cases x <;> simp_all [Except.toOption]

/-- An answer is the refusal of a number. -/
def errIs {α : Type} (x : Except Nat α) (n : Nat) : Bool := match x with | .error k => decide (k = n) | .ok _ => false

theorem eq_error {α : Type} {x : Except Nat α} {n : Nat} (h : errIs x n = true) : x = .error n := by
  cases x <;> simp_all [errIs]

/-- A monitor on the own window's first word. -/
def mon0 : Mon :=
  { sn := 0, va := 0xF1000000000000, sa := 2 ^ 52, home := 0, b64 := true, signed := false, cond := 0, val := 1, acq := false, scope := 0, awt := false,
    armed := true, poll := none, sat := none, learn := [] }

/-! Hypotheses: sets in which every member acts, for the statements without a further condition. -/


/-- IntegerArithmeticCompletes: vector and scalar destinations. -/
theorem met_IntegerArithmeticCompletes : ∀ i ∈ [Instr.add (P 4) (fa (.v 239) (.v 1) (.c 5) (.v 0) 0 0), .add (P 6) (fa (.s 94) (.s 2) (.c 5) (.v 0) 0 0),
    .sub (P 0x14) (fa (.v 1) (.v 1) (.v 1) (.v 0) 0 0), .mul (P 7) (fa (.v 2) (.v 2) (.v 4) (.v 0) 0 0), .mulh (P 0) (fa (.v 2) (.v 2) (.v 4) (.v 0) 0 0),
    .mad (P 5) (fa (.v 2) (.v 2) (.v 4) (.c 1) 0 0), .neg (P 3) (fa (.v 2) (.s 16) (.v 0) (.v 0) 0 0), .abs (P 4) (fa (.v 2) (.s 16) (.v 0) (.v 0) 0 0),
    .min (P 4) (fa (.v 2) (.s 16) (.v 0) (.v 0) 0 0), .max (P 5) (fa (.v 2) (.s 16) (.v 0) (.v 0) 0 0), .lea (P 7) (fa (.v 2) (.s 8) (.v 0) (.v 0) 0xFFFF 7)],
    ∃ h, hdrOfInstr i = some h ∧ Acts i h s0 (cu0 false) := acts_all (by decide)

theorem met_IntegerBitsComplete : ∀ i ∈ [Instr.and (P 4) (fa (.v 2) (.v 1) (.v 1) (.v 0) 0 0), .or (P 6) (fa (.s 2) (.s 16) (.s 8) (.v 0) 0 0),
    .xor (P 4) (fa (.v 2) (.v 1) (.v 1) (.v 0) 0 0), .not (P 0) (fa (.v 2) (.v 1) (.v 0) (.v 0) 0 0), .shl (P 7) (fa (.v 2) (.v 4) (.c 63) (.v 0) 0 0),
    .shr (P 5) (fa (.v 2) (.v 4) (.s 16) (.v 0) 0 0), .sra (P 4) (fa (.v 2) (.s 16) (.c 31) (.v 0) 0 0), .rot (P 2) (fa (.v 2) (.s 16) (.c 3) (.v 0) 0 0),
    .clz (P 5) (fa (.v 2) (.c 1) (.v 0) (.v 0) 0 0), .popc (P 5) (fa (.v 2) (.s 16) (.v 0) (.v 0) 0 0), .brev (P 5) (fa (.v 2) (.c 1) (.v 0) (.v 0) 0 0),
    .bfx (P 4) (fa (.v 2) (.s 16) (.v 0) (.v 0) 0x011F 0), .bfi (P 7) (fa (.v 2) (.s 8) (.c 1) (.v 0) 0x4000 0)],
    ∃ h, hdrOfInstr i = some h ∧ Acts i h s0 (cu0 false) := acts_all (by decide)

theorem met_CompareSelectCarryComplete : ∀ i ∈ [Instr.cmp (P 0x54) (fa (.p 6) (.v 1) (.s 16) (.v 0) 0 0), .cmp (P 4) (fa (.p 0) (.c 1) (.s 16) (.p 7) 0 2),
    .sel (P 4) (fa (.v 2) (.v 1) (.c 1) (.p 3) 0 0), .addc (P 5) (fa (.v 2) (.s 16) (.c 1) (.c 1) 0 14), .addc (P 7) (fa (.s 2) (.s 16) (.s 8) (.p 7) 0 0)],
    ∃ h, hdrOfInstr i = some h ∧ Acts i h s0 (cu0 false) := acts_all (by decide)

theorem met_MoveCompletes : ∀ i ∈ [Instr.mov (P 4) (fa (.p 1) (.p 7) (.v 0) (.v 0) 0 0), .mov (P 4) (fa (.p 1) (.v 3) (.v 0) (.v 0) 0 0),
    .mov (P 7) (fa (.v 2) (.p 1) (.v 0) (.v 0) 0 0), .mov (P 6) (fa (.s 2) (.c 0xA1) (.v 0) (.v 0) 0 0)],
    ∃ h, hdrOfInstr i = some h ∧ Acts i h s0 (cu0 false) := acts_all (by decide)

theorem met_FloatArithmeticCompletes : ∀ i ∈ [Instr.fadd (P 1) (fa (.v 2) (.v 1) (.c 0xA7) (.v 0) 0 0), .fsub (P 0x10) (fa (.v 2) (.v 4) (.c 0x9F) (.v 0) 0 0),
    .fmul (P 2) (fa (.s 2) (.s 1) (.c 0x90) (.v 0) 0 0), .fma (P 3) (fa (.v 2) (.v 2) (.c 1) (.s 17) 0 0), .frcp (P 1) (fa (.v 2) (.v 1) (.v 0) (.v 0) 0 0),
    .frsq (P 1) (fa (.v 2) (.c 0xA4) (.v 0) (.v 0) 0 0), .fdiv (P 1) (fa (.v 2) (.v 1) (.v 1) (.v 0) 0 0), .fsqrt (P 0) (fa (.v 2) (.c 2) (.v 0) (.v 0) 0 0),
    .fex2 (P 1) (fa (.v 2) (.c 1) (.v 0) (.v 0) 0 0), .flg2 (P 1) (fa (.v 2) (.v 1) (.v 0) (.v 0) 0 0), .fsin (P 1) (fa (.v 2) (.v 1) (.v 0) (.v 0) 0 0),
    .fcos (P 1) (fa (.v 2) (.c 0xA0) (.v 0) (.v 0) 0 0), .fscl (P 1) (fa (.v 2) (.c 1) (.s 16) (.v 0) 0 0), .frnd (P 0x31) (fa (.v 2) (.c 0xA5) (.v 0) (.v 0) 0 0),
    .fcvt (P 2) (fa (.v 2) (.s 17) (.v 0) (.v 0) 0 1), .fdot2 (P 2) (fa (.v 2) (.v 1) (.s 16) (.c 1) 0 0)],
    ∃ h, hdrOfInstr i = some h ∧ Acts i h s0 (cu0 false) := acts_all (by decide)

theorem met_FloatSelectionCompletes : ∀ i ∈ [Instr.fmin (P 1) (fa (.v 2) (.v 1) (.s 17) (.v 0) 0 0), .fmax (P 0) (fa (.v 2) (.v 4) (.c 1) (.v 0) 0 0),
    .fclp (P 1) (fa (.v 2) (.v 1) (.c 0) (.c 1) 0 0), .fabs (P 1) (fa (.v 2) (.s 17) (.v 0) (.v 0) 0 0), .fneg (P 1) (fa (.s 2) (.s 17) (.v 0) (.v 0) 0 0),
    .fcls (P 1) (fa (.v 2) (.s 17) (.v 0) (.v 0) 0 0), .fcmp (P 1) (fa (.p 2) (.s 17) (.v 1) (.v 0) 0 5), .fcmp (P 1) (fa (.p 2) (.s 17) (.c 1) (.p 1) 0 21)],
    ∃ h, hdrOfInstr i = some h ∧ Acts i h s0 (cu0 false) := acts_all (by decide)

theorem met_CrossLaneCompletes : ∀ i ∈ [Instr.shfl (P 0x31) (fa (.v 2) (.v 4) (.c 31) (.v 0) 14 0), .vote (P 0x20) (fa (.p 1) (.p 7) (.v 0) (.v 0) 0 0),
    .vote (P 0x30) (fa (.s 1) (.p 2) (.v 0) (.v 0) 0 0), .blot (P 0) (fa (.v 1) (.p 2) (.v 0) (.v 0) 0 0), .redx (P 0x54) (fa (.v 1) (.v 2) (.v 0) (.v 0) 0 0),
    .scan (P 9) (fa (.v 1) (.s 17) (.v 0) (.v 0) 0 16), .sred (P 4) (fa (.s 1) (.v 2) (.v 0) (.v 0) 0 0), .rdl (P 1) (fa (.s 2) (.v 2) (.s 16) (.v 0) 8 0),
    .wrl (P 0) (fa (.v 2) (.s 16) (.c 0) (.v 0) 0 0), .mtch (P 0) (fa (.v 2) (.v 3) (.v 0) (.v 0) 0 0)],
    ∃ h, hdrOfInstr i = some h ∧ Acts i h s0 (cu0 false) := acts_all (by decide)

theorem met_ConvergenceCompletes : ∀ i ∈ [Instr.cvb (P 0) (fc (.c 1) 3), .cvbCur (P 1) (fc (.v 0) 0), .cvw (P 0) (fc (.v 0) 3), .exit (P 0) (fc (.v 0) 0),
    .yield (P 0) (fc (.v 0) 0), .nop (P 0) (fc (.v 0) 0)],
    ∃ h, hdrOfInstr i = some h ∧ Acts i h s0 (cu0 false) := acts_all (by decide)

theorem met_ImmediateMoves : ∀ i ∈ [Instr.movi (P 0) { dst := .v 239, sa := .v 0, sb := .v 0, imm := 0x80 }, .movi (P 6) { dst := .s 94, sa := .v 0, sb := .v 0, imm := 0xFFFFFFFF },
    .movw (P 7) { dst := .v 2, imm := 2 ^ 63 }], ∃ h, hdrOfInstr i = some h ∧ Acts i h s0 (cu0 false) := acts_all (by decide)

theorem met_PoisonTestAndFix : ∀ i ∈ [Instr.pchk (P 1) (fa (.p 0) (.s 17) (.v 0) (.v 0) 0 0), .pchkProv (P 0x11) (fa (.s 1) (.s 17) (.v 0) (.v 0) 0 0),
    .pfix (P 0) (fa (.v 2) (.v 4) (.c 1) (.v 0) 0 0)], ∃ h, hdrOfInstr i = some h ∧ Acts i h s0 (cu0 false) := acts_all (by decide)

/-- Some pattern is poison, some is not, and of the operands only a latch may change the machine. -/
theorem met_PoisonTestAndFix_terms : isPoison .f32 0x7FC40001 = true ∧ isPoison .f64 0 = false ∧ isX (.v 0) = false := by decide

theorem met_TrapAndBreakRaise : ∀ i ∈ [Instr.trap (P 0) (fs (.v 0) (.v 0) 0xFFFFFF), .brk (P 0) (fs (.v 0) (.v 0) 1)],
    ∃ h, hdrOfInstr i = some h ∧ Solo i h s1 (cu0 true) 0 :=
  fun i hi => let ⟨h, e, a⟩ := acts_all (s := s1) (cu := cu0 true) (by decide) i hi; ⟨h, e, a, rfl⟩

/-- The system instructions in handler mode; the further conditions of some of them are met below. -/
theorem met_SystemInstructionsComplete : ∀ i ∈ [Instr.tret (P 0) (fs (.v 0) (.v 0) 0), .tclr (P 0) (fs (.v 0) (.v 0) 0x7FFFFF), .park (P 0) (fs (.v 0) (.v 0) 0),
    .tres (P 0) (fs (.v 239) (.v 0) 15), .tres (P 0) (fs (.v 0) (.v 0) 0), .tresW (P 1) (fs (.v 0) (.s 16) 0), .tresW (P 1) (fs (.v 0) (.c 1) 15),
    .plcw (P 0) (fs (.v 0) (.s 16) 8), .diag (P 0) (fs (.s 3) (.v 0) 0x23), .xinv (P 0) { dst := .v 0, sa := .s 0, sb := .c 1, place := 0, sys := 2 },
    .swap (P 0) (fs (.v 0) (.s 16) 0), .fcal (P 0) (fs (.s 2) (.c 1) 0xFFFF)], ∃ h, hdrOfInstr i = some h ∧ Acts i h s1 (cu0 true) := acts_all (by decide)

theorem met_TclrClearsCauses : Acts (.tclr (P 0) (fs (.v 0) (.v 0) 0x7FFFFF)) (P 0) s1 (cu0 true) := acts_of (by decide)

/-! Hypotheses with a condition: the statement, applied to a state that meets all of them. -/

/-- A statement of completion, applied where the set acts and finds the condition: the instruction answers a next state. -/
theorem run_of (hm : Bool) {i : Instr} {h : Hdr} {x : Effect} {s : State} (H : Completes i h x) (hb : actsB i h s (cu0 hm) = true)
    (hc : x.cond s.env (soloCtx s (cu0 hm) h 0) (issueMach s (cu0 hm) h)) : ∃ t, exec i s = .next t :=
  ⟨_, H s _ (acts_of hb) (normal_of rfl hc)⟩

/-- The same for a statement of a stop. -/
theorem stop_of (hm : Bool) {i : Instr} {h : Hdr} {Q : Env → Ctx → Mach → Prop} {x : Env → Ctx → Mach → Stop} {rd : Env → Ctx → Mach → Mach} {s : State}
    (H : StopsAt i h Q x rd) (hb : actsB i h s (cu0 hm) = true) (hp : Q s.env (soloCtx s (cu0 hm) h 0) (issueMach s (cu0 hm) h)) : ∃ t, exec i s = .next t :=
  ⟨_, H s _ 0 (solo_of hb rfl) hp⟩

/-- A state whose thread has the registers of a list. -/
def withV (v : List Word) : State := small false { thr0 with v := v ++ List.replicate (240 - v.length) 0 } codeTeam id

theorem met_DivisionCompletesOrTraps (H : Obligations.DivisionCompletesOrTraps) :
    (∃ t, exec (.div (P 4) (fa (.v 2) (.s 16) (.c 1) (.v 0) 0 0)) s0 = .next t) ∧ (∃ t, exec (.rem (P 7) (fa (.v 2) (.s 8) (.c 0x7F) (.v 0) 0 0)) s0 = .next t) ∧
    (∃ t, exec (.div (P 4) (fa (.v 2) (.s 16) (.v 0) (.v 0) 0 0)) s0 = .next t) ∧ (∃ t, exec (.rem (P 7) (fa (.v 2) (.s 8) (.c 0) (.v 0) 0 0)) s0 = .next t) :=
  ⟨run_of false (H _ _).1 (by decide) (by dsimp only [divEff]; decide), run_of false (H _ _).2.1 (by decide) (by dsimp only [divEff]; decide),
   stop_of false (H _ _).2.2.1 (by decide) (by decide), stop_of false (H _ _).2.2.2 (by decide) (by decide)⟩

/-- A group whose PCTL has PST, PBR and PCV set. -/
def pst : State := small false thr0 codeTeam (fun m => { m with groups := [(0, { grp0 thr0 with pctl := 7 })] })

theorem met_ConversionCompletesOrTraps (H : Obligations.ConversionCompletesOrTraps) :
    (∃ t, exec (.cvt (P 4) (fa (.v 2) (.c 2) (.v 0) (.v 0) 0 9)) s0 = .next t) ∧ (∃ t, exec (.cvt (P 4) (fa (.v 2) (.s 17) (.v 0) (.v 0) 0 9)) s0 = .next t) ∧
    (∃ t, exec (.cvt (P 4) (fa (.v 2) (.s 17) (.v 0) (.v 0) 0 9)) pst = .next t) :=
  ⟨run_of false (H _ _).1 (by decide) (by dsimp only [cvtEff]; decide), run_of false (H _ _).1 (by decide) (by dsimp only [cvtEff]; decide),
   stop_of false (H _ _).2 (by decide) (by decide)⟩

theorem met_PoisonMarkAndLogComplete (H : Obligations.PoisonMarkAndLogComplete) :
    (∃ t, exec (.pmrk (P 1) (fa (.v 2) (.v 0) (.v 0) (.v 0) 0 0)) s0 = .next t) ∧ (∃ t, exec (.plog (P 0) (fa (.v 8) (.c 1) (.v 0) (.v 0) 0 0)) s0 = .next t) ∧
    (∃ t, exec (.plog (P 0) (fa (.v 8) (.c 1) (.v 0) (.v 0) 0 0)) (small false thr0 { codeTeam with polb := 64 } id) = .next t) :=
  ⟨run_of false (H _ _).1 (by decide) trivial, run_of false (H _ _).2 (by decide) (by dsimp only [AddrRes.passes]; decide), run_of false (H _ _).2 (by decide) (by dsimp only [AddrRes.passes]; decide)⟩

/-- Registers in which the quad of v4 carries the tag of format register 1, and v8 the scale byte 0xFF. -/
def tagged : State := withV [0, 0, 0, 0, 0, 0, 0, 0x09000000, 0xFF]

theorem met_NarrowCompletesOrTraps (H : Obligations.NarrowCompletesOrTraps) :
    (∃ t, exec (.nscl (P 0) (fa (.v 2) (.v 1) (.v 0) (.v 0) 3 5)) tagged = .next t) ∧
    (∃ t, exec (.npck (P 0) (fa (.v 4) (.v 20) (.v 8) (.v 0) 0x100 5)) tagged = .next t) ∧ (∃ t, exec (.npck (P 0) (fa (.v 12) (.v 20) (.v 1) (.v 0) 0x100 5)) tagged = .next t) ∧
    (∃ t, exec (.nunp (P 0) (fa (.v 20) (.v 12) (.v 1) (.v 0) 0xF00 5)) tagged = .next t) ∧ (∃ t, exec (.ndot (P 0) (fa (.v 2) (.v 12) (.v 16) (.v 1) 15 5)) tagged = .next t) ∧
    (∃ t, exec (.nscl (P 0) (fa (.v 2) (.v 1) (.v 0) (.v 0) 3 0)) tagged = .next t) ∧ (∃ t, exec (.npck (P 0) (fa (.v 4) (.v 20) (.v 1) (.v 0) 0x100 5)) tagged = .next t) ∧
    (∃ t, exec (.nunp (P 0) (fa (.v 20) (.v 4) (.v 1) (.v 0) 0x100 5)) tagged = .next t) ∧ (∃ t, exec (.ndot (P 0) (fa (.v 2) (.v 12) (.v 4) (.v 1) 0 5)) tagged = .next t) :=
  ⟨run_of false (H _ _).1 (by decide) (by dsimp only [usable]; decide), run_of false (H _ _).2.1 (by decide) (by dsimp only [usable]; decide),
   run_of false (H _ _).2.1 (by decide) (by dsimp only [usable]; decide), run_of false (H _ _).2.2.1 (by decide) (by dsimp only [usable]; decide),
   run_of false (H _ _).2.2.2.1 (by decide) (by dsimp only [usable]; decide), stop_of false (H _ _).2.2.2.2.1 (by decide) (by decide),
   stop_of false (H _ _).2.2.2.2.2.1 (by decide) (by decide), stop_of false (H _ _).2.2.2.2.2.2.1 (by decide) (by decide),
   stop_of false (H _ _).2.2.2.2.2.2.2 (by decide) (by decide)⟩

theorem met_ControlRegistersComplete (H : Obligations.ControlRegistersComplete) :
    (∃ t, exec (.getc (P 0) (fa (.s 2) (.v 0) (.v 0) (.v 0) 0x22 0)) s0 = .next t) ∧ (∃ t, exec (.getid (P 0) (fa (.v 2) (.v 0) (.v 0) (.v 0) 12 0)) s0 = .next t) ∧
    (∃ t, exec (.clk (P 0) (fa (.s 2) (.v 0) (.v 0) (.v 0) 1 0)) s0 = .next t) ∧ (∃ t, exec (.setc (P 0) (fa (.v 0) (.c 4) (.v 0) (.v 0) 0 0)) s0 = .next t) ∧
    (∃ t, exec (.setc (P 0) (fa (.v 0) (.c 0) (.v 0) (.v 0) 0x1F 0)) s0 = .next t) ∧ (∃ t, exec (.setc (P 0) (fa (.v 0) (.c 5) (.v 0) (.v 0) 0 0)) s0 = .next t) ∧
    (∃ t, exec (.setc (P 0) (fa (.v 0) (.c 0) (.v 0) (.v 0) 0x10 0)) (small false thr0 { codeTeam with tiles := 0xFFFE } id) = .next t) :=
  ⟨run_of false (H _ _).1 (by decide) trivial, run_of false (H _ _).2.1 (by decide) trivial, run_of false (H _ _).2.2.1 (by decide) trivial,
   run_of false (H _ _).2.2.2.1 (by decide) (by decide), run_of false (H _ _).2.2.2.1 (by decide) (by decide),
   stop_of false (H _ _).2.2.2.2.1 (by decide) (by decide), stop_of false (H _ _).2.2.2.2.2 (by decide) (by decide)⟩

/-- A line at address 0 whose slots 0 and 1 hold `nop`, slot 0 a target. -/
def nopWord : Nat := fieldsAt [(88, 0x79), (76, 7)]
def nopLine : Nat := lineOf [nopWord, nopWord, nopWord, nopWord, nopWord] - (List.range 4).foldl (fun a i => a + 2 ^ (20 + i)) 0 + 2 ^ 11

/-- The small state with that line in memory, the guard p0 tainted, PBR set. -/
def code (hm : Bool) (taint : BitVec 7) (v : List Word) (f : Mach → Mach) : State :=
  small hm { thr0 with pt := taint, v := v ++ List.replicate (240 - v.length) 0 } codeTeam
    (fun m => f { m with mem := memWrite [] codeHome (toBytes 64 nopLine), groups := (m.groups.map (fun g => (g.1, { g.2 with pctl := 7 }))) })

/-- The page at address 0 is a page of triggers. -/
def trigs : State := small false thr0 codeTeam (fun m => { m with
  tlb := [{ lvl := 0, unit := 0, part := 0, va := 0, size := 4096, pa := 2 ^ 42 + 0x1C0000, perm := 2, dirty := true }] })

/-- The small state with a value in s18. -/
def withS (x : Word) : State := small false thr0 codeTeam (fun m => { m with groups := [(0, { grp0 thr0 with s := setAt scal 18 x })] })

/-- Guard not p0. -/
def notP0 (fn : BitVec 8) : Hdr := { plainHdr fn with pn := true, pg := 0 }

theorem met_TransfersCompleteOrTrap (H : Obligations.TransfersCompleteOrTrap) :
    (∃ t, exec (.bra (P 0) (fc (.v 0) 0)) (code false 0 [] id) = .next t) ∧ (∃ t, exec (.brx (P 0) (fc (.v 2) 0)) (code false 0 [] id) = .next t) ∧
    (∃ t, exec (.ret (P 0) (fc (.s 2) 0)) (code false 0 [] id) = .next t) ∧ (∃ t, exec (.call (P 0) (fc (.v 0) (2 * 2 ^ 17 + 30))) (code false 0 [] id) = .next t) ∧
    (∃ t, exec (.call (P 0) (fc (.v 0) (2 * 2 ^ 17 + 31))) (code false 0 [] id) = .next t) ∧ (∃ t, exec (.cali (P 0) (fc (.v 4) (2 * 2 ^ 17))) (code false 0 [] id) = .next t) ∧
    (∃ t, exec (.loop (P 0) (fc (.v 1) 0)) (code false 0 [] id) = .next t) ∧ (∃ t, exec (.loop (P 0) (fc (.v 0) 0)) (code false 0 [1] id) = .next t) ∧
    (∃ t, exec (.bra (notP0 0) (fc (.v 0) 0)) (code false 1 [] id) = .next t) ∧ (∃ t, exec (.call (notP0 0) (fc (.v 0) (2 * 2 ^ 17 + 30))) (code false 1 [] id) = .next t) ∧
    (∃ t, exec (.brx (P 0) (fc (.v 4) 0)) (code false 0 [0, 0, 0, 0, 0, 0x01000000] id) = .next t) ∧
    (∃ t, exec (.ret (P 0) (fc (.v 4) 0)) (code false 0 [0, 0, 0, 0, 0, 0xFFFFFFFF] id) = .next t) := by
  refine ⟨run_of false (H _ _).1 (by decide) ?_, run_of false (H _ _).2.1 (by decide) ?_, run_of false (H _ _).2.2.1 (by decide) ?_,
    run_of false (H _ _).2.2.2.1 (by decide) ?_, run_of false (H _ _).2.2.2.1 (by decide) ?_, run_of false (H _ _).2.2.2.2.1 (by decide) ?_,
    run_of false (H _ _).2.2.2.2.2.1 (by decide) ?_, run_of false (H _ _).2.2.2.2.2.1 (by decide) ?_, stop_of false (H _ _).2.2.2.2.2.2.1 (by decide) ?_,
    stop_of false (H _ _).2.2.2.2.2.2.2.1 (by decide) ?_, stop_of false (H _ _).2.2.2.2.2.2.2.2.1 (by decide) ?_, stop_of false (H _ _).2.2.2.2.2.2.2.2.2 (by decide) ?_⟩
  all_goals (try dsimp only [mayGo])
  all_goals decide +kernel

theorem met_LoadStoreCompletesOrTraps (H : Obligations.LoadStoreCompletesOrTraps) :
    (∃ t, exec (.ld (P 0) (fm (.v 2) (.v 0) (.c 63) 0)) s0 = .next t) ∧ (∃ t, exec (.ld (P 0) (fm (.s 2) (.s 10) (.c 0) 3)) s0 = .next t) ∧
    (∃ t, exec (.st (P 0) (fm (.v 4) (.s 8) (.v 0) 4)) s0 = .next t) ∧ (∃ t, exec (.st (P 0) (fm (.c 1) (.s 0) (.c 0) 3)) trigs = .next t) ∧
    (∃ t, exec (.ld (P 0) (fm (.v 2) (.s 14) (.c 0) 1)) s0 = .next t) ∧ (∃ t, exec (.st (P 0) (fm (.v 2) (.s 10) (.c 0) 3)) s0 = .next t) ∧
    (∃ t, exec (.st (P 0) (fm (.s 17) (.s 8) (.c 0) 2)) pst = .next t) := by
  refine ⟨run_of false (H _ _).1 (by decide) (.inl ?_), run_of false (H _ _).1 (by decide) (.inr ⟨2 ^ 38, ?_⟩), run_of false (H _ _).2.1 (by decide) ⟨.inl ?_, ?_⟩,
    run_of false (H _ _).2.1 (by decide) ⟨.inr ⟨0, ?_⟩, ?_⟩, stop_of false (H _ _).2.2.1 (by decide) ⟨3, 1, ?_⟩, stop_of false (H _ _).2.2.2.1 (by decide) ⟨5, 0xF21E2000000000, ?_⟩,
    stop_of false (H _ _).2.2.2.2 (by decide) ⟨?_, ?_⟩⟩
  all_goals (try dsimp only [AddrRes.passes, mayStore])
  all_goals decide +kernel

/-- Tile 0 of the small state has 2 rows of 4 words, tile 1 one row of 64 bytes, tile 2 eight rows of 8 halfwords, tile 3 one row of one doubleword, tile 4 one row of one container, tiles 5 to 7 two rows of 2 words, tile 8 one word, tile 9 one row of 32 words (a sparse A of 48), tile 10 one row of 48. -/
def tileCore : Core := { Core.initial with tc := [0x00020301, 0x00003F00, 0x00010707, 0x00030000, 0x00040000, 0x00020101, 0x00020101, 0x00020101, 0x00020000, 0x00021F00, 0x00022F00] ++ List.replicate 5 tcReset }

def tiles (tm : Team) : State := small false thr0 tm (fun m => { m with cores := [(0, tileCore)] })

theorem met_TileAccessesComplete (H : Obligations.TileAccessesComplete) :
    (∃ t, exec (.ldt (P 8) (fm (.t 0) (.s 0) (.c 16) 5)) (tiles codeTeam) = .next t) ∧
    (∃ t, exec (.ldt (P 0x20) (fm (.t 2) (.s 8) (.c 0) 5)) (tiles codeTeam) = .next t) ∧
    (∃ t, exec (.stt (P 0) (fm (.t 0) (.s 8) (.c 0) 5)) (tiles codeTeam) = .next t) ∧ (∃ t, exec (.stt (P 0x10) (fm (.t 1) (.s 8) (.c 0) 5)) (tiles codeTeam) = .next t) ∧
    (∃ t, exec (.ldv (P 1) (fm (.v 2) (.s 8) (.c 0) 0)) (tiles codeTeam) = .next t) ∧ (∃ t, exec (.ldv (P 0) (fm (.t 0) (.s 8) (.c 0) 5)) (tiles codeTeam) = .next t) ∧
    (∃ t, exec (.pfx (P 0) (fm (.v 0) (.s 8) (.c 0) 5)) (tiles codeTeam) = .next t) := by
  refine ⟨run_of false (H _ _).1 (by decide) ?_, run_of false (H _ _).1 (by decide) ?_, run_of false (H _ _).2.1 (by decide) ?_, run_of false (H _ _).2.2.1 (by decide) ?_,
    run_of false ((H _ _).2.2.2.1 (by decide)) (by decide) ?_, run_of false ((H _ _).2.2.2.2.1 (by decide)) (by decide) ?_, run_of false (H _ _).2.2.2.2.2 (by decide) trivial⟩
  all_goals (try dsimp only [AddrRes.passes])
  all_goals decide +kernel

theorem met_AtomicsAndFencesComplete (H : Obligations.AtomicsAndFencesComplete) :
    (∃ t, exec (.atom (P 0x64) (fm (.v 2) (.s 8) (.c 0) 2)) s0 = .next t) ∧ (∃ t, exec (.atom (P 0x28) (fm (.s 2) (.s 0) (.c 0) 3)) s0 = .next t) ∧
    (∃ t, exec (.cas (P 5) (fm (.v 2) (.s 8) (.c 0) 2)) s0 = .next t) ∧ (∃ t, exec (.cas (P 7) (fm (.v 4) (.s 0) (.c 0) 3)) s0 = .next t) ∧
    (∃ t, exec (.red (P 9) (fm (.c 1) (.s 8) (.c 4) 2)) s0 = .next t) ∧ (∃ t, exec (.rfl (P 0) (fm (.v 0) (.v 0) (.v 0) 0)) s0 = .next t) ∧
    (∃ t, exec (.fence (P 3) { fm (.v 0) (.v 0) (.v 0) 0 with scope := 4 }) s0 = .next t) ∧
    (∃ t, exec (.atom (P 4) (fm (.v 2) (.s 14) (.c 0) 2)) s0 = .next t) ∧ (∃ t, exec (.cas (P 5) (fm (.v 2) (.s 10) (.c 0) 2)) s0 = .next t) := by
  refine ⟨run_of false (H _ _).1 (by decide) ?_, run_of false (H _ _).1 (by decide) ?_, run_of false (H _ _).2.1 (by decide) ?_, run_of false (H _ _).2.1 (by decide) ?_,
    run_of false (H _ _).2.2.1 (by decide) ?_, run_of false (H _ _).2.2.2.1 (by decide) trivial, run_of false (H _ _).2.2.2.2.1 (by decide) trivial,
    stop_of false (H _ _).2.2.2.2.2.1 (by decide) ⟨3, 1, ?_⟩, stop_of false (H _ _).2.2.2.2.2.2 (by decide) ⟨5, 0xF21E2000000000, ?_⟩⟩
  all_goals (try dsimp only [AddrRes.passes, mayStore])
  all_goals decide +kernel

theorem met_MonitorsAndQueuedWaitsComplete (H : Obligations.MonitorsAndQueuedWaitsComplete) :
    (∃ t, exec (.mon (P 0x57) (fm (.v 2) (.s 8) (.c 0) 3)) s0 = .next t) ∧
    (∃ t, exec (.mwt (P 0) { dst := .v 238, sa := .v 0, sb := .v 0, imm := 0xFFFFFFFF }) (small false { thr0 with mon := some mon0 } codeTeam id) = .next t) ∧
    (∃ t, exec (.mwt (P 0) { dst := .v 3, sa := .v 0, sb := .v 0, imm := 0 }) s0 = .next t) ∧ (∃ t, exec (.qwait (P 0) (fm (.v 0) (.s 8) (.c 0) 3)) s0 = .next t) ∧
    (∃ t, exec (.wake (P 0) (fm (.c 1) (.s 8) (.c 0) 3)) s0 = .next t) ∧ (∃ t, exec (.wake (P 0) (fm (.v 1) (.s 8) (.c 0) 3)) (withV [0, 65535]) = .next t) ∧
    (∃ t, exec (.wake (P 0) (fm (.c 0) (.s 8) (.c 0) 3)) s0 = .next t) ∧ (∃ t, exec (.wake (P 0) (fm (.c 0xA0) (.s 8) (.c 0) 3)) s0 = .next t) := by
  refine ⟨run_of false ((H _).1 _) (by decide) ?_, run_of false ((H _).2.1 _) (by decide) ⟨mon0, ?_⟩, stop_of false ((H _).2.2.1 _) (by decide) ?_,
    run_of false ((H _).2.2.2.1 _) (by decide) ?_, run_of false ((H _).2.2.2.2.1 _) (by decide) ?_, run_of false ((H _).2.2.2.2.1 _) (by decide) ?_,
    stop_of false ((H _).2.2.2.2.2 _) (by decide) ?_, stop_of false ((H _).2.2.2.2.2 _) (by decide) ?_⟩
  all_goals (try dsimp only [AddrRes.passes])
  all_goals decide +kernel

theorem met_BarriersAndArrivalsComplete (H : Obligations.BarriersAndArrivalsComplete) :
    (∃ t, exec (.bar (P 0x10) (fa (.v 0) (.v 0) (.v 0) (.v 0) 0 0)) s0 = .next t) ∧ (∃ t, exec (.bsc (P 0) (fa (.s 2) (.c 1) (.s 3) (.v 0) 3 0)) s0 = .next t) ∧
    (∃ t, exec (.arrvSet (P 0) (fa (.v 0) (.s 8) (.v 1) (.v 0) 0 0)) (withV [0, 0x0FFFFFFF]) = .next t) ∧ (∃ t, exec (.arrvAdd (P 0x10) (fa (.v 0) (.s 12) (.c 1) (.v 0) 0 0)) s0 = .next t) ∧
    (∃ t, exec (.awt (P 0) (fa (.v 2) (.s 8) (.v 1) (.v 0) 0 0)) s0 = .next t) ∧ (∃ t, exec (.arrvAdd (P 0x10) (fa (.v 0) (.s 8) (.v 1) (.v 0) 0 0)) (withV [0, 0x10000000]) = .next t) := by
  refine ⟨run_of false (H _ _).1 (by decide) trivial, run_of false (H _ _).2.1 (by decide) trivial, run_of false (H _ _).2.2.1 (by decide) ?_,
    run_of false (H _ _).2.2.2.1 (by decide) ?_, run_of false (H _ _).2.2.2.2.1 (by decide) ?_, stop_of false (H _ _).2.2.2.2.2 (by decide) ?_⟩
  all_goals (try dsimp only [AddrRes.passes, arrOk])
  all_goals decide +kernel

/-- A team whose queue 1 group 0 of role 0 feeds and drains. -/
def queueTeam : Team := { codeTeam with qrec := [0, 0x11], qmask := 2 }

theorem met_QueuesAndBudgetsCompleteOrTrap (H : Obligations.QueuesAndBudgetsCompleteOrTrap) :
    (∃ t, exec (.qpush (P 0) (fa (.v 0) (.s 2) (.v 0) (.v 0) 1 0)) (small false thr0 queueTeam id) = .next t) ∧
    (∃ t, exec (.qpop (P 0) (fa (.s 2) (.v 0) (.v 0) (.v 0) 1 0)) (small false thr0 queueTeam id) = .next t) ∧
    (∃ t, exec (.lend (P 0) (fa (.v 0) (.s 18) (.v 0) (.v 0) 0 0)) (withS 232) = .next t) ∧ (∃ t, exec (.claim (P 0) (fa (.v 0) (.c 8) (.v 0) (.v 0) 0 0)) s0 = .next t) ∧
    (∃ t, exec (.send (P 0) (fa (.p 1) (.c 1) (.v 4) (.v 0) (56 * 256 + 7) 3)) s0 = .next t) ∧ (∃ t, exec (.qpush (P 0) (fa (.v 0) (.s 2) (.v 0) (.v 0) 1 0)) s0 = .next t) ∧
    (∃ t, exec (.qpop (P 0) (fa (.s 2) (.v 0) (.v 0) (.v 0) 0 0)) (small false thr0 queueTeam id) = .next t) ∧ (∃ t, exec (.lend (P 0) (fa (.v 0) (.s 18) (.v 0) (.v 0) 0 0)) (withS 240) = .next t) ∧
    (∃ t, exec (.lend (P 0) (fa (.v 0) (.c 7) (.v 0) (.v 0) 0 0)) s0 = .next t) ∧ (∃ t, exec (.claim (P 0) (fa (.v 0) (.c 16) (.v 0) (.v 0) 0 0)) s0 = .next t) ∧
    (∃ t, exec (.send (P 0) (fa (.p 1) (.c 2) (.v 0) (.v 0) 0 1)) s0 = .next t) ∧ (∃ t, exec (.send (P 0) (fa (.p 1) (.c 0x9C) (.v 0) (.v 0) 0 1)) s0 = .next t) := by
  refine ⟨run_of false (H _ _).1 (by decide) ?_, run_of false (H _ _).2.1 (by decide) ?_, run_of false (H _ _).2.2.1 (by decide) ?_, run_of false (H _ _).2.2.2.1 (by decide) ?_,
    run_of false (H _ _).2.2.2.2.1 (by decide) ?_, stop_of false (H _ _).2.2.2.2.2.1 (by decide) ?_, stop_of false (H _ _).2.2.2.2.2.2.1 (by decide) ?_,
    stop_of false (H _ _).2.2.2.2.2.2.2.1 (by decide) ?_, stop_of false (H _ _).2.2.2.2.2.2.2.1 (by decide) ?_, stop_of false (H _ _).2.2.2.2.2.2.2.2.1 (by decide) ?_,
    stop_of false (H _ _).2.2.2.2.2.2.2.2.2 (by decide) ?_, stop_of false (H _ _).2.2.2.2.2.2.2.2.2 (by decide) ?_⟩
  all_goals (try dsimp only [budgets])
  all_goals decide +kernel

/-! Engines: at address 0 the descriptor of a copy of one row of 4 bytes from 256 to 512, at 128 a card of 2 × 2 numbers of f32 at 512, at 256 the block of a contraction of that card with itself. -/

def cardBody : Nat := fieldsAt [(0, 512), (64, 2), (96, 2), (128, 1), (160, 1), (192, 1), (224, 4), (256, 8), (384, 2), (392, 1), (960, 1)]
def card : Nat := cardBody + crc32c (toBytes 124 cardBody) * 2 ^ 992
def xblock : Nat :=
  fieldsAt [(0, 128), (64, 128), (128, 128), (192, 2), (224, 2), (256, 2), (384, 0), (387, 2), (390, 511), (399, 2), (402, 1), (405, 511), (414, 0), (417, 1), (420, 511), (442, 1)]
def page : List Byte := toBytes 128 (fieldsAt [(0, 256), (64, 512), (192, 4), (224, 1)]) ++ toBytes 128 card ++ toBytes 128 xblock

def engines (imgs : List Nat) : State :=
  let s := small false thr0 codeTeam (fun m => { m with
    mem := memWrite [] codeHome page, cores := [(0, tileCore)], groups := [(0, { grp0 thr0 with s := [128, 0, 256, 0] ++ scal.drop 4 })] })
  { s with sys := { s.sys with dev := { s.sys.dev with images := imgs } } }

theorem met_CopiesAndRetrievalComplete (H : Obligations.CopiesAndRetrievalComplete) :
    (∃ t, exec (.cpy (P 0) (fe (.v 0) (.s 4) (.c 0) (.s 8) 0xBFF000 0)) (engines []) = .next t) ∧
    (∃ t, exec (.cpym (P 0) (fe (.v 0) (.s 2) (.s 4) (.c 0) 4 (BitVec.ofNat 96 (3 * 2 ^ 68)))) (engines []) = .next t) ∧
    (∃ t, exec (.rfet (P 0) (fe (.v 2) (.s 0) (.v 0) (.v 0) 1 0)) (engines []) = .next t) ∧
    (∃ t, exec (.rfett (P 0) (fe (.t 0) (.s 0) (.s 4) (.v 0) 0 0)) (engines []) = .next t) ∧
    (∃ t, exec (.cseal (P 0) (fe (.v 0) (.s 0) (.v 0) (.v 0) 0 0)) (engines []) = .next t) := by
  refine ⟨run_of false (H _ _).1 (by decide) ?_, run_of false (H _ _).2.1 (by decide) ⟨?_, ?_, ⟨none, eq_ok ?_⟩, ⟨none, eq_ok ?_⟩, ?_, ?_, ?_⟩,
    run_of false (H _ _).2.2.1 (by decide) ⟨cardOf card, .ty .f32, eq_ok ?_, ?_, ?_⟩,
    run_of false (H _ _).2.2.2.1 (by decide) ⟨?_, cardOf card, eq_ok ?_, ?_⟩, run_of false (H _ _).2.2.2.2 (by decide) ?_⟩
  all_goals (try dsimp only [AddrRes.passes])
  all_goals decide +kernel

/-- A team that holds tile 0 alone. -/
def few : Team := { codeTeam with tiles := 1 }

theorem met_TileInstructionsCompleteOrTrap (H : Obligations.TileInstructionsCompleteOrTrap) :
    (∃ t, exec (.tzro (P 0) (fa (.t 15) (.v 0) (.v 0) (.v 0) 0 0)) (tiles codeTeam) = .next t) ∧ (∃ t, exec (.tmov (P 0) (fa (.t 1) (.t 0) (.v 0) (.v 0) 0 0)) (tiles codeTeam) = .next t) ∧
    (∃ t, exec (.trmxGet (P 0) (fa (.v 2) (.t 0) (.v 0) (.v 0) 0x003 1)) (tiles codeTeam) = .next t) ∧ (∃ t, exec (.trmxPut (P 1) (fa (.t 3) (.v 2) (.v 0) (.v 0) 0 0)) (tiles codeTeam) = .next t) ∧
    (∃ t, exec (.kbnd (P 0) (fa (.v 2) (.t 0) (.t 0) (.s 4) 0 0)) (tiles codeTeam) = .next t) ∧ (∃ t, exec (.mma (P 0x14) (fa (.t 7) (.t 5) (.t 6) (.v 0) 0 0)) (tiles codeTeam) = .next t) ∧
    (∃ t, exec (.mma (P 0x24) (fa (.t 7) (.t 5) (.t 6) (.s 8) 0 0)) (tiles codeTeam) = .next t) ∧ (∃ t, exec (.mma (P 8) (fa (.t 8) (.t 4) (.t 4) (.t 1) 0 5)) (tiles codeTeam) = .next t) ∧
    (∃ t, exec (.mmsp (P 4) (fa (.t 8) (.t 9) (.t 10) (.v 0) 0 0)) (tiles codeTeam) = .next t) ∧
    (∃ t, exec (.tzro (P 0) (fa (.t 15) (.v 0) (.v 0) (.v 0) 0 0)) (tiles few) = .next t) ∧ (∃ t, exec (.tmov (P 0) (fa (.t 0) (.t 1) (.v 0) (.v 0) 0 0)) (tiles few) = .next t) ∧
    (∃ t, exec (.mma (P 0) (fa (.t 1) (.t 0) (.t 0) (.v 0) 0 0)) (tiles few) = .next t) := by
  refine ⟨run_of false (H _ _).1 (by decide) ?_, run_of false (H _ _).2.1 (by decide) ?_, run_of false (H _ _).2.2.1 (by decide) ?_, run_of false (H _ _).2.2.2.1 (by decide) ?_,
    run_of false (H _ _).2.2.2.2.1 (by decide) ?_, run_of false (H _ _).2.2.2.2.2.1 (by decide) ⟨?_, ?_, none, eq_ok ?_⟩, run_of false (H _ _).2.2.2.2.2.1 (by decide) ⟨?_, ?_, some (2 ^ 38, 0), eq_ok ?_⟩,
    run_of false (H _ _).2.2.2.2.2.1 (by decide) ⟨?_, ?_, none, eq_ok ?_⟩, run_of false (H _ _).2.2.2.2.2.2.1 (by decide) ?_,
    stop_of false (H _ _).2.2.2.2.2.2.2.1 (by decide) ?_, stop_of false (H _ _).2.2.2.2.2.2.2.2.1 (by decide) ?_, stop_of false (H _ _).2.2.2.2.2.2.2.2.2 (by decide) ?_⟩
  all_goals decide +kernel

/-! Records, loops and the system. -/

/-- The small state with a standing team of graph 0, whose one node has one block, and a dispatch of one record. -/
def recs (d : Option Disp) : State :=
  small false thr0 graphTeam (fun m => { m with graphs := [(0, goneGraph)], groups := [(0, { grp0 thr0 with s := setAt scal 1 1, disp := d })] })

def disp0 : Disp := { graph := 0, node := 0, blk := 0, count := 1, rsz := 0, base := 0, launchAt := none, recs := [], doneSn := none }

theorem met_RecordInstructionsCompleteOrTrap (H : Obligations.RecordInstructionsCompleteOrTrap) :
    (∃ t, exec (.ralc (P 0) (fa (.p 6) (.c 0) (.c 32) (.v 0) 0 0)) (recs none) = .next t) ∧ (∃ t, exec (.rput (P 0) (fa (.p 1) (.v 4) (.v 8) (.v 0) 15 0)) (recs none) = .next t) ∧
    (∃ t, exec (.rputIn (P 1) (fa (.p 1) (.v 4) (.v 0) (.v 0) 0 0)) (recs none) = .next t) ∧ (∃ t, exec (.rget (P 0) (fa (.v 4) (.c 1) (.v 0) (.v 0) 0 0)) (recs (some disp0)) = .next t) ∧
    (∃ t, exec (.rget (P 0) (fa (.v 4) (.c 0) (.v 0) (.v 0) 15 0)) (recs (some disp0)) = .next t) ∧ (∃ t, exec (.rdon (P 0) (fa (.v 0) (.v 0) (.v 0) (.v 0) 0 0)) (recs none) = .next t) ∧
    (∃ t, exec (.rsd (P 0) (fa (.v 0) (.c 0) (.c 1) (.v 0) 0 0)) (recs none) = .next t) ∧ (∃ t, exec (.post (P 0) (fa (.v 0) (.c 1) (.v 0) (.v 0) 3 0)) (small false thr0 gridTeam id) = .next t) ∧
    (∃ t, exec (.snap (P 0) (fa (.v 4) (.c 0) (.v 0) (.v 0) 0x40 0)) (recs none) = .next t) ∧ (∃ t, exec (.post (P 0) (fa (.v 0) (.c 1) (.v 0) (.v 0) 3 0)) s0 = .next t) ∧
    (∃ t, exec (.rsd (P 0) (fa (.v 0) (.c 1) (.c 1) (.v 0) 0 0)) (recs none) = .next t) ∧ (∃ t, exec (.rsd (P 0) (fa (.v 0) (.c 0) (.c 0xA4) (.v 0) 0 0)) (recs none) = .next t) := by
  refine ⟨run_of false (H _ _).1 (by decide) ⟨0, ?_⟩, run_of false (H _ _).2.1 (by decide) ⟨0, ?_⟩, run_of false (H _ _).2.2.1 (by decide) ⟨0, ?_⟩,
    run_of false (H _ _).2.2.2.1 (by decide) ⟨⟨0, ?_⟩, ?_⟩, run_of false (H _ _).2.2.2.2.1 (by decide) ⟨⟨0, ?_⟩, ?_⟩, run_of false (H _ _).2.2.2.2.2.1 (by decide) ⟨0, ?_⟩,
    run_of false (H _ _).2.2.2.2.2.2.1 (by decide) ⟨0, ?_⟩, run_of false (H _ _).2.2.2.2.2.2.2.1 (by decide) ?_, run_of false (H _ _).2.2.2.2.2.2.2.2.1 (by decide) ⟨0, eq_ok ?_, ?_⟩,
    stop_of false (H _ _).2.2.2.2.2.2.2.2.2.2.1 (by decide) ?_, stop_of false (H _ _).2.2.2.2.2.2.2.2.2.2.2 (by decide) ⟨0, ?_⟩,
    stop_of false (H _ _).2.2.2.2.2.2.2.2.2.2.2 (by decide) ⟨0, ?_⟩⟩
  all_goals decide +kernel

theorem met_RecordInstructionsCompleteOrTrap_noGraph : (teamOf s0.m 0).graph = none ∧
    ∀ i ∈ [Instr.ralc (P 0) (fa (.p 6) (.c 0) (.c 32) (.v 0) 0 0), .rput (P 0) (fa (.p 1) (.v 4) (.v 8) (.v 0) 1 0), .rputIn (P 1) (fa (.p 1) (.v 4) (.v 8) (.v 0) 1 0),
      .rget (P 0) (fa (.v 4) (.c 1) (.v 0) (.v 0) 0 0), .rdon (P 0) (fa (.v 0) (.v 0) (.v 0) (.v 0) 0 0), .rsd (P 0) (fa (.v 0) (.c 0) (.c 1) (.v 0) 0 0)],
    ∃ h, hdrOfInstr i = some h ∧ Solo i h s0 (cu0 false) 0 :=
  ⟨by decide, fun i hi => let ⟨h, e, a⟩ := acts_all (s := s0) (cu := cu0 false) (by decide) i hi; ⟨h, e, a, rfl⟩⟩

/-- A nest of two elements of n32 with its bases at s8, the first operand's stride one word. -/
def nestWord (nop : Nat) : FL :=
  { body := BitVec.ofNat 256 (fieldsAt [(0, 8), (7, if nop = 1 then 8 else 0), (14, 8), (21, 5), (25, nop), (29, 1), (79, 4)]) }

theorem met_LoopsAndContractionComplete (H : Obligations.LoopsAndContractionComplete) :
    (∃ t, exec (.nest (P 0) (nestWord 0)) s0 = .next t) ∧ (∃ t, exec (.nred (P 0) (nestWord 0)) s0 = .next t) ∧ (∃ t, exec (.nred (P 0) (nestWord 1)) s0 = .next t) ∧
    (∃ t, exec (.xcon (P 0) (fe (.v 0) (.s 2) (.v 0) (.v 0) 0x4C 0)) (engines [3]) = .next t) ∧ (∃ t, exec (.xcon (P 0) (fe (.v 0) (.s 2) (.v 0) (.v 0) 0x40 0)) (engines []) = .next t) := by
  refine ⟨run_of false ((H _).1 _) (by decide +kernel) ?_, run_of false ((H _).2.1 _) (by decide +kernel) ?_, run_of false ((H _).2.1 _) (by decide +kernel) ?_,
    run_of false ((H _).2.2.1 _) (by decide) ⟨?_, ?_, ?_, cardOf card, cardOf card, cardOf card, eq_ok ?_, eq_ok ?_, eq_ok ?_, ?_⟩, stop_of false ((H _).2.2.2 _) (by decide) ?_⟩
  all_goals (try dsimp only [AddrRes.passes])
  all_goals decide +kernel

theorem met_SystemInstructionsComplete_conditions (H : Obligations.SystemInstructionsComplete) :
    (∃ t, exec (.tret (P 0) (fs (.v 0) (.v 0) 0)) (code true 0 [] id) = .next t) ∧ (∃ t, exec (.plcw (P 0) (fs (.v 0) (.s 16) 8)) s1 = .next t) ∧
    (∃ t, exec (.diag (P 0) { fs (.s 3) (.v 0) 0x23 with place := 1 }) s1 = .next t) ∧
    (∃ t, exec (.xinv (P 0) { dst := .v 0, sa := .s 0, sb := .c 1, place := 0, sys := 2 }) s1 = .next t) := by
  refine ⟨run_of true (H _ _).1 (by decide) ?_, run_of true (H _ _).2.2.2.2.2.1 (by decide) ⟨0, eq_ok ?_⟩, run_of true (H _ _).2.2.2.2.2.2.1 (by decide) ⟨1, eq_ok ?_⟩,
    run_of true (H _ _).2.2.2.2.2.2.2.1 (by decide) ?_⟩
  all_goals decide +kernel

/-! Steps of the device, at clock 5 with no set selected. -/

/-- The small state of a thread and a team, at clock 5. -/
def dev (th : Thread) (tm : Team) (f : Mach → Mach) : State :=
  let s := small false th tm (fun m => f { m with cur := none })
  { s with clk := { s.clk with now := 5, phase := 3 } }

def d0 (f : Mach → Mach) : State := dev thr0 codeTeam f

/-- A message of the thread, due at its home. -/
def msg (dst : Nat) (b : Body) : Msg :=
  { id := 1, due := 5, src := 0, dst := dst, recCls := false, die := 0, dieTo := 0, epoch := 0, vc := [0, 0, 0, 0], thr := some { g := 0, lane := 0 },
    who := [0], scope := 0, know := [], frel := none, acq := false, rel := false, wr := false, back := 4, stage := .flight, bad := false, op := 1, body := b }

theorem atHome_of {s : State} {id : Nat} {x : Msg}
    (h : (decide (msgOf s.m id = some x) && performable s.env s.m x && !toIsolated s.m x && !mustDefer s.env s.m x && !deferFull s.m x && sendable s.m x && !behindPost s.env s.m x) = true) : AtHome s id x := by
  simp only [Bool.and_eq_true, decide_eq_true_eq, Bool.not_eq_true'] at h
  exact ⟨h.1.1.1.1.1.1, h.1.1.1.1.1.2, h.1.1.1.1.2, h.1.1.1.2, h.1.1.2, h.1.2, h.2⟩

theorem first_of {α : Type} {l : List α} {Q : α → Prop} {a : α} {r : List α} (e : l = a :: r) (h : Q a) : FirstAt l Q 0 a :=
  ⟨by rw [e]; rfl, h, fun j _ hj => absurd hj (Nat.not_lt_zero j)⟩

theorem met_ResultsLand (H : Obligations.ResultsLand) :
    (∃ t, Takes .resultLand (d0 (fun m => { m with pending := [{ tm := 5, wr := [.v 0 0 239 1 0], tok := [], wake := [] }] })) t) ∧
    ∃ t, Takes .resultLand (d0 (fun m => { m with cores := [(0, { Core.initial with isol := true })], pending := [{ tm := 5, wr := [], tok := [], wake := [], far := some 0 }] })) t :=
  ⟨⟨_, (H (d0 (fun m => { m with pending := [{ tm := 5, wr := [.v 0 0 239 1 0], tok := [], wake := [] }] })) 0 _ (first_of rfl (by decide))).1 (fun c h => nomatch h)⟩,
    ⟨_, (H (d0 (fun m => { m with cores := [(0, { Core.initial with isol := true })], pending := [{ tm := 5, wr := [], tok := [], wake := [], far := some 0 }] })) 0 _
      (first_of rfl (by decide))).2 0 rfl (by decide +kernel)⟩⟩

/-- Home units hold memory for a queue with room, one with an entry, a ring, and a loaded graph. -/
def homes (x : Msg) : State :=
  d0 (fun m => { m with
    mem := memWrite (memWrite [] (2 ^ 52) (toBytes 16 (fieldsAt [(112, 2), (96, 1)]))) (2 ^ 52 + 2 ^ 20) (toBytes 16 (fieldsAt [(80, 2), (96, 1)])),
    cores := [(1, { Core.initial with ring := setAt Core.initial.ring 0 0x8000 })], graphs := [(0, goneGraph)], flight := [x] })

/-- Messages of every kind that a clause names, in the order of the clauses. -/
def kinds : List Msg :=
  [msg 0 (.store [(2 ^ 52 + 64, [1])] false true), msg 1000 (.metaRead 0 (.v 2) 0 0), msg 1300 (.trigger 0 3), msg 0 (.push (2 ^ 52) 0 0 7), msg 0 (.pop (2 ^ 52) 0 0 (.s 2) none 0 0),
    msg 1 (.ring 1 0 0 [1, 2] 1), msg 0 (.arrInc (2 ^ 52 + 64) 1 0), msg 1000 (.colophon 8 5 0), msg 1200 (.input 0 (List.replicate 16 0) 0), msg 1200 (.record 0 (List.replicate 16 0) 0),
    msg 1200 (.rsd 0 0 0 0x3F800000), msg 1200 (.rput 0 (List.replicate 16 0) 0 false 1), msg 1 (.outcome 1 3), msg 1200 (.ralc 0 0 1 1 [0]), msg 1200 (.snap 0 0 0 (.v 4) none), msg 0 (.inval none 0 1 0 0)]

theorem kinds_at_home : ∀ x ∈ kinds, AtHome (homes x) 1 x := fun x hx => atHome_of
  ((show ∀ x ∈ kinds, (decide (msgOf (homes x).m 1 = some x) && performable (homes x).env (homes x).m x && !toIsolated (homes x).m x && !mustDefer (homes x).env (homes x).m x
    && !deferFull (homes x).m x && sendable (homes x).m x && !behindPost (homes x).env (homes x).m x) = true by decide +kernel) x hx)

theorem kind_at {k : Nat} {x : Msg} (h : kinds[k]? = some x) : AtHome (homes x) 1 x := kinds_at_home x (List.mem_of_getElem? h)

/-- The graph that `homes` holds. -/
theorem homes_graph (x : Msg) : tget (homes x).m.graphs 0 = some goneGraph := rfl

theorem met_MessagesArePerformed (H : Obligations.MessagesArePerformed) :
    (∃ i t x, Takes (.memoryAccessPerform i) (homes x) t) ∧ (∃ i t x, Takes (.handQueueApply i) (homes x) t) ∧ (∃ i t x, Takes (.inboxMessageArrival i) (homes x) t) ∧
    (∃ i t x, Takes (.arrivalIncrement i) (homes x) t) ∧ (∃ i t x, Takes (.colophonWrite i) (homes x) t) ∧ (∃ i t x, Takes (.inputAccession i) (homes x) t) ∧
    (∃ i t x, Takes (.recordArrival i) (homes x) t) ∧ (∃ i t x, Takes (.residualPostApply i) (homes x) t) ∧ (∃ i t x, Takes (.catalogueAnswer i) (homes x) t) := by
  obtain ⟨a, _⟩ := H _ 1 _ (kind_at (k := 0) rfl)
  obtain ⟨_, _, b, _⟩ := H _ 1 _ (kind_at (k := 3) rfl)
  obtain ⟨_, _, _, _, _, c, _⟩ := H _ 1 _ (kind_at (k := 5) rfl)
  obtain ⟨_, _, _, _, _, _, _, d, _⟩ := H _ 1 _ (kind_at (k := 6) rfl)
  obtain ⟨_, _, _, _, _, _, _, _, _, f, _⟩ := H _ 1 _ (kind_at (k := 7) rfl)
  obtain ⟨_, _, _, _, _, _, _, _, _, _, g, _⟩ := H _ 1 _ (kind_at (k := 8) rfl)
  obtain ⟨_, _, _, _, _, _, _, _, _, _, _, h, _⟩ := H _ 1 _ (kind_at (k := 9) rfl)
  obtain ⟨_, _, _, _, _, _, _, _, _, _, _, _, i, _⟩ := H _ 1 _ (kind_at (k := 10) rfl)
  obtain ⟨_, _, _, _, _, _, _, _, _, _, _, _, _, j, _⟩ := H _ 1 _ (kind_at (k := 13) rfl)
  exact ⟨⟨1, _, _, a rfl (fun p g h => nomatch h)⟩, ⟨1, _, _, b rfl⟩, ⟨1, _, _, c rfl⟩, ⟨1, _, _, d rfl⟩, ⟨1, _, _, f 8 5 0 rfl⟩, ⟨1, _, _, g 0 _ 0 _ rfl rfl⟩,
    ⟨1, _, _, (h 0 _ 0 _ rfl rfl).1 (by decide +kernel)⟩, ⟨1, _, _, (i 0 0 0 _ _ rfl rfl).1 (by decide +kernel)⟩, ⟨1, _, _, j rfl⟩⟩

/-- The clauses about one kind: a trigger, a queue, a ring with room and one whose slot is not in use, an arrival word, the answers. -/
theorem met_MessagesArePerformed_kinds (H : Obligations.MessagesArePerformed) :
    (∃ t, Takes (.memoryAccessPerform 1) (homes (msg 1300 (.trigger 0 3))) t) ∧ (∃ t, Takes (.handQueueApply 1) (homes (msg 0 (.push (2 ^ 52) 0 0 7))) t) ∧
    (∃ t, Takes (.handQueueApply 1) (homes (msg 0 (.pop (2 ^ 52) 0 0 (.s 2) none 0 0))) t) ∧ (∃ t, Takes (.inboxMessageArrival 1) (homes (msg 1 (.ring 1 0 0 [1, 2] 1))) t) ∧
    (∃ t, Takes (.arrivalIncrement 1) (homes (msg 0 (.arrInc (2 ^ 52 + 64) 1 0))) t) ∧ (∃ t, Takes (.catalogueAnswer 1) (homes (msg 1200 (.rput 0 (List.replicate 16 0) 0 false 1))) t) ∧
    (∃ t, Takes (.catalogueAnswer 1) (homes (msg 1 (.outcome 1 3))) t) ∧ (∃ t, Takes (.catalogueAnswer 1) (homes (msg 1200 (.ralc 0 0 1 1 [0]))) t) ∧
    (∃ t, Takes (.catalogueAnswer 1) (homes (msg 1200 (.snap 0 0 0 (.v 4) none))) t) ∧ (∃ t, Takes (.memoryAccessPerform 1) (homes (msg 0 (.inval none 0 1 0 0))) t) := by
  obtain ⟨_, a, _⟩ := H _ 1 _ (kind_at (k := 2) rfl)
  obtain ⟨_, _, _, b, _⟩ := H _ 1 _ (kind_at (k := 3) rfl)
  obtain ⟨_, _, _, _, c, _⟩ := H _ 1 _ (kind_at (k := 4) rfl)
  obtain ⟨_, _, _, _, _, _, d, _⟩ := H _ 1 _ (kind_at (k := 5) rfl)
  obtain ⟨_, _, _, _, _, _, _, _, f, _⟩ := H _ 1 _ (kind_at (k := 6) rfl)
  obtain ⟨_, _, _, _, _, _, _, _, _, _, _, _, _, _, g, _⟩ := H _ 1 _ (kind_at (k := 11) rfl)
  obtain ⟨_, _, _, _, _, _, _, _, _, _, _, _, _, _, _, h, _⟩ := H _ 1 _ (kind_at (k := 12) rfl)
  obtain ⟨_, _, _, _, _, _, _, _, _, _, _, _, _, _, _, _, i, _⟩ := H _ 1 _ (kind_at (k := 13) rfl)
  obtain ⟨_, _, _, _, _, _, _, _, _, _, _, _, _, _, _, _, _, j, _⟩ := H _ 1 _ (kind_at (k := 14) rfl)
  obtain ⟨_, _, _, _, _, _, _, _, _, _, _, _, _, _, _, _, _, _, v⟩ := H _ 1 _ (kind_at (k := 15) rfl)
  exact ⟨⟨_, a 0 3 rfl⟩, ⟨_, b _ _ _ _ rfl⟩, ⟨_, (c _ _ _ _ _ _ _ rfl rfl).2⟩, ⟨_, ((d _ _ _ _ _ rfl).2.2 0 (by decide +kernel) (by decide)).1 (by decide +kernel) (by decide +kernel)⟩,
    ⟨_, (f _ _ _ rfl).1 (by decide +kernel)⟩, ⟨_, (g _ _ _ _ _ _ rfl rfl).2.1 (eq_error (by decide +kernel))⟩, ⟨_, (h _ _ _ rfl rfl).2 (.inl (by decide +kernel))⟩,
    ⟨_, (i _ _ _ _ _ _ rfl rfl).2 (.inr (by decide +kernel))⟩, ⟨_, j _ _ _ _ _ rfl⟩, ⟨_, v _ _ _ _ _ rfl⟩⟩

def held : Msg := { msg 0 (.store [] false true) with stage := .held }

/-- A ring of core 1 that a marker of sender 3 waits for. -/
def marked (m : Mach) : Mach :=
  { m with
    mem := memWrite [] (2 ^ 52 + 2 ^ 20) (toBytes 16 (fieldsAt [(80, 12), (96, 1)])),
    cores := [(1, { Core.initial with ring := setAt Core.initial.ring 0 0x8000, markers := [(3, 0)] })] }

theorem met_WaitsAtHomesEnd (H : Obligations.WaitsAtHomesEnd) :
    (∃ t, Takes (.causalBufferRelease 1) (d0 (fun m => { m with flight := [held] })) t) ∧
    (∃ t, Takes (.senderResetMarker 1 0) (d0 marked) t) ∧
    (∃ t, Takes (.monitorPoll 0 0) (dev { thr0 with mon := some { mon0 with poll := some 5 } } codeTeam id) t) ∧
    (∃ t, Takes (.mwtTimeout 0 0) (dev { thr0 with mon := some mon0, wait := .mwt (some 5) (.v 2), lastIssue := 5 } codeTeam id) t) ∧
    (∃ t, Takes .qwaitRetry (d0 (fun m => { m with retries := [(2 ^ 52, { g := 0, lane := 0 }, 5)] })) t) := by
  refine ⟨⟨_, (H _).1 1 _ (rfl : _ = some _) (by decide +kernel) (by decide +kernel)⟩, ⟨_, (H _).2.1 1 0 3 (by decide +kernel) (by decide +kernel)⟩,
    ⟨_, (H _).2.2.2.1 0 0 _ 5 (rfl : _ = some _) (by decide +kernel) (by decide +kernel) (by decide +kernel) (by decide +kernel)⟩,
    ⟨_, (H _).2.2.2.2.1 0 0 5 (.v 2) (by decide +kernel) (by decide +kernel) (by decide +kernel) ?_⟩, ⟨_, (H _).2.2.2.2.2 0 _ _ 5 (first_of rfl (by decide +kernel))⟩⟩
  intro mo h
  obtain rfl : mon0 = mo := Option.some.inj h
  exact ⟨fun _ => ⟨rfl, rfl⟩, fun v tm h => nomatch h⟩

/-- A claim of eight registers, issued at clock 4. -/
def claim0 : Claim := { id := 9, who := [{ g := 0, lane := 0 }], n := 8, tm := 4, call := none, toks := [] }

/-- A thread that waits for a claim. -/
def waiter (w : Wait) : Thread := { thr0 with wait := w, lastIssue := 4 }

/-- Barrier 0 of the team, or the barrier of grid 0 on more dies than one, satisfied at clock 0 and due at clock 18 or 72. -/
def barState (grid : Bool) : State :=
  let s := dev { thr0 with wait := .bar 0 } { codeTeam with bars := [{ sat := some 0, flushed := some 4 }] }
    (fun m => { m with grids := [(0, { lp := [], scal := [], maps := [], part := 0, nteam := 1, started := 1, comp := false, res := [], gbar := { sat := some 0, flushed := some 0 }, multi := true, die := 0, node := false })] })
  { s with clk := { s.clk with now := if grid then 72 else 18 } }

theorem met_ClaimsAndBarriersRelease (H : Obligations.ClaimsAndBarriersRelease) :
    (∃ t, Takes (.claimGrant 9) (dev (waiter .claim) { codeTeam with claims := [claim0] } id) t) ∧
    (∃ t, Takes (.deadlockDetect 0) (dev (waiter .claim) { codeTeam with claims := [claim0], sh := [240, 0], dlAt := some 5 } id) t) ∧
    (∃ t, Takes (.cvwRelease 0 3) (d0 (fun m => { m with groups := [(0, { grp0 (waiter (.cvw 3)) with cbm := [0, 0, 0, 1], lastIssue := 4 })] })) t) ∧
    (∃ t, Takes (.barDeparture 0) (barState false) t) ∧
    (∃ t, Takes (.barDeparture 4) (barState true) t) ∧
    (∃ t, Takes (.atomicBufferDrain 2) (d0 (fun m => { m with flushes := [(2, { slots := [0], g := 0, out := 0, ackAt := 5, toks := [], bar := none })] })) t) := by
  refine ⟨⟨_, (H _).1 9 0 claim0 (by decide +kernel) (by decide +kernel) (by decide +kernel) (by decide +kernel) (by decide +kernel)⟩,
    ⟨_, (H _).2.1 0 5 (by decide +kernel) (by decide +kernel) (by decide +kernel)⟩, ⟨_, (H _).2.2.1 0 3 (by decide +kernel) (by decide +kernel) (by decide +kernel)⟩,
    ⟨_, (H _).2.2.2.1 0 0 4 (by decide +kernel) (by decide +kernel) (by decide +kernel)⟩, ⟨_, (H _).2.2.2.1 4 0 0 (by decide +kernel) (by decide +kernel) (by decide +kernel)⟩,
    ⟨_, (H _).2.2.2.2 2 _ 0 [] (rfl : _ = some _) rfl rfl (by decide +kernel)⟩⟩

/-- A walk due now, in a partition whose tables begin at page `root`. -/
def walking (root : Nat) : State :=
  let s := d0 (fun m => { m with walks := [{ die := 0, part := 0, page := 1, root := root, due := some 5, who := [], fills := [], engs := [] }] })
  { s with sys := { s.sys with parts := [(0, { Part.initial with root := root })] } }

def chan0 (n : Nat) : Chan := { n := n, col := none, arr := none, stamp := 0, slices := [(0, [0, 0, 0, 0, 0, 0, 1])], toks := [] }

def copy0 (x : Option XCon) (todo : List CRow) (cols : List Nat) : Copy :=
  { cpymCopy (logCtx 0 0 0) Mach.reset 0 0 0 [] none none 0 with after := [], todo := todo, cols := cols, xcon := x }

def row0 : CRow := { core := 0, src := 0, dst := 256, len := 4 }

def xcon0 : XCon := { block := 0, cards := [0, 0, 0], tile := 0, cnt := 4, mode := 0, fm := [], blk := 16, kpos := 0, accs := [], nexts := [], hia := false, hib := false, posted := false }

def copying (cp : Copy) : State := d0 (fun m => { m with copies := [(7, cp)] })

/-- A posting of a pass of one element, made at clock 4, and one granted that completes at clock 5. -/
def req0 : MReq :=
  { g := 0, lane := 0, pc := 0, tm := 4, pri := 0, fmt := 4, sparse := false, z := true, c := 0, a := 1, b := 2, sc := none, m := 1, n := 1, k := 1, acols := 1, w := 32,
    fm := 0, rows := [0], zs := none, mode := 0, toks := [], xc := none }

def matrix : State :=
  d0 (fun m => { m with clusters := [(0, { Cluster.initial with table := [req0], granted := [(req0, { tm := 5, wr := [], tok := [], wake := [] })] })] })

theorem met_WalksAndEnginesStep (H : Obligations.WalksAndEnginesStep) :
    (∃ t, Takes .pageWalk (walking (2 ^ 29)) t) ∧ exec .pageWalk (walking (2 ^ 27)) = .fault (.noHome (2 ^ 39)) ∧
    (∃ t, Takes (.copyInstanceStart 0 15) (dev thr0 { codeTeam with chans := [(15, chan0 1)] } id) t) ∧
    (∃ t, Takes (.copyInstanceStart 0 15) (dev thr0 { codeTeam with chans := [(15, chan0 3)] } id) t) ∧
    (∃ t, Takes (.enginePacketWrite 7) (copying (copy0 (some xcon0) [] [])) t) ∧
    (∃ t, Takes (.enginePacketWrite 7) (copying (copy0 none [row0] [])) t) ∧
    (∃ t, Takes (.enginePacketWrite 7) (copying (copy0 none [] [8])) t) ∧ (∃ t, Takes (.matrixGrant 0) matrix t) ∧ (∃ t, Takes (.matrixPassComplete 0) matrix t) := by
  refine ⟨⟨_, ((H (walking (2 ^ 29))).1 0 _ (first_of rfl ⟨5, rfl, by decide⟩) (fun pa h => ?_)).1 (fun w2 h => nomatch h)⟩, (H (walking (2 ^ 27))).2.1 0 _ _ (first_of rfl ⟨5, rfl, by decide⟩) (by decide +kernel),
    ⟨_, (H _).2.2.1 0 15 (chan0 1) (by decide +kernel) (by decide +kernel)⟩, ⟨_, (H _).2.2.1 0 15 (chan0 3) (by decide +kernel) (by decide +kernel)⟩,
    ⟨_, ((H _).2.2.2.1 7 (copy0 (some xcon0) [] []) (by decide +kernel) rfl (by decide +kernel) (by decide +kernel) (by decide +kernel)).1 xcon0 rfl (by decide +kernel)⟩,
    ⟨_, ((H _).2.2.2.1 7 (copy0 none [row0] []) (by decide +kernel) rfl (by decide +kernel) (by decide +kernel) (by decide +kernel)).2.1 _ [] rfl rfl⟩,
    ⟨_, ((H _).2.2.2.1 7 (copy0 none [] [8]) (by decide +kernel) rfl (by decide +kernel) (by decide +kernel) (by decide +kernel)).2.2 rfl rfl rfl rfl (by decide) rfl⟩,
    ⟨_, (H _).2.2.2.2.1 0 req0 0 (by decide +kernel) (by decide +kernel)⟩, ⟨_, (H _).2.2.2.2.2 0 req0 _ [] (rfl : _ = _ :: _) (by decide +kernel)⟩⟩
  exact absurd h (by
    have e : walkVa (walking (2 ^ 29)).m (2 ^ 29) (1 * 4096) = .none := by decide +kernel
    intro h2; exact WalkRes.noConfusion (e.symm.trans h2))

/-! A running graph of one node with one block, and its standing team on core 0. -/

def blk0 : Block := { goneBlock with res := 0x3F800000, active := true, lapsed := true, raise := 3 }

def running (b : Block) (f : Graph → Graph) : State :=
  let s := dev thr0 graphTeam (fun m => { m with groups := [], graphs := [(0, f { goneGraph with running := true, blocks := [(0, b)] })] })
  { s with clk := { s.clk with now := 100 } }

/-- The group of a dispatch of that block. -/
def dispatched (d : Disp) : State :=
  d0 (fun m => { m with
    groups := [(0, { grp0 { thr0 with st := .exited } with disp := some d })],
    graphs := [(0, { goneGraph with running := true, blocks := [(0, { blk0 with run := some 0 })] })] })

def disp1 (launch done : Option Nat) : Disp :=
  { graph := 0, node := 0, blk := 0, count := 0, rsz := 0, base := 0, launchAt := launch, recs := [], doneSn := done }

/-- Core 0 is isolated. -/
def isolated (s : State) : State := s.withMach { s.m with cores := [(0, { Core.initial with isol := true })] }

theorem met_CatalogueSteps (H : Obligations.CatalogueSteps) :
    (∃ t, Takes (.blockActivation 0) (running { blk0 with active := false, waiting := some 3 } id) t) ∧
    (∃ t, Takes (.coalescingTimerLapse 0 0) (running { blk0 with lapsed := false, timer := some 100 } id) t) ∧ (∃ t, Takes (.catalogueChoice 0) (running blk0 id) t) ∧
    (∃ t, Takes (.dispatchLaunch 0) (dispatched (disp1 (some 5) none)) t) ∧ (∃ t, Takes (.dispatchLaunch 0) (isolated (dispatched (disp1 (some 5) none))) t) ∧ (∃ t, Takes (.dispatchRetire 0 0) (dispatched (disp1 none (some 5))) t) ∧
    (∃ t, Takes (.probeStart 0) (running { blk0 with res := 0 } id) t) ∧
    (∃ t, Takes (.probeAnswer 0) (running blk0 (fun g => { g with probe := some { start := 28, mark := 0 } })) t) ∧
    (∃ t, Takes (.reportWrite 0) (running blk0 (fun g => { g with due := some (100, 0) })) t) := by
  obtain ⟨⟨c, tm, co, lb, sl⟩, hc⟩ := Option.isSome_iff_exists.1 (show (choose (running blk0 id).env (running blk0 id).m 0).isSome = true by decide +kernel)
  refine ⟨⟨_, (H _).1 0 0 0 3 (by decide +kernel) (by decide +kernel)⟩, ⟨_, (H _).2.1 0 0 100 (by decide +kernel) (by decide +kernel)⟩,
    ⟨_, ((H _).2.2.1 0 c tm co lb sl (by decide +kernel) (by decide +kernel) hc).1⟩,
    ⟨_, ((H _).2.2.2.1 0 (disp1 (some 5) none) 5 (by decide +kernel) (by decide +kernel) (by decide +kernel)).1 (by decide +kernel)⟩,
    ⟨_, ((H _).2.2.2.1 0 (disp1 (some 5) none) 5 (by decide +kernel) (by decide +kernel) (by decide +kernel)).2 (by decide +kernel)⟩,
    ⟨_, (H _).2.2.2.2.1 0 0 0 (by decide +kernel) (by decide +kernel)⟩,
    ⟨_, (H _).2.2.2.2.2.1 0 _ (rfl : _ = some _) rfl (by decide +kernel) (by decide +kernel)⟩,
    ⟨_, ((H (running blk0 (fun g => { g with probe := some { start := 28, mark := 0 } }))).2.2.2.2.2.2.1 0 _ ⟨28, 0⟩ (rfl : _ = some _) rfl (by decide +kernel)).1⟩, ⟨_, ((H (running blk0 (fun g => { g with due := some (100, 0) }))).2.2.2.2.2.2.2 0 _ 100 0 (rfl : _ = some _) rfl (by decide +kernel)).1⟩⟩

/-- An entry of the fault buffer of cluster 0. -/
def faulted (st : Nat) : State :=
  d0 (fun m => { m with clusters := [(0, { Cluster.initial with fbuf := [(0, { fva := 0, smark := 0, kind := 0, st := st, protf := false, who := [], engines := [] })] })] })

/-- The end of a clock with nothing left to do. -/
def lastPhase : State := { State.reset with clk := { State.reset.clk with phase := 6 } }

theorem met_TrapAndMonitorSteps (H : Obligations.TrapAndMonitorSteps) :
    (∃ t, Takes (.handlerEntry 0 0) (dev { thr0 with st := .run } codeTeam (fun m => updThr m 0 0 (fun t => { t with st := .parked, vecAt := some 5 }))) t) ∧
    (∃ t, Takes (.stopArrival 0) (dev thr0 { codeTeam with stopAt := some 5 } id) t) ∧ (∃ t, Takes (.resumeArrival 0) (dev thr0 { codeTeam with resumeAt := some 5 } id) t) ∧
    (∃ t, Takes (.singleStep 0 0) (dev { thr0 with step := true, lastIssue := 4 } codeTeam id) t) ∧ (∃ t, Takes (.faultFill 0 0) (faulted 1) t) ∧
    (∃ t, Takes (.faultRefuse 0 0 true) (faulted 1) t) ∧ (∃ t, Takes (.faultFill 0 0) (faulted 2) t) ∧ (∃ t, step lastPhase = .next t) ∧
    freeAnswered (faulted 1).env (faulted 1).m 0 = (faulted 1).m ∧ (∃ m, freeAnswered (faulted 2).env (faulted 2).m 0 = admitWaiting m 0) := by
  refine ⟨⟨_, (H _).1 0 0 5 (by decide +kernel) (by decide +kernel) (by decide +kernel) (by decide +kernel)⟩, ⟨_, (H _).2.2.2.1 0 5 (by decide +kernel) (by decide +kernel)⟩,
    ⟨_, (H _).2.2.2.2.2.1 0 5 (by decide +kernel) (by decide +kernel)⟩,
    ⟨_, (H _).2.2.2.2.2.2.1 0 0 (by decide +kernel) (by decide +kernel) (by decide +kernel) (by decide +kernel) (by decide +kernel) (by decide +kernel)⟩,
    ⟨_, ((H (faulted 1)).2.2.1 0 0 _ rfl rfl).1⟩, ⟨_, ((H (faulted 1)).2.2.1 0 0 _ rfl rfl).2 true⟩, ⟨_, ((H (faulted 2)).2.1 0 0 (fun f h => ?_)).1⟩, ?_, ?_, ?_⟩
  · cases h; decide
  · obtain ⟨t, h, _⟩ := (H lastPhase).2.2.2.2.2.2.2.2.2.2.2.2.2.1 rfl (by decide +kernel) (by decide +kernel) (by decide +kernel) (by decide +kernel)
    exact ⟨t, h⟩
  · exact (H (faulted 1)).2.2.2.2.2.2.2.2.2.2.2.2.2.2.1 0 (by decide +kernel)
  · exact ⟨_, (H (faulted 2)).2.2.2.2.2.2.2.2.2.2.2.2.2.2.2 0 0 _ rfl⟩

/-- The team in a stage of its suspension. -/
def susp (x : Susp) (f : Mach → Mach) : State := dev thr0 { codeTeam with susp := x } f

/-- An atomic buffer with an entry. -/
def ab0 : ABEnt := { sa := 0, half := 0, op := 0, ty := .s32, acc := 1, lane := 0, pc := 0, disp := false }

theorem met_PreemptionSteps (H : Obligations.PreemptionSteps) :
    (∃ t, Takes (.preemptionSignal [0]) (d0 (fun m => { m with prem := [{ tm := 5, cores := [0] }] })) t) ∧ (∃ t, Takes (.preemptionSignal [5]) (d0 id) t) ∧ (∃ t, Takes (.preemptionSignal [0]) (d0 id) t) ∧
    (∃ t, Takes (.shadowSwapComplete 0) (d0 (fun m => { m with cores := [(0, { Core.initial with swapUntil := some 5 })] })) t) ∧ (∃ t, Takes (.spill 0) (susp .spilling id) t) ∧
    (∃ t, Takes (.spill 0) (susp .spilling (fun m => { m with groups := [(0, { grp0 thr0 with ab := [ab0] })] })) t) ∧ (∃ t, Takes (.spill 0) (susp (.draining 3) id) t) ∧
    (∃ t, Takes (.spill 0) (susp .copied id) t) ∧
    (∃ t, Takes (.packetDeferral 1) (dev thr0 { codeTeam with susp := .copying 9, spsz := 256 } (fun m => { m with flight := [msg 0 (.store [(2 ^ 52 + 255, [1])] false true)] })) t) ∧
    (∃ t, Takes (.allocationCopyComplete 0) (susp (.copying 5) id) t) ∧ (∃ t, Takes (.teamResumption 0) (susp .out id) t) ∧
    (∃ t, Takes (.teamResumption 0) (susp (.resuming 5) (fun m => { m with prem := [{ tm := 6, cores := [] }] })) t) ∧ (∃ t, Takes (.copyBackComplete 0) (susp (.copyback 5) id) t) := by
  refine ⟨⟨_, ((H _).1 [0] (by decide +kernel)).1⟩, ⟨_, ((H _).2.1 [5] (by decide +kernel)).2 (by decide +kernel)⟩, ⟨_, ((H _).2.1 [0] (by decide +kernel)).1 (by decide +kernel)⟩, ⟨_, (H _).2.2.1 0 5 (by decide +kernel) (by decide +kernel)⟩,
    ⟨_, (H _).2.2.2.1 0 (by decide +kernel) (by decide +kernel)⟩, ⟨_, (H _).2.2.2.2.1 0 (by decide +kernel) (by decide +kernel)⟩,
    ⟨_, (H _).2.2.2.2.2.1 0 3 (by decide +kernel) (by decide +kernel)⟩, ⟨_, (H _).2.2.2.2.2.2.1 0 (by decide +kernel) (by decide +kernel)⟩,
    ⟨_, (H _).2.2.2.2.2.2.2.1 1 (msg 0 (.store [(2 ^ 52 + 255, [1])] false true)) (by decide +kernel) (by decide +kernel) (by decide +kernel) (by decide +kernel) (by decide +kernel)⟩,
    ⟨_, (H _).2.2.2.2.2.2.2.2.1 0 5 (by decide +kernel) (by decide +kernel)⟩, ⟨_, ((H _).2.2.2.2.2.2.2.2.2.1 0 (by decide +kernel) (by decide +kernel)).1 _ rfl⟩,
    ⟨_, (H _).2.2.2.2.2.2.2.2.2.2.1 0 5 (by decide +kernel) (by decide +kernel) (by decide +kernel)⟩, ⟨_, (H _).2.2.2.2.2.2.2.2.2.2.2 0 5 (by decide +kernel) (by decide +kernel)⟩⟩

/-- A grid of one team of one group of budget 8, placed on mark 1, with the words of its LAUNCH packet. -/
def grid1 (lp maps : List Nat) : Grid :=
  { lp := lp, scal := [], maps := maps, part := 0, nteam := 1, started := 0, comp := false, res := [], gbar := BarSt.initial, multi := false, die := 0, node := false }

def words (x : Nat) : List Nat := (List.range 16).map (fun i => x / 2 ^ (64 * i) % 2 ^ 64)

def lp1 : List Nat := words (fieldsAt [(256, 8), (320, 0), (328, 1)])

/-- A team of that grid waits, or a standing team of graph 0 on mark 1. -/
def teamWaits (w : WaitTeam) : State :=
  let s := d0 (fun m => { m with grids := [(0, grid1 lp1 [1 + 2 ^ 48])], graphs := [(0, goneGraph)] })
  { s with sys := { s.sys with waiting := [w] } }

theorem met_TeamSteps (H : Obligations.TeamSteps) :
    (∃ t, Takes .teamStart (teamWaits { grid := some 0, graph := none }) t) ∧ (∃ t, Takes .standingTeamFormed (teamWaits { grid := none, graph := some (0, 1) }) t) ∧
    (∃ t, Takes (.gridComplete 0) (d0 (fun m => { m with grids := [(0, { grid1 [] [] with started := 1 })] })) t) := by
  obtain ⟨⟨gid, g, en, ent, plan⟩, hs⟩ := Option.isSome_iff_exists.1 (show (startable (teamWaits { grid := some 0, graph := none }) 0).isSome = true by decide +kernel)
  refine ⟨⟨_, (H _).1 0 gid g en ent plan (by decide +kernel) hs⟩, ⟨_, (H _).2.1 0 0 1 1 1 (by decide +kernel) (by decide +kernel)⟩,
    ⟨_, (H (d0 (fun m => { m with grids := [(0, { grid1 [] [] with started := 1 })] }))).2.2 0 _ (rfl : _ = some _) rfl rfl (by decide +kernel) (by decide +kernel) (fun h => nomatch h)⟩⟩
/-! The Front End. Words of queues, tables and packets stand in the window of mark 0; the code page maps itself and holds a legal target at 64. -/

/-- Address of the window of mark 0. -/
def win0 : Nat := 0xF0000000000000

/-- Bytes of numbers of a width from an address on, but for zeros. -/
def cellsAt (a n : Nat) (l : List Nat) : Memory := (l.flatMap (toBytes n)).zipIdx.filterMap (fun x => if x.1 = 0 then none else some (a + x.2, x.1))

/-- Memory with words at 4096 of the window and bytes at offsets below. -/
def memOf (ws : List Nat) (l : List (Nat × Byte)) : Memory :=
  cellsAt codeHome 8 [codeHome + 29] ++ cellsAt (codeHome + 64) 64 [nopLine] ++ l.map (fun x => (2 ^ 52 + x.1, x.2)) ++ cellsAt (2 ^ 52 + 4096) 8 ws

/-- Level LPDDR-ONLY; queue 0 of partition 0 has words to read, and item `cur` of the partition's scheduler is served. -/
def front (cur : Nat) (ws : List Nat) (l : List (Nat × Byte)) (fq : Queue → Queue) (f : Mach → Mach) : State :=
  let s := d0 (fun m => f { m with mem := memOf ws l })
  { s with sys := { s.sys with
    dev := { s.sys.dev with level := 2 }, slice := [(0, { len := 1024, cur := cur, ends := 9, due := 0 })],
    parts := [(0, { Part.initial with en := true, root := codeHome / 4096, place := [(0, 2 ^ 63), (1, 2 ^ 63 + 1)] })],
    queues := [(0, fq { Queue.initial with run := true, qbase := win0 + 4096, qlog := 6, qtail := BitVec.ofNat 32 ws.length })] } }

/-- The next packet of queue 0 has a row and words. -/
def readsB (s : State) (row : Nat) (ws : List Nat) : Bool :=
  serving s 0 0 && decide ((queueOfNo s.sys 0).part = 0) && match peek s 0 with
  | some (r, .ok w) => decide (r = row ∧ w = ws)
  | _ => false

theorem reads_of {s : State} {row : Nat} {ws : List Nat} (h : readsB s row ws = true) : Reads s 0 row ws := by
  simp only [readsB, Bool.and_eq_true, decide_eq_true_eq] at h
  obtain ⟨⟨a, b⟩, c⟩ := h
  refine ⟨by rw [b]; exact a, ?_⟩
  split at c
  · next e => simp only [decide_eq_true_eq] at c; rw [e, c.1, c.2]
  · simp at c

/-- Header of a packet: type, words, ARG. -/
def hdr (ty n arg : Nat) : Nat := fieldsAt [(0, ty), (16, n), (32, arg)]

def pkt3 (ty : Nat) : List Nat := [hdr ty 3 0, win0 + 8, 7]

/-- A packet alone in the ring. -/
def alone (ws : List Nat) : State := front 0 ws [] id id

/-- A LAUNCH packet of one team of one group on mark 0. -/
def launchPkt : List Nat := words (fieldsAt [(0, 1), (16, 16), (64, 64), (192, 1), (256, 8), (328, 1), (960, win0 + 192)])

/-- A graph with 64 KiB of pool in HBM of die 0. -/
def pooled (part : Nat) : Graph := { goneGraph with part := part, entry := setAt (List.replicate 20 0) 8 1 }

def inputSt (f : Queue → Queue) : State := front 0 [hdr 7 3 0, 0, 0] [] f (fun m => { m with graphs := [(0, pooled 0)] })

theorem met_QueuePacketsStart (H : Obligations.QueuePacketsStart) :
    (∃ t, Takes (.qtailDoorbell 63 9) (alone []) t) ∧ (∃ t, Takes (.queueRunWrite 0 true) (alone []) t) ∧ (∃ t, Takes (.nopPacket 0) (alone [hdr 0 1 0]) t) ∧
    (∃ t, Takes (.launch 0) (front 0 launchPkt [(198, 1)] id id) t) ∧ (∃ t, Takes (.write 0) (alone (pkt3 2)) t) ∧ (∃ t, Takes (.signalPacket 0) (alone (pkt3 3)) t) ∧
    (∃ t, Takes (.waitPacket 0) (alone (pkt3 4)) t) ∧ (∃ t, Takes (.indirect 0) (alone [hdr 5 2 1, win0 + 8]) t) ∧ (∃ t, Takes (.trigger 0) (alone [hdr 8 1 63]) t) ∧
    (∃ t, Takes (.input 0) (inputSt id) t) :=
  ⟨⟨_, (H _ 63).1 9 (by decide +kernel) (by decide)⟩, ⟨_, (H _ 0).2.1 true (by decide +kernel) (by decide)⟩, ⟨_, (H _ 0).2.2.2.2.1 [hdr 0 1 0] (reads_of (by decide +kernel))⟩,
   ⟨_, ((H _ 0).2.2.2.2.2.1 launchPkt [2 ^ 48] (reads_of (by decide +kernel)) (eq_ok (by decide +kernel))).2⟩,
   ⟨_, (H _ 0).2.2.2.2.2.2.1 (pkt3 2) (2 ^ 52 + 8) (reads_of (by decide +kernel)) (eq_ok (by decide +kernel))⟩,
   ⟨_, (H _ 0).2.2.2.2.2.2.2.1 (pkt3 3) (2 ^ 52 + 8) (reads_of (by decide +kernel)) (eq_ok (by decide +kernel))⟩,
   ⟨_, (H _ 0).2.2.2.2.2.2.2.2.1 (pkt3 4) 0 (reads_of (by decide +kernel)) (eq_ok (by decide +kernel))⟩,
   ⟨_, (H _ 0).2.2.2.2.2.2.2.2.2.1 [hdr 5 2 1, win0 + 8] 0 (reads_of (by decide +kernel)) (eq_ok (by decide +kernel))⟩,
   ⟨_, (H _ 0).2.2.2.2.2.2.2.2.2.2.1 [hdr 8 1 63] (reads_of (by decide +kernel))⟩,
   ⟨_, (H _ 0).2.2.2.2.2.2.2.2.2.2.2 [hdr 7 3 0, 0, 0] (pooled 0) (reads_of (by decide +kernel)) (by decide +kernel) (by decide +kernel) (by decide +kernel) (by decide +kernel)⟩⟩
/-- Nonzero bytes of a standing-team record at 0 (SPSZ 96), a table entry at 256 (descriptors at 512, RLOG 1, PROBE 256, record at 0) and the descriptor of its one node (BUDG 1, mark 1, DIES 1, ENTRY 64). -/
def table : List (Nat × Byte) := [(22, 6), (257, 2), (262, 0xF0), (273, 1), (281, 1), (286, 0xC0), (287, 3), (528, 0x10), (535, 0x80), (537, 0x80), (553, 64)]

/-- The graph of that table. -/
def tableGraph : Graph :=
  let s := front 0 [] table id id
  match readGraph s.env s.m 0 (win0 + 256) with
  | .ok g => g
  | .error _ => goneGraph

/-- The same with the graph loaded and its teams to come. -/
def loaded (cur : Nat) (ws : List Nat) : State := front cur ws table id (fun m => { m with graphs := [(0, tableGraph)] })

/-- A node of a kind that ends the run, with its condition and arguments. -/
def nodeOf (kind cc a b c d : Nat) : Nat := fieldsAt [(0, kind), (16, cc), (30, 256), (39, 256), (64, c), (96, d), (128, a), (192, b)]

def task1 (n : Nat) (node : Option Nat) : Task :=
  { nodes := [(List.range 4).map (fun i => n / 2 ^ (64 * i) % 2 ^ 64)], entry := 0, node := node, phase := 0, ref := 0, ctrs := [0], grids := [0], pend := false, late := false, endCode := 0,
    endNode := 0, unload := false }

def withTask (t : Task) (s : State) : State := { s with sys := { s.sys with tasks := [(0, t)] } }

/-- A header of a task graph at 640, whose node at 704 copies nothing and ends the run. -/
def taskBytes : List (Nat × Byte) := [(640, 192), (641, 2), (646, 0xF0), (704, 4), (708, 0x40), (709, 0x80)]

/-- A packet of queue 0 that runs. -/
def pkt0 (ws : List Nat) : Pkt := { id := 1, words := ws, top := 0, lvl := 0, parent := 0, step := 0, ref := 0 }

/-- That graph loaded and running. -/
def live : State := let s := loaded 0 [hdr 6 1 1]; { s with m := { s.m with graphs := [(0, { tableGraph with running := true })] } }

/-- The bytes of the record that START reads. -/
def staBytes : List Byte :=
  let s := loaded 0 [hdr 6 1 1]
  match agentRead s.env s.m 0 3 (65536 * gfield tableGraph 249 210) 32 with
  | .ok b => b
  | .error _ => []

theorem met_GraphPacketsStart (H : Obligations.GraphPacketsStart) :
    (∃ t, Takes (.loadStandingGraph 0) (front 0 [hdr 6 2 0, win0 + 256] table id id) t) ∧ (∃ t, Takes (.startStandingGraph 0) live t) ∧ (∃ t, Takes (.startStandingGraph 0) (loaded 0 [hdr 6 1 1]) t) ∧
    (∃ t, Takes (.stopStandingGraph 0) (loaded 0 [hdr 6 1 2]) t) ∧ (∃ t, Takes (.resetStandingGraph 0) (loaded 0 [hdr 6 1 3]) t) ∧
    (∃ t, Takes (.unloadStandingGraph 0) (loaded 0 [hdr 6 1 4]) t) ∧
    (∃ t, Takes (.loadTaskGraph 0) (front 0 [hdr 6 2 8, win0 + 640] taskBytes id id) t) ∧
    (∃ t, Takes (.unloadTaskGraph 0) (withTask (task1 0 none) (alone [hdr 6 1 9])) t) ∧
    pktDone (loaded 0 []) 0 (pkt0 [hdr 6 1 2]) = some (loaded 0 []) := by
  have h2 := (H (loaded 0 [hdr 6 1 1]) 0 [hdr 6 1 1]).2.2.1 tableGraph staBytes (by decide +kernel) (by decide +kernel) (reads_of (by decide +kernel)) (eq_ok (by decide +kernel))
  obtain ⟨_, _, _, _, d, f, g⟩ := H (withTask (task1 0 none) (alone [hdr 6 1 9])) 0 [hdr 6 1 9]
  exact ⟨⟨_, (H _ 0 [hdr 6 2 0, win0 + 256]).1 tableGraph (reads_of (by decide +kernel)) (by decide +kernel) (eq_ok (by decide +kernel)) (by decide +kernel)⟩,
    ⟨_, (H live 0 [hdr 6 1 1]).2.1 { tableGraph with running := true } (by decide +kernel) rfl (reads_of (by decide +kernel))⟩,
    ⟨_, h2 (by decide +kernel) (by decide +kernel) (by decide +kernel)⟩,
    ⟨_, ((H _ 0 [hdr 6 1 2]).2.2.2.1 tableGraph (by decide +kernel)).1 (reads_of (by decide +kernel))⟩,
    ⟨_, ((H _ 0 [hdr 6 1 3]).2.2.2.1 tableGraph (by decide +kernel)).2.1 (reads_of (by decide +kernel))⟩,
    ⟨_, ((H _ 0 [hdr 6 1 4]).2.2.2.1 tableGraph (by decide +kernel)).2.2 (reads_of (by decide +kernel))⟩,
    ⟨_, (H _ 0 [hdr 6 2 8, win0 + 640]).2.2.2.2.2.1 (task1 (nodeOf 4 0 0 0 0 0) none) (reads_of (by decide +kernel)) (by decide +kernel) (eq_ok (by decide +kernel))⟩,
    ⟨_, g (task1 0 none) (reads_of (by decide +kernel)) rfl⟩, (d (loaded 0 []) _ (pkt0 [hdr 6 1 2]) (by decide +kernel) rfl (by decide +kernel)).1 (by decide +kernel)⟩

/-- The queue refuses its next packet. -/
def refusesB (s : State) (row c d : Nat) : Bool :=
  match peek s 0 with
  | some (r, .error e) => decide (r = row ∧ e = (c, d))
  | _ => false

theorem refuses_of {s : State} {row c d : Nat} (h : refusesB s row c d = true) : peek s 0 = some (row, .error (c, d)) := by
  unfold refusesB at h
  split at h
  · next e => simp only [decide_eq_true_eq] at h; rw [e, h.1, h.2]
  · simp at h

theorem met_QueueStopsAndCompletions (H : Obligations.QueueStopsAndCompletions) :
    (∃ t, Takes (.write 0) (alone [hdr 2 3 1, 0, 0]) t) ∧ (∃ t, Takes (.write 0) (alone [hdr 2 2 0, 0, 0]) t) ∧ (∃ t, Takes (.write 0) (alone [hdr 2 3 0, 4, 0]) t) ∧
    (∃ t, Takes (.nopPacket 0) (alone [9]) t) ∧ (∃ t, Takes (.inputSlotFreed 1) (inputSt (fun x => { x with pkts := [pkt0 [hdr 7 3 0, 0, 0]] })) t) ∧
    (∃ t, Takes (.completionWordWrite 0) (front 0 [] [] (fun x => { x with owed := 1, qdadr := win0 + 8 }) id) t) := by
  obtain ⟨s1, h1⟩ := Option.isSome_iff_exists.1 (show (sendInput (inputSt (fun x => { x with pkts := [pkt0 [hdr 7 3 0, 0, 0]] })) 0
    (inputRecord [hdr 7 3 0, 0, 0])).isSome = true by decide +kernel)
  exact ⟨⟨_, (H _).1 0 2 1 2 (by decide +kernel) (refuses_of (by decide +kernel)) (2, .write 0) (by decide +kernel) rfl⟩,
    ⟨_, (H _).1 0 2 3 2 (by decide +kernel) (refuses_of (by decide +kernel)) (2, .write 0) (by decide +kernel) rfl⟩,
    ⟨_, (H _).1 0 2 1 2 (by decide +kernel) (refuses_of (by decide +kernel)) (2, .write 0) (by decide +kernel) rfl⟩,
    ⟨_, (H _).1 0 0 1 9 (by decide +kernel) (refuses_of (by decide +kernel)) (0, .nopPacket 0) (by decide +kernel) rfl⟩,
    ⟨_, (H _).2.1 1 0 (pkt0 [hdr 7 3 0, 0, 0]) s1 (by decide +kernel) (by decide +kernel) rfl (by decide +kernel) (by decide +kernel) (by decide +kernel) h1⟩,
    ⟨_, (H _).2.2 0 _ (2 ^ 52 + 8) rfl (by decide +kernel) (by decide +kernel) (by decide +kernel) (by decide +kernel) (eq_ok (by decide +kernel))⟩⟩

/-- Task graph 0 stands at its node. -/
def nodeSt (n : Nat) (l : List (Nat × Byte)) (f : Task → Task) : State := withTask (f (task1 n (some 0))) (front 64 [] l id id)

theorem atNode_of {s : State} {kind : Nat} {t : Task}
    (h : (decide (taskOf s.sys 0 0 = some t) && decide (t.node ≠ none) && decide (tKind (curNode t) = kind) && serving s 0 64) = true) : AtNode s kind 0 0 t := by
  simp only [Bool.and_eq_true, decide_eq_true_eq] at h
  exact ⟨h.1.1.1, h.1.1.2, h.1.2, h.2⟩

theorem met_TaskGraphSteps (H : Obligations.TaskGraphSteps) :
    (∃ t, Takes (.launchNode 0 0) (withTask (task1 (nodeOf 0 0 (win0 + 4096) 0 0 0) (some 0)) (front 64 launchPkt [(198, 1)] id id)) t) ∧
    (∃ t, Takes (.standingNode 0 0) (withTask (task1 (nodeOf 1 0 0 0 0 0) (some 0)) (loaded 64 [])) t) ∧
    (∃ t, Takes (.conditionalNode 0 0) (nodeSt (nodeOf 2 0 0 0 0 0) [] id) t) ∧ (∃ t, Takes (.loopNode 0 0) (nodeSt (nodeOf 3 0 0 0 1 0) [] id) t) ∧
    (∃ t, Takes (.copyNode 0 0) (nodeSt (nodeOf 4 0 win0 (win0 + 64) 8 0) [] id) t) ∧ (∃ t, Takes (.waitNode 0 0) (nodeSt (nodeOf 5 0 win0 0 0 0) [] id) t) ∧
    (∃ t, Takes (.signalNode 0 0) (nodeSt (nodeOf 6 0 (win0 + 8) 1 0 0) [] id) t) ∧
    (∃ t, Takes (.taskGraphRunEnd 0 0) (nodeSt (nodeOf 3 0 0 0 1 0) [] (fun t => { t with phase := 99 })) t) ∧
    (∃ t, Takes (.taskGraphRunEnd 0 0) (nodeSt (nodeOf 3 0 0 0 1 0) [] (fun t => { t with phase := 99, unload := true })) t) := by
  obtain ⟨s1, h1⟩ := Option.isSome_iff_exists.1 (show (startGraph (withTask (task1 (nodeOf 1 0 0 0 0 0) (some 0)) (loaded 64 [])) 0
    (bitsOf (tArgC (curNode (task1 (nodeOf 1 0 0 0 0 0) (some 0)))) 5 0)).toOption.isSome = true by decide +kernel)
  exact ⟨⟨_, (H _ 0 0).1 _ launchPkt [2 ^ 48] (atNode_of (t := task1 (nodeOf 0 0 (win0 + 4096) 0 0 0) (some 0)) (by decide +kernel)) rfl (eq_ok (by decide +kernel)) (by decide +kernel)
      (eq_ok (by decide +kernel))⟩,
    ⟨_, (H _ 0 0).2.1 _ tableGraph s1 (atNode_of (t := task1 (nodeOf 1 0 0 0 0 0) (some 0)) (by decide +kernel)) rfl (by decide +kernel) (eq_ok h1)⟩,
    ⟨_, (H _ 0 0).2.2.1 (task1 (nodeOf 2 0 0 0 0 0) (some 0)) (atNode_of (by decide +kernel)) rfl⟩,
    ⟨_, (H _ 0 0).2.2.2.1 (task1 (nodeOf 3 0 0 0 1 0) (some 0)) (atNode_of (by decide +kernel)) rfl⟩,
    ⟨_, (H _ 0 0).2.2.2.2.1 (task1 (nodeOf 4 0 win0 (win0 + 64) 8 0) (some 0)) (atNode_of (by decide +kernel)) rfl⟩,
    ⟨_, (H _ 0 0).2.2.2.2.2.1 (task1 (nodeOf 5 0 win0 0 0 0) (some 0)) (atNode_of (by decide +kernel)) rfl⟩,
    ⟨_, (H _ 0 0).2.2.2.2.2.2.1 (task1 (nodeOf 6 0 (win0 + 8) 1 0 0) (some 0)) (2 ^ 52 + 8) (atNode_of (by decide +kernel)) rfl (eq_ok (by decide +kernel))⟩,
    ⟨_, (H _ 0 0).2.2.2.2.2.2.2.2 { task1 (nodeOf 3 0 0 0 1 0) (some 0) with phase := 99 } (by decide +kernel) (by decide) rfl (by decide +kernel)⟩,
    ⟨_, (H _ 0 0).2.2.2.2.2.2.2.2 { task1 (nodeOf 3 0 0 0 1 0) (some 0) with phase := 99, unload := true } (by decide +kernel) (by decide) rfl (by decide +kernel)⟩⟩

/-- A queue whose WAIT packet waits for zero at 8 to be below 7. -/
def waiting (p : Pkt) : State := front 0 [] [] (fun x => { x with pkts := [p] }) id

/-- A vector with an event, not masked. -/
def vec1 : Vec := { Vec.initial with pend := 1, masked := false }

theorem met_WaitsSlicesAndInterrupts (H : Obligations.WaitsSlicesAndInterrupts) :
    (∃ t, Takes (.waitConditionMet 2) (waiting (pkt0 [hdr 4 3 2, win0 + 8, 7])) t) ∧ (∃ t, Takes (.timeSliceSwitch 0) (withTask (task1 0 (some 0)) (alone [])) t) ∧
    (∃ t, Takes (.msixMessage 2047) (withSys s0 (fun y => { y with vecs := [(2047, vec1)] })) t) ∧
    (∃ t, Takes (.msixMessage 0) (withSys (d0 id) (fun y => { y with vecs := [(0, { vec1 with cnt := 2, time := 3, first := 2 })] })) t) ∧ (∃ t, Takes (.msixUnmask 2047) s0 t) :=
  ⟨⟨_, (H _).1 1 0 (pkt0 [hdr 4 3 2, win0 + 8, 7]) 0 (by decide +kernel) (by decide +kernel) (by decide +kernel) (by decide +kernel) (eq_ok (by decide +kernel)) (by decide +kernel)⟩,
   ⟨_, (H _).2.1 0 64 (by decide +kernel) (by decide +kernel) (by decide +kernel) (by decide +kernel) (by decide +kernel)⟩,
   ⟨_, (H _).2.2.1 2047 vec1 (by decide +kernel) rfl (by decide) (by decide)⟩,
   ⟨_, (H _).2.2.1 0 { vec1 with cnt := 2, time := 3, first := 2 } (by decide +kernel) rfl (by decide) (by decide)⟩, ⟨_, (H _).2.2.2 2047 (by decide)⟩⟩
/-! Containment, bring-up and the host. -/

/-- A cut packet of a kind, and one that stands before isolated core 1. -/
def cutOf (b : Body) : State := d0 (fun m => { m with flight := [{ msg 0 b with stage := .cut }] })
def before (b : Body) : State := d0 (fun m => { m with cores := [(1, { Core.initial with isol := true })], flight := [msg 1 b] })

theorem met_PartitionAndContainmentSteps (H : Obligations.PartitionAndContainmentSteps) :
    (∃ t, Takes (.partitionEnable 15 true) s0 t) ∧ (∃ t, Takes (.placeTableCommit 0) s0 t) ∧ (∃ t, Takes (.placeTableCommit 15) s0 t) ∧
    (∃ t, Takes (.clusterResetGo 3 35) s0 t) ∧ (∃ t, Takes (.clusterResetGo 3 36) s0 t) ∧
    (∃ t, Takes (.isolation 0) (d0 (fun m => updDie m 0 (fun d => { d with isoAt := some 5 }))) t) ∧
    (∃ t, Takes (.cutPacketArrival 1) (cutOf (.ring 1 0 3 [] 1)) t) ∧ (∃ t, Takes (.cutPacketArrival 1) (cutOf (.record 0 [] 0)) t) ∧ (∃ t, Takes (.cutPacketArrival 1) (cutOf (.input 0 [] 0)) t) ∧
    (∃ t, Takes (.cutPacketArrival 1) (cutOf (.rsd 0 0 0 0)) t) ∧ (∃ t, Takes (.cutPacketArrival 1) (cutOf (.store [] false true)) t) ∧
    (∃ t, Takes (.isolatedPacketAnswer 1) (before (.load (2 ^ 52 + 2 ^ 20) 1 false (.v 2) none 0 0)) t) ∧
    (∃ t, Takes (.isolatedPacketAnswer 1) (before (.store [(2 ^ 52 + 2 ^ 20, [1])] false true)) t) ∧
    (∃ t, Takes (.isolatedPacketAnswer 1) (before (.ring 1 0 3 [] 1)) t) ∧
    (∃ t, Takes (.resetComplete 0) (d0 (fun m => updDie m 0 (fun d => { d with rstAt := some 5 }))) t) ∧ (∃ t, Takes (.restore 3) s0 t) := by
  obtain ⟨_, _, _, _, a1, _⟩ := H (cutOf (.ring 1 0 3 [] 1))
  obtain ⟨_, _, _, _, a2, _⟩ := H (cutOf (.record 0 [] 0))
  obtain ⟨_, _, _, _, a3, _⟩ := H (cutOf (.input 0 [] 0))
  obtain ⟨_, _, _, _, a4, _⟩ := H (cutOf (.rsd 0 0 0 0))
  obtain ⟨_, _, _, _, a5, _⟩ := H (cutOf (.store [] false true))
  obtain ⟨_, _, _, _, _, b1, _⟩ := H (before (.load (2 ^ 52 + 2 ^ 20) 1 false (.v 2) none 0 0))
  obtain ⟨_, _, _, _, _, b2, _⟩ := H (before (.store [(2 ^ 52 + 2 ^ 20, [1])] false true))
  obtain ⟨_, _, _, _, _, b3, _⟩ := H (before (.ring 1 0 3 [] 1))
  obtain ⟨_, _, _, _, _, _, c, _⟩ := H (d0 (fun m => updDie m 0 (fun d => { d with rstAt := some 5 })))
  exact ⟨⟨_, (H _).1 15 true (by decide)⟩, ⟨_, ((H _).2.1 0 (by decide)).1 (by decide +kernel)⟩, ⟨_, ((H _).2.1 15 (by decide)).2 (by decide +kernel)⟩,
    ⟨_, ((H _).2.2.1 3 35 (by decide)).1 (by decide +kernel) (by decide)⟩, ⟨_, ((H _).2.2.1 3 36 (by decide)).2 (.inr (by decide))⟩, ⟨_, (H _).2.2.2.1 0 5 (by decide +kernel) (by decide)⟩,
    ⟨_, (a1 1 _ rfl rfl (by decide)).1 _ _ _ _ _ rfl⟩, ⟨_, (a2 1 _ rfl rfl (by decide)).2.1 _ _ _ rfl⟩, ⟨_, (a3 1 _ rfl rfl (by decide)).2.2.1 _ _ _ rfl⟩,
    ⟨_, (a4 1 _ rfl rfl (by decide)).2.2.2.1 _ _ _ _ rfl⟩,
    ⟨_, (a5 1 _ rfl rfl (by decide)).2.2.2.2 (fun _ _ _ _ _ h => nomatch h) (fun _ _ _ => ⟨(fun h => nomatch h), (fun h => nomatch h)⟩) (fun _ _ _ _ h => nomatch h)⟩,
    ⟨_, (b1 1 _ rfl (by decide +kernel) (by decide +kernel) (by decide)).1 rfl (fun _ _ _ _ _ _ _ h => nomatch h) (fun _ _ _ _ _ _ h => nomatch h)⟩,
    ⟨_, (b2 1 _ rfl (by decide +kernel) (by decide +kernel) (by decide)).2.1 _ _ _ rfl⟩,
    ⟨_, (b3 1 _ rfl (by decide +kernel) (by decide +kernel) (by decide)).2.2.2.2.2.2.2.2.2.2.1 _ _ _ _ _ rfl⟩,
    (let ⟨n, h, _⟩ := c 0 5 (by decide +kernel) (by decide); ⟨n, h⟩), ⟨_, (H _).2.2.2.2.2.2.2 3 (by decide)⟩⟩

/-- A device at a level, at a clock and a temperature. -/
def atLevel (lv now temp : Nat) (f : Mach → Mach) : State :=
  { State.reset with
    clk := { State.reset.clk with now := now }, m := f Mach.reset, sys := { Sys.reset with dev := { Dev.reset with level := lv, temp := temp, loading := some 5 } } }

theorem met_BringUpAndHostSteps (H : Obligations.BringUpAndHostSteps) :
    (∃ t, Takes .monitorLevel (atLevel 1 5 0 id) t) ∧ (∃ t, Takes .lpddrOnlyLevel (atLevel 0 5 0 id) t) ∧ (∃ t, Takes (.hbmRelease 4) (atLevel 2 5 0 id) t) ∧
    (∃ t, Takes .moduleReset (atLevel 2 5 0 id) t) ∧ (∃ t, Takes (.mailboxStart 0) (atLevel 1 5 0 id) t) ∧ (∃ t, Takes (.imageLoadStart 0) (atLevel 0 5 0 id) t) ∧
    (∃ t, Takes (.imageLoadStart 0) (atLevel 1 5 0 id) t) ∧ (∃ t, Takes .imageLoadComplete (atLevel 1 5 0 id) t) ∧ (∃ t, Takes .functionLevelReset (atLevel 2 5 0 id) t) ∧
    (∃ t, Takes .clockStepUpdate (atLevel 1 15000 0 id) t) ∧ (∃ t, Takes .thermalTrip (atLevel 1 5 840 id) t) ∧
    (∃ t, Takes (.hostMemAccess lpddrBase [1, 2] true) (atLevel 2 5 0 id) t) ∧ (∃ t, Takes (.hostMemAccess lpddrBase [1, 2] false) (atLevel 2 5 0 id) t) ∧
    (∃ t, Takes (.backInvalidate (lpddrBase / 64)) (atLevel 2 5 0 (fun m => { m with hostLines := [lpddrBase / 64], flight := [msg 1100 (.store [(lpddrBase + 63, [1])] false true)] })) t) ∧
    Takes (.registerWrite 1 0x10004 3 7) (atLevel 2 5 0 id) (atLevel 2 5 0 id) ∧ (∃ t, Takes (.registerWrite 31 0x10000 8 7) (atLevel 2 5 0 id) t) := by
  obtain ⟨a, _, b, _, c, _, d, e, _, f, g, h, i, j, k, l, o, p, q⟩ := H (atLevel 2 5 0 id)
  obtain ⟨a1, _, _, _, _, _, _, d1, _, _, g1, h1, _⟩ := H (atLevel 1 5 0 id)
  obtain ⟨_, _, b0, _, _, _, _, _, _, f0, _⟩ := H (atLevel 0 5 0 id)
  obtain ⟨_, _, _, _, _, _, _, _, _, _, _, _, _, j1, _⟩ := H (atLevel 1 15000 0 id)
  obtain ⟨_, _, _, _, _, _, _, _, _, _, _, _, _, _, k1, _⟩ := H (atLevel 1 5 840 id)
  obtain ⟨_, _, _, _, _, _, _, _, _, _, _, _, _, _, _, _, o1, _⟩ :=
    H (atLevel 2 5 0 (fun m => { m with hostLines := [lpddrBase / 64], flight := [msg 1100 (.store [(lpddrBase + 63, [1])] false true)] }))
  exact ⟨⟨_, a1 (by decide)⟩, ⟨_, b0 (by decide)⟩, ⟨_, c 4 (.inr (.inl (by decide)))⟩, ⟨_, d⟩, ⟨_, d1 0 (by decide)⟩, ⟨_, f0 0 rfl⟩, ⟨_, g1 0 (by decide)⟩,
    ⟨_, (h1 5 rfl (by decide)).2.2 (.inl (by decide +kernel))⟩, (let ⟨t, x, _⟩ := i; ⟨t, x⟩), ⟨_, j1 (by decide) (by decide) rfl⟩,
    (let ⟨t, x, _⟩ := k1 (by decide) (by decide) (by decide); ⟨t, x⟩),
    ⟨_, (l lpddrBase [1, 2] true (by decide) (by decide +kernel) (by decide +kernel)).1 rfl⟩, ⟨_, (l lpddrBase [1, 2] false (by decide) (by decide +kernel) (by decide +kernel)).2 rfl⟩,
    ⟨_, o1 (lpddrBase / 64) (msg 1100 (.store [(lpddrBase + 63, [1])] false true)) (by decide +kernel) (by decide +kernel) (by decide) ⟨(lpddrBase + 63, 1), by decide +kernel, by decide +kernel⟩⟩,
    (p 1 0x10004 3 7).2 (.inl (by decide)), ⟨_, (q 31 7).1 (by decide +kernel)⟩⟩

/-! Decoding, issue, frames and invariants. -/

theorem met_DecodeInvertsEncode (H : Obligations.DecodeInvertsEncode) : decode (encode (.add (P 4) (fa (.v 3) (.v 1) (.s 2) (.v 0) 0 0))) = .ok (.add (P 4) (fa (.v 3) (.v 1) (.s 2) (.v 0) 0 0)) := by
  simpa using (H (.add (P 4) (fa (.v 3) (.v 1) (.s 2) (.v 0) 0 0)) (by decide) (by decide)).1 []

theorem met_EncodeInvertsDecode (H : Obligations.EncodeInvertsDecode) : (Instr.nop (P 0) (fc (.v 0) 0)).WellFormed :=
  (H [nopWord] (.nop (P 0) (fc (.v 0) 0)) (by decide +kernel) (eq_ok (by decide +kernel))).2.1

/-- A line of five words without continuation bits, its PAIR and TGT bits given. -/
def lineW (ws : List Nat) (bits : Nat) : Nat := lineOf ws - (List.range 4).foldl (fun a i => a + 2 ^ (20 + i)) 0 + bits

/-- `add.n32` of v1 and v2, or of s1 and s2, into the register of a code, paired with `ld v5, [s6]`, then `nop`. -/
def pairOf (dst k : Nat) : Nat :=
  lineW [fieldsAt [(88, 0x00), (80, 4), (76, 7), (54, dst), (44, k + 1), (34, k + 2)], fieldsAt [(88, 0x80), (76, 7), (54, 5), (44, 256 + 6), (34, 768), (31, 2)], nopWord, nopWord, nopWord] (2 ^ 16)

def pairLine : Nat := pairOf 3 0

/-- The set `cu` selected, with a line at address 0. -/
def lineSt (cu : Cur) (l : Nat) : State := small false thr0 codeTeam (fun m => { m with mem := cellsAt codeHome 64 [l], cur := some cu })

def fetched (s : State) (cu : Cur) : Mach × LineRes := fetchLine s.env s.m (grpOf s.m cu.g).core (teamOf s.m (grpOf s.m cu.g).team).part cu.pc

theorem line_of {s : State} {cu : Cur} {l : Nat} (h : (match (fetched s cu).2 with | .line k => decide (k = l) | _ => false) = true) :
    fetched s cu = ((fetched s cu).1, .line l) := by
  generalize fetched s cu = x at *
  obtain ⟨a, b⟩ := x
  cases b <;> simp_all

theorem noLine_of {s : State} {cu : Cur} (h : (match (fetched s cu).2 with | .line _ => false | _ => true) = true) :
    ∀ l, (fetchLine s.env s.m (grpOf s.m cu.g).core (teamOf s.m (grpOf s.m cu.g).team).part cu.pc).2 ≠ .line l := by
  intro l e
  simp [fetched, e] at h

/-- An outcome is a next state. -/
def isNext (x : Host.Outcome State Fault Refusal) : Bool := match x with | .next _ => true | _ => false

theorem next_of {x : Host.Outcome State Fault Refusal} (h : isNext x = true) : ∃ t, x = .next t := by
  cases x <;> simp_all [isNext]

def nop0 : Instr := .nop (P 0) (fc (.v 0) 0)

theorem met_StepRunsTheDecodedInstruction (H : Obligations.StepRunsTheDecodedInstruction) :
    (∃ t, step (lineSt (cu0 false) nopLine) = exec nop0 t) ∧ (∃ i t, step (lineSt (cu0 false) pairLine) = exec i t) ∧
    (∃ i t, step (lineSt { cu0 false with solo := true } pairLine) = exec i t) ∧ (∃ t, step (lineSt (cu0 true) (pairOf 259 256)) = .next t) ∧
    (∃ i t, step (lineSt { cu0 false with pc := 1, second := true } pairLine) = exec i t) ∧ (∃ t, step (lineSt (cu0 false) 1) = .next t) ∧
    (∃ t, step (lineSt { cu0 false with pc := 5 } nopLine) = .next t) ∧ (∃ t, step (lineSt { cu0 false with pc := 2 ^ 55 } nopLine) = .next t) := by
  have l0 := (H _ (cu0 false) _ _ rfl (line_of (s := lineSt (cu0 false) nopLine) (l := nopLine) (by decide +kernel))).1 nopLine rfl rfl (by decide +kernel) (by decide) (by decide) (by decide +kernel)
  have l1 := (H _ (cu0 false) _ _ rfl (line_of (s := lineSt (cu0 false) pairLine) (l := pairLine) (by decide +kernel))).1 pairLine rfl rfl (by decide +kernel) (by decide) (by decide) (by decide +kernel)
  have l2 := (H _ { cu0 false with solo := true } _ _ rfl (line_of (s := lineSt { cu0 false with solo := true } pairLine) (l := pairLine) (by decide +kernel))).1 pairLine rfl rfl
    (by decide +kernel) (by decide) (by decide) (by decide +kernel)
  have l3 := (H _ (cu0 true) _ _ rfl (line_of (s := lineSt (cu0 true) (pairOf 259 256)) (l := pairOf 259 256) (by decide +kernel))).1 (pairOf 259 256) rfl rfl (by decide +kernel) (by decide)
    (by decide) (by decide +kernel)
  have d0 := Option.isSome_iff_exists.1 (show (decode (slotsFrom pairLine 0)).toOption.isSome = true by decide +kernel)
  have d1 := Option.isSome_iff_exists.1 (show (decode (slotsFrom pairLine 1)).toOption.isSome = true by decide +kernel)
  have hc : (decode (slotsFrom (pairOf 259 256) 0)).toOption = some (.add (P 4) (fa (.s 3) (.s 1) (.s 2) (.v 0) 0 0)) := by decide +kernel
  have hb3 : (decode (slotsFrom (pairOf 259 256) 1)).toOption = (decode (slotsFrom pairLine 1)).toOption := by decide +kernel
  obtain ⟨a, ha⟩ := d0
  obtain ⟨b, hb⟩ := d1
  refine ⟨⟨_, l0.1 (by decide +kernel) nop0 (eq_ok (by decide +kernel))⟩, ⟨a, _, ((l1.2 (by decide +kernel) (by decide) (by decide +kernel) a (eq_ok ha)).2 rfl b (eq_ok hb)).1 rfl⟩,
    ⟨a, _, (l2.2 (by decide +kernel) (by decide) (by decide +kernel) a (eq_ok ha)).1 rfl⟩, ⟨_, ((l3.2 (by decide +kernel) (by decide) (by decide +kernel) _ (eq_ok hc)).2 rfl b (eq_ok (hb3.trans hb))).2 rfl⟩,
    ⟨b, _, (H _ { cu0 false with pc := 1, second := true } _ _ rfl (line_of (s := lineSt { cu0 false with pc := 1, second := true } pairLine) (l := pairLine) (by decide +kernel))).2.1
      pairLine rfl rfl b (eq_ok hb)⟩,
    ⟨_, (H _ (cu0 false) _ _ rfl (line_of (s := lineSt (cu0 false) 1) (l := 1) (by decide +kernel))).2.2.1 1 rfl rfl (.inl (by decide +kernel))⟩,
    ⟨_, (H _ { cu0 false with pc := 5 } _ _ rfl (line_of (s := lineSt { cu0 false with pc := 5 } nopLine) (l := nopLine) (by decide +kernel))).2.2.1 nopLine rfl rfl
      (.inr (.inl (by decide)))⟩, ⟨_, (H _ { cu0 false with pc := 2 ^ 55 } _ _ rfl rfl).2.2.2
      (noLine_of (s := lineSt { cu0 false with pc := 2 ^ 55 } nopLine) (cu := { cu0 false with pc := 2 ^ 55 }) (by decide +kernel))⟩⟩
/-- The small state whose trap vector can be entered. -/
def calmSt : State :=
  let s := small false thr0 codeTeam (fun m => { m with mem := memOf [] [] })
  { s with sys := { s.sys with parts := [(0, { partOf s.sys 0 with root := codeHome / 4096 })] } }

theorem calm : Calm calmSt (cu0 false) := ⟨by decide +kernel, by decide +kernel, by decide +kernel⟩

def add1 : Instr := .add (P 4) (fa (.v 2) (.s 16) (.c 1) (.v 0) 0 0)

theorem met_ChecksAtIssue (H : Obligations.ChecksAtIssue) :
    (∃ t, exec (.add (P 4) (fa (.p 2) (.s 16) (.c 1) (.v 0) 0 0)) s0 = .next t) ∧ (∃ t, exec (.add (P 4) (fa (.s 2) (.s 16) (.c 1) (.v 0) 0 0)) s1 = .next t) ∧
    (∃ t, exec (.tret (P 0) (fs (.v 0) (.v 0) 0)) s0 = .next t) ∧ (∃ t, exec (.add (P 4) (fa (.v 240) (.s 16) (.c 1) (.v 0) 0 0)) s0 = .next t) ∧
    (∃ t, exec (.add { P 4 with pg := 0 } (fa (.v 2) (.s 16) (.c 1) (.v 0) 0 0)) s0 = .next t) := by
  refine ⟨⟨_, (H _ _ _ (cu0 false) rfl rfl).2.1 (by decide)⟩, ⟨_, (H _ _ _ (cu0 true) rfl rfl).2.2.1 rfl (by decide) (by decide)⟩,
    ⟨_, (((H _ _ _ (cu0 false) rfl rfl).2.2.2 (by decide) (by decide) rfl).1 0 rfl (by decide)).1 rfl rfl (by decide)⟩,
    ⟨_, (((H _ _ _ (cu0 false) rfl rfl).2.2.2 (by decide) (by decide) rfl).1 0 rfl (by decide)).2 (by decide)⟩,
    ⟨_, ((H _ _ _ (cu0 false) rfl rfl).2.2.2 (by decide) (by decide) rfl).2 (by decide) (by decide)⟩⟩

theorem met_RegisterInstructionsFrame (H : Obligations.RegisterInstructionsFrame) : ∃ t, exec add1 calmSt = .next t ∧ SameDevice calmSt t := by
  obtain ⟨t, h⟩ := next_of (x := exec add1 calmSt) (by decide +kernel)
  exact ⟨t, h, (H add1 (P 4) calmSt (cu0 false) t rfl rfl (acts_of (by decide)) calm h).1⟩

theorem met_DeferringInstructionsFrame (H : Obligations.DeferringInstructionsFrame) : ∃ t, exec nop0 calmSt = .next t ∧ SameMemory calmSt.m t.m := by
  obtain ⟨t, h⟩ := next_of (x := exec nop0 calmSt) (by decide +kernel)
  exact ⟨t, h, (H nop0 (P 0) calmSt (cu0 false) t rfl rfl (acts_of (by decide)) calm h).1⟩

/-- A thread that lent v128 and up when number 5 issued. -/
def lent : Mach := (small false { thr0 with lends := [(5, 128)] } codeTeam id).m

theorem met_RegisterWritesReadBack (H : Obligations.RegisterWritesReadBack) :
    regV (applyWr lent (.v 0 0 239 7 5)) 0 0 239 = 7 ∧ regV (applyWr lent (.v 0 0 128 7 4)) 0 0 128 = regV lent 0 0 128 ∧ regS (applyWr lent (.s 0 95 7)) 0 95 = 7 ∧
    regS (applyWr lent (.s 0 95 7)) 0 94 = regS lent 0 94 ∧ predV (applyWr lent (.p 0 0 6 true true)) 0 0 6 = true ∧
    predV (applyWr lent (.p 0 0 7 false true)) 0 0 7 = predV lent 0 0 7 :=
  ⟨(H lent 0).1 0 239 7 5 (by decide) (by decide), (H lent 0).2.1 0 128 7 4 0 0 128 (.inr (.inr (.inr (by decide)))), (H lent 0).2.2.1 95 7 (by decide),
   (H lent 0).2.2.2.1 95 7 0 94 (.inr (by decide)), ((H lent 0).2.2.2.2.1 0 6 true true (by decide) (by decide)).1,
   ((H lent 0).2.2.2.2.2 0 7 false true 0 0 7 (by decide) (by decide) (.inr (.inr (.inr rfl)))).1⟩

theorem met_TrapSavesAndTretRestores (H : Obligations.TrapSavesAndTretRestores) : (tretThr .run (trapThr 5 31 (2 ^ 56 - 1) (2 ^ 24 - 1) (2 ^ 56 - 1) (2 ^ 32 - 1) true thr0)).solo = true :=
  ((H thr0 5 31 (2 ^ 56 - 1) (2 ^ 24 - 1) (2 ^ 56 - 1) (2 ^ 32 - 1) true (by decide) (by decide) (by decide) (by decide) (by decide)).2.2.2.2.2
    (trapThr 5 31 (2 ^ 56 - 1) (2 ^ 24 - 1) (2 ^ 56 - 1) (2 ^ 32 - 1) true thr0) .run rfl (by decide +kernel)).2.2.2.1

theorem met_StoresWriteTheirBytes (H : Obligations.StoresWriteTheirBytes) : ∃ t, Takes (.memoryAccessPerform 1) (homes (msg 0 (.store [(2 ^ 52 + 64, [1])] false true))) t :=
  let ⟨t, h, _⟩ := H (homes (msg 0 (.store [(2 ^ 52 + 64, [1])] false true))) 1 (msg 0 (.store [(2 ^ 52 + 64, [1])] false true)) (2 ^ 52 + 64) [1] (kind_at (k := 0) rfl) rfl (by decide +kernel)
  ⟨t, h⟩

theorem stepped : ∃ t, step State.reset = .next t := next_of (by decide +kernel)

theorem met_EveryStepKeepsMemoryCanonical (H : Obligations.EveryStepKeepsMemoryCanonical) : ∃ t, step State.reset = .next t ∧ Memory.wf t.m.mem = true := by
  obtain ⟨t, h⟩ := stepped
  exact ⟨t, h, H _ t (by decide) h⟩

theorem reset_inv : DeviceInv State.reset := ⟨by decide, by decide, by decide, by decide, by decide, by decide, by decide⟩

theorem met_EveryStepKeepsDeviceInv (H : Obligations.EveryStepKeepsDeviceInv) : ∃ t, step State.reset = .next t ∧ DeviceInv t := by
  obtain ⟨t, h⟩ := stepped
  exact ⟨t, h, H _ t reset_inv h⟩

/-- LEVEL 2 with no part of HBM released. -/
theorem level2_inv : DeviceInv (atLevel 2 5 0 id) := ⟨by decide, by decide, by decide, by decide, by decide, by decide, by decide⟩

/-- The fall at a reset; the rise rests on training, which the spec leaves free. -/
theorem met_LevelRisesAndFallsAsStated (H : Obligations.LevelRisesAndFallsAsStated) :
    (∃ t, exec .functionLevelReset (atLevel 2 5 0 id) = .next t ∧ t.sys.dev.level < 2 ∧
      (Instr.functionLevelReset = .moduleReset ∨ Instr.functionLevelReset = .functionLevelReset ∨ Instr.functionLevelReset = .thermalTrip)) ∧
    (Config.trained 0 = true → Config.trained 1 = true → ∃ t, exec (.hbmRelease 0) (atLevel 2 5 0 id) = .next t ∧ 2 < t.sys.dev.level) := by
  have h : (functionReset (atLevel 2 5 0 id)).sys.dev.level < (atLevel 2 5 0 id).sys.dev.level := by decide +kernel
  refine ⟨⟨_, rfl, h, (H .functionLevelReset (atLevel 2 5 0 id) _ level2_inv rfl).2 h⟩, fun a b => ⟨_, rfl, ?_⟩⟩
  unfold hbmRelease
  rw [if_neg (by decide +kernel)]
  dsimp only
  rw [show (Config.trained (atLevel 2 5 0 id).m.free && Config.trained ((atLevel 2 5 0 id).m.free + 1)) = true from by
    show (Config.trained 0 && Config.trained 1) = true
    rw [a, b]; rfl, if_pos rfl]
  decide +kernel
/-! Ill-formed terms: each differs in one field from a term that the check accepts. -/

/-- The check accepts the first and refuses the second. -/
def refuses (a b : Instr) : Bool := legal a && !legal b

def addI (dst sa sb : Opnd) : Instr := .add (P 4) (fa dst sa sb (.v 0) 0 0)

/-- 06 R169: PG 0b111 with PN. -/
theorem test_refuses_negated_p7 : refuses (addI (.v 2) (.v 0) (.v 1)) (.add { P 4 with pn := true } (fa (.v 2) (.v 0) (.v 1) (.v 0) 0 0)) = true := by decide
/-- 06 R170: WS on format I. -/
theorem test_refuses_ws : refuses (.movi (P 4) { dst := .v 2, sa := .v 0, sb := .v 0, imm := 1 }) (.movi { P 4 with ws := true } { dst := .v 2, sa := .v 0, sb := .v 0, imm := 1 }) = true := by decide
/-- 06 R171: s96; p7 as a destination; a field that is not used. -/
theorem test_refuses_s96 : refuses (addI (.v 2) (.s 95) (.v 1)) (addI (.v 2) (.s 96) (.v 1)) = true := by decide
theorem test_refuses_p7_written : refuses (.cmp (P 4) (fa (.p 6) (.v 0) (.v 1) (.v 0) 0 0)) (.cmp (P 4) (fa (.p 7) (.v 0) (.v 1) (.v 0) 0 0)) = true := by decide
theorem test_refuses_unused_operand : refuses (.neg (P 4) (fa (.v 2) (.v 1) (.v 0) (.v 0) 0 0)) (.neg (P 4) (fa (.v 2) (.v 1) (.v 3) (.v 0) 0 0)) = true := by decide
theorem test_refuses_unused_immediate : refuses (addI (.v 2) (.v 0) (.v 1)) (.add (P 4) (fa (.v 2) (.v 0) (.v 1) (.v 0) 1 0)) = true := by decide
/-- 06 R172: a pair at an odd index; an odd LT with a pair; LT without a register destination. -/
theorem test_refuses_odd_pair : refuses (.add (P 6) (fa (.v 2) (.v 0) (.v 4) (.v 0) 0 0)) (.add (P 6) (fa (.v 3) (.v 0) (.v 4) (.v 0) 0 0)) = true := by decide
theorem test_refuses_odd_latch : refuses (.add (P 6) { fa (.v 2) (.v 0) (.v 4) (.v 0) 0 0 with lt := 2 }) (.add (P 6) { fa (.v 2) (.v 0) (.v 4) (.v 0) 0 0 with lt := 3 }) = true := by decide
theorem test_refuses_latched_predicate : refuses (.cmp (P 4) (fa (.p 6) (.v 0) (.v 1) (.v 0) 0 0)) (.cmp (P 4) { fa (.p 6) (.v 0) (.v 1) (.v 0) 0 0 with lt := 1 }) = true := by decide
/-- 06 R173: a constant that the type does not have. -/
theorem test_refuses_constant : refuses (addI (.v 2) (.v 0) (.c 0xA1)) (addI (.v 2) (.v 0) (.c 0xA2)) = true := by decide
/-- 06 R174: a scalar destination with a source per lane; with a guard. -/
theorem test_refuses_lane_source : refuses (addI (.s 2) (.s 0) (.s 1)) (addI (.s 2) (.s 0) (.v 1)) = true := by decide
theorem test_refuses_guarded_scalar : refuses (addI (.s 2) (.s 0) (.s 1)) (.add { P 4 with pg := 0 } (fa (.s 2) (.s 0) (.s 1) (.v 0) 0 0)) = true := by decide
/-- 06 R178: an integer type above 7; a variant; a float type above 3. -/
theorem test_refuses_type : refuses (.add (P 7) (fa (.v 2) (.v 0) (.v 4) (.v 0) 0 0)) (.add (P 8) (fa (.v 2) (.v 0) (.v 4) (.v 0) 0 0)) = true := by decide
theorem test_refuses_variant : refuses (.add (P 0x14) (fa (.v 2) (.v 0) (.v 4) (.v 0) 0 0)) (.add (P 0x24) (fa (.v 2) (.v 0) (.v 4) (.v 0) 0 0)) = true := by decide
theorem test_refuses_float_type : refuses (.fadd (P 3) (fa (.v 2) (.v 0) (.v 4) (.v 0) 0 0)) (.fadd (P 4) (fa (.v 2) (.v 0) (.v 4) (.v 0) 0 0)) = true := by decide
/-- Field rules of the entries (07 to 09, 16). -/
theorem test_refuses_bit_field : refuses (.bfx (P 4) (fa (.v 2) (.v 0) (.v 0) (.v 0) (32 * 256 + 31) 0)) (.bfx (P 4) (fa (.v 2) (.v 0) (.v 0) (.v 0) (32 * 256 + 32) 0)) = true := by decide
theorem test_refuses_quad : refuses (.npck (P 0) (fa (.v 12) (.v 20) (.v 1) (.v 0) 0x100 5)) (.npck (P 0) (fa (.v 13) (.v 20) (.v 1) (.v 0) 0x100 5)) = true := by decide
theorem test_refuses_elements : refuses (.nunp (P 0) (fa (.v 20) (.v 12) (.v 1) (.v 0) 0xF00 5)) (.nunp (P 0) (fa (.v 20) (.v 12) (.v 1) (.v 0) 0x1000 5)) = true := by decide
theorem test_refuses_width : refuses (.ld (P 0) (fm (.v 4) (.s 8) (.c 0) 4)) (.ld (P 0) (fm (.v 4) (.s 8) (.c 0) 5)) = true := by decide
theorem test_refuses_base : refuses (.ld (P 0) (fm (.v 4) (.s 8) (.c 0) 2)) (.ld (P 0) (fm (.v 4) (.s 9) (.c 0) 2)) = true := by decide
theorem test_refuses_barrier : refuses (.cvw (P 0) (fc (.v 0) 3)) (.cvw (P 0) (fc (.v 0) 4)) = true := by decide
theorem test_refuses_tile : refuses (.tmov (P 0) (fa (.t 15) (.t 1) (.v 0) (.v 0) 0 0)) (.tmov (P 0) (fa (.v 15) (.t 1) (.v 0) (.v 0) 0 0)) = true := by decide
theorem test_refuses_record_quad : refuses (.rput (P 0) (fa (.p 1) (.v 4) (.v 8) (.v 0) 15 0)) (.rput (P 0) (fa (.p 1) (.v 5) (.v 8) (.v 0) 15 0)) = true := by decide
theorem test_refuses_loop_base : refuses (.nest (P 0) { body := 0 }) (.nest (P 0) { body := 1 }) = true := by decide
theorem test_refuses_trap_record_word : refuses (.tres (P 0) (fs (.v 2) (.v 0) 15)) (.tres (P 0) (fs (.v 2) (.v 0) 4)) = true := by decide
theorem test_refuses_core_control : refuses (.plcw (P 0) (fs (.v 0) (.s 16) 8)) (.plcw (P 0) (fs (.v 0) (.s 16) 9)) = true := by decide

/-! Words by the fields of 06 R168, R175 and the entries, beside those that a statement lists: what each stands for. -/

/-- A word of an opcode and FN with guard p7 and the fields of its format. -/
def wordOf (op fn : Nat) (l : List (Nat × Nat)) : Nat := fieldsAt ([(88, op), (80, fn), (76, 7)] ++ l)

theorem test_decode_cmp : decodeTableWord 96 (wordOf 0x18 0x24 [(54, 523), (44, 1), (34, 773), (24, 522), (16, 1)]) = some (.cmp (P 0x24) (fa (.p 3) (.v 1) (.c 5) (.p 2) 0 1)) := by decide +kernel
theorem test_decode_mad : decodeTableWord 96 (wordOf 0x04 0x16 [(54, 2), (44, 4), (34, 256 + 6), (24, 8)]) = some (.mad (P 0x16) (fa (.v 2) (.v 4) (.s 6) (.v 8) 0 0)) := by decide +kernel
theorem test_decode_cvt : decodeTableWord 96 (wordOf 0x1E 0x04 [(54, 2), (44, 1), (16, 9)]) = some (.cvt (P 4) (fa (.v 2) (.v 1) (.v 0) (.v 0) 0 9)) := by decide +kernel
theorem test_decode_fcmp : decodeTableWord 96 (wordOf 0x28 0x01 [(54, 520), (44, 1), (34, 2), (16, 5)]) = some (.fcmp (P 1) (fa (.p 0) (.v 1) (.v 2) (.v 0) 0 5)) := by decide +kernel
theorem test_decode_npck : decodeTableWord 96 (wordOf 0x41 0x00 [(54, 4), (44, 20), (34, 1), (16, 5), (0, 0x100)]) = some (.npck (P 0) (fa (.v 4) (.v 20) (.v 1) (.v 0) 0x100 5)) := by decide +kernel
theorem test_decode_shfl : decodeTableWord 96 (wordOf 0x50 0x31 [(54, 4), (44, 2), (34, 256 + 3), (0, 9)]) = some (.shfl (P 0x31) (fa (.v 4) (.v 2) (.s 3) (.v 0) 9 0)) := by decide +kernel
theorem test_decode_getc : decodeTableWord 96 (wordOf 0x60 0x00 [(54, 256 + 2), (0, 0x22)]) = some (.getc (P 0) (fa (.s 2) (.v 0) (.v 0) (.v 0) 0x22 0)) := by decide +kernel
theorem test_decode_call : decodeTableWord 96 (wordOf 0x72 0x00 [(30, 0x800000), (27, 3), (0, 2 * 2 ^ 17 + 30)]) =
    some (.call (P 0) { src := .v 0, loff := 0x800000, slot := 3, aux := 2 * 2 ^ 17 + 30 }) := by decide +kernel
theorem test_decode_atom : decodeTableWord 96 (wordOf 0x88 0x64 [(54, 2), (44, 256 + 8), (34, 768), (31, 2)]) = some (.atom (P 0x64) (fm (.v 2) (.s 8) (.c 0) 2)) := by decide +kernel
theorem test_decode_mon : decodeTableWord 96 (wordOf 0x8D 0x57 [(54, 2), (44, 256 + 8), (34, 768), (31, 3)]) = some (.mon (P 0x57) (fm (.v 2) (.s 8) (.c 0) 3)) := by decide +kernel
theorem test_decode_arrive : decodeTableWord 96 (wordOf 0xA2 0x10 [(44, 256 + 12), (34, 769)]) = some (.arrvAdd (P 0x10) (fa (.v 0) (.s 12) (.c 1) (.v 0) 0 0)) := by decide +kernel
theorem test_decode_rfet : decodeTableWord 192 (wordOf 0xB2 0x00 [(54, 2), (44, 256), (0, 1)]) = some (.rfet (P 0) (fe (.v 2) (.s 0) (.v 0) (.v 0) 1 0)) := by decide +kernel
theorem test_decode_mmsp : decodeTableWord 96 (wordOf 0xC1 0x04 [(54, 528 + 8), (44, 528 + 9), (34, 528 + 10)]) = some (.mmsp (P 4) (fa (.t 8) (.t 9) (.t 10) (.v 0) 0 0)) := by decide +kernel
theorem test_decode_rput : decodeTableWord 96 (wordOf 0xD1 0x00 [(54, 521), (44, 4), (34, 8), (0, 15)]) = some (.rput (P 0) (fa (.p 1) (.v 4) (.v 8) (.v 0) 15 0)) := by decide +kernel
theorem test_decode_xcon : decodeTableWord 192 (wordOf 0xE2 0x00 [(44, 256 + 2), (0, 0x40)]) = some (.xcon (P 0) (fe (.v 0) (.s 2) (.v 0) (.v 0) 0x40 0)) := by decide +kernel
theorem test_decode_plcw : decodeTableWord 96 (wordOf 0xF6 0x00 [(44, 256 + 16), (0, 8)]) = some (.plcw (P 0) (fs (.v 0) (.s 16) 8)) := by decide +kernel
/-- 06 R171: operand code 1023 is no operand of `add`; opcode 0x3F is not assigned. -/
theorem test_decode_refuses : decodeTableWord 96 (wordOf 0x00 4 [(54, 2), (44, 1023)]) = none ∧ decodeTableWord 96 (wordOf 0x3F 0 []) = none := by decide +kernel

/-! Statements that hold at every state, at values of their own. -/

theorem met_SpecWordsDecode (H : Obligations.SpecWordsDecode) : (decodeTableWord 96 (wordOf 0x00 4 [(54, 3), (44, 1), (34, 258)])).isSome = true := by
  have h : wordOf 0x00 4 [(54, 3), (44, 1), (34, 258)] = fieldsAt [(88, 0x00), (80, 4), (76, 7), (54, 3), (44, 1), (34, 256 + 2)] := by decide
  rw [h, H.1]; rfl
/-! Worked examples of the spec. -/

/-- The line of 06 §6.10, by its sixteen 32-bit words. -/
def exampleLine : Nat :=
  ofBytes ([0x0A410800, 0, 0x00C01008, 0x00047000, 0x40, 0x01808C01, 0x80007008, 0, 0x02800000, 0x1D077000, 0x89ABCDEF, 0x01234567, 0, 0, 0, 0x77007010].flatMap (toBytes 4))

/-- The line is well formed and its parity holds; slot 0 is the target and slot 1 its partner. -/
theorem test_example_line : linePar exampleLine = true ∧ lineWf exampleLine = true ∧ lineTgt exampleLine 0 = true ∧ linePair exampleLine 1 = true ∧ lineCont exampleLine 3 = true := by decide +kernel
theorem test_example_slot_0 : instrAt exampleLine 0 = some (.add (P 4) (fa (.v 3) (.v 1) (.v 2) (.v 0) 0 0)) := by decide +kernel
theorem test_example_slot_1 : instrAt exampleLine 1 = some (.ld { P 0 with te := true } { fm (.v 6) (.v 8) (.c 0) 2 with off := 0x40 }) := by decide +kernel
theorem test_example_slot_2 : instrAt exampleLine 2 = some (.movw (P 7) { dst := .v 10, imm := 0x0123456789ABCDEF }) := by decide +kernel
theorem test_example_slot_4 : instrAt exampleLine 4 = some (.exit { P 0 with wt := 1 } (fc (.v 0) 0)) := by decide +kernel

/-- The words of `add.s32.sat v4, v2, v3 -> x1` and `shl.n32 v5, x1, 3 gap 2` (07 §7.2). -/
def satAdd : Instr := .add (P 0x14) { fa (.v 4) (.v 2) (.v 3) (.v 0) 0 0 with lt := 1 }
def shl3 : Instr := .shl { P 5 with gap := 2 } (fa (.v 5) (.x 1) (.c 3) (.v 0) 0 0)
theorem test_example_add : decodeTableWord 96 (0x00200000 + 0x0100200C * 2 ^ 32 + 0x00147000 * 2 ^ 64) = some satAdd := by decide +kernel
theorem test_example_shl : decodeTableWord 96 (0x01601C0C * 2 ^ 32 + 0x0F057200 * 2 ^ 64) = some shl3 := by decide +kernel

/-- Vector register `n` as the last result on its way has it. -/
def lands (n : Nat) (x : Host.Outcome State Fault Refusal) : List Word :=
  match x with
  | .next t => t.m.pending.flatMap (fun p => p.wr.filterMap (fun w => match w with | .v _ _ k v _ => if k = n then some v else none | _ => none))
  | _ => []

/-- With v2 == 0x7FFFFFF0 and v3 == 0x20 the saturating add gives 0x7FFFFFFF, the plain one 0x80000010. -/
theorem test_add_saturates : lands 4 (exec satAdd (withV [0, 0, 0x7FFFFFF0, 0x20])) = [0x7FFFFFFF] := by decide +kernel
theorem test_add_wraps : lands 4 (exec (addI (.v 4) (.v 2) (.v 3)) (withV [0, 0, 0x7FFFFFF0, 0x20])) = [0x80000010] := by decide +kernel

/-- Poison of kind 5 with index 37, converted to the other formats (05 §5.5). -/
theorem test_poison_converts : poisonBits .f64 5 37 = 0x7FFA800000000025 ∧ poisonBits .f16 5 37 = 0x7F65 ∧ poisonBits .g16 5 37 = 0x7FED ∧
    decodeF .f32 0x7FD40025 = .nan true 5 37 := by decide +kernel
theorem test_fcvt_poison : lands 2 (exec (.fcvt (P 2) (fa (.v 2) (.v 1) (.v 0) (.v 0) 0 1)) (withV [0, 0x7FD40025])) = [0x7F65] := by decide +kernel

/-- The address 0x00F000002A513C40 lies in the window of mark 0x2A5, at 0x13C40, bank 0x88, bank row 0x27 (03 §3.1). -/
theorem test_window_address : regionOf 0x00F000002A513C40 = .pad 0x2A5 0x13C40 ∧ bankRowsOf (2 ^ 52 + 0x13C40) 8 = [(0x88, 0x27)] := by decide +kernel
/-- The metadata of its frame lies at 0x00F21E0000054A20 (03 §3.3). -/
theorem test_metadata_address : regionOf 0x00F21E0000054A20 = .metaw (0x00F000002A510000 / 2 ^ 14) := by decide +kernel

/-- 0.3, -1.75, 448.0 and 500.0 packed under fm0 with scale byte 0x7F (05 §5.3); the group's fm0 as at launch. -/
def packed : State := withV ([0, 0, 0, 0, 0, 0, 0, 0, 0x7F] ++ List.replicate 11 0 ++ [0x3E99999A, 0xBFE00000, 0x43E00000, 0x43FA0000])
def pack4 : Instr := .npck (P 0) (fa (.v 4) (.v 20) (.v 8) (.v 0) 0x400 5)
theorem test_npck_example : (List.range 4).map (fun k => lands (4 + k) (exec pack4 packed)) = [[0x7F7EBE2A], [0], [0], [0xC8000000]] := by decide +kernel

/-- A load from core (2, 10) to the slice of core (2, 1) takes 3 hops and 24 clocks unloaded (03 §3.9). -/
theorem test_hops_example : hops (coreId 0 2 10) (coreId 0 2 1) = 3 ∧ latency (coreId 0 2 10) (coreId 0 2 1) = 24 := by decide +kernel

/-- The word of the saturating add, stored where the next step fetches after reset, runs: its result is on its way. -/
theorem test_fetch_runs : lands 4 (step (State.reset.withFetchWord 96 (0x00200000 + 0x0100200C * 2 ^ 32 + 0x00147000 * 2 ^ 64))) = [0] := by decide +kernel

/-! Signatures and control cores. -/

/-- SHA-512 of "abc" as FIPS 180-4 gives it, and the Ed25519ph example of RFC 8032 §7.3, which 19 R419 names: its key and its signature of "abc", and the same with one bit changed. -/
theorem test_sha512_abc : ofBytes (sha512 [0x61, 0x62, 0x63]).reverse =
    0xddaf35a193617abacc417349ae20413112e6fa4e89a97ea20a9eeee64b55d39a2192992a274fc1a836ba3c23a3feebbd454d4423643ce80e2a9ac94fa54ca49f := by decide +kernel

def rfcKey : List Byte := beBytes 32 0xec172b93ad5e563bf4932c70e1245034c35467ef2efd4d64ebf819683467e2bf
def rfcSig : Nat := 0x98a70222f0b8121aa9d30f813d683f809e462b469c7ff87639499bb94e6dae4131f85042463c2a355a2003d062adf5aaa10b8c61e636062aaad11c2a26083406

theorem test_signature_verifies : edVerify rfcKey (beBytes 64 rfcSig) [0x61, 0x62, 0x63] = true := by decide +kernel
theorem test_signature_fails : edVerify rfcKey (beBytes 64 (rfcSig + 1)) [0x61, 0x62, 0x63] = false := by decide +kernel

/-- A control core with one locked PMP entry that lets the 4 KiB from 0x10000 on be read. -/
def ctl0 (p : Priv) : CtlCore :=
  { CtlCore.initial with priv := p, pc := 0x40, mtvec := 0x100, stvec := 0x200, medeleg := 2 ^ 8, pmp := [{ r := true, w := false, x := false, mode := 3, lock := true, addr := (0x10000 + 0x7FF) / 4 }] }

/-- 14 R333: a locked entry binds the monitor too, the rest of memory is open to it and closed to the layers below. -/
theorem test_pmp_locks : [pmpOk (ctl0 .m) .m 0x10FF8 8 1, pmpOk (ctl0 .m) .m 0x10FF8 8 2, pmpOk (ctl0 .m) .m 0x10FFC 8 1, pmpOk (ctl0 .m) .m 0x11000 8 2, pmpOk (ctl0 .s) .s 0x11000 8 1] =
    [true, false, false, true, false] := by decide +kernel

/-- 14 R333: a plug-in's `ecall` reaches the scheduler. -/
theorem test_ecall : (ctlEcall (ctl0 .u)).priv = .s ∧ (ctlEcall (ctl0 .u)).pc = 0x200 ∧ (ctlEcall (ctl0 .u)).sepc = 0x40 ∧ (ctlEcall (ctl0 .u)).scause = 8 := by decide

end Sys2Proof.Tests
end

section
/-! SUPPORT. Steps of the device and reads of registers: when a step is taken, and what reads after a thread, a group or a bit is written. -/
namespace Sys2Proof.Machine
open Sys2Proof

/-! A step of the device is taken where it is due. -/

theorem ev_due {due : Bool} {name : String} {s : State} (h : due = true) : ev due name s = .next s := by
  rw [ev, if_pos h]

/-- The place that `FirstAt` names is the one that a search of the list's indices finds. -/
theorem find?_range_of_firstAt {α : Type} {l : List α} {P : α → Prop} {k : Nat} {a : α} (p : Nat → Bool)
    (hp : ∀ j b, l[j]? = some b → (p j = true ↔ P b)) (h : FirstAt l P k a) : (List.range l.length).find? p = some k := by
  obtain ⟨hk, ha, hb⟩ := h
  have hlt : k < l.length := (List.getElem?_eq_some_iff.mp hk).1
  rw [List.find?_range_eq_some]
  refine ⟨(hp k a hk).mpr ha, List.mem_range.mpr hlt, fun j hj => ?_⟩
  have hj' : l[j]? = some l[j] := List.getElem?_eq_getElem (by omega)
  rw [Bool.not_eq_true', ← Bool.not_eq_true]
  exact mt (hp j l[j] hj').mp (hb j l[j] hj hj')

/-! Reads after an update of a thread or a group, whether or not it is there. -/

theorem grpOf_updGrp_other (m : Mach) {g k : Nat} (f : Group → Group) (h : k ≠ g) : grpOf (updGrp m g f) k = grpOf m k := by
  simp only [grpOf, updGrp_groups, tget_tupd, h, ↓reduceIte]

/-- A group that is there is updated, one that is not reads as gone as before. -/
theorem grpOf_updGrp_self (m : Mach) (g : Nat) (f : Group → Group) :
    grpOf (updGrp m g f) g = f (grpOf m g) ∨ grpOf (updGrp m g f) g = goneGroup ∧ grpOf m g = goneGroup := by
  simp only [grpOf, updGrp_groups, tget_tupd, ↓reduceIte]
  cases tget m.groups g with
  | none => exact .inr ⟨rfl, rfl⟩
  | some a => exact .inl rfl

theorem lget_lupd_other {α : Type} (l : List α) {i j : Nat} (f : α → α) (d : α) (h : j ≠ i) : lget (lupd l i f) j d = lget l j d := by
  simp only [lget, List.getD_eq_getElem?_getD, get_lupd, h, ↓reduceIte]

/-- An element that is there is updated, a default stays. -/
theorem lget_lupd_self {α : Type} (l : List α) (i : Nat) (f : α → α) (d : α) :
    lget (lupd l i f) i d = if i < l.length then f (lget l i d) else d := by
  simp only [lget, List.getD_eq_getElem?_getD, get_lupd, ↓reduceIte]
  split
  · rename_i h
    simp only [List.getElem?_eq_getElem h, Option.map_some, Option.getD_some]
  · rename_i h
    simp only [List.getElem?_eq_none (Nat.not_lt.mp h), Option.map_none, Option.getD_none]

theorem lget_setAt_other {α : Type} (l : List α) {i j : Nat} (a d : α) (h : j ≠ i) : lget (setAt l i a) j d = lget l j d := by
  simp only [lget, setAt, List.getD_eq_getElem?_getD, List.getElem?_set_ne (Ne.symm h)]

theorem lget_setAt_self {α : Type} (l : List α) {i : Nat} (a d : α) (h : i < l.length) : lget (setAt l i a) i d = a := by
  rw [lget, setAt, List.getD_eq_getElem?_getD, List.getElem?_set_self h, Option.getD_some]

theorem thrOf_updThr_other (m : Mach) {g l k j : Nat} (f : Thread → Thread) (h : k ≠ g ∨ j ≠ l) : thrOf (updThr m g l f) k j = thrOf m k j := by
  by_cases hk : k = g
  · subst hk
    have hj : j ≠ l := h.resolve_left (fun n => n rfl)
    rcases grpOf_updGrp_self m k (fun a => { a with th := lupd a.th l f }) with e | ⟨e, e'⟩
    · simp only [thrOf, updThr, e, lget_lupd_other _ _ _ hj]
    · simp only [thrOf, updThr, e, e']
  · simp only [thrOf, updThr, grpOf_updGrp_other _ _ hk]

/-- A thread that is there is updated. -/
theorem thrOf_updThr_self (m : Mach) {g l : Nat} (f : Thread → Thread) (h : l < (grpOf m g).th.length) :
    thrOf (updThr m g l f) g l = f (thrOf m g l) := by
  rcases grpOf_updGrp_self m g (fun a => { a with th := lupd a.th l f }) with e | ⟨_, e⟩
  · simp only [thrOf, updThr, e, lget_lupd_self, h, ↓reduceIte]
  · rw [e] at h
    exact absurd h (Nat.not_lt_zero l)

/-- A lane without a thread reads as before. -/
theorem thrOf_updThr_gone (m : Mach) {g l : Nat} (f : Thread → Thread) (h : (grpOf m g).th.length ≤ l) :
    thrOf (updThr m g l f) g l = thrOf m g l := by
  have ho : thrOf m g l = goneThread := by simp only [thrOf, lget, List.getD_eq_getElem?_getD, List.getElem?_eq_none h, Option.getD_none]
  rcases grpOf_updGrp_self m g (fun a => { a with th := lupd a.th l f }) with e | ⟨e, e'⟩
  · rw [ho]
    simp only [thrOf, updThr, e, lget_lupd_self, Nat.not_lt.mpr h, ↓reduceIte]
  · simp only [thrOf, updThr, e, e']

/-- What an update leaves of a thread stays, whichever thread is read. -/
theorem thrOf_updThr_keeps {α : Type} (m : Mach) (g l k j : Nat) {f : Thread → Thread} (p : Thread → α) (h : p (f (thrOf m g l)) = p (thrOf m g l)) :
    p (thrOf (updThr m g l f) k j) = p (thrOf m k j) := by
  by_cases hkj : k = g ∧ j = l
  case neg => rw [thrOf_updThr_other m f (Decidable.not_and_iff_or_not.mp hkj)]
  case pos =>
    obtain ⟨rfl, rfl⟩ := hkj
    by_cases hl : j < (grpOf m k).th.length
    · rw [thrOf_updThr_self m f hl, h]
    · rw [thrOf_updThr_gone m f (Nat.not_lt.mp hl)]

/-- A lane that holds a vector register has a thread. -/
theorem lane_lt_of_reg {m : Mach} {g l n : Nat} (h : n < (thrOf m g l).v.length) : l < (grpOf m g).th.length := by
  refine Decidable.byContradiction fun hl => ?_
  have ho : thrOf m g l = goneThread := by simp only [thrOf, lget, List.getD_eq_getElem?_getD, List.getElem?_eq_none (Nat.not_lt.mp hl), Option.getD_none]
  rw [ho] at h
  exact absurd h (Nat.not_lt_zero n)

/-! Bits of a number of which one is written. -/

theorem bitOf_eq_testBit (n i : Nat) : bitOf n i = n.testBit i := by
  rw [bitOf, Nat.testBit_eq_decide_div_mod_eq]
  rfl

/-- One bit written reads back, and every other bit stays. -/
theorem bitOf_putBits_one (n i v j : Nat) : bitOf (putBits n i i v) j = if j = i then bitOf v 0 else bitOf n j := by
  have hq : putBits n i i v = 2 ^ i * (n / 2 ^ i - n / 2 ^ i % 2 + v % 2) + n % 2 ^ i := by
    have hb : n / 2 ^ i % 2 ≤ n / 2 ^ i := Nat.mod_le _ _
    have hn : 2 ^ i * (n / 2 ^ i) + n % 2 ^ i = n := Nat.div_add_mod n (2 ^ i)
    have hm : 2 ^ i * (n / 2 ^ i % 2) ≤ 2 ^ i * (n / 2 ^ i) := Nat.mul_le_mul_left _ hb
    simp only [putBits, bitsOf, Nat.add_sub_cancel_left, Nat.pow_one, Nat.mul_add, Nat.mul_sub, Nat.mul_comm _ (2 ^ i)]
    omega
  have hlt : n % 2 ^ i < 2 ^ i := Nat.mod_lt _ (Nat.two_pow_pos i)
  have hhalf : (n / 2 ^ i - n / 2 ^ i % 2 + v % 2) % 2 = v % 2 ∧ (n / 2 ^ i - n / 2 ^ i % 2 + v % 2) / 2 = n / 2 ^ i / 2 := by
    generalize n / 2 ^ i = q
    omega
  rw [bitOf_eq_testBit, bitOf_eq_testBit, bitOf_eq_testBit, hq, Nat.testBit_two_pow_mul_add _ hlt]
  rcases Nat.lt_trichotomy j i with h | rfl | h
  · rw [if_pos h, if_neg (by omega), Nat.testBit_mod_two_pow]
    simp only [h, decide_true, Bool.true_and]
  · simp only [Nat.lt_irrefl, ↓reduceIte, Nat.sub_self, Nat.testBit_zero, hhalf.1]
  · obtain ⟨d, rfl⟩ : ∃ d, j = i + (d + 1) := ⟨j - i - 1, by omega⟩
    rw [if_neg (by omega), if_neg (by omega), Nat.add_sub_cancel_left, Nat.testBit_succ,
      hhalf.2, ← Nat.testBit_succ, Nat.testBit_div_two_pow]
    congr 1
    omega

/-- Seven bits hold a predicate register: one bit written into them reads back, and one above them is lost. -/
theorem bitOf_putBit7 (p : BitVec 7) (n : Nat) (b : Bool) {j : Nat} (hj : j < 7) :
    bitOf (BitVec.ofNat 7 (putBits p.toNat n n (if b then 1 else 0))).toNat j = if j = n then b else bitOf p.toNat j := by
  rw [BitVec.toNat_ofNat, bitOf_eq_testBit, Nat.testBit_mod_two_pow, ← bitOf_eq_testBit, bitOf_putBits_one]
  have hb : bitOf (if b then 1 else 0) 0 = b := by cases b <;> rfl
  rw [hb, decide_eq_true hj, Bool.true_and]

end Sys2Proof.Machine
end

section
/-! PROOF. What register writes leave (01 R13, R37, 06 R171, 08 R257). -/
namespace Sys2Proof.Machine
open Sys2Proof

/-! What a write leaves, register by register (01 R13, 06 R171, 08 R257). -/

/-- The write of predicate `n` in a thread. -/
def setPred (n : Nat) (b t : Bool) (th : Thread) : Thread :=
  { th with pv := BitVec.ofNat 7 (putBits th.pv.toNat n n (if b then 1 else 0)), pt := BitVec.ofNat 7 (putBits th.pt.toNat n n (if t then 1 else 0)) }

theorem bitOf_setPred_pv (n : Nat) (b t : Bool) (th : Thread) {j : Nat} (hj : j < 7) :
    bitOf (setPred n b t th).pv.toNat j = if j = n then b else bitOf th.pv.toNat j := bitOf_putBit7 _ _ _ hj

theorem bitOf_setPred_pt (n : Nat) (b t : Bool) (th : Thread) {j : Nat} (hj : j < 7) :
    bitOf (setPred n b t th).pt.toNat j = if j = n then t else bitOf th.pt.toNat j := bitOf_putBit7 _ _ _ hj

theorem applyWr_p (m : Mach) (g l n : Nat) (b t : Bool) : applyWr m (.p g l n b t) = updThr m g l (setPred n b t) := rfl

/-- A vector register that is not lent away reads as written. -/
theorem regV_applyWr_same (m : Mach) (g l n : Nat) (x : Word) (sn : Nat) (hl : lentAway (thrOf m g l) n sn = false) (hn : n < (thrOf m g l).v.length) :
    regV (applyWr m (.v g l n x sn)) g l n = x.toNat := by
  rw [regV, applyWr_v, thrOf_updThr_self m _ (lane_lt_of_reg hn), hl, if_neg Bool.false_ne_true, lget_setAt_self _ _ _ hn]

/-- A write to a register lent after the issue changes no thread's registers. -/
theorem regV_applyWr_lent (m : Mach) (g l n : Nat) (x : Word) (sn k j i : Nat) (hl : lentAway (thrOf m g l) n sn = true) :
    regV (applyWr m (.v g l n x sn)) k j i = regV m k j i := by
  rw [applyWr_v]
  exact thrOf_updThr_keeps m g l k j (fun t => (lget t.v i 0).toNat) (by rw [if_pos hl])

/-- Any other vector register reads as before. -/
theorem regV_applyWr_other (m : Mach) (g l n : Nat) (x : Word) (sn k j i : Nat) (h : k ≠ g ∨ j ≠ l ∨ i ≠ n) :
    regV (applyWr m (.v g l n x sn)) k j i = regV m k j i := by
  rw [applyWr_v]
  by_cases hi : i = n
  · have hkj : k ≠ g ∨ j ≠ l := by omega
    rw [regV, thrOf_updThr_other m _ hkj, regV]
  · refine thrOf_updThr_keeps m g l k j (fun t => (lget t.v i 0).toNat) ?_
    split
    · rfl
    · exact congrArg BitVec.toNat (lget_setAt_other _ _ _ hi)

theorem regS_applyWr_same (m : Mach) (g n : Nat) (x : Word) (hn : n < (grpOf m g).s.length) : regS (applyWr m (.s g n x)) g n = x.toNat := by
  rw [regS, applyWr_s]
  rcases grpOf_updGrp_self m g (fun a => { a with s := setAt a.s n x }) with e | ⟨_, e⟩
  · rw [e, lget_setAt_self _ _ _ hn]
  · rw [e] at hn
    exact absurd hn (Nat.not_lt_zero n)

theorem regS_applyWr_other (m : Mach) (g n : Nat) (x : Word) (k i : Nat) (h : k ≠ g ∨ i ≠ n) : regS (applyWr m (.s g n x)) k i = regS m k i := by
  rw [regS, applyWr_s, regS]
  by_cases hk : k = g
  · subst hk
    have hi : i ≠ n := h.resolve_left (fun n => n rfl)
    rcases grpOf_updGrp_self m k (fun a => { a with s := setAt a.s n x }) with e | ⟨e, e'⟩
    · rw [e, lget_setAt_other _ _ _ hi]
    · rw [e, e']
  · rw [grpOf_updGrp_other _ _ hk]

/-- A predicate other than p7 reads as written, with its taint. -/
theorem pred_applyWr_same (m : Mach) (g l n : Nat) (b t : Bool) (hl : l < (grpOf m g).th.length) (hn : n < 7) :
    predV (applyWr m (.p g l n b t)) g l n = b ∧ predT (applyWr m (.p g l n b t)) g l n = t := by
  have h7 : n ≠ 7 := by omega
  rw [predV, predT, applyWr_p, thrOf_updThr_self m _ hl]
  simp only [bitOf_setPred_pv _ _ _ _ hn, bitOf_setPred_pt _ _ _ _ hn, ↓reduceIte, beq_eq_false_iff_ne.mpr h7, bne, Bool.false_or, Bool.not_false,
    Bool.true_and, and_self]

/-- Any other predicate reads as before, and a write to p7 changes none. -/
theorem pred_applyWr_other (m : Mach) (g l n : Nat) (b t : Bool) (k j i : Nat) (hi : i < 8) (h : k ≠ g ∨ j ≠ l ∨ i ≠ n ∨ n = 7) :
    predV (applyWr m (.p g l n b t)) k j i = predV m k j i ∧ predT (applyWr m (.p g l n b t)) k j i = predT m k j i := by
  rw [applyWr_p]
  by_cases h7 : i = 7
  · subst h7
    exact ⟨rfl, rfl⟩
  by_cases hin : i = n
  · have hkj : k ≠ g ∨ j ≠ l := by omega
    simp only [predV, predT, thrOf_updThr_other m _ hkj, and_self]
  · have hlt : i < 7 := by omega
    exact ⟨thrOf_updThr_keeps m g l k j (fun u => i == 7 || bitOf u.pv.toNat i) (by simp only [bitOf_setPred_pv _ _ _ _ hlt, hin, ↓reduceIte]),
      thrOf_updThr_keeps m g l k j (fun u => i != 7 && bitOf u.pt.toNat i) (by simp only [bitOf_setPred_pt _ _ _ _ hlt, hin, ↓reduceIte])⟩

/-- Settles O50, register file by register file. -/
theorem registerWritesReadBack : Obligations.RegisterWritesReadBack := by
  unfold Obligations.RegisterWritesReadBack
  refine fun m g => ⟨?vSame, ?vOther, ?sSame, ?sOther, ?pSame, ?pOther⟩
  case vSame => exact fun l n x sn hl hn => regV_applyWr_same m g l n x sn hl hn
  case vOther =>
    intro l n x sn k j i h
    by_cases hl : lentAway (thrOf m g l) n sn = true
    · exact regV_applyWr_lent m g l n x sn k j i hl
    · have hne : k ≠ g ∨ j ≠ l ∨ i ≠ n := by
        rcases h with h | h | h | h
        · exact .inl h
        · exact .inr (.inl h)
        · exact .inr (.inr h)
        · exact absurd h hl
      exact regV_applyWr_other m g l n x sn k j i hne
  case sSame => exact fun n x hn => regS_applyWr_same m g n x hn
  case sOther => exact fun n x k i h => regS_applyWr_other m g n x k i h
  case pSame => exact fun l n b t hl hn => pred_applyWr_same m g l n b t hl hn
  case pOther => exact fun l n b t k j i _ hi h => pred_applyWr_other m g l n b t k j i hi h

end Sys2Proof.Machine
end

section
/-! PROOF. Results land (01 R37, 18 R413); claims, barriers and atomic buffers (01 R28 to R31, 04 R122, 08 R230, R252). -/
namespace Sys2Proof.Machine
open Sys2Proof

/-! Results land. -/

/-- The result that lands next is the first whose clock has come (01 R37). -/
theorem nextLand_of_firstAt {s : State} {k : Nat} {l : Landing} (h : FirstAt s.m.pending (fun l => l.tm ≤ s.clk.now) k l) : nextLand s = some k :=
  find?_range_of_firstAt _ (fun j b hb => by simp only [landDue, hb, Option.any_some, decide_eq_true_eq]) h

theorem takes_resultLand {s : State} {k : Nat} (h : nextLand s = some k) : Takes .resultLand s (s.mapM (landDo k)) := by
  have hd : Takes .resultLand s (s.mapM (landDo ((nextLand s).getD 0))) := ev_due (by rw [h]; rfl)
  rwa [h] at hd

/-- A result for a core that is not isolated lands whole. -/
theorem landDo_lands {e : Env} {m : Mach} {k : Nat} {l : Landing} (hk : m.pending[k]? = some l) (h : ∀ c, l.far = some c → (coreOf m c).isol = false) :
    landDo k e m = landMerged { m with pending := m.pending.eraseIdx k } l := by
  have hf : l.far.any (fun c => (coreOf m c).isol) = false := by
    cases hl : l.far with
    | none => rfl
    | some c => exact h c hl
  simp only [landDo, hk, hf, Bool.false_eq_true, ↓reduceIte]

/-- One from elsewhere for an isolated core is discarded (18 R413). -/
theorem landDo_discards {e : Env} {m : Mach} {k c : Nat} {l : Landing} (hk : m.pending[k]? = some l) (hl : l.far = some c) (h : (coreOf m c).isol = true) :
    landDo k e m = { m with pending := m.pending.eraseIdx k } := by
  simp only [landDo, hk, hl, Option.any_some, h, ↓reduceIte]

/-- Settles O27: the search of RESULT_LAND finds the first result that is due, and only the isolation of a core that it comes to from elsewhere keeps it from landing. -/
theorem resultsLand : Obligations.ResultsLand := by
  unfold Obligations.ResultsLand
  intro s k l h
  have ht : Takes .resultLand s (s.withMach (landDo k s.env s.m)) := takes_resultLand (nextLand_of_firstAt h)
  obtain ⟨hk, _⟩ := h
  refine ⟨fun hf => ?_, fun c hl hi => ?_⟩
  · rwa [landDo_lands hk hf] at ht
  · rwa [landDo_discards hk hl hi] at ht

/-! Claims, barriers and flushes: when each step is due, and what it does. -/

theorem claimDue_of {s : State} {id k : Nat} {c : Claim} (hc : claimOf s.m id = some (k, c)) (ht : c.tm < s.clk.now)
    (hr : resident (teamOf s.m k) = true) (ha : atHead s.m (teamOf s.m k) c = true) (hf : claimFits s.m k c = true) : claimDue s id = true := by
  simp only [claimDue, hc, ht, hr, ha, hf, decide_true, Bool.and_self]

theorem deadlockDue_of {s : State} {k t : Nat} (ht : (teamOf s.m k).dlAt = some t) (hn : t ≤ s.clk.now) (hd : deadlocked s.m k = true) :
    deadlockDue s k = true := by
  simp only [deadlockDue, ht, Option.any_some, hn, hd, decide_true, Bool.and_self]

theorem cvwDue_of {s : State} {g cb : Nat} (hd : cvwDone (grpOf s.m g) cb = true)
    (ht : ∀ t ∈ (grpOf s.m g).th, t.wait = .cvw cb → t.lastIssue < s.clk.now) (hg : (grpOf s.m g).lastIssue < s.clk.now) : cvwDue s g cb = true := by
  have hall : (grpOf s.m g).th.all (fun t => t.wait != .cvw cb || decide (t.lastIssue < s.clk.now)) = true := by
    rw [List.all_eq_true]
    intro t hm
    by_cases hw : t.wait = .cvw cb
    · rw [decide_eq_true (ht t hm hw), Bool.or_true]
    · rw [bne_iff_ne.mpr hw, Bool.true_or]
  simp only [cvwDue, hd, hall, hg, decide_true, Bool.and_self]

theorem barLatency_eq (m : Mach) (k : Nat) : barLatency m k = if k % 8 = 4 ∧ (tget m.grids (k / 8)).any (·.multi) = true then 72 else 18 := by
  simp only [barLatency, Bool.and_eq_true, decide_eq_true_eq, bsnPkg, bsnDie]

theorem barDue_of {s : State} {k a f : Nat} (hb : barOfKey s.m k = { sat := some a, flushed := some f })
    (ha : a + barLatency s.m k ≤ s.clk.now) (hf : f + 1 ≤ s.clk.now) : barDue s k = true := by
  simp only [barDue, hb, decide_eq_true_eq]
  omega

theorem drainDue_of {s : State} {k g : Nat} {f : Flush} {r : List Nat} (hf : tget s.m.flushes k = some f) (hs : f.slots = g :: r) (ho : f.out = 0)
    (ha : f.ackAt ≤ s.clk.now) : drainDue s k = true := by
  simp only [drainDue, hf, hs, ho, ha, Option.any_some, List.isEmpty_cons, Bool.not_false, BEq.rfl, decide_true, Bool.and_self]

/-- The first of a flush's slots drains, and the flush counts its entries. -/
theorem drainDo_of_slots {e : Env} {m : Mach} {k g : Nat} {f : Flush} {r : List Nat} (hf : tget m.flushes k = some f) (hs : f.slots = g :: r) :
    drainDo k e m = drainSlot e { m with flushes := tset m.flushes k { f with slots := r, g := g, out := (grpOf m g).ab.length } } g k := by
  simp only [drainDo, hf, hs, List.headD_cons, List.drop_succ_cons, List.drop_zero]

/-- Settles O30: each of the five steps is due under the conditions stated, and does what is stated. -/
theorem claimsAndBarriersRelease : Obligations.ClaimsAndBarriersRelease := by
  unfold Obligations.ClaimsAndBarriersRelease
  refine fun s => ⟨?claim, ?deadlock, ?cvw, ?barrier, ?drain⟩
  case claim =>
    intro id k c hc ht hr ha hf
    have h : Takes (.claimGrant id) s (s.mapM (claimDo id)) := ev_due (claimDue_of hc ht hr ha hf)
    simp only [State.mapM, claimDo, hc] at h
    exact h
  case deadlock => exact fun k t ht hn hd => ev_due (deadlockDue_of ht hn hd)
  case cvw => exact fun g cb hd ht hg => ev_due (cvwDue_of hd ht hg)
  case barrier =>
    intro k a f hb ha hf
    rw [← barLatency_eq] at ha
    exact ev_due (barDue_of hb ha hf)
  case drain =>
    intro k f g r hf hs ho ha
    have h : Takes (.atomicBufferDrain k) s (s.mapM (drainDo k)) := ev_due (drainDue_of hf hs ho ha)
    rwa [State.mapM, drainDo_of_slots hf hs] at h

end Sys2Proof.Machine
end

section
/-! PROOF. The two frame statements fail: a set that meets the hypotheses of each, and what its issue leaves. -/
namespace Sys2Proof.Machine.FrameFails
open Sys2Proof

/-! States in which both sets stand: group 0 on core 0, in the program's own mode, in team 0 of partition 0, which keeps no poison log. -/

/-- The selected set of group 0 with the given lanes. -/
def selected (lanes : List Nat) : Cur := { g := 0, pc := 0, next := 1, lanes := lanes, hm := false, pair := false, second := false, solo := false, trapped := [] }

/-- Memory that holds a page table whose one entry maps its own page at address 0, readable, writable and executable, and at 64 a line whose first slot is a legal target. -/
def selfMapped : Memory := [(codeHome, 0x1D), (codeHome + 5, 0x02), (codeHome + 65, 0x08)]

/-- Partition 0, whose trap vector is that target. -/
def vectored : Sys := { Sys.reset with parts := [(0, { Part.initial with en := true, tvec := 64, root := codeHome / 4096, place := [(0, 2 ^ 63)] })] }

/-- The group stands selected with the given lanes. -/
def calmState (lanes : List Nat) (gr : Group) (graphs : Tab Graph) (tlb : List TEnt) : State :=
  { State.reset with
    sys := vectored
    m := { Mach.reset with
      mem := selfMapped, groups := [(0, gr)], teams := [(0, codeTeam)], entries := [(0, { Entry.initial with v := true })], graphs := graphs, tlb := tlb,
      cur := some (selected lanes) } }

/-! `npck` in a dispatch of a node with NRB (05 R157). -/

/-- 0.3 in v20, and the scale byte 0x7F in v8. -/
def packThread : Thread := { Thread.launch 0 32 0 with v := List.replicate 8 0 ++ [0x7F] ++ List.replicate 11 0 ++ [0x3E99999A] ++ List.replicate 11 0 }

/-- The thread's group runs a dispatch of node 0 of graph 0, which has NRB; the error bound stands at 0 and its limit at 1.0. -/
def packState : State :=
  calmState [0] { Group.launch 0 0 0 0 0 [packThread] [] 0 with
    disp := some { graph := 0, node := 0, blk := 0, count := 0, rsz := 0, base := 0, launchAt := none, recs := [], doneSn := none } }
    [(0, { goneGraph with entry := [0, 0, 0x3F800000 * 2 ^ 32], nodes := [[0, 0, 0, 2 ^ 19]] })] []

/-- One element, from v20 into the container v4 to v7, under fm0. -/
def packOpnds : FA := { dst := .v 4, sa := .v 20, sb := .v 8, sc := .v 0, lt := 0, md := 5, imm := 0x100 }

def pack : Instr := .npck (plainHdr 0) packOpnds

def packNext : State := packState.withMach (issue pack (plainHdr 0) false (npckBody (plainHdr 0) packOpnds) packState.env (selected [0]) packState.m)

theorem pack_acts : Acts pack (plainHdr 0) packState (selected [0]) where
  sel := rfl
  ok := by decide
  scal := by decide
  priv := by decide
  fresh := rfl
  some := by decide
  guard := by decide +kernel
  budget := by decide +kernel

theorem pack_calm : Calm packState (selected [0]) where
  run := by decide +kernel
  vec := by decide +kernel
  log := rfl

theorem exec_pack : exec pack packState = .next packNext := rfl

/-- 0.3 lies 0.0125 from the nearest element, and that error joins the graph's bound as the instruction issues. -/
theorem pack_ebnd : (graphOf packState.m 0).ebnd = 0 ∧ (graphOf packNext.m 0).ebnd ≠ 0 := by decide +kernel

/-- Refutes O48: `npck` in a dispatch of a node with NRB adds its rounding error to the error bound of the graph when it issues (05 R157, 07 R205), so that the graphs do not stay. -/
theorem not_registerInstructionsFrame : ¬ Obligations.RegisterInstructionsFrame := by
  unfold Obligations.RegisterInstructionsFrame
  intro H
  obtain ⟨hdev, _⟩ := H pack (plainHdr 0) packState (selected [0]) packNext rfl rfl pack_acts pack_calm exec_pack
  obtain ⟨hzero, hnew⟩ := pack_ebnd
  have hsame : graphOf packNext.m 0 = graphOf packState.m 0 := by rw [graphOf, hdev.graphs, graphOf]
  exact hnew ((congrArg Graph.ebnd hsame).trans hzero)

/-! `qwait [s8 + x0]` for a set that names lane 0 twice. -/

def waitOpnds : FM := { d := .v 0, base := .s 8, index := .x 0, width := 3, scope := 0, order := 0, hint := 0, off := 0 }

def latchWait : Instr := .qwait (plainHdr 0) waitOpnds

/-- A thread whose trap record holds a progress index. -/
def replayed (prog : Word) : Thread := { Thread.launch 0 32 0 with trec := setAt (List.replicate 16 0) 7 prog }

/-- Lane 0 comes first and last, and lane 1 seven times between. -/
def twice : List Nat := [0, 1, 1, 1, 1, 1, 1, 1, 0]

/-- Latch x0 is invalid, so that each member's index is poison of kind LATCH with the team's next log index: 0x7FCC0000 + i for the i-th. The base puts the addresses at 2^31 - 8 + i, and of the two pages only that from 2^31 on has a translation. -/
def waitState : State :=
  calmState twice (Group.launch 0 0 0 0 0 [replayed 1, replayed 0] ([0, 0, 0, 0, 0, 0, 0, 0, 0x33FFF8] ++ List.replicate 87 0) 0) []
    [{ lvl := 0, unit := 0, part := 0, va := 2 ^ 31, size := 4096, pa := codeHome, perm := 7, dirty := true }]

def waitNext : State := waitState.withMach (issue latchWait (plainHdr 0) false (qwaitBody waitOpnds) waitState.env (selected twice) waitState.m)

theorem wait_acts : Acts latchWait (plainHdr 0) waitState (selected twice) where
  sel := rfl
  ok := by decide
  scal := by decide
  priv := by decide
  fresh := rfl
  some := by decide
  guard := by decide +kernel
  budget := by decide +kernel

theorem wait_calm : Calm waitState (selected twice) where
  run := by decide +kernel
  vec := by decide +kernel
  log := rfl

theorem exec_latchWait : exec latchWait waitState = .next waitNext := rfl

/-- The first turn of lane 0 misses and writes its progress index, the seven of lane 1 are misaligned, and the last of lane 0 passes and waits as `qwait` does. -/
theorem wait_result : (thrOf waitNext.m 0 0).st = (thrOf waitState.m 0 0).st ∧ (thrOf waitNext.m 0 0).wait = .qwait ∧
    lget (thrOf waitState.m 0 0).trec 7 0 = 1 ∧ lget (thrOf waitNext.m 0 0).trec 7 0 = 0 := by decide +kernel

/-- Refutes O49: nothing in its hypotheses keeps a lane from standing twice in the set. A lane that first waits for a translation, which writes its trap record, and in its second turn passes the checks of `qwait` is neither parked nor waits for a translation in the end. -/
theorem not_deferringInstructionsFrame : ¬ Obligations.DeferringInstructionsFrame := by
  unfold Obligations.DeferringInstructionsFrame
  intro H
  obtain ⟨_, _, _, _, _, hrec⟩ := H latchWait (plainHdr 0) waitState (selected twice) waitNext rfl rfl wait_acts wait_calm exec_latchWait
  obtain ⟨hst, hwait, hold, hnew⟩ := wait_result
  have hsame : (thrOf waitNext.m 0 0).trec = (thrOf waitState.m 0 0).trec := hrec 0 0 hst (by rw [hwait]; decide)
  rw [hsame, hold] at hnew
  exact absurd hnew (by decide)

end Sys2Proof.Machine.FrameFails
end

section
/-! PROOF. The Catalogues and the probes (02 R46 to R73, 18 R413). -/
namespace Sys2Proof.Machine
open Sys2Proof

/-! Blocks (02 R46, R61, R63). -/

theorem activationDue_of {s : State} {d : Nat} {x : Nat × Nat × Nat} (hw : nextWaiting s.m d = some x) (ha : activeOn s.m d < 4096) :
    activationDue s d = true := by
  simp only [activationDue, hw, ha, Option.isSome_some, decide_true, Bool.and_self]

theorem activationDo_of {e : Env} {m : Mach} {d g k w : Nat} (hw : nextWaiting m d = some (g, k, w)) :
    activationDo d e m = updGraph m g (fun gr => activate e gr k) := by
  simp only [activationDo, hw]

theorem lapseDue_of {s : State} {g k t : Nat} (ht : (blockOf (graphOf s.m g) k).timer = some t) (hn : t ≤ s.clk.now) : lapseDue s g k = true := by
  simp only [lapseDue, ht, hn, Option.any_some, decide_true]

theorem choiceDue_of {s : State} {d : Nat} {x : Cand × Nat × Nat × Nat × Nat} (he : s.clk.now % 2 = 0) (ht : s.clk.turn.contains (catTurn d) = false)
    (hc : choose s.env s.m d = some x) : choiceDue s d = true := by
  simp only [choiceDue, he, ht, hc, BEq.rfl, Bool.not_false, Option.isSome_some, Bool.and_self]

theorem choiceDo_of {e : Env} {m : Mach} {d t core lb sl : Nat} {c : Cand} (hc : choose e m d = some (c, t, core, lb, sl)) :
    choiceDo d e m = dispatch e m c.g c.k t core lb sl := by
  simp only [choiceDo, hc]

/-- A dispatch makes of its block, its group and its team what R63 to R65 say, and leaves memory. -/
theorem dispatch_dispatched (s : State) (c : Cand) (t core lb sl : Nat) : Dispatched s c t core lb sl (dispatch s.env s.m c.g c.k t core lb sl) :=
  ⟨rfl, rfl, rfl, rfl⟩

/-! Dispatches (02 R64, R65). -/

theorem launchDue_of {s : State} {g t : Nat} {d : Disp} (hd : (grpOf s.m g).disp = some d) (ht : d.launchAt = some t) (hn : t ≤ s.clk.now) :
    launchDue s g = true := by
  simp only [launchDue, hd, ht, hn, Option.any_some, decide_true]

/-- On a core that is not isolated the dispatch launches. -/
theorem launchDo_launches {e : Env} {m : Mach} {g : Nat} {d : Disp} (hd : (grpOf m g).disp = some d) (hi : (coreOf m (grpOf m g).core).isol = false) :
    launchDo g e m = launchGroup e m g d := by
  simp only [launchDo, hd, hi, Bool.false_eq_true, ↓reduceIte]

/-- On an isolated core it ends (18 R413). -/
theorem launchDo_ends {e : Env} {m : Mach} {g : Nat} {d : Disp} (hd : (grpOf m g).disp = some d) (hi : (coreOf m (grpOf m g).core).isol = true) :
    launchDo g e m = endDispatch e m g d := by
  simp only [launchDo, hd, hi, ↓reduceIte]

theorem retireDue_of {s : State} {graph k g : Nat} (hr : (blockOf (graphOf s.m graph) k).run = some g) (hd : dispDone s.m g (grpOf s.m g) = true) :
    retireDue s graph k = true := by
  simp only [retireDue, hr, hd, Option.any_some]

theorem takes_dispatchRetire {s : State} {graph k g : Nat} (hr : (blockOf (graphOf s.m graph) k).run = some g) (hd : dispDone s.m g (grpOf s.m g) = true) :
    Takes (.dispatchRetire graph k) s (s.withMach (retire s.m graph k g)) := by
  have h : exec (.dispatchRetire graph k) s = _ := ev_due (retireDue_of hr hd)
  simp only [State.mapM, hr] at h
  exact h

/-! Probes (02 R70 to R72). -/

theorem probeDue_of {s : State} {g : Nat} {gr : Graph} (hg : tget s.m.graphs g = some gr) (hp : gr.probe = none) (hq : quietOn gr (gHome gr) = true)
    (hl : gr.lastProbe = 0 ∨ gr.lastProbe + gProbe gr ≤ s.clk.now) : probeDue s g = true := by
  simp only [probeDue, hg, hp, hq, Option.isNone_none, Bool.true_and, Bool.or_eq_true, beq_iff_eq, decide_eq_true_eq]
  exact hl

theorem answerDue_of {s : State} {g : Nat} {gr : Graph} {p : Probe} (hg : tget s.m.graphs g = some gr) (hp : gr.probe = some p) (hn : p.start + 72 ≤ s.clk.now) :
    answerDue s g = true := by
  simp only [answerDue, hg, hp, Option.bind_some, Option.any_some, bsnPkg, hn, decide_true]

/-- The graph after an answer that settles nothing: the probe is over, its result is kept, and the flags clear. -/
def probed (gr : Graph) (p : Probe) : Graph :=
  { gr with probe := none, prev := some ((List.range 4).all (quietOn gr), sumL gr.sent, sumL gr.rcvd, p.mark), disturbed := [false, false, false, false] }

/-- Two probes in a row that succeed together settle the graph and make a report due, with the watermark of the first. -/
theorem answerProbe_settles {e : Env} {gr : Graph} {p : Probe} {mark : Nat} (hprev : gr.prev = some (true, sumL gr.sent, sumL gr.sent, mark))
    (hq : (List.range 4).all (quietOn gr) = true) (hr : sumL gr.rcvd = sumL gr.sent) (hd : gr.disturbed.all (fun b => !b) = true) (hs : gr.settled = false) :
    answerProbe e gr p = { probed gr p with settled := true, due := some (e.now + 1, mark) } := by
  simp only [answerProbe, probed, hprev, hq, hr, hd, hs, BEq.rfl, Bool.and_self, Bool.not_false, ↓reduceIte]

/-- Without a first probe, or where the two did not succeed together, or where the graph is settled already, nothing settles. -/
theorem answerProbe_not_settles {e : Env} {gr : Graph} {p : Probe}
    (h : gr.prev = none ∨ (List.range 4).all (quietOn gr) = false ∨ sumL gr.sent ≠ sumL gr.rcvd ∨ gr.disturbed.any (fun b => b) = true ∨ gr.settled = true) :
    answerProbe e gr p = probed gr p := by
  unfold answerProbe
  refine if_neg ?_
  cases hprev : gr.prev with
  | none => simp
  | some x =>
    rcases h with h | h | h | h | h
    · exact absurd (hprev.symm.trans h) (Option.some_ne_none x)
    · simp [h]
    · simp [h]
    · rw [List.any_eq_not_all_not, Bool.not_eq_true'] at h
      simp [h]
    · simp [h]

/-! Reports (02 R73). -/

theorem graphOf_of_tget {m : Mach} {g : Nat} {gr : Graph} (hg : tget m.graphs g = some gr) : graphOf m g = gr := by
  rw [graphOf, hg, Option.getD_some]

theorem reportDue_of {s : State} {g t mk : Nat} {gr : Graph} (hg : tget s.m.graphs g = some gr) (hd : gr.due = some (t, mk)) (hn : t ≤ s.clk.now) :
    reportDue s g = true := by
  simp only [reportDue, hg, hd, Option.bind_some, Option.any_some, hn, decide_true]

theorem reportDo_of {s : State} {g t mk : Nat} {gr : Graph} (hg : tget s.m.graphs g = some gr) (hd : gr.due = some (t, mk)) :
    reportDo g s = { s with
      m := (writeReport s.env s.m g mk).1
      sys := if (writeReport s.env s.m g mk).2 && gfield gr 140 140 == 1 then countEvent s.sys (gfield gr 151 141) s.clk.now else s.sys } := by
  simp only [reportDo, graphOf_of_tget hg, hd, Option.map_some, Option.getD_some]

section
variable {e : Env} {m : Mach} {g mk tsa tail head sa : Nat}
  (htsa : agentAddr e m (graphOf m g).part (gRing (graphOf m g)) 8 1 = .ok tsa)
  (htail : agentNat e m (graphOf m g).part (gRing (graphOf m g)) 8 = .ok tail)
  (hhead : agentNat e m (graphOf m g).part (gRing (graphOf m g) + 8) 8 = .ok head)
  (hsa : agentAddr e m (graphOf m g).part (gRing (graphOf m g) + 64 + 64 * (tail % 2 ^ gRlog (graphOf m g))) 64 1 = .ok sa)
include htsa htail hhead hsa

/-- A report that finds room in the ring stands at TAIL, which it moves. -/
theorem writeReport_room (h : (tail + 2 ^ 64 - head) % 2 ^ 64 < 2 ^ gRlog (graphOf m g)) :
    writeReport e m g mk = (updGraph (storeAt (storeAt m sa (toBytes 64 (reportOf e g (graphOf m g) mk)) false) tsa (toBytes 8 (tail + 1)) false) g
      (fun a => { a with due := none, drop := 0, seq := (a.seq + 1) % 2 ^ 32, wmark := mk }), true) := by
  simp only [writeReport, htsa, htail, hhead, hsa, if_neg (Nat.not_le.mpr h)]

/-- One that finds the ring full is counted as dropped. -/
theorem writeReport_full (h : 2 ^ gRlog (graphOf m g) ≤ (tail + 2 ^ 64 - head) % 2 ^ 64) :
    writeReport e m g mk = (updGraph m g (fun a => { a with due := none, drop := min 65535 (a.drop + 1) }), false) := by
  simp only [writeReport, htsa, htail, hhead, hsa, if_pos h]

end

/-- Settles O32: each step of a Catalogue and of a probe is due under the conditions stated, and does what is stated. -/
theorem catalogueSteps : Obligations.CatalogueSteps := by
  unfold Obligations.CatalogueSteps
  refine fun s => ⟨?activation, ?lapse, ?choice, ?launch, ?retire, ?start, ?answer, ?report⟩
  case activation =>
    intro d g k w hw ha
    have h : Takes (.blockActivation d) s (s.mapM (activationDo d)) := ev_due (activationDue_of hw ha)
    rwa [State.mapM, activationDo_of hw] at h
  case lapse => exact fun g k t ht hn => ev_due (lapseDue_of ht hn)
  case choice =>
    intro d c t core lb sl he ht hc
    have h : Takes (.catalogueChoice d) s { s.mapM (choiceDo d) with clk := { s.clk with turn := s.clk.turn ++ [catTurn d] } } := ev_due (choiceDue_of he ht hc)
    rw [State.mapM, choiceDo_of hc] at h
    exact ⟨h, dispatch_dispatched s c t core lb sl⟩
  case launch =>
    intro g d t hd ht hn
    have h : Takes (.dispatchLaunch g) s (s.mapM (launchDo g)) := ev_due (launchDue_of hd ht hn)
    refine ⟨fun hi => ?_, fun hi => ?_⟩
    · rwa [State.mapM, launchDo_launches hd hi] at h
    · rwa [State.mapM, launchDo_ends hd hi] at h
  case retire => exact fun graph k g hr hd => takes_dispatchRetire hr hd
  case start => exact fun g gr hg hp hq hl => ev_due (probeDue_of hg hp hq hl)
  case answer =>
    intro g gr p hg hp hn
    exact ⟨ev_due (answerDue_of hg hp hn), fun mark hprev hq hr hd hs => answerProbe_settles hprev hq hr hd hs, answerProbe_not_settles⟩
  case report =>
    intro g gr t mk hg hd hn
    have h : Takes (.reportWrite g) s (reportDo g s) := ev_due (reportDue_of hg hd hn)
    rw [reportDo_of hg hd] at h
    refine ⟨h, fun tsa tail head sa htsa htail hhead hsa => ?_⟩
    rw [← graphOf_of_tget hg] at htsa htail hhead hsa ⊢
    exact ⟨writeReport_room htsa htail hhead hsa, writeReport_full htsa htail hhead hsa⟩

end Sys2Proof.Machine
end

section
/-! PROOF. Atomics, buffered reductions, their flush, and fences (04 R120 to R122, 08 R240 to R245). -/
namespace Sys2Proof.Machine
open Sys2Proof

/-! What the address checks answer (08 R223), and what PSTORE does not stop (05 R149). -/

theorem AddrRes.ok_of_passes {r : AddrRes} (h : r.passes) : ∃ sa, r = .ok sa := ⟨r.place, h⟩

/-- What a body answers to raise a stop. -/
def Stop.out (x : Stop) : Out := .cause x.cause x.addr x.info x.next 0

theorem not_pstore_of_mayStore {c : Ctx} {bits n : Nat} {m : Mach} (h : mayStore c bits n m) : ¬ (pstOn m c.g && storePoison bits n) = true := by
  rwa [Bool.and_eq_true]

section
variable {h : Hdr} {o : FM} {e : Env} {c : Ctx} {m : Mach}

/-! `atom` (08 R240, R241). -/

/-- The operand of `atom` and `red`, with the machine in which it has been read. -/
def atomOperand (h : Hdr) (o : FM) (e : Env) (c : Ctx) (m : Mach) : Mach × Nat := readOp e m c (atomTyOf h) o.d

/-- Their address, with the machine in which operand and address have been read. -/
def atomEa (h : Hdr) (o : FM) (e : Env) (c : Ctx) (m : Mach) : Mach × Int := effAddr e (atomOperand h o e c m).1 c o

/-- What the checks of that address answer. -/
def atomAddr (h : Hdr) (o : FM) (e : Env) (c : Ctx) (m : Mach) : AddrRes := addrOf e c o (tyBits (atomTyOf h) / 8) 2 false (atomOperand h o e c m).1

theorem atomBody_passes (hp : (atomAddr h o e c m).passes) (hs : mayStore c (tyBits (atomTyOf h)) (atomOperand h o e c m).2 m) :
    atomBody h o e c m = ok (askM e c o (homeOf (atomAddr h o e c m).place) (isAcq o) (isRel o) true
      (.atom (atomAddr h o e c m).place (fnHi h) (atomTyOf h) (BitVec.ofNat 64 (atomOperand h o e c m).2) (some o.d) c.g c.lane c.pc (atomEa h o e c m).2.toNat)
      (atomEa h o e c m).1) := by
  obtain ⟨sa, hsa⟩ := AddrRes.ok_of_passes hp
  rw [hsa]
  simp only [atomAddr, addrOf, atomOperand] at hsa
  simp only [atomBody, hsa]
  exact if_neg (not_pstore_of_mayStore hs)

theorem atomBody_causes (hc : (atomAddr h o e c m).causes) :
    atomBody h o e c m = { m := (atomEa h o e c m).1, out := (atomAddr h o e c m).stops.out } := by
  obtain ⟨k, a, hka⟩ := hc
  rw [hka]
  simp only [atomAddr, addrOf, atomOperand] at hka
  simp only [atomBody, hka]
  rfl

/-! `cas` (08 R242). -/

/-- What the address checks of `cas` answer. -/
def casAddr (h : Hdr) (o : FM) (e : Env) (c : Ctx) (m : Mach) : AddrRes := addrOf e c o (tyBits (casTy h) / 8) 2 false m

/-- A `cas` is of whole bytes. -/
theorem casTy_bytes (h : Hdr) : 8 * (tyBits (casTy h) / 8) = tyBits (casTy h) := by
  unfold casTy
  split <;> rfl

/-- A register operand of `cas`, the comparand or the new value, which is read after the address. -/
def casOperand (h : Hdr) (o : FM) (e : Env) (c : Ctx) (m : Mach) (d : Opnd) : Nat := (readOp e (effAddr e m c o).1 c (casTy h) d).2

theorem casBody_passes (hp : (casAddr h o e c m).passes)
    (hs : mayStore c (8 * (tyBits (casTy h) / 8)) (casOperand h o e c m (opndUp o.d (tyBits (casTy h) / 8 / 4))) m) :
    casBody h o e c m = ok (askM e c o (homeOf (casAddr h o e c m).place) (isAcq o) (isRel o) true
      (.cas (casAddr h o e c m).place (tyBits (casTy h) / 8) (BitVec.ofNat 64 (casOperand h o e c m o.d))
        (BitVec.ofNat 64 (casOperand h o e c m (opndUp o.d (tyBits (casTy h) / 8 / 4)))) o.d c.pc (lowBits 56 (effAddr e m c o).2)) (effAddr e m c o).1) := by
  obtain ⟨sa, hsa⟩ := AddrRes.ok_of_passes hp
  rw [hsa]
  rw [casTy_bytes] at hs
  simp only [casAddr, addrOf] at hsa
  simp only [casBody, hsa]
  exact if_neg (not_pstore_of_mayStore hs)

theorem casBody_causes (hc : (casAddr h o e c m).causes) :
    casBody h o e c m = { m := (effAddr e m c o).1, out := (casAddr h o e c m).stops.out } := by
  obtain ⟨k, a, hka⟩ := hc
  rw [hka]
  simp only [casAddr, addrOf] at hka
  simp only [casBody, hka]
  rfl

/-! `red`, `rfl` and `fence` (04 R114, R121, R122; 08 R243 to R245). -/

/-- The half of its doubleword that a contribution to an address goes to, 2 for both. -/
def redHalf (h : Hdr) (sa : Nat) : Nat := if tyBits (atomTyOf h) / 8 = 8 then 2 else sa / 4 % 2

/-- What `red` does once its address has passed as `sa`: a slot that must drain drains first, under a flush that holds the token. -/
def redAt (h : Hdr) (o : FM) (e : Env) (c : Ctx) (m : Mach) (sa : Nat) : Mach :=
  let m1 := (atomEa h o e c m).1
  if redDrains (grpOf m c.g).ab (sa / 8 * 8) (redHalf h sa) (fnHi h) (atomTyOf h) then
    redAdd e (drainSlot e { m1 with
      serial := m1.serial + 1
      flushes := tset m1.flushes m1.serial { slots := [], g := c.g, out := (grpOf m c.g).ab.length, ackAt := 0, toks := c.tok, bar := none } }
      c.g m1.serial) c (atomTyOf h) (fnHi h) (sa / 8 * 8) (redHalf h sa) (atomOperand h o e c m).2
  else land (redAdd e m1 c (atomTyOf h) (fnHi h) (sa / 8 * 8) (redHalf h sa) (atomOperand h o e c m).2) (e.now + 2) [] c.tok

theorem redBody_passes (hp : (atomAddr h o e c m).passes) : redBody h o e c m = ok (redAt h o e c m (atomAddr h o e c m).place) := by
  obtain ⟨sa, hsa⟩ := AddrRes.ok_of_passes hp
  rw [hsa]
  simp only [atomAddr, addrOf, atomOperand] at hsa
  simp only [redBody, hsa]
  exact (apply_ite ok _ _ _).symm

/-- `rfl` of an empty slot has nothing to wait for. -/
theorem rflBody_eq : rflBody e c m = ok (if (grpOf m c.g).ab = [] then land m (e.now + 2) [] c.toks else startFlush m [c.g] c.toks none) := by
  rw [apply_ite ok]
  simp only [rflBody, List.isEmpty_iff]

/-- A fence of team scope or wider flushes a slot that is not empty. -/
theorem fenceBody_eq : fenceBody h o e c m = ok (c.lanes.foldl
    (fun m l => updThr (waitFor e (.fence (h.fn.toNat % 4) o.scope.toNat) c m l) c.g l
      (fun t => { t with readyAt := max t.readyAt (e.now + fenceClocks (h.fn.toNat % 4) o.scope.toNat) }))
    (if 1 ≤ o.scope.toNat ∧ (grpOf m c.g).ab ≠ [] then startFlush m [c.g] [] none else m)) := by
  simp only [fenceBody, Bool.and_eq_true, decide_eq_true_eq, Bool.not_eq_true', List.isEmpty_eq_false_iff]

end

/-- Settles O17: each body is its effect where its checks pass, and answers the cause of the check that stops it. -/
theorem atomicsAndFencesComplete : Obligations.AtomicsAndFencesComplete := by
  unfold Obligations.AtomicsAndFencesComplete
  refine fun h o => ⟨?atom, ?cas, ?red, ?flush, ?fence, ?atomStops, ?casStops⟩
  case atom => exact completes_of (body := atomBody h o) (fun _ => rfl) (fun _ _ _ ⟨hp, hs⟩ => atomBody_passes hp hs)
  case cas => exact completes_of (body := casBody h o) (fun _ => rfl) (fun _ _ _ ⟨hp, hs⟩ => casBody_passes hp hs)
  case red => exact completes_of (body := redBody h o) (fun _ => rfl) (fun _ _ _ hp => redBody_passes hp)
  case flush => exact completes_of (body := rflBody) (fun _ => rfl) (fun _ _ _ _ => rflBody_eq)
  case fence => exact completes_of (body := fenceBody h o) (fun _ => rfl) (fun _ _ _ _ => fenceBody_eq)
  case atomStops => exact stopsAt_of (body := atomBody h o) (fun _ => rfl) (fun _ _ _ hc => atomBody_causes hc)
  case casStops => exact stopsAt_of (body := casBody h o) (fun _ => rfl) (fun _ _ _ hc => casBody_causes hc)

end Sys2Proof.Machine
end

section
/-! SUPPORT. A message at its home: what leaving the network keeps, when its row is due, and what the row leaves (03 R81, 04 R108, R112, R115, 05 R152). -/
namespace Sys2Proof.Machine
open Sys2Proof

/-- What every step of a fold keeps, the fold keeps. -/
theorem foldl_keeps {α β γ : Type} (p : α → γ) {f : α → β → α} (hf : ∀ a b, p (f a b) = p a) (l : List β) (a : α) : p (l.foldl f a) = p a := by
  induction l generalizing a with
  | nil => rfl
  | cons b r ih => rw [List.foldl_cons, ih, hf]

/-! Graphs and the serial stay until the message is performed. -/

theorem markFar_keeps (m : Mach) (x : Msg) : (markFar m x).graphs = m.graphs ∧ (markFar m x).serial = m.serial := by
  unfold markFar
  split <;> exact ⟨rfl, rfl⟩

theorem useBanks_keeps (e : Env) (m : Mach) (x : Msg) : (useBanks e m x).graphs = m.graphs ∧ (useBanks e m x).serial = m.serial := by
  unfold useBanks
  split <;> exact ⟨rfl, rfl⟩

theorem noteBad_keeps (m : Mach) (rs : List (Nat × Nat)) : (noteBad m rs).graphs = m.graphs ∧ (noteBad m rs).serial = m.serial := by
  unfold noteBad
  split
  · exact ⟨rfl, rfl⟩
  · refine ⟨foldl_keeps Mach.graphs (fun m r => ?_) rs m, foldl_keeps Mach.serial (fun m r => ?_) rs m⟩ <;> split <;> rfl

@[simp] theorem atHomeMach_graphs (s : State) (id : Nat) (x : Msg) : (atHomeMach s id x).graphs = s.m.graphs :=
  (noteBad_keeps _ _).1.trans ((useBanks_keeps s.env (markFar s.m x) x).1.trans (markFar_keeps s.m x).1)

@[simp] theorem atHomeMach_serial (s : State) (id : Nat) (x : Msg) : (atHomeMach s id x).serial = s.m.serial :=
  (noteBad_keeps _ _).2.trans ((useBanks_keeps s.env (markFar s.m x) x).2.trans (markFar_keeps s.m x).2)

@[simp] theorem mergeClocks_graphs (m : Mach) (x : Msg) : (mergeClocks m x).graphs = m.graphs := by
  unfold mergeClocks
  split <;> rfl

@[simp] theorem mergeClocks_serial (m : Mach) (x : Msg) : (mergeClocks m x).serial = m.serial := by
  unfold mergeClocks
  split <;> rfl

/-! What the agents of a message learn leaves memory and teams. -/

theorem gain_keeps (m : Mach) (x : Msg) (l : List (Nat × List Nat)) : (gain m x l).mem = m.mem ∧ (gain m x l).teams = m.teams := by
  have hk : ∀ r : TRef, (x.who.foldl (fun m k => updThr m r.g k (gainThr x.acq x.scope l)) m).mem = m.mem ∧
      (x.who.foldl (fun m k => updThr m r.g k (gainThr x.acq x.scope l)) m).teams = m.teams :=
    fun r => ⟨foldl_keeps Mach.mem (fun _ _ => updThr_mem _ _ _ _) x.who m, foldl_keeps Mach.teams (fun _ _ => updThr_teams _ _ _ _) x.who m⟩
  unfold gain
  split
  · exact ⟨rfl, rfl⟩
  · rename_i r _
    dsimp only
    split <;> split
    · exact ⟨rfl, rfl⟩
    · exact hk r
    · exact ⟨rfl, rfl⟩
    · exact hk r

theorem attend_keeps (m : Mach) (x : Msg) : (attend m x).mem = m.mem ∧ (attend m x).teams = m.teams := by
  unfold attend
  split
  · exact gain_keeps _ _ _
  · exact ⟨rfl, rfl⟩

/-! A row of the device performs the message whose turn has come. -/

theorem msgDue_of {s : State} {id : Nat} {x : Msg} {row : MRow} (h : AtHome s id x) (hr : msgRow x.body = row) : msgDue s row id = true := by
  simp only [msgDue, h.here, hr, h.order, h.reach, h.stays, h.room, h.grant, h.turn, BEq.rfl, Bool.not_false, Bool.and_self]

theorem mapM_msgDo {s : State} {id : Nat} {x : Msg} (h : AtHome s id x) (f : Env → Mach → Msg → Mach) :
    s.mapM (msgDo f id) = performedAs s x (f s.env (atHomeMach s id x) x) := by
  simp only [State.mapM, msgDo, h.here]
  rfl

/-- The step of a row that performs messages by `f`. -/
theorem ev_msgDo {s : State} {id : Nat} {x : Msg} {row : MRow} (h : AtHome s id x) (hr : msgRow x.body = row) (f : Env → Mach → Msg → Mach) (name : String) :
    ev (msgDue s row id) name (s.mapM (msgDo f id)) = .next (performedAs s x (f s.env (atHomeMach s id x) x)) := by
  rw [ev_due (msgDue_of h hr), mapM_msgDo h]

theorem accessDo_of {s : State} {id : Nat} {x : Msg} (h : AtHome s id x) (ht : ∀ p g, x.body ≠ .trigger p g) :
    accessDo id s = performedAs s x (performMsg s.env (atHomeMach s id x) x) := by
  simp only [accessDo, mapM_msgDo h, h.here]

theorem accessDo_trigger {s : State} {id p g : Nat} {x : Msg} (h : AtHome s id x) (hb : x.body = .trigger p g) :
    accessDo id s = { performedAs s x (performMsg s.env (atHomeMach s id x) x) with
      sys := triggerTask s.sys p g
      m := respondHere s.env (performedAs s x (performMsg s.env (atHomeMach s id x) x)).m x } := by
  simp only [accessDo, mapM_msgDo h, h.here, hb]
  rfl

end Sys2Proof.Machine
end

section
/-! PROOF. Messages at their homes (04 R108): hand queues, rings, arrival words, colophons (03 R94 to R101), the Catalogues (02 R46 to R59, 09 R287 to R293), and invalidations (18 R404). -/
namespace Sys2Proof.Machine
open Sys2Proof

/-- A message performed without a lost flit, or whose answer carries no data that could be lost. -/
theorem performMsg_eq {e : Env} {m : Mach} {x : Msg} (h : x.bad = false ∨ readsOnly x.body = false) : performMsg e m x = performBody e m x := by
  refine if_neg ?_
  rw [Bool.and_eq_true]
  rintro ⟨hb, hr⟩
  rcases h with h | h
  · exact Bool.false_ne_true (h.symm.trans hb)
  · exact Bool.false_ne_true (h.symm.trans hr)

/-! Hand queues (03 R100, R101). -/

section
variable {e : Env} {m : Mach} {x : Msg}

theorem queueHdr_of_mem {m m' : Mach} (h : m'.mem = m.mem) (sa : Nat) : queueHdr m' sa = queueHdr m sa := by
  simp only [queueHdr, readNat, h]

theorem performMsg_push {sa k j : Nat} {d : Dword} (hb : x.body = .push sa k j d) :
    performMsg e m x = closePart (mergeClocks (pushQueue m sa k j d) x) x.op (e.now + x.back) [] (lanesWaiting m x .qpush) := by
  rw [performMsg_eq (.inr (by rw [hb]; rfl))]
  simp only [performBody, hb, lanesWaiting]

theorem performMsg_pop {sa k j pc va : Nat} {dst : Opnd} {latch : Option Latch} (hb : x.body = .pop sa k j dst latch pc va) (hx : x.bad = false) :
    performMsg e m x = closePart (mergeClocks (popQueue e (msgCtx x pc) (attend m x) sa k j va).1 x) x.op (e.now + x.back)
      (wrReg (msgCtx x 0) .n64 dst (popQueue e (msgCtx x pc) (attend m x) sa k j va).2 ++
        latchWrs ((x.thr.map (·.g)).getD 0) latch (regWords .n64 (popQueue e (msgCtx x pc) (attend m x) sa k j va).2)) (lanesWaiting m x .qpop) := by
  rw [performMsg_eq (.inl hx)]
  simp only [performBody, hb, lanesWaiting]

/-- What the agents have learnt leaves the queue and its place in the team. -/
theorem attend_queue (m : Mach) (x : Msg) (sa team : Nat) :
    queueHdr (attend m x) sa = queueHdr m sa ∧ (teamOf (attend m x) team).qhd = (teamOf m team).qhd := by
  obtain ⟨hm, ht⟩ := attend_keeps m x
  exact ⟨queueHdr_of_mem hm sa, by rw [teamOf, ht, teamOf]⟩

/-- A pop on a machine with the queue of another: it reads the oldest entry, which goes, and the next is the oldest. -/
theorem popQueue_eq {c : Ctx} {n : Mach} {sa team k va : Nat} (hh : queueHdr n sa = queueHdr m sa) (hq : (teamOf n team).qhd = (teamOf m team).qhd) :
    popQueue e c n sa team k va =
      let h := queueHdr m sa
      let i := lget (teamOf m team).qhd k 0 % max 1 h.1
      let v := loadChk e n c (sa + 16 + 8 * i) 8 va
      (updTeam (queueSet v.1 sa (h.2.2.2 + 1) h.2.2.1 (h.2.1 - 1)) team (fun t => { t with qhd := lupd t.qhd k (fun _ => (i + 1) % max 1 h.1) }), v.2) := by
  simp only [popQueue, hh, hq]

/-! Rings (03 R96 to R98). -/

theorem performMsg_ring {core j sender pd : Nat} {payload : List Byte} (hb : x.body = .ring core j sender payload pd) :
    performMsg e m x = respond e (ringMessage e m core j sender payload).1 x
      [.p (x.thr.getD { g := 0, lane := 0 }).g (x.thr.getD { g := 0, lane := 0 }).lane pd (ringMessage e m core j sender payload).2 false] := by
  rw [performMsg_eq (.inr (by rw [hb]; rfl))]
  simp only [performBody, hb]

/-- A ring that does not fit its slice is not usable. -/
theorem ringUsable_of_not_fits {off : Nat} {h : RingHdr} (hf : ringFits off h = false) : ringUsable off h = false := by
  rw [ringUsable, hf, Bool.and_false]

section
variable {core j sender off : Nat} {payload : List Byte}

theorem ringMessage_unregistered (ho : ringAt (lget (coreOf m core).ring j 0) = none) : ringMessage e m core j sender payload = (m, false) := by
  simp only [ringMessage, ho]

variable (ho : ringAt (lget (coreOf m core).ring j 0) = some off)
include ho

theorem ringMessage_outside (hs : 2 ^ 20 < off + 64) : ringMessage e m core j sender payload = (m, false) := by
  simp only [ringMessage, ho, if_pos hs]

variable (hs : off + 64 ≤ 2 ^ 20)
include hs

theorem ringMessage_appends (hu : ringUsable off (ringHdr m (sliceAddr e m core off)) = true)
    (hf : ringFill (ringHdr m (sliceAddr e m core off)) < (ringHdr m (sliceAddr e m core off)).allow) :
    ringMessage e m core j sender payload =
      (ringAppend e (updCore m core (fun c => { c with sseq := tset c.sseq (sender * 8 + j) (((tget (coreOf m core).sseq (sender * 8 + j)).getD 0 + 1) % 2 ^ 32) })) core off
        sender 0 ((tget (coreOf m core).sseq (sender * 8 + j)).getD 0) payload, true) := by
  simp only [ringMessage, ho, if_neg (Nat.not_lt.mpr hs), hu, hf, decide_true, Bool.and_self, ↓reduceIte]

theorem ringMessage_refuses (hu : ringUsable off (ringHdr m (sliceAddr e m core off)) = false ∨
      (ringHdr m (sliceAddr e m core off)).allow ≤ ringFill (ringHdr m (sliceAddr e m core off)))
    (hn : ¬ (2 ≤ (ringHdr m (sliceAddr e m core off)).size ∧ (ringHdr m (sliceAddr e m core off)).size ≤ 12 ∧ ringFits off (ringHdr m (sliceAddr e m core off)) = false)) :
    ringMessage e m core j sender payload = (ringRefuse e m core off, false) := by
  have ha : ¬ (ringUsable off (ringHdr m (sliceAddr e m core off)) = true ∧
      ringFill (ringHdr m (sliceAddr e m core off)) < (ringHdr m (sliceAddr e m core off)).allow) := by
    rintro ⟨h1, h2⟩
    rcases hu with hu | hu
    · exact Bool.false_ne_true (hu.symm.trans h1)
    · exact Nat.not_le.mpr h2 hu
  rw [← and_assoc] at hn
  simp only [ringMessage, ho, if_neg (Nat.not_lt.mpr hs), ha, Bool.and_eq_true, decide_eq_true_eq, Bool.not_eq_true', hn, ↓reduceIte]

theorem ringMessage_unfit (h2 : 2 ≤ (ringHdr m (sliceAddr e m core off)).size) (h12 : (ringHdr m (sliceAddr e m core off)).size ≤ 12)
    (hf : ringFits off (ringHdr m (sliceAddr e m core off)) = false) : ringMessage e m core j sender payload = (m, false) := by
  simp only [ringMessage, ho, if_neg (Nat.not_lt.mpr hs), ringUsable_of_not_fits hf, Bool.false_and, Bool.false_eq_true, h2, h12, hf, decide_true, Bool.not_false,
    Bool.and_self, ↓reduceIte]

end

/-! Arrival words, colophons and invalidations (03 R94, R95; 18 R404). -/

theorem performMsg_arrInc {sa n copy : Nat} (hb : x.body = .arrInc sa n copy) :
    performMsg e m x = if copy = 0 then respond e (storeAt m sa (toBytes 8 (arrCount (readNat m sa 8) n)) false) x []
      else updCopy (mergeClocks (storeAt m sa (toBytes 8 (arrCount (readNat m sa 8) n)) false) x) copy (fun c => { c with incs := c.incs - 1 }) := by
  rw [performMsg_eq (.inr (by rw [hb]; rfl))]
  simp only [performBody, hb]

/-- A word without a target only counts, up to the largest count. -/
theorem arrCount_untargeted {w n : Nat} (ht : bitsOf w 63 36 = 0) : arrCount w n = pack [(8, w % 256), (28, min (bitsOf w 35 8 + n) 0x0FFFFFFF), (28, 0)] := by
  simp only [arrCount, ht, ↓reduceIte]

theorem arrCount_targeted {w n : Nat} (ht : bitsOf w 63 36 ≠ 0) :
    arrCount w n = pack [(8, (w % 256 + (bitsOf w 35 8 + n) / bitsOf w 63 36) % 256), (28, (bitsOf w 35 8 + n) % bitsOf w 63 36), (28, bitsOf w 63 36)] := by
  simp only [arrCount, ht, ↓reduceIte]

theorem performMsg_colophon {sa copy : Nat} {stamp : Dword} (hb : x.body = .colophon sa stamp copy) :
    performMsg e m x = updCopy (mergeClocks (storeAt m sa (toBytes 8 stamp.toNat) false) x) copy (fun c => { c with colOut := c.colOut - 1 }) := by
  rw [performMsg_eq (.inr (by rw [hb]; rfl))]
  simp only [performBody, hb]

theorem performMsg_inval {p : Option Nat} {a n reach cl : Nat} (hb : x.body = .inval p a n reach cl) :
    performMsg e m x = respond e (invalidate e m p a n reach cl) x [] := by
  rw [performMsg_eq (.inr (by rw [hb]; rfl))]
  simp only [performBody, hb]

/-! Inputs, records and posts (02 R46, R53, R58, R59). -/

theorem inputArrives_of {g slot : Nat} {data : List Byte} {gr : Graph} (hg : tget m.graphs g = some gr) :
    inputArrives e m g data slot = send e (countSent (updGraph m g (fun a => { a with accn := gr.accn + 1 })) g (gHome gr)) (catHome (gHome gr))
      (catHome (recordHome gr data false)) true none [] 3 false true false 0 (.record g (data.take 8 ++ toBytes 8 (gr.accn + 1) ++ data.drop 16) slot) := by
  simp only [inputArrives, hg]

/-- The graph with a weight for block `k` received at the block's die, and noted if it is the first poison. -/
def received (gr : Graph) (k : Nat) (w : Word) : Graph := noteProv (receipt gr (blockDie gr (k / 4096) (k % 4096))) w

theorem activeOn_of_graphs {m m' : Mach} (h : m'.graphs = m.graphs) (d : Nat) : activeOn m' d = activeOn m d := by
  rw [activeOn, h, activeOn]

/-- Whether a block finds an entry depends on the graphs alone, and not on what a receipt counts. -/
theorem mustWait_of_graphs {m m' : Mach} (h : m'.graphs = m.graphs) (gr : Graph) (k : Nat) : mustWait m' gr k = mustWait m gr k := by
  simp only [mustWait, activeOn_of_graphs h]

theorem mustWait_receipt (m : Mach) (gr : Graph) (d k : Nat) : mustWait m (receipt gr d) k = mustWait m gr k := rfl

theorem recordArrives_applies {g slot : Nat} {data : List Byte} {gr : Graph} (hg : tget m.graphs g = some gr) (hw : mustWait m gr (recKey data) = false) :
    recordArrives e m g data slot = updGraph m g (fun _ => { received gr (recKey data) (recWgt data) with
      blocks := tset gr.blocks (recKey data) { blockOf gr (recKey data) with
        res := combine (nSum gr (recKey data / 4096)) (blockOf gr (recKey data)).res (recWgt data), raise := e.now
        pend := (blockOf gr (recKey data)).pend ++ [(slot, data)], held := false, active := true } }) := by
  simp only [recordArrives, hg, mustWait_receipt, hw, Bool.false_eq_true, ↓reduceIte]
  rfl

theorem recordArrives_waits {g slot : Nat} {data : List Byte} {gr : Graph} (hg : tget m.graphs g = some gr) (hw : mustWait m gr (recKey data) = true) :
    recordArrives e m g data slot = { updGraph m g (fun _ => { received gr (recKey data) (recWgt data) with
      blocks := tset gr.blocks (recKey data) { blockOf gr (recKey data) with
        pend := (blockOf gr (recKey data)).pend ++ [(slot, data)], waiting := some ((blockOf gr (recKey data)).waiting.getD m.serial) } }) with
      serial := m.serial + 1 } := by
  simp only [recordArrives, hg, mustWait_receipt, hw, ↓reduceIte]
  rfl

theorem postArrives_applies {g k : Nat} {w : Word} {gr : Graph} (hg : tget m.graphs g = some gr) (hw : mustWait m gr k = false) :
    postArrives e m g k w = updGraph m g (fun _ => { received gr k w with
      blocks := tset gr.blocks k { blockOf gr k with
        res := combine (nSum gr (k / 4096)) (blockOf gr k).res w
        raise := if resLt (blockOf gr k).res (combine (nSum gr (k / 4096)) (blockOf gr k).res w) then e.now else (blockOf gr k).raise
        held := false, active := true } }) := by
  simp only [postArrives, hg, mustWait_receipt, hw, Bool.false_eq_true, ↓reduceIte, applyWeight, Option.isSome_none, Bool.false_or, Option.toList_none, List.append_nil]
  rfl

theorem postArrives_waits {g k : Nat} {w : Word} {gr : Graph} (hg : tget m.graphs g = some gr) (hw : mustWait m gr k = true) :
    postArrives e m g k w = { updGraph m g (fun _ => { received gr k w with
      blocks := tset gr.blocks k { blockOf gr k with
        hres := some (match (blockOf gr k).hres with | some q => combine (nSum gr (k / 4096)) q w | none => w)
        waiting := some ((blockOf gr k).waiting.getD m.serial) } }) with
      serial := m.serial + 1 } := by
  simp only [postArrives, hg, mustWait_receipt, hw, ↓reduceIte]
  rfl

/-! Answers of a Catalogue (09 R287, R288, R293; 02 R54). -/

/-- A cause other than 32 goes back to the issuing core as an outcome. -/
theorem rputOutcome_cause {r : TRef} {pd c : Nat} (hc : c ≠ 32) :
    rputOutcome e m x r pd (some c) = { m with serial := m.serial + 1, flight := m.flight ++
      [{ x with id := m.serial, due := e.now + x.back + 4, src := x.dst, dst := x.src, acq := false, rel := false, body := .outcome pd c }] } := by
  unfold rputOutcome
  split
  · contradiction
  · rename_i h32
    exact absurd (Option.some.inj h32) hc
  · rename_i hs
    cases hs
    rfl

section
variable {g depth pd : Nat} {data : List Byte} {isIn : Bool} {r : TRef} (ht : x.thr = some r)
include ht

theorem performRput_takes {slot : Nat} {m1 : Mach} (hd : decideRput m g r.g (homePos x.dst).1 data depth isIn = .ok (slot, m1)) :
    performRput e m x g data depth isIn pd = closePart
      (send e (mergeClocks (if isIn then m1 else countSent m1 g (homePos x.dst).1) x) x.src (catHome (recordHome (graphOf m g) data isIn)) true (some r) x.who 3 false true false 0
        (if isIn then .input g data slot else .record g data slot)) x.op (e.now + x.back + 4) [.p r.g r.lane pd true false] [r] := by
  simp only [performRput, ht, hd, rputOutcome]

/-- A record for which the pool has no slot is not taken, and no cause is raised. -/
theorem performRput_full (hd : decideRput m g r.g (homePos x.dst).1 data depth isIn = .error 32) :
    performRput e m x g data depth isIn pd = closePart (mergeClocks m x) x.op (e.now + x.back + 4) [.p r.g r.lane pd false false] [r] := by
  simp only [performRput, ht, hd, rputOutcome]

theorem performRput_refused {c : Nat} (hd : decideRput m g r.g (homePos x.dst).1 data depth isIn = .error c) :
    performRput e m x g data depth isIn pd = rputOutcome e (mergeClocks m x) x r pd (some c) := by
  simp only [performRput, ht, hd]

/-- The thread that waits for the answer traps at its next instruction. -/
theorem performOutcome_traps {c : Nat} (hw : (thrOf m r.g r.lane).wait = .answer) (hop : (thrOf m r.g r.lane).wop = x.op) :
    performOutcome e m x pd c = raise e (applyWr (closePart m x.op e.now [] []) (.p r.g r.lane pd false false)) r.g r.lane c 0 0 (thrOf m r.g r.lane).resume
      (thrOf m r.g r.lane).pc 0 false := by
  simp only [performOutcome, ht, hw, hop, BEq.rfl, Bool.and_self, ↓reduceIte]

theorem performOutcome_late {c : Nat} (hw : (thrOf m r.g r.lane).wait ≠ .answer ∨ (thrOf m r.g r.lane).wop ≠ x.op) :
    performOutcome e m x pd c = closePart m x.op e.now [.p r.g r.lane pd false false] [] := by
  have hn : ¬ ((thrOf m r.g r.lane).wait == .answer && (thrOf m r.g r.lane).wop == x.op) = true := by
    rw [Bool.and_eq_true, beq_iff_eq, beq_iff_eq]
    exact Decidable.not_and_iff_or_not.mpr hw
  simp only [performOutcome, ht, if_neg hn]

end

section
variable {g node n pd : Nat} {lanes : List Nat} {r : TRef} (ht : x.thr = some r)
include ht

theorem performRalc_takes {l : List Nat} {g1 : Graph} (hn : sumL ((grpOf m r.g).resv.map (fun y => y.2.length)) + n ≤ 64)
    (hs : slotsTake (graphOf m g) (homePos x.dst).1 (slotSize (graphOf m g) node) n = some (l, g1)) :
    performRalc e m x g node n pd lanes = closePart
      (mergeClocks (updGrp (updGraph m g (fun _ => g1)) r.g (fun a => { a with resv := tset a.resv node ((tget a.resv node).getD [] ++ l) })) x)
      x.op (e.now + x.back + 4) (lanes.map (fun l => .p r.g l pd true false)) [] := by
  simp only [performRalc, ht, if_neg (Nat.not_lt.mpr hn), hs]

theorem performRalc_refused (h : 64 < sumL ((grpOf m r.g).resv.map (fun y => y.2.length)) + n ∨
      slotsTake (graphOf m g) (homePos x.dst).1 (slotSize (graphOf m g) node) n = none) :
    performRalc e m x g node n pd lanes = closePart (mergeClocks m x) x.op (e.now + x.back + 4) (lanes.map (fun l => .p r.g l pd false false)) [] := by
  have hn : (if 64 < sumL ((grpOf m r.g).resv.map (fun y => y.2.length)) + n then none
      else slotsTake (graphOf m g) (homePos x.dst).1 (slotSize (graphOf m g) node) n) = none := by
    rcases h with h | h
    · exact if_pos h
    · rw [h, ite_self]
  simp only [performRalc, ht, hn]

end

end

/-! The rows. -/

section
variable {s : State} {id : Nat} {x : Msg} (H : AtHome s id x)
include H

theorem takes_access (hr : msgRow x.body = .access) (ht : ∀ p g, x.body ≠ .trigger p g) :
    Takes (.memoryAccessPerform id) s (performedAs s x (performMsg s.env (atHomeMach s id x) x)) := by
  rw [← accessDo_of H ht]
  exact ev_due (msgDue_of H hr)

theorem takes_trigger {p g : Nat} (hb : x.body = .trigger p g) :
    Takes (.memoryAccessPerform id) s { performedAs s x (performMsg s.env (atHomeMach s id x) x) with
      sys := triggerTask s.sys p g
      m := respondHere s.env (performedAs s x (performMsg s.env (atHomeMach s id x) x)).m x } := by
  rw [← accessDo_trigger H hb]
  exact ev_due (msgDue_of H (by rw [hb]; rfl))

theorem takes_hand (hr : msgRow x.body = .hand) : Takes (.handQueueApply id) s (performedAs s x (performMsg s.env (atHomeMach s id x) x)) :=
  ev_msgDo H hr performMsg _

theorem takes_inbox (hr : msgRow x.body = .inbox) : Takes (.inboxMessageArrival id) s (performedAs s x (performMsg s.env (atHomeMach s id x) x)) :=
  ev_msgDo H hr performMsg _

theorem takes_inc (hr : msgRow x.body = .inc) : Takes (.arrivalIncrement id) s (performedAs s x (performMsg s.env (atHomeMach s id x) x)) :=
  ev_msgDo H hr performMsg _

theorem takes_answer (hr : msgRow x.body = .answer) : Takes (.catalogueAnswer id) s (performedAs s x (answerDo s.env (atHomeMach s id x) x)) :=
  ev_msgDo H hr answerDo _

/-! The rows of one kind each. -/

theorem takes_colophon {sa copy : Nat} {stamp : Dword} (hb : x.body = .colophon sa stamp copy) :
    Takes (.colophonWrite id) s (performedAs s x (performMsg s.env (atHomeMach s id x) x)) :=
  ev_msgDo H (by rw [hb]; rfl) performMsg _

theorem takes_input {g slot : Nat} {data : List Byte} (hb : x.body = .input g data slot) :
    Takes (.inputAccession id) s (performedAs s x (inputArrives s.env (mergeClocks (atHomeMach s id x) x) g data slot)) := by
  have h : Takes (.inputAccession id) s (performedAs s x (inputDo s.env (atHomeMach s id x) x)) := ev_msgDo H (by rw [hb]; rfl) inputDo _
  simpa only [inputDo, hb] using h

theorem takes_record {g slot : Nat} {data : List Byte} (hb : x.body = .record g data slot) :
    Takes (.recordArrival id) s (performedAs s x (recordArrives s.env (mergeClocks (atHomeMach s id x) x) g data slot)) := by
  have h : Takes (.recordArrival id) s (performedAs s x (recordDo s.env (atHomeMach s id x) x)) := ev_msgDo H (by rw [hb]; rfl) recordDo _
  simpa only [recordDo, hb] using h

theorem takes_rsd {g node blk : Nat} {w : Word} (hb : x.body = .rsd g node blk w) :
    Takes (.residualPostApply id) s (performedAs s x (respondHere s.env (postArrives s.env (atHomeMach s id x) g (blkKey node blk) w) x)) := by
  have h : Takes (.residualPostApply id) s (performedAs s x (postDo s.env (atHomeMach s id x) x)) := ev_msgDo H (by rw [hb]; rfl) postDo _
  simpa only [postDo, hb] using h

theorem takes_rput {g depth pd : Nat} {data : List Byte} {isIn : Bool} (hb : x.body = .rput g data depth isIn pd) :
    Takes (.catalogueAnswer id) s (performedAs s x (performRput s.env (atHomeMach s id x) x g data depth isIn pd)) := by
  simpa only [answerDo, hb] using takes_answer H (by rw [hb]; rfl)

theorem takes_outcome {pd c : Nat} (hb : x.body = .outcome pd c) :
    Takes (.catalogueAnswer id) s (performedAs s x (performOutcome s.env (atHomeMach s id x) x pd c)) := by
  simpa only [answerDo, hb] using takes_answer H (by rw [hb]; rfl)

theorem takes_ralc {g node n pd : Nat} {lanes : List Nat} (hb : x.body = .ralc g node n pd lanes) :
    Takes (.catalogueAnswer id) s (performedAs s x (performRalc s.env (atHomeMach s id x) x g node n pd lanes)) := by
  simpa only [answerDo, hb] using takes_answer H (by rw [hb]; rfl)

theorem takes_snap {g node blk : Nat} {dst : Opnd} {latch : Option Latch} (hb : x.body = .snap g node blk dst latch) :
    Takes (.catalogueAnswer id) s (performedAs s x (performSnap s.env (atHomeMach s id x) x g node blk dst latch)) := by
  simpa only [answerDo, hb] using takes_answer H (by rw [hb]; rfl)

end

/-- Settles O28: the row of a message takes the step whose turn has come, and what it performs is what each kind's own function does in the case stated. -/
theorem messagesArePerformed : Obligations.MessagesArePerformed := by
  unfold Obligations.MessagesArePerformed
  refine fun s id x H => ⟨?access, ?trigger, ?hand, ?push, ?pop, ?inbox, ?ring, ?inc, ?arrInc, ?colophon, ?input, ?record, ?rsd, ?answer, ?rput, ?outcome, ?ralc, ?snap, ?inval⟩
  case access => exact takes_access H
  case trigger => exact fun p g hb => takes_trigger H hb
  case hand => exact takes_hand H
  case push =>
    intro sa k j d hb
    have h := takes_hand H (by rw [hb]; rfl)
    rw [performMsg_push hb] at h
    exact h
  case pop =>
    intro sa k j dst latch pc va hb hx
    have h := takes_hand H (by rw [hb]; rfl)
    have hq := attend_queue (atHomeMach s id x) x sa k
    rw [performMsg_pop hb hx, popQueue_eq hq.1 hq.2] at h
    exact ⟨hq, h⟩
  case inbox => exact takes_inbox H
  case ring =>
    intro core j sender payload pd hb
    have h := takes_inbox H (by rw [hb]; rfl)
    rw [performMsg_ring hb] at h
    refine ⟨fun ho => ?_, fun off ho hs => ?_, fun off ho hs => ⟨fun hu hf => ?_, fun hu hn => ?_, fun h2 h12 hf => ?_⟩⟩
    · rwa [ringMessage_unregistered ho] at h
    · rwa [ringMessage_outside ho hs] at h
    · rw [ringMessage_appends ho hs hu hf] at h
      exact h
    · rw [ringMessage_refuses ho hs hu hn] at h
      exact h
    · rwa [ringMessage_unfit ho hs h2 h12 hf] at h
  case inc => exact takes_inc H
  case arrInc =>
    intro sa n copy hb
    have h := takes_inc H (by rw [hb]; rfl)
    rw [performMsg_arrInc hb] at h
    refine ⟨fun ht => ?_, fun ht => ?_⟩
    · rwa [arrCount_untargeted ht] at h
    · rwa [arrCount_targeted ht] at h
  case colophon =>
    intro sa stamp copy hb
    have h := takes_colophon H hb
    rwa [performMsg_colophon hb] at h
  case input =>
    intro g data slot gr hb hg
    have h := takes_input H hb
    rwa [inputArrives_of (by simpa only [mergeClocks_graphs, atHomeMach_graphs] using hg)] at h
  case record =>
    intro g data slot gr hb hg
    have h := takes_record H hb
    have hg' : tget (mergeClocks (atHomeMach s id x) x).graphs g = some gr := by simpa only [mergeClocks_graphs, atHomeMach_graphs] using hg
    have hm : mustWait (mergeClocks (atHomeMach s id x) x) gr (recKey data) = mustWait (atHomeMach s id x) gr (recKey data) :=
      mustWait_of_graphs (mergeClocks_graphs _ _) _ _
    refine ⟨fun hw => ?_, fun hw => ?_⟩
    · rw [recordArrives_applies hg' (hm.trans hw)] at h
      exact h
    · rw [recordArrives_waits hg' (hm.trans hw), mergeClocks_serial, atHomeMach_serial] at h
      exact h
  case rsd =>
    intro g node blk w gr hb hg
    have h := takes_rsd H hb
    have hg' : tget (atHomeMach s id x).graphs g = some gr := by rwa [atHomeMach_graphs]
    refine ⟨fun hw => ?_, fun hw => ?_⟩
    · rw [postArrives_applies hg' hw] at h
      exact h
    · rw [postArrives_waits hg' hw, atHomeMach_serial] at h
      exact h
  case answer => exact takes_answer H
  case rput =>
    intro g data depth isIn pd r hb ht
    have h := takes_rput H hb
    refine ⟨fun slot m1 hd => ?_, fun hd => ?_, fun c hc hd => ?_⟩
    · rwa [performRput_takes ht hd] at h
    · rwa [performRput_full ht hd] at h
    · rwa [performRput_refused ht hd, rputOutcome_cause hc] at h
  case outcome =>
    intro pd c r hb ht
    have h := takes_outcome H hb
    refine ⟨fun hw hop => ?_, fun hw => ?_⟩
    · rwa [performOutcome_traps ht hw hop] at h
    · rwa [performOutcome_late ht hw] at h
  case ralc =>
    intro g node n pd lanes r hb ht
    have h := takes_ralc H hb
    refine ⟨fun hn l g1 hs => ?_, fun hf => ?_⟩
    · rwa [performRalc_takes ht hn hs] at h
    · rwa [performRalc_refused ht hf] at h
  case snap => exact fun g node blk dst latch hb => takes_snap H hb
  case inval =>
    intro p a n reach cl hb
    have h := takes_access H (by rw [hb]; rfl) (fun p g ht => nomatch hb.symm.trans ht)
    rwa [performMsg_inval hb] at h

end Sys2Proof.Machine
end

section
/-! SUPPORT. One form for the eight formats (06 R175): an operand area with the fields of the first slot and the slots after it. The parser and the encoder are stated through it, and each is the other's inverse. -/
namespace Sys2Proof
open Machine

/-- The operand area of an instruction, of one of the formats. -/
inductive Area where
  | a (o : FA) | i (o : FI) | w (o : FW) | m (o : FM) | c (o : FC) | e (o : FE) | s (o : FS) | l (o : FL)

namespace Area

/-- The format that it is of. -/
def fmt : Area → Fmt
  | a _ => .a | i _ => .i | w _ => .w | m _ => .m | c _ => .c | e _ => .e | s _ => .s | l _ => .l

/-- The fields below the frame in the first slot. -/
def fields : Area → List (Nat × Nat)
  | a o => faFields o | i o => fiFields o | w o => fwFields o | m o => fmFields o | c o => fcFields o | e o => feFields o | s o => fsFields o
  | l o => [(64, o.body.toNat)]

/-- The slots after the first. -/
def more : Area → List Nat
  | w o => [o.imm.toNat]
  | e o => [o.ext.toNat]
  | l o => [bitsOf o.body.toNat 159 64, bitsOf o.body.toNat 255 160]
  | _ => []

/-- All the slots, under a frame with an opcode. -/
def slots (x : Area) (h : Hdr) (op : Nat) : List Nat := slotOf x.fields h op :: x.more

/-- The instruction of the opcode map (06 R177). -/
def instr (op : Nat) (h : Hdr) : Area → Option Instr
  | a o => instrA op h o | i o => instrI op h o | w o => instrW op h o | m o => instrM op h o | c o => instrC op h o | e o => instrE op h o
  | s o => instrS op h o | l o => instrL op h o

/-- The area that slots hold in a format. -/
def read (s0 s1 s2 : Nat) : Fmt → Option Area
  | .a => (faOf s0).map a | .i => (fiOf s0).map i | .w => (fwOf s0 s1).map w | .m => (fmOf s0).map m | .c => (fcOf s0).map c
  | .e => (feOf s0 s1).map e | .s => (fsOf s0).map s | .l => some (l (flOf s0 s1 s2))

end Area

/-! The decoder through areas. -/

/-- What is parsed is what the opcode map gives for the area that is read in the opcode's format. -/
theorem parseSlots_eq_ok {op s0 s1 s2 : Nat} {h : Hdr} {i : Instr} :
    parseSlots op h s0 s1 s2 = .ok i ↔ ∃ f x, fmtOf op = some f ∧ Area.read s0 s1 s2 f = some x ∧ x.instr op h = some i := by
  unfold parseSlots
  cases fmtOf op with
  | none => simp
  | some f =>
    have hr : (Area.read s0 s1 s2 f).bind (Area.instr op h) = some i ↔ ∃ g x, some f = some g ∧ Area.read s0 s1 s2 g = some x ∧ x.instr op h = some i := by
      simp only [Option.bind_eq_some_iff, Option.some.injEq, exists_and_left, exists_eq_left']
    rw [← hr]
    cases f <;> simp only [Area.read, Option.bind_map, Option.bind_some] <;> split <;> rename_i hm <;>
      simp only [Function.comp_def, Area.instr, hm, Except.ok.injEq, Option.some.injEq, reduceCtorEq]

/-- What the decoder accepts: a whole instruction of an assigned opcode with legal fields. -/
theorem decode_cons_eq_ok {s0 : Nat} {rest : List Nat} {i : Instr} :
    decode (s0 :: rest) = .ok i ↔ ∃ h op, hdrOf s0 = some (h, op) ∧ slotsOf op ≤ rest.length + 1 ∧
      parseSlots op h s0 (rest.headD 0) (rest.tail.headD 0) = .ok i ∧ legal i = true := by
  simp only [decode]
  cases hdrOf s0 with
  | none => simp
  | some p =>
    obtain ⟨h, op⟩ := p
    simp only [Option.some.injEq, Prod.mk.injEq, and_assoc, exists_and_left, exists_eq_left']
    by_cases hn : rest.length + 1 < slotsOf op
    · simp only [hn, Nat.not_le.mpr hn, ↓reduceIte, reduceCtorEq, false_and]
    · simp only [hn, Nat.le_of_not_lt hn, ↓reduceIte, true_and]
      cases parseSlots op h s0 (rest.headD 0) (rest.tail.headD 0) with
      | error e => simp
      | ok j =>
        simp only [Except.ok.injEq]
        by_cases hl : legal j = true
        · simp only [hl, ↓reduceIte, Except.ok.injEq]
          exact ⟨fun e => ⟨e, e ▸ hl⟩, fun e => e.1⟩
        · simp only [hl, ↓reduceIte, reduceCtorEq, false_iff, not_and]
          exact fun e => e ▸ hl

/-- An assigned opcode has eight bits. -/
theorem lt_of_fmtOf {op : Nat} {f : Fmt} (h : fmtOf op = some f) : op < 256 := by
  unfold fmtOf at h
  grind

/-- The length that the opcode gives is that of the area's slots (06 R164). -/
theorem slotsOf_of_fmtOf {op : Nat} {x : Area} (h : fmtOf op = some x.fmt) : slotsOf op = x.more.length + 1 := by
  unfold fmtOf at h
  cases x <;> simp only [Area.fmt, Area.more, List.length_cons, List.length_nil, slotsOf] at h ⊢ <;> grind

theorem legal_of_decode {slots : List Nat} {i : Instr} (h : decode slots = .ok i) : legal i = true := by
  cases slots with
  | nil => cases h
  | cons s0 rest =>
    obtain ⟨_, _, _, _, _, hl⟩ := decode_cons_eq_ok.mp h
    exact hl

end Sys2Proof
end

section
/-! PROOF. Every well-formed instruction is decoded from its slots and from its bytes (06 R168 to R178). -/
namespace Sys2Proof
open Machine

/-! What the encoder makes of an area. -/

theorem Area.fields_width (x : Area) : (x.fields.map (·.1)).sum = 64 := by cases x <;> rfl

/-- A slot has 96 bits. -/
theorem Area.slots_lt (x : Area) (h : Hdr) (op : Nat) : ∀ n ∈ x.slots h op, n < 2 ^ 96 := by
  have h0 : slotOf x.fields h op < 2 ^ 96 := by
    have hp := pack_lt (x.fields ++ hdrFields h op)
    rwa [List.map_append, List.sum_append, x.fields_width] at hp
  have hb (n hi : Nat) : bitsOf n (hi + 95) hi < 2 ^ 96 := by
    simpa only [bitsOf, show hi + 95 + 1 - hi = 96 by omega] using Nat.mod_lt _ (Nat.two_pow_pos 96)
  rw [Area.slots, List.forall_mem_cons]
  refine ⟨h0, ?_⟩
  cases x <;> simp only [Area.more, List.forall_mem_cons, List.not_mem_nil, false_implies, implies_true, and_true]
  case w o => exact Nat.lt_trans o.imm.isLt (by decide)
  case e o => exact o.ext.isLt
  case l o => exact ⟨hb _ 64, hb _ 160⟩

/-- The operand area of format L comes back. -/
theorem flOf_slot (o : FL) (h : Hdr) (op : Nat) :
    flOf (slotOf [(64, o.body.toNat)] h op) (bitsOf o.body.toNat 159 64) (bitsOf o.body.toNat 255 160) = o := by
  have h0 : slotOf [(64, o.body.toNat)] h op % 2 ^ 64 = o.body.toNat % 2 ^ 64 := by
    simp only [slotOf, List.cons_append, List.nil_append, pack, Nat.add_mul_mod_self_left, Nat.mod_mod]
  have hj : o.body.toNat % 2 ^ 64 + 2 ^ 64 * (bitsOf o.body.toNat 159 64 % 2 ^ 96) + 2 ^ 160 * (bitsOf o.body.toNat 255 160 % 2 ^ 96) = o.body.toNat := by
    have hlt := o.body.isLt
    simp only [bitsOf]
    omega
  rw [flOf, h0, hj, BitVec.ofNat_toNat, BitVec.setWidth_eq]

/-- An area is read back from its slots, whatever follows them. -/
theorem Area.read_slots (x : Area) (h : Hdr) (op : Nat) (rest : List Nat) :
    Area.read (slotOf x.fields h op) ((x.more ++ rest).headD 0) ((x.more ++ rest).tail.headD 0) x.fmt = some x := by
  cases x <;> simp only [Area.read, Area.fmt, Area.fields, Area.more, List.cons_append, List.nil_append, List.headD_cons, List.tail_cons, faOf_slot, fiOf_slot,
    fwOf_slot, fmOf_slot, fcOf_slot, feOf_slot, fsOf_slot, flOf_slot, Option.map_some]

/-- A legal instruction of the opcode map is decoded from the slots of its area, whatever follows them. -/
theorem Area.decode_slots {x : Area} {h : Hdr} {op : Nat} {i : Instr} (rest : List Nat) (ho : op < 256) (hf : fmtOf op = some x.fmt) (hi : x.instr op h = some i)
    (hl : legal i = true) : decode (x.slots h op ++ rest) = .ok i := by
  rw [Area.slots, List.cons_append, decode_cons_eq_ok]
  refine ⟨h, op, hdrOf_slotOf _ _ _ x.fields_width ho, ?_, parseSlots_eq_ok.mpr ⟨_, x, hf, x.read_slots h op rest, hi⟩, hl⟩
  rw [slotsOf_of_fmtOf hf, List.length_append]
  omega

theorem Area.length_slots_le (x : Area) (h : Hdr) (op : Nat) : (x.slots h op).length ≤ 3 := by
  cases x <;> simp only [slots, more, List.length_cons, List.length_nil] <;> decide

/-! Slots as bytes (00 R5, 06 R160). -/

/-- Slots come back from their bytes. -/
theorem slotsOfBytes_flatMap (k : Nat) (l : List Nat) (hk : l.length ≤ k) (hl : ∀ n ∈ l, n < 2 ^ 96) : slotsOfBytes k (l.flatMap (toBytes 12)) = l := by
  induction l generalizing k with
  | nil => cases k <;> rfl
  | cons n r ih =>
    obtain ⟨hn, hr⟩ := List.forall_mem_cons.mp hl
    obtain ⟨k, rfl⟩ : ∃ j, k = j + 1 := ⟨k - 1, by rw [List.length_cons] at hk; omega⟩
    have ht := List.take_left' (l₂ := r.flatMap (toBytes 12)) (length_toBytes 12 n)
    have hd := List.drop_left' (l₂ := r.flatMap (toBytes 12)) (length_toBytes 12 n)
    have hlen : ¬ (toBytes 12 n ++ r.flatMap (toBytes 12)).length < 12 := by simp
    rw [List.flatMap_cons, slotsOfBytes, if_neg hlen, ht, hd, ofBytes_toBytes, Nat.mod_eq_of_lt (by simpa using hn), ih k (by simpa using hk) hr]

/-! Rows of the opcode map that share an opcode: the legal fields of each fix the FN that tells it from the other (06 R177). -/

theorem fnHi_of_pchkOk {h : Hdr} {o : FA} (hl : pchkOk h o = true) : fnHi h = 0 := by
  unfold pchkOk at hl
  split at hl
  · cases hl
  · simp only [Bool.and_eq_true, beq_iff_eq, and_assoc] at hl
    obtain ⟨hfn, _⟩ := hl
    exact hfn

theorem fnHi_of_pchkProvOk {h : Hdr} {o : FA} (hl : pchkProvOk h o = true) : fnHi h = 1 := by
  unfold pchkProvOk at hl
  split at hl
  · cases hl
  · simp only [Bool.and_eq_true, beq_iff_eq, and_assoc] at hl
    obtain ⟨hfn, _⟩ := hl
    exact hfn

theorem fn_of_arrvOk {h : Hdr} {o : FA} {k : Nat} (hl : arrvOk h o k = true) : h.fn.toNat = k := by
  simp only [arrvOk, frameSync, Bool.and_eq_true, beq_iff_eq, and_assoc] at hl
  obtain ⟨_, hfn, _⟩ := hl
  exact hfn

theorem fn_of_trmxGetOk {h : Hdr} {o : FA} (hl : trmxGetOk h o = true) : h.fn = 0 := by
  simp only [trmxGetOk, Bool.and_eq_true, beq_iff_eq, and_assoc] at hl
  obtain ⟨_, _, hfn, _⟩ := hl
  exact hfn

theorem fn_of_trmxPutOk {h : Hdr} {o : FA} (hl : trmxPutOk h o = true) : h.fn = 1 := by
  simp only [trmxPutOk, Bool.and_eq_true, beq_iff_eq, and_assoc] at hl
  obtain ⟨_, hfn, _⟩ := hl
  exact hfn

theorem fn_of_rputOkFn {h : Hdr} {o : FA} {k : Nat} (hl : rputOkFn h o k = true) : h.fn.toNat = k := by
  simp only [rputOkFn, frameRec, Bool.and_eq_true, beq_iff_eq, and_assoc] at hl
  obtain ⟨_, hfn, _⟩ := hl
  exact hfn

theorem fn_of_cvbOk {h : Hdr} {o : FC} (hl : cvbOk h o = true) : h.fn.toNat = 0 := by
  simp only [cvbOk, frameC, Bool.and_eq_true, beq_iff_eq, and_assoc] at hl
  obtain ⟨_, hfn, _⟩ := hl
  exact hfn

theorem fn_of_cvbCurOk {h : Hdr} {o : FC} (hl : cvbCurOk h o = true) : h.fn.toNat = 1 := by
  simp only [cvbCurOk, frameC, Bool.and_eq_true, beq_iff_eq, and_assoc] at hl
  obtain ⟨_, hfn, _⟩ := hl
  exact hfn

theorem fn_of_tresOk {h : Hdr} {o : FS} (hl : tresOk h o = true) : h.fn.toNat = 0 := by
  simp only [tresOk, frameS, Bool.and_eq_true, beq_iff_eq, and_assoc] at hl
  obtain ⟨_, hfn, _⟩ := hl
  exact hfn

theorem fn_of_tresWOk {h : Hdr} {o : FS} (hl : tresWOk h o = true) : h.fn.toNat = 1 := by
  simp only [tresWOk, frameS, Bool.and_eq_true, beq_iff_eq, and_assoc] at hl
  obtain ⟨_, hfn, _⟩ := hl
  exact hfn

/-- FN as a number decides a test of its bits. -/
theorem fn_beq {h : Hdr} {k : Nat} (e : h.fn.toNat = k) (n : BitVec 8) : (h.fn == n) = (k == n.toNat) := by
  rw [← e, Bool.eq_iff_iff, beq_iff_eq, beq_iff_eq, BitVec.toNat_eq]

/-- A legal instruction with an opcode is what the opcode map gives for an area, and its slots are those of the area. -/
theorem exists_area {i : Instr} {op : Nat} (ho : opOf i = some op) (hl : legal i = true) :
    ∃ (h : Hdr) (x : Area), fmtOf op = some x.fmt ∧ x.instr op h = some i ∧ encode i = x.slots h op := by
  cases i with
  | add h o | sub h o | mul h o | mulh h o | mad h o | div h o | rem h o | neg h o | abs h o | min h o | max h o | and h o | or h o | xor h o
  | not h o | shl h o | shr h o | sra h o | rot h o | clz h o | popc h o | brev h o | bfx h o | bfi h o | cmp h o | sel h o | lea h o | addc h o
  | cvt h o | mov h o | fadd h o | fsub h o | fmul h o | fma h o | fmin h o | fmax h o | fabs h o | fneg h o | fcmp h o | fdiv h o | fsqrt h o
  | frcp h o | frsq h o | fex2 h o | flg2 h o | fsin h o | fcos h o | frnd h o | fcls h o | fscl h o | fclp h o | fdot2 h o | fcvt h o | nscl h o
  | npck h o | nunp h o | ndot h o | pmrk h o | pfix h o | plog h o | shfl h o | vote h o | blot h o | redx h o | scan h o | sred h o | rdl h o
  | wrl h o | mtch h o | getc h o | setc h o | getid h o | clk h o | bar h o | bsc h o | awt h o | qpush h o | qpop h o | lend h o | claim h o
  | send h o | mma h o | mmsp h o | tzro h o | tmov h o | kbnd h o | ralc h o | rget h o | rdon h o | rsd h o | post h o | snap h o =>
    cases ho; exact ⟨h, .a o, rfl, rfl, rfl⟩
  | movi h o | mwt h o => cases ho; exact ⟨h, .i o, rfl, rfl, rfl⟩
  | movw h o => cases ho; exact ⟨h, .w o, rfl, rfl, rfl⟩
  | ld h o | st h o | ldt h o | stt h o | ldv h o | pfx h o | atom h o | cas h o | red h o | rfl h o | fence h o | mon h o | qwait h o | wake h o =>
    cases ho; exact ⟨h, .m o, rfl, rfl, rfl⟩
  | bra h o | brx h o | call h o | cali h o | ret h o | cvw h o | exit h o | yield h o | nop h o | loop h o => cases ho; exact ⟨h, .c o, rfl, rfl, rfl⟩
  | cpy h o | cpym h o | rfet h o | rfett h o | cseal h o | xcon h o => cases ho; exact ⟨h, .e o, rfl, rfl, rfl⟩
  | trap h o | tret h o | tclr h o | brk h o | park h o | plcw h o | xinv h o | swap h o | fcal h o | diag h o => cases ho; exact ⟨h, .s o, rfl, rfl, rfl⟩
  | nest h o | nred h o => cases ho; exact ⟨h, .l o, rfl, rfl, rfl⟩
  | pchk h o => cases ho; exact ⟨h, .a o, rfl, congrArg some (if_neg (by simp [fnHi_of_pchkOk hl])), rfl⟩
  | pchkProv h o => cases ho; exact ⟨h, .a o, rfl, congrArg some (if_pos (by simp [fnHi_of_pchkProvOk hl])), rfl⟩
  | arrvSet h o => cases ho; exact ⟨h, .a o, rfl, congrArg some (if_neg (by simp [fn_beq (fn_of_arrvOk hl)])), rfl⟩
  | arrvAdd h o => cases ho; exact ⟨h, .a o, rfl, congrArg some (if_pos (by simp [fn_beq (fn_of_arrvOk hl)])), rfl⟩
  | trmxGet h o => cases ho; exact ⟨h, .a o, rfl, congrArg some (if_neg (by simp [fn_of_trmxGetOk hl])), rfl⟩
  | trmxPut h o => cases ho; exact ⟨h, .a o, rfl, congrArg some (if_pos (by simp [fn_of_trmxPutOk hl])), rfl⟩
  | rput h o => cases ho; exact ⟨h, .a o, rfl, congrArg some (if_neg (by simp [fn_beq (fn_of_rputOkFn hl)])), rfl⟩
  | rputIn h o => cases ho; exact ⟨h, .a o, rfl, congrArg some (if_pos (by simp [fn_beq (fn_of_rputOkFn hl)])), rfl⟩
  | cvb h o => cases ho; exact ⟨h, .c o, rfl, congrArg some (if_neg (by simp [fn_beq (fn_of_cvbOk hl)])), rfl⟩
  | cvbCur h o => cases ho; exact ⟨h, .c o, rfl, congrArg some (if_pos (by simp [fn_beq (fn_of_cvbCurOk hl)])), rfl⟩
  | tres h o => cases ho; exact ⟨h, .s o, rfl, congrArg some (if_neg (by simp [fn_beq (fn_of_tresOk hl)])), rfl⟩
  | tresW h o => cases ho; exact ⟨h, .s o, rfl, congrArg some (if_pos (by simp [fn_beq (fn_of_tresWOk hl)])), rfl⟩
  | _ => cases ho

/-- Settles O43: the instruction is what the opcode map gives for an area, and the area is read back from its slots and these from their bytes. -/
theorem decodeInvertsEncode : Obligations.DecodeInvertsEncode := by
  unfold Obligations.DecodeInvertsEncode
  intro i hop hl
  obtain ⟨op, ho⟩ := Option.ne_none_iff_exists'.mp hop
  obtain ⟨h, x, hf, hi, he⟩ := exists_area ho hl
  have hd (rest : List Nat) : decode (encode i ++ rest) = .ok i := he ▸ Area.decode_slots rest (lt_of_fmtOf hf) hf hi hl
  have hb : slotsOfBytes 3 (encodeBytes i) = encode i := slotsOfBytes_flatMap 3 _ (he ▸ x.length_slots_le h op) (he ▸ x.slots_lt h op)
  have hn := hd []
  rw [List.append_nil] at hn
  exact ⟨hd, by rw [decodeBytes, hb, hn]⟩

end Sys2Proof
end

section
/-! PROOF. Slots that decode are the encoding of a well-formed instruction (06 R171, R175): what is read from a slot joins to the slot again. -/
namespace Sys2Proof
open Machine

theorem toNat_bit_eq (n : Nat) : (n % 2 == 1).toNat = n % 2 := by
  rcases Nat.mod_two_eq_zero_or_one n with h | h <;> rw [h] <;> rfl

/-- The frame that is read has the fields that stand there. -/
theorem unpack_of_hdrOf {s op : Nat} {h : Hdr} (hs : hdrOf s = some (h, op)) : unpack frameWidths (s / 2 ^ 64) = (hdrFields h op).map (·.2) := by
  simp only [hdrOf, frameWidths, unpack, Option.some.injEq, Prod.mk.injEq] at hs
  obtain ⟨rfl, rfl⟩ := hs
  simp only [frameWidths, unpack, hdrFields, List.map_cons, List.map_nil, BitVec.toNat_ofNat, Nat.mod_mod, Nat.pow_one, toNat_bit_eq]

/-- Fields that stand in a number join to its low bits. -/
theorem pack_of_unpack {l : List (Nat × Nat)} {n w : Nat} (hw : (l.map (·.1)).sum = w) (hu : unpack (l.map (·.1)) n = l.map (·.2)) : pack l = n % 2 ^ w := by
  have hz : (l.map (·.1)).zip (l.map (·.2)) = l := by
    rw [List.zip_map']
    exact List.map_id l
  rw [← hw, ← pack_unpack, hu, hz]

/-- A slot is its frame over what stands below it. -/
theorem slotOf_eq {area : List (Nat × Nat)} {s op : Nat} {h : Hdr} (hs : s < 2 ^ 96) (hh : hdrOf s = some (h, op)) (hw : (area.map (·.1)).sum = 64)
    (ha : pack area = s % 2 ^ 64) : slotOf area h op = s := by
  have hf : pack (hdrFields h op) = s / 2 ^ 64 % 2 ^ 32 := pack_of_unpack rfl (unpack_of_hdrOf hh)
  rw [slotOf, pack_append, ha, hf, hw]
  omega

/-- The bits of a field that reads as an operand are those of the operand. -/
theorem opndBits_of_mod {n : Nat} {o : Opnd} (h : opndOfBits (n % 2 ^ 10) = some o) : opndBits o = n % 2 ^ 10 :=
  opndBits_of _ _ (Nat.mod_lt _ (by decide)) h

/-! An operand area that is read has the fields that stand in the slot (06 R175), format by format. -/

theorem unpack_of_faOf {s : Nat} {o : FA} (ho : faOf s = some o) : unpack ((faFields o).map (·.1)) s = (faFields o).map (·.2) := by
  simp only [faOf, unpack] at ho
  split at ho
  · rename_i sc sb sa d hsc hsb hsa hd
    obtain rfl := Option.some.inj ho
    simp only [faFields, List.map_cons, List.map_nil, unpack, BitVec.toNat_ofNat, Nat.mod_mod, opndBits_of_mod hsc, opndBits_of_mod hsb, opndBits_of_mod hsa, opndBits_of_mod hd]
  · cases ho

theorem unpack_of_fiOf {s : Nat} {o : FI} (ho : fiOf s = some o) : unpack ((fiFields o).map (·.1)) s = (fiFields o).map (·.2) := by
  simp only [fiOf, unpack] at ho
  split at ho
  · rename_i sb sa d hsb hsa hd
    split at ho
    · rename_i hz
      obtain rfl := Option.some.inj ho
      simp only [fiFields, List.map_cons, List.map_nil, unpack, BitVec.toNat_ofNat, Nat.mod_mod, opndBits_of_mod hsb, opndBits_of_mod hsa, opndBits_of_mod hd, hz]
    · cases ho
  · cases ho

theorem unpack_of_fwOf {s s1 : Nat} {o : FW} (ho : fwOf s s1 = some o) : unpack ((fwFields o).map (·.1)) s = (fwFields o).map (·.2) ∧ o.imm.toNat = s1 := by
  simp only [fwOf, unpack] at ho
  split at ho
  · rename_i d hd
    split at ho
    · rename_i hz
      obtain ⟨hz, h1⟩ := hz
      obtain rfl := Option.some.inj ho
      simp only [fwFields, List.map_cons, List.map_nil, unpack, BitVec.toNat_ofNat, opndBits_of_mod hd, hz, Nat.mod_eq_of_lt h1, and_self]
    · cases ho
  · cases ho

theorem unpack_of_fmOf {s : Nat} {o : FM} (ho : fmOf s = some o) : unpack ((fmFields o).map (·.1)) s = (fmFields o).map (·.2) := by
  simp only [fmOf, unpack] at ho
  split at ho
  · rename_i ix b d hix hb hd
    obtain rfl := Option.some.inj ho
    simp only [fmFields, List.map_cons, List.map_nil, unpack, BitVec.toNat_ofNat, Nat.mod_mod, opndBits_of_mod hix, opndBits_of_mod hb, opndBits_of_mod hd]
  · cases ho

theorem unpack_of_fcOf {s : Nat} {o : FC} (ho : fcOf s = some o) : unpack ((fcFields o).map (·.1)) s = (fcFields o).map (·.2) := by
  simp only [fcOf, unpack] at ho
  split at ho
  · rename_i x hx
    obtain rfl := Option.some.inj ho
    simp only [fcFields, List.map_cons, List.map_nil, unpack, BitVec.toNat_ofNat, Nat.mod_mod, opndBits_of_mod hx]
  · cases ho

theorem unpack_of_feOf {s s1 : Nat} {o : FE} (h1 : s1 < 2 ^ 96) (ho : feOf s s1 = some o) : unpack ((feFields o).map (·.1)) s = (feFields o).map (·.2) ∧ o.ext.toNat = s1 := by
  simp only [feOf, unpack] at ho
  split at ho
  · rename_i sc sb sa d hsc hsb hsa hd
    obtain rfl := Option.some.inj ho
    simp only [feFields, List.map_cons, List.map_nil, unpack, BitVec.toNat_ofNat, Nat.mod_mod, opndBits_of_mod hsc, opndBits_of_mod hsb, opndBits_of_mod hsa, opndBits_of_mod hd,
      Nat.mod_eq_of_lt h1, and_self]
  · cases ho

theorem unpack_of_fsOf {s : Nat} {o : FS} (ho : fsOf s = some o) : unpack ((fsFields o).map (·.1)) s = (fsFields o).map (·.2) := by
  simp only [fsOf, unpack] at ho
  split at ho
  · rename_i sb sa d hsb hsa hd
    obtain rfl := Option.some.inj ho
    simp only [fsFields, List.map_cons, List.map_nil, unpack, BitVec.toNat_ofNat, Nat.mod_mod, opndBits_of_mod hsb, opndBits_of_mod hsa, opndBits_of_mod hd]
  · cases ho

/-- The body of format L is split over its slots. -/
theorem flOf_body {s0 s1 s2 : Nat} (h1 : s1 < 2 ^ 96) (h2 : s2 < 2 ^ 96) :
    (flOf s0 s1 s2).body.toNat % 2 ^ 64 = s0 % 2 ^ 64 ∧ bitsOf (flOf s0 s1 s2).body.toNat 159 64 = s1 ∧ bitsOf (flOf s0 s1 s2).body.toNat 255 160 = s2 := by
  simp only [flOf, BitVec.toNat_ofNat, bitsOf]
  omega

/-- What is read in a format is an area of the format; its fields stand in the first slot, and its other slots follow. -/
theorem Area.of_read {s0 s1 s2 : Nat} {f : Fmt} {x : Area} (h1 : s1 < 2 ^ 96) (h2 : s2 < 2 ^ 96) (hr : Area.read s0 s1 s2 f = some x) :
    x.fmt = f ∧ pack x.fields = s0 % 2 ^ 64 ∧ x.more = [s1, s2].take x.more.length := by
  cases f <;> simp only [Area.read, Option.map_eq_some_iff, Option.some.injEq] at hr
  case a =>
    obtain ⟨o, ho, rfl⟩ := hr
    exact ⟨rfl, pack_of_unpack rfl (unpack_of_faOf ho), rfl⟩
  case i =>
    obtain ⟨o, ho, rfl⟩ := hr
    exact ⟨rfl, pack_of_unpack rfl (unpack_of_fiOf ho), rfl⟩
  case w =>
    obtain ⟨o, ho, rfl⟩ := hr
    obtain ⟨hu, hi⟩ := unpack_of_fwOf ho
    exact ⟨rfl, pack_of_unpack rfl hu, congrArg (fun n => [n]) hi⟩
  case m =>
    obtain ⟨o, ho, rfl⟩ := hr
    exact ⟨rfl, pack_of_unpack rfl (unpack_of_fmOf ho), rfl⟩
  case c =>
    obtain ⟨o, ho, rfl⟩ := hr
    exact ⟨rfl, pack_of_unpack rfl (unpack_of_fcOf ho), rfl⟩
  case e =>
    obtain ⟨o, ho, rfl⟩ := hr
    obtain ⟨hu, hi⟩ := unpack_of_feOf h1 ho
    exact ⟨rfl, pack_of_unpack rfl hu, congrArg (fun n => [n]) hi⟩
  case s =>
    obtain ⟨o, ho, rfl⟩ := hr
    exact ⟨rfl, pack_of_unpack rfl (unpack_of_fsOf ho), rfl⟩
  case l =>
    subst hr
    obtain ⟨hlo, hm, hh⟩ := flOf_body (s0 := s0) h1 h2
    exact ⟨rfl, hlo, congr (congrArg List.cons hm) (congrArg (fun b => [b]) hh)⟩

/-- What the opcode map gives for an area has the opcode, and the slots of the area. -/
theorem opOf_encode_of_instr {x : Area} {op : Nat} {h : Hdr} {i : Instr} (hi : x.instr op h = some i) : opOf i = some op ∧ encode i = x.slots h op := by
  cases x <;> simp only [Area.instr, instrA, instrI, instrW, instrM, instrC, instrE, instrS, instrL] at hi <;> (repeat' split at hi) <;> cases hi <;>
    exact ⟨rfl, rfl⟩

theorem headD_lt {l : List Nat} (hl : ∀ n ∈ l, n < 2 ^ 96) : l.headD 0 < 2 ^ 96 := by
  cases l with
  | nil => exact Nat.two_pow_pos 96
  | cons a r => exact hl a List.mem_cons_self

/-- As many of the first two elements as a list has. -/
theorem take_heads {l : List Nat} {k : Nat} (hk : k ≤ 2) (hl : k ≤ l.length) : [l.headD 0, l.tail.headD 0].take k = l.take k := by
  match k, l with
  | 0, _ => rfl
  | 1, a :: _ => rfl
  | 2, a :: b :: _ => rfl

theorem Area.length_more_le (x : Area) : x.more.length ≤ 2 := Nat.le_of_succ_le_succ (x.length_slots_le (plainHdr 0) 0)

/-- Settles O44: the area that is read has the fields of the slots that were given, and the opcode map gives an instruction that the encoder takes back to it. -/
theorem encodeInvertsDecode : Obligations.EncodeInvertsDecode := by
  unfold Obligations.EncodeInvertsDecode
  intro slots i hs hd
  match slots with
  | [] => cases hd
  | s0 :: rest =>
    obtain ⟨hs0, hrest⟩ := List.forall_mem_cons.mp hs
    obtain ⟨h, op, hh, hn, hp, hl⟩ := decode_cons_eq_ok.mp hd
    obtain ⟨f, x, hf, hr, hi⟩ := parseSlots_eq_ok.mp hp
    obtain ⟨rfl, hfields, hmore⟩ := Area.of_read (headD_lt hrest) (headD_lt (fun n hn => hrest n (List.mem_of_mem_tail hn))) hr
    obtain ⟨hop, he⟩ := opOf_encode_of_instr hi
    rw [slotsOf_of_fmtOf hf] at hn
    obtain ⟨after, hr⟩ := List.prefix_iff_eq_take.mpr (hmore.trans (take_heads x.length_more_le (Nat.le_of_succ_le_succ hn)))
    refine ⟨hop ▸ Option.some_ne_none op, hl, after, ?_⟩
    rw [he, Area.slots, slotOf_eq hs0 hh x.fields_width hfields, List.cons_append, hr]

end Sys2Proof
end

section
/-! PROOF. Words written out from the encoding tables (06 R168 to R177). -/
namespace Sys2Proof.Machine
open Sys2Proof

/-- Settles O45: one word of each format and family, each decoded by evaluation of the decoder at it. -/
theorem specWordsDecode : Obligations.SpecWordsDecode := by
  unfold Obligations.SpecWordsDecode
  refine ⟨?_, ?_, ?_, ?_, ?_, ?_, ?_, ?_, ?_, ?_, ?_, ?_, ?_⟩ <;> decide +kernel

end Sys2Proof.Machine
end

section
/-! PROOF. A step of a selected set runs what stands at its PC (06 R160 to R165, R179). -/
namespace Sys2Proof.Machine
open Sys2Proof

theorem instrAt_of_decode {l k : Nat} {i : Instr} (h : decode (slotsFrom l k) = .ok i) : instrAt l k = some i := by
  rw [instrAt, h]

section
variable {l pc : Nat} {solo : Bool}

/-- A place where no instruction starts, or a line that is not well formed, is refused. -/
theorem decodeAt_bad (h : lineWf l = false ∨ 5 ≤ pc % 8 ∨ bitsOf pc 5 3 ≠ 0 ∨ lineCont l (pc % 8) = true) : decodeAt l pc solo = .bad := by
  unfold decodeAt
  by_cases hw : lineWf l = true
  · have hb : readSlot l pc solo = .bad := by
      have hc : (decide (5 ≤ pc % 8) || bitsOf pc 5 3 != 0 || lineCont l (pc % 8)) = true := by simpa [hw, or_assoc] using h
      simp only [readSlot, hc, ↓reduceIte]
    simp only [hw, hb, Bool.not_true, Bool.false_eq_true, ↓reduceIte]
  · simp only [hw, Bool.not_false, ↓reduceIte]

variable (hw : lineWf l = true) (hs : pc % 8 < 5) (hr : bitsOf pc 5 3 = 0) (hc : lineCont l (pc % 8) = false)
include hw hs hr hc

/-- An instruction without a partner is read alone (06 R164). -/
theorem decodeAt_one (hp : ¬ (linePair l (pc % 8 + 1) = true ∧ pc % 8 < 4 ∧ slotLen l (pc % 8) = 1)) {i : Instr} (hd : decode (slotsFrom l (pc % 8)) = .ok i) :
    decodeAt l pc solo = .one i (pcAfter pc (slotLen l (pc % 8))) := by
  have hn : (linePair l (pc % 8 + 1) && decide (pc % 8 < 4) && slotLen l (pc % 8) == 1) = false := by
    simpa [and_assoc] using hp
  simp [decodeAt, readSlot, hw, Nat.not_le.mpr hs, hr, hc, hn, instrAt_of_decode hd, legal_of_decode hd]

section
variable (hp : linePair l (pc % 8 + 1) = true) (h4 : pc % 8 < 4) (h1 : slotLen l (pc % 8) = 1) {a : Instr} (ha : decode (slotsFrom l (pc % 8)) = .ok a)
include hp h4 h1 ha

/-- The first of a pair is read alone for a thread that finished the other half (06 R179). -/
theorem decodeAt_solo : decodeAt l pc true = .one a (pcAfter pc 2) := by
  simp [decodeAt, readSlot, hw, Nat.not_le.mpr hs, hr, hc, hp, h4, h1, instrAt_of_decode ha, legal_of_decode ha]

/-- Both halves of a pair are read. -/
theorem decodeAt_two {b : Instr} (hb : decode (slotsFrom l (pc % 8 + 1)) = .ok b) : decodeAt l pc false = .two a b (pcAfter pc 2) := by
  simp [decodeAt, readSlot, hw, Nat.not_le.mpr hs, hr, hc, hp, h4, h1, instrAt_of_decode ha, legal_of_decode ha, instrAt_of_decode hb, legal_of_decode hb]

end
end

section
variable {s : State} {cu : Cur} {m : Mach} {r : LineRes} (hcur : s.m.cur = some cu)
  (hf : fetchLine s.env s.m (grpOf s.m cu.g).core (teamOf s.m (grpOf s.m cu.g).team).part cu.pc = (m, r))
include hcur hf

/-- A fetch that gives a line issues from it. -/
theorem step_line {l : Nat} (hr : r = .line l) : step s = runLine s.env (s.withMach m) cu l := by
  simp only [step, hcur, runCur, hf, hr]

/-- A fetch that gives none is a stop. -/
theorem step_noLine (hr : ∀ l, r ≠ .line l) : step s = .next (s.withMach (fetchStop s.env m cu r)) := by
  simp only [step, hcur, runCur, hf]

end

/-! What a set issues from a line: the second of a pair, or what is read at its PC. -/

section
variable {e : Env} {s : State} {cu : Cur} {l : Nat}

theorem runLine_second {i : Instr} (h2 : cu.second = true) (hd : decode (slotsFrom l (cu.pc % 8)) = .ok i) : runLine e s cu l = exec i s := by
  simp only [runLine, h2, instrAt_of_decode hd, ↓reduceIte]

variable (h2 : cu.second = false)
include h2

theorem runLine_one {i : Instr} {n : Nat} (hd : decodeAt l cu.pc cu.solo = .one i n) :
    runLine e s cu l = exec i (s.withMach { s.m with cur := some (curOne cu n false) }) := by
  simp only [runLine, h2, hd, Bool.false_eq_true, ↓reduceIte]

theorem runLine_two {a b : Instr} {n : Nat} (hd : decodeAt l cu.pc cu.solo = .two a b n) :
    runLine e s cu l = if pairRefused cu a b then .next (s.withMach (fetchStop e s.m cu (.line l)))
      else exec a (s.withMach { s.m with cur := some (curOne cu n true) }) := by
  simp only [runLine, h2, hd, Bool.false_eq_true, ↓reduceIte]

theorem runLine_bad (hd : decodeAt l cu.pc cu.solo = .bad) : runLine e s cu l = .next (s.withMach (fetchStop e s.m cu (.line l))) := by
  simp only [runLine, h2, hd, Bool.false_eq_true, ↓reduceIte]

end

/-- Settles O46: the line that is fetched is read at the PC, and what is read there issues. -/
theorem stepRunsTheDecodedInstruction : Obligations.StepRunsTheDecodedInstruction := by
  unfold Obligations.StepRunsTheDecodedInstruction
  intro s cu m r hcur hf
  refine ⟨fun l hr h2 hw hs hz hc => ⟨fun hp i hi => ?one, fun hp h4 h1 a ha => ⟨fun hso => ?solo, fun hso b hb => ?two⟩⟩,
    fun l hr h2 b hb => ?second, fun l hr h2 h => ?bad, step_noLine hcur hf⟩
  case one => rw [step_line hcur hf hr, runLine_one h2 (decodeAt_one hw hs hz hc hp hi)]; rfl
  case solo =>
    have hd : decodeAt l cu.pc cu.solo = .one a (pcAfter cu.pc 2) := hso ▸ decodeAt_solo hw hs hz hc hp h4 h1 ha
    rw [step_line hcur hf hr, runLine_one h2 hd]
    rfl
  case two =>
    have hd : decodeAt l cu.pc cu.solo = .two a b (pcAfter cu.pc 2) := hso ▸ decodeAt_two hw hs hz hc hp h4 h1 ha hb
    rw [step_line hcur hf hr, runLine_two h2 hd]
    exact ⟨fun hn => if_neg (Bool.eq_false_iff.mp hn), fun hy => if_pos hy⟩
  case second => rw [step_line hcur hf hr, runLine_second h2 hb]
  case bad => rw [step_line hcur hf hr, runLine_bad h2 (decodeAt_bad h)]; rfl

end Sys2Proof.Machine
end

section
/-! PROOF. The checks at issue (06 R169, R180, 16 R365, R374). -/
namespace Sys2Proof.Machine
open Sys2Proof

/-- Every instruction of a program acts by one body, for the set or for each member, under the checks of its issue. -/
theorem exec_eq_runI {i : Instr} {h : Hdr} (hh : hdrOfInstr i = some h) : ∃ once body, ∀ s, exec i s = runI i h once body s := by
  cases i <;> cases hh <;> exact ⟨_, _, fun _ => rfl⟩

theorem runI_selected {i : Instr} {h : Hdr} {once : Bool} {body : Env → Ctx → Mach → BRes} {s : State} {cu : Cur} (hc : s.m.cur = some cu) :
    runI i h once body s = .next (s.withMach (issue i h once body s.env cu s.m)) := by
  rw [runI, hc]

section
variable {i : Instr} {h : Hdr} {once : Bool} {body : Env → Ctx → Mach → BRes} {s : State} {cu : Cur}

/-- An illegal encoding, or a scalar destination in handler mode outside the system instructions, fails for every member. -/
theorem issue_refused {e : Env} {m : Mach} (hr : legal i = false ∨ cu.hm = true ∧ writesScalar i = true ∧ privileged i = false) :
    issue i h once body e cu m = failAll e m cu cILLOP 0 := by
  refine if_pos ?_
  rcases hr with hl | ⟨hm, hw, hp⟩
  · rw [hl]; rfl
  · rw [hm, hw, hp, Bool.or_eq_true]; exact .inr rfl

/-- Rows 1 to 4 of 06 R180 let the instruction through. -/
theorem issue_admitted (hl : legal i = true) (hs : ¬ (cu.hm = true ∧ writesScalar i = true ∧ privileged i = false)) :
    (!legal i || (cu.hm && writesScalar i && !privileged i)) = false := by
  simpa only [hl, Bool.not_true, Bool.false_or, Bool.and_eq_true, Bool.not_eq_true', Bool.eq_false_iff, ne_eq, and_assoc] using hs

/-- A register at or above the budget of the one thread stops it. -/
theorem issue_overBudget {l : Nat} (hl : legal i = true) (hs : ¬ (cu.hm = true ∧ writesScalar i = true ∧ privileged i = false)) (ht : cu.trapped = [])
    (h1 : cu.lanes = [l]) (hg : guardOf (thrOf s.m cu.g l) h = true) (hb : budgetOk s.m (ctxOf s.m cu h) i l = false) :
    s.withMach (issue i h once body s.env cu s.m) =
      afterStop s cu h l (raise s.env (issueMach s cu h) cu.g l cBUDGET 0 0 cu.pc cu.pc 0 (soloCtx s cu h l).pair) := by
  have hact : [l].filter (fun k => guardOf (thrOf s.m cu.g k) h) = [l] := by simp [hg]
  have hgood : [l].filter (fun k => if [l].contains k then budgetOk s.m (ctxOf s.m cu h) i k else guardTraps i && taintTrap s.m cu.g k h) = [] := by simp [hb]
  have hbad : [l].filter (fun k => !budgetOk s.m (ctxOf s.m cu h) i k && !cu.trapped.contains k) = [l] := by simp [hb, ht]
  have hclear : [l].filter (fun k => !budgetOk s.m (ctxOf s.m cu h) i k && cu.trapped.contains k) = [] := by simp [ht]
  simp only [issue, issue_admitted hl hs, h1, hact, hgood, hbad, hclear, Bool.false_eq_true, ↓reduceIte, List.isEmpty_nil, List.foldl_cons, List.foldl_nil, List.append_nil,
    failMember, afterStop]
  rfl

/-- A system instruction outside handler mode stops the one thread. -/
theorem issue_unprivileged {l : Nat} (hl : legal i = true) (ht : cu.trapped = []) (h1 : cu.lanes = [l]) (hg : guardOf (thrOf s.m cu.g l) h = true)
    (hb : budgetOk s.m (ctxOf s.m cu h) i l = true) (hp : privileged i = true) (hm : cu.hm = false) :
    s.withMach (issue i h once body s.env cu s.m) =
      afterStop s cu h l (raise s.env (issueMach s cu h) cu.g l cPROT 0 0 cu.pc cu.pc 0 (soloCtx s cu h l).pair) := by
  have hact : [l].filter (fun k => guardOf (thrOf s.m cu.g k) h) = [l] := by simp [hg]
  have hgood : [l].filter (fun k => if [l].contains k then budgetOk s.m (ctxOf s.m cu h) i k else guardTraps i && taintTrap s.m cu.g k h) = [l] := by simp [hb]
  have hbad (p : Nat → Bool) : [l].filter (fun k => !budgetOk s.m (ctxOf s.m cu h) i k && p k) = [] := by simp [hb]
  have hnc : cu.trapped.contains l = false := by simp [ht]
  simp only [issue, h1, hact, hgood, hbad, hl, hp, hm, hnc, Bool.not_true, Bool.false_and, Bool.or_self, Bool.false_eq_true, ↓reduceIte,
    Bool.not_false, Bool.and_self, List.isEmpty_cons, List.foldl_cons, List.foldl_nil, List.nil_append, runOnce, trapOf, failMember, afterStop]
  rfl

/-- With every guard false, and no tainted guard that traps, nobody acts. -/
theorem issue_nobody (hl : legal i = true) (hs : ¬ (cu.hm = true ∧ writesScalar i = true ∧ privileged i = false))
    (hg : ∀ l ∈ cu.lanes, guardOf (thrOf s.m cu.g l) h = false) (hn : guardTraps i = true → ∀ l ∈ cu.lanes, taintTrap s.m cu.g l h = false) :
    s.withMach (issue i h once body s.env cu s.m) = afterIssue s cu h (issueMach s cu h) := by
  have hact : cu.lanes.filter (fun l => guardOf (thrOf s.m cu.g l) h) = [] := filter_none _ _ hg
  have hgood : cu.lanes.filter (fun l => guardTraps i && taintTrap s.m cu.g l h) = [] :=
    filter_none _ _ fun l hl => Bool.and_eq_false_imp.mpr fun ht => hn ht l hl
  simp only [issue, issue_admitted hl hs, hact, hgood, List.contains_nil, List.filter_nil, List.isEmpty_nil, Bool.false_eq_true, ↓reduceIte, List.foldl_nil, List.append_nil]
  rfl

end

/-- Settles O47: an instruction of a program answers what its issue leaves, and the issue is taken apart by the check that decides it. -/
theorem checksAtIssue : Obligations.ChecksAtIssue := by
  unfold Obligations.ChecksAtIssue
  intro i h s cu hh hc
  obtain ⟨once, body, he⟩ := exec_eq_runI hh
  have hx : exec i s = .next (s.withMach (issue i h once body s.env cu s.m)) := (he s).trans (runI_selected hc)
  rw [hx]
  refine ⟨⟨_, rfl⟩, fun hl => ?illegal, fun hm hw hp => ?scalar, fun hl hs ht => ⟨fun l h1 hg => ⟨fun hp hm hb => ?unprivileged, fun hb => ?overBudget⟩, fun hg hn => ?nobody⟩⟩
  case illegal => rw [issue_refused (.inl hl)]
  case scalar => rw [issue_refused (.inr ⟨hm, hw, hp⟩)]
  case unprivileged => rw [issue_unprivileged hl ht h1 hg hb hp hm]
  case overBudget => rw [issue_overBudget hl hs ht h1 hg hb]
  case nobody => rw [issue_nobody hl hs hg hn]

end Sys2Proof.Machine
end

section
/-! SUPPORT. Completion of an instruction by its legal forms, and the landing of predicates (06 R171, R180, 05 R147). -/
namespace Sys2Proof.Machine
open Sys2Proof

/-- An instruction whose body, in its legal forms, is its effect wherever the condition holds. -/
theorem completes_of_legal {i : Instr} {h : Hdr} {x : Effect} {body : Env → Ctx → Mach → BRes} (he : ∀ s, exec i s = runI i h x.once body s)
    (hb : legal i = true → ∀ e c m, x.cond e c m → body e c m = { m := x.eff e c m, out := .done }) : Completes i h x :=
  fun s cu A N => completes_of he (hb A.ok) s cu A N

theorem landP_eq (m : Mach) (c : Ctx) (tm : Nat) (dst : Opnd) (q : Bool × Bool) : landP m c tm dst q = ok (land m tm (wrP c dst q) c.tok) := by
  cases dst <;> rfl

/-- One predicate for each of some lanes; a destination of another class takes none. -/
theorem flatMap_wrP (c : Ctx) (dst : Opnd) (q : Bool × Bool) (ls : List Nat) :
    ls.flatMap (fun l => wrP (c.at l) dst q) =
      match dst with
      | .p n => ls.map (fun l => RegWr.p c.g l n.toNat q.1 q.2)
      | _ => [] := by
  cases dst
  case p n => exact List.map_eq_flatMap.symm
  all_goals exact List.flatMap_eq_nil_iff.mpr fun _ _ => rfl

end Sys2Proof.Machine
end

section
/-! PROOF. Integer arithmetic, bits, division, comparison, selection and carry (07 R189 to R193). -/
namespace Sys2Proof.Machine
open Sys2Proof

/-- An instruction of the exact result over the integers, by a function that may be written in another way (07 R189). -/
theorem completes_exact {i : Instr} {h : Hdr} {o : FA} {n l32 l64 : Nat} {f g : Int → Int → Int → Int}
    (he : ∀ s, exec i s = runI i h (isS o.dst) (exactBody h o n l32 l64 f) s) (hf : ∀ a b d, f a b d = g a b d) :
    Completes i h (intEff h o n (l32, l64) g) := by
  obtain rfl : f = g := by funext a b d; exact hf a b d
  exact completes_of he fun _ _ _ _ => rfl

theorem ite_neg_eq_natAbs (a : Int) : (if a < 0 then -a else a) = a.natAbs := by
  split <;> omega

/-- Settles O1: each body is the effect of its exact function; those of `abs`, `min` and `max` are case splits on an order. -/
theorem integerArithmeticCompletes : Obligations.IntegerArithmeticCompletes := by
  unfold Obligations.IntegerArithmeticCompletes
  refine fun h o => ⟨?add, ?sub, ?mul, ?mulh, ?mad, ?neg, ?abs, ?min, ?max, ?lea⟩
  case add | sub | mul | mulh | mad | neg | lea => exact completes_exact (fun _ => rfl) fun _ _ _ => rfl
  case abs => exact completes_exact (fun _ => rfl) fun a _ _ => ite_neg_eq_natAbs a
  case min => exact completes_exact (fun _ => rfl) fun a b _ => (Int.min_def a b).symm
  case max => exact completes_exact (fun _ => rfl) fun a b _ => (Int.max_def a b).symm

/-- Settles O2: every one of these bodies reads its operands and lands the bits of its function, and so is its effect. -/
theorem integerBitsComplete : Obligations.IntegerBitsComplete := by
  unfold Obligations.IntegerBitsComplete
  refine fun h o => ⟨?and, ?or, ?xor, ?not, ?shl, ?shr, ?sra, ?rot, ?clz, ?popc, ?brev, ?bfx, ?bfi⟩
  all_goals exact completes_of (fun _ => rfl) fun _ _ _ _ => rfl

section
variable {h : Hdr} {o : FA} {f : Int → Int → Int} {e : Env} {c : Ctx} {m : Mach}

theorem divBody_divides (hd : (divEff h o f).cond e c m) : divBody h o f e c m = ok ((divEff h o f).eff e c m) := if_neg hd

theorem divBody_zero (hz : intVal (intTy h) (ops3 e c (intTy h) o 2 m).2.2.1 = 0) :
    divBody h o f e c m = trapOf (ops3 e c (intTy h) o 2 m).1 cDIVZ := if_pos hz

end

/-- Settles O3: the body looks at the divisor first. -/
theorem divisionCompletesOrTraps : Obligations.DivisionCompletesOrTraps := by
  unfold Obligations.DivisionCompletesOrTraps
  refine fun h o => ⟨?div, ?rem, ?divStops, ?remStops⟩
  case div | rem => exact completes_of (fun _ => rfl) fun _ _ _ hd => divBody_divides hd
  case divStops | remStops => exact stopsAt_of (fun _ => rfl) fun _ _ _ hz => divBody_zero hz

/-- Settles O4: a comparison lands a predicate, a selection and a sum land a register; the carry-out lands before the sum. -/
theorem compareSelectCarryComplete : Obligations.CompareSelectCarryComplete := by
  unfold Obligations.CompareSelectCarryComplete
  refine fun h o => ⟨?cmp, ?sel, ?addc⟩
  case cmp => exact completes_of (body := cmpBody h o) (fun _ => rfl) fun _ _ _ _ => landP_eq ..
  case sel => exact completes_of (body := selBody h o) (fun _ => rfl) fun _ _ _ _ => rfl
  case addc => exact completes_of (body := addcBody h o) (fun _ => rfl) fun _ _ _ _ => rfl

end Sys2Proof.Machine
end

section
/-! PROOF. Moves and conversion (07 R194 to R196). -/
namespace Sys2Proof.Machine
open Sys2Proof

/-! Words of an immediate (07 R185, R194). -/

theorem signExt_eq_toInt {w : Nat} (hw : 0 < w) (n : Nat) : signExt n w = (BitVec.ofNat w n).toInt := by
  obtain ⟨k, rfl⟩ := Nat.exists_eq_add_one.mpr hw
  have hp : 2 ^ (k + 1) = 2 * 2 ^ k := Nat.pow_succ'
  simp only [signExt, BitVec.toInt, BitVec.toNat_ofNat, Nat.add_one_sub_one, if_neg (Nat.succ_ne_zero k)]
  split <;> split <;> omega

theorem lowBits_toInt {w : Nat} (x : BitVec w) (k : Nat) : lowBits k x.toInt = (x.signExtend k).toNat := by
  simp only [lowBits, BitVec.signExtend, BitVec.toNat_ofInt]

theorem ofInt_signExt_low {w : Nat} (hw : 0 < w) (x : BitVec 32) : BitVec.ofInt 32 (signExt (x.toNat % 2 ^ w) w) = (x.setWidth w).signExtend 32 := by
  rw [signExt_eq_toInt hw, ← BitVec.toNat_setWidth, BitVec.ofNat_toNat, BitVec.setWidth_eq]
  rfl

theorem ofNat_low (w : Nat) (x : BitVec 32) : BitVec.ofNat 32 (x.toNat % 2 ^ w % 2 ^ w) = (x.setWidth w).setWidth 32 := by
  rw [Nat.mod_mod, ← BitVec.toNat_setWidth, BitVec.ofNat_toNat]

theorem ofNat_toNat_mod (x : BitVec 32) : BitVec.ofNat 32 (x.toNat % 2 ^ 32) = x := by
  rw [Nat.mod_eq_of_lt x.isLt, BitVec.ofNat_toNat, BitVec.setWidth_eq]

/-- The pair of a 64-bit value, low word first. -/
theorem regWords_n64_toNat (x : BitVec 64) : regWords .n64 x.toNat = [x.setWidth 32, (x >>> 32).setWidth 32] := by
  show [BitVec.ofNat 32 x.toNat, BitVec.ofNat 32 (x.toNat / 2 ^ 32)] = _
  rw [BitVec.ofNat_toNat, ← Nat.shiftRight_eq_div_pow, ← BitVec.toNat_ushiftRight, BitVec.ofNat_toNat]

theorem regWords_s64_signExt (x : BitVec 32) : regWords .s64 (lowBits 64 (signExt x.toNat 32)) = [x, if x.msb then 0xFFFFFFFF else 0] := by
  have hlow : (x.signExtend 64).setWidth 32 = x := by
    apply BitVec.eq_of_toNat_eq
    simp only [BitVec.toNat_setWidth, BitVec.toNat_signExtend]
    split <;> omega
  have hhigh : (x.signExtend 64 >>> 32).setWidth 32 = if x.msb then 0xFFFFFFFF#32 else 0#32 := by
    apply BitVec.eq_of_toNat_eq
    simp only [BitVec.toNat_setWidth, BitVec.toNat_ushiftRight, BitVec.toNat_signExtend, Nat.shiftRight_eq_div_pow]
    split <;> simp only [BitVec.toNat_ofNat] <;> omega
  rw [signExt_eq_toInt (by decide), BitVec.ofNat_toNat, BitVec.setWidth_eq, lowBits_toInt]
  show regWords .n64 (x.signExtend 64).toNat = _
  rw [regWords_n64_toNat, hlow, hhigh]
  rfl

theorem regWords_n64_mod (x : BitVec 32) : regWords .n64 (x.toNat % 2 ^ 64) = [x, 0] := by
  have hlow : (x.setWidth 64).setWidth 32 = x := (BitVec.setWidth_setWidth_of_le x (by decide)).trans (BitVec.setWidth_eq x)
  have hhigh : (x.setWidth 64 >>> 32).setWidth 32 = 0#32 := by
    have := x.isLt
    apply BitVec.eq_of_toNat_eq
    simp only [BitVec.toNat_setWidth, BitVec.toNat_ushiftRight, Nat.shiftRight_eq_div_pow, BitVec.toNat_ofNat]
    omega
  rw [← BitVec.toNat_setWidth, regWords_n64_toNat, hlow, hhigh]
  rfl

/-- The type code of an integer instruction names no float type (06 R178). -/
theorem tyFloat_intTy (h : Hdr) : tyFloat (intTy h) = false := by
  have hcode : ∀ n < 8, tyFloat ((tyOfCode n).getD .s32) = false := by decide
  unfold intTy intTyOf
  split
  · exact hcode _ ‹_›
  · rfl

/-- `movi` writes the words of its immediate, type by type. -/
theorem regWords_moviBits (h : Hdr) (x : BitVec 32) : regWords (intTy h) (moviBits h x) = immWords (intTy h) x := by
  have hf := tyFloat_intTy h
  unfold moviBits
  generalize intTy h = ty at *
  cases ty
  case s8 | s16 => exact congrArg (fun w => [w]) (ofInt_signExt_low (by decide) x)
  case n8 | n16 => exact congrArg (fun w => [w]) (ofNat_low _ x)
  case s32 | n32 => exact congrArg (fun w => [w]) (ofNat_toNat_mod x)
  case s64 => exact regWords_s64_signExt x
  case n64 => exact regWords_n64_mod x
  all_goals exact absurd hf (by decide)

theorem putWords_regWords {c : Ctx} {dst : Opnd} (hd : isP dst = false) (ty : NTy) (n : Nat) : putWords c dst (regWords ty n) = wrReg c ty dst n := by
  cases dst
  case p => cases hd
  all_goals rfl

/-! Legal forms of the immediate moves (07 R194). -/

theorem isP_of_regVS {wide : Bool} {d : Opnd} (hr : regVS wide d = true) : isP d = false := by
  cases d
  case p => cases hr
  all_goals rfl

theorem fields_of_legal_movi {h : Hdr} {o : FI} (hl : legal (.movi h o) = true) : isP o.dst = false ∧ o.sa = .v 0 ∧ o.sb = .v 0 := by
  have hk : moviOk h o = true := hl
  unfold moviOk at hk
  split at hk
  · cases hk
  · simp only [Bool.and_eq_true, noOpnd, beq_iff_eq] at hk
    obtain ⟨⟨⟨⟨⟨⟨_, _⟩, _⟩, hd⟩, ha⟩, hb⟩, _⟩ := hk
    exact ⟨isP_of_regVS hd, ha, hb⟩

theorem isP_of_legal_movw {h : Hdr} {o : FW} (hl : legal (.movw h o) = true) : isP o.dst = false := by
  have hk : movwOk h o = true := hl
  simp only [movwOk, Bool.and_eq_true] at hk
  obtain ⟨⟨⟨_, _⟩, hd⟩, _⟩ := hk
  exact isP_of_regVS hd

/-- Of FN, `movw` looks at the two types that it takes. -/
theorem legal_movw_iff (h : Hdr) (o : FW) : legal (.movw h o) = true ↔ (h.fn = 6 ∨ h.fn = 7) ∧ legal (.movw { h with fn := 6 } o) = true := by
  show movwOk h o = true ↔ _ ∧ movwOk { h with fn := 6 } o = true
  simp only [movwOk, hdrOk, uniOk, Bool.and_eq_true, Bool.or_eq_true, beq_iff_eq, and_assoc, true_or, true_and]

/-- Settles O58: a legal destination is a register, which takes the words of the immediate. -/
theorem immediateMoves : Obligations.ImmediateMoves := by
  unfold Obligations.ImmediateMoves
  refine fun h => ⟨fun o => ?movi, fun o => ?movw, fun o hl => ?unused, fun o => legal_movw_iff h o, ?word, ?value⟩
  case movi =>
    refine completes_of_legal (body := moviBody h o) (fun _ => rfl) fun hl e c m _ => ?_
    obtain ⟨hd, _, _⟩ := fields_of_legal_movi hl
    simp only [Effect.free, ← regWords_moviBits, putWords_regWords hd]
    rfl
  case movw =>
    refine completes_of_legal (body := movwBody o) (fun _ => rfl) fun hl e c m _ => ?_
    simp only [Effect.free, ← regWords_n64_toNat, putWords_regWords (isP_of_legal_movw hl)]
    rfl
  case unused => exact (fields_of_legal_movi hl).2
  case word => rfl
  case value => decide

/-! `mov` and `cvt` (07 R195, R196). -/

section
variable {h : Hdr} {o : FA} {e : Env} {c : Ctx} {m : Mach}

/-- The rows of the table are told apart by the classes of destination and source. -/
theorem movBody_eq : movBody h o e c m = ok ((movEff h o).eff e c m) := by
  obtain ⟨dst, sa, sb, sc, lt, md, imm⟩ := o
  cases dst
  case p n => cases sa <;> rfl
  all_goals rfl

/-- The source type of `cvt`, and its operand with the machine in which it has been read. -/
abbrev cvtSrcTy (o : FA) : NTy := (tyOfCode o.md.toNat).getD .s32
abbrev cvtSrc (o : FA) (e : Env) (c : Ctx) (m : Mach) : Mach × Nat := readOp e m c (cvtSrcTy o) o.sa

theorem cvtBody_converts (hc : (cvtEff h o).cond e c m) : cvtBody h o e c m = ok ((cvtEff h o).eff e c m) := by
  by_cases hf : tyFloat (cvtSrcTy o) = true
  · by_cases hi : isPoison (cvtSrcTy o) (cvtSrc o e c m).2 = true
    · have hv : ¬ pcvOn m c.g = true := fun hv => hc ⟨hf, hi, hv⟩
      simp only [cvtBody, cvtEff, hf, hi, hv, ↓reduceIte, Bool.false_eq_true]
      rfl
    · simp only [cvtBody, cvtEff, hf, hi, ↓reduceIte, Bool.false_eq_true]
      rfl
  · simp only [cvtBody, cvtEff, hf, ↓reduceIte, Bool.false_eq_true]
    split <;> rfl

theorem cvtBody_traps (hp : tyFloat (cvtSrcTy o) = true ∧ isPoison (cvtSrcTy o) (cvtSrc o e c m).2 = true ∧ pcvOn m c.g = true) :
    cvtBody h o e c m = trapOf (cvtSrc o e c m).1 cPCONV := by
  obtain ⟨hf, hi, hv⟩ := hp
  exact (if_pos hf).trans ((if_pos hi).trans (if_pos hv))

end

/-- Settles O5: the body is its effect in every row of the table. -/
theorem moveCompletes : Obligations.MoveCompletes := by
  unfold Obligations.MoveCompletes
  exact fun h o => completes_of (body := movBody h o) (fun _ => rfl) fun _ _ _ _ => movBody_eq

/-- Settles O6: row by row, and the trap where all three of its conditions hold. -/
theorem conversionCompletesOrTraps : Obligations.ConversionCompletesOrTraps := by
  unfold Obligations.ConversionCompletesOrTraps
  refine fun h o => ⟨?converts, ?traps⟩
  case converts => exact completes_of (body := cvtBody h o) (fun _ => rfl) fun _ _ _ hc => cvtBody_converts hc
  case traps => exact stopsAt_of (body := cvtBody h o) (fun _ => rfl) fun _ _ _ hp => cvtBody_traps hp

end Sys2Proof.Machine
end

section
/-! PROOF. Floating point and poison (07 R197 to R202, R208 to R211). -/
namespace Sys2Proof.Machine
open Sys2Proof

/-- Settles O7: every one of these bodies reads its operands, settles poison, INVALID or the rounded value, and lands it, and so is its effect. -/
theorem floatArithmeticCompletes : Obligations.FloatArithmeticCompletes := by
  unfold Obligations.FloatArithmeticCompletes
  refine fun h o => ⟨?fadd, ?fsub, ?fmul, ?fma, ?frcp, ?frsq, ?fdiv, ?fsqrt, ?fex2, ?flg2, ?fsin, ?fcos, ?fscl, ?frnd, ?fcvt, ?fdot2⟩
  all_goals exact completes_of (fun _ => rfl) fun _ _ _ _ => rfl

/-- A comparison lands one predicate, whether or not an operand is poison. -/
theorem fcmpBody_eq {h : Hdr} {o : FA} {e : Env} {c : Ctx} {m : Mach} :
    fcmpBody h o e c m =
      let r := ops3 e c (fltTy h) o 2 m
      ok (land r.1 (e.now + 2) (wrP c o.dst
        (if isPoison (fltTy h) r.2.1 || isPoison (fltTy h) r.2.2.1 then (false, true)
         else combineP r.1 c (o.md.toNat / 8) o.sc (condOrd (o.md.toNat % 8) (xCmp (decodeF (fltTy h) r.2.1).exact (decodeF (fltTy h) r.2.2.1).exact)))) c.tok) :=
  (apply_ite (landP _ c (e.now + 2) o.dst) _ _ _).symm.trans (landP_eq ..)

/-- Settles O8: all but the comparison land a register. -/
theorem floatSelectionCompletes : Obligations.FloatSelectionCompletes := by
  unfold Obligations.FloatSelectionCompletes
  refine fun h o => ⟨?fmin, ?fmax, ?fclp, ?fabs, ?fneg, ?fcls, ?fcmp⟩
  case fcmp => exact completes_of (body := fcmpBody h o) (fun _ => rfl) fun _ _ _ _ => fcmpBody_eq
  all_goals exact completes_of (fun _ => rfl) fun _ _ _ _ => rfl

/-- Settles O9: a team without a log reads zeros at once; with one, an entry whose address passes its checks is asked for. -/
theorem poisonMarkAndLogComplete : Obligations.PoisonMarkAndLogComplete := by
  unfold Obligations.PoisonMarkAndLogComplete
  refine fun h o => ⟨?pmrk, ?plog⟩
  case pmrk => exact completes_of (body := pmrkBody h o) (fun _ => rfl) fun _ _ _ _ => rfl
  case plog =>
    refine completes_of (body := plogBody h o) (fun _ => rfl) fun e c m hc => ?_
    by_cases hb : (teamOf m c.team).polb = 0
    · simp only [plogBody, hb, ↓reduceIte, ok]
    · obtain ⟨sa, hsa⟩ := AddrRes.ok_of_passes (hc hb)
      simp only [plogBody, hb, ↓reduceIte, hsa, ok]
      rfl

/-- Refutes O59: its clause on patterns that are not poison speaks of every type. No pattern of an integer type is poison (06 R183), and yet `decodeF` at `s32`, a type without exponent or fraction bits, makes a NaN of the pattern 1, so that its provenance word has bit 31. -/
theorem not_poisonTestAndFix : ¬ Obligations.PoisonTestAndFix := by
  unfold Obligations.PoisonTestAndFix
  intro hall
  obtain ⟨_, _, _, hclean, _⟩ := hall (plainHdr 0) { dst := .v 0, sa := .v 0, sb := .v 0, sc := .v 0, lt := 0, md := 0, imm := 0 }
  have hsound : isPoison .s32 1 = false := by decide
  have hword : poisonWord .s32 1 = 2 ^ 31 + 1 := by decide
  exact absurd (hword.symm.trans (hclean .s32 1 hsound)) (by decide)

end Sys2Proof.Machine
end

section
/-! PROOF. Narrow instructions (07 R203 to R207). -/
namespace Sys2Proof.Machine
open Sys2Proof

section
variable {h : Hdr} {o : FA} {e : Env} {c : Ctx} {m : Mach}

theorem narrowFmt_of_usable (hu : usable h o c m) : narrowFmt m c h o = some (fmtHere h o c m) := by
  obtain ⟨f, hf⟩ := Option.isSome_iff_exists.mp hu
  simp only [fmtHere, hf, Option.getD_some]

/-- Under a format register that is not usable nothing is read (07 R203). -/
theorem narrowBodies_unusable (hn : narrowFmt m c h o = none) :
    nsclBody h o e c m = trapOf m cFMT ∧ npckBody h o e c m = trapOf m cFMT ∧ nunpBody h o e c m = trapOf m cFMT ∧ ndotBody h o e c m = trapOf m cFMT := by
  simp only [nsclBody, npckBody, nunpBody, ndotBody, hn, and_self]

/-! `nscl` and `npck` (07 R204, R205). -/

theorem nsclBody_scales (hu : usable h o c m) :
    nsclBody h o e c m =
      let a := regV m c.g c.lane (vNo o.sa)
      let k := o.imm.toNat % 4
      ok (resA e c h o .n32 4 (putBits (regV m c.g c.lane (vNo o.dst)) (8 * k + 7) (8 * k)
        (if isPoison .f32 a then 0xFF else nScaleByte (fmtHere h o c m) (decodeF .f32 (magBits .f32 a)).exact)) m) := by
  simp only [nsclBody, narrowFmt_of_usable hu]
  rfl

/-- A container that is written whole is not looked at. -/
theorem packOld_fst : (packOld h o c m).1 = if o.imm.toNat / 256 % 64 = nPer (narrowW o) then 0 else quadOf m c o.dst :=
  apply_ite Prod.fst _ _ _

theorem packOld_snd : (packOld h o c m).2 = if o.imm.toNat / 256 % 64 = nPer (narrowW o) then .good else
    contCheck (packOld h o c m).1 (byteOf (regV m c.g c.lane (vNo o.sb)) (o.imm.toNat % 4)) (h.fn.toNat % 8) := by
  simp only [packOld]
  split <;> rfl

theorem npckBody_poisoned (hu : usable h o c m) (hs : byteOf (regV m c.g c.lane (vNo o.sb)) (o.imm.toNat % 4) = 0xFF) :
    npckBody h o e c m = ok (land m (e.now + 4) [] c.tok) := by
  simp only [npckBody, narrowFmt_of_usable hu]
  exact if_pos hs

/-- The container is sealed, or poisoned by the provenance that its elements leave. -/
theorem npckBody_packs (hu : usable h o c m) (hs : byteOf (regV m c.g c.lane (vNo o.sb)) (o.imm.toNat % 4) ≠ 0xFF) (hk : (packOld h o c m).2 ≠ .mismatch) :
    npckBody h o e c m = ok (packEff h o e c m) := by
  simp only [npckBody, narrowFmt_of_usable hu, if_neg hs, ← packOld_fst (h := h), ← packOld_snd, if_neg hk, packEff]
  cases (packBound e c _).prov <;> rfl

theorem npckBody_mismatch (hs : byteOf (regV m c.g c.lane (vNo o.sb)) (o.imm.toNat % 4) ≠ 0xFF) (hk : (packOld h o c m).2 = .mismatch) :
    npckBody h o e c m = trapOf m cFMT := by
  cases hf : narrowFmt m c h o with
  | none => simp only [npckBody, hf]
  | some f => simp only [npckBody, hf, if_neg hs, ← packOld_fst (h := h), ← packOld_snd, if_pos hk]

/-! `nunp` and `ndot` (07 R206, R207). -/

theorem nunpBody_unpacks (hu : usable h o c m)
    (hk : contCheck (quadOf m c o.sa) (byteOf (regV m c.g c.lane (vNo o.sb)) (o.imm.toNat % 4)) (h.fn.toNat % 8) ≠ .mismatch) :
    nunpBody h o e c m = ok (unpackEff h o e c m) := by
  simp only [nunpBody, narrowFmt_of_usable hu, unpackEff]
  cases hq : contCheck (quadOf m c o.sa) (byteOf (regV m c.g c.lane (vNo o.sb)) (o.imm.toNat % 4)) (h.fn.toNat % 8)
  case mismatch => exact absurd hq hk
  all_goals rfl

theorem nunpBody_mismatch
    (hk : contCheck (quadOf m c o.sa) (byteOf (regV m c.g c.lane (vNo o.sb)) (o.imm.toNat % 4)) (h.fn.toNat % 8) = .mismatch) :
    nunpBody h o e c m = trapOf m cFMT := by
  cases hf : narrowFmt m c h o with
  | none => simp only [nunpBody, hf]
  | some f => simp only [nunpBody, hf, hk]

theorem ndotBody_adds (hu : usable h o c m) (ha : (dotChecks h o c m).1 ≠ .mismatch) (hb : (dotChecks h o c m).2 ≠ .mismatch) :
    ndotBody h o e c m = ok (dotEff h o e c m) := by
  simp only [ndotBody, narrowFmt_of_usable hu]
  exact if_neg (not_or.mpr ⟨ha, hb⟩)

theorem ndotBody_mismatch (hk : (dotChecks h o c m).1 = .mismatch ∨ (dotChecks h o c m).2 = .mismatch) : ndotBody h o e c m = trapOf m cFMT := by
  cases hf : narrowFmt m c h o with
  | none => simp only [ndotBody, hf]
  | some f =>
    simp only [ndotBody, hf]
    exact if_pos hk

end

/-- Settles O10: the format register is looked at first, then the tags of the containers. -/
theorem narrowCompletesOrTraps : Obligations.NarrowCompletesOrTraps := by
  unfold Obligations.NarrowCompletesOrTraps
  refine fun h o => ⟨?nscl, ?npck, ?nunp, ?ndot, ?nsclStops, ?npckStops, ?nunpStops, ?ndotStops⟩
  case nscl => exact completes_of (body := nsclBody h o) (fun _ => rfl) fun _ _ _ hu => nsclBody_scales hu
  case npck =>
    refine completes_of (body := npckBody h o) (fun _ => rfl) fun e c m ⟨hu, hk⟩ => ?_
    by_cases hs : byteOf (regV m c.g c.lane (vNo o.sb)) (o.imm.toNat % 4) = 0xFF
    · simp only [hs, ↓reduceIte]
      exact npckBody_poisoned hu hs
    · simp only [hs, ↓reduceIte]
      exact npckBody_packs hu hs (hk.resolve_left hs)
  case nunp => exact completes_of (body := nunpBody h o) (fun _ => rfl) fun _ _ _ ⟨hu, hk⟩ => nunpBody_unpacks hu hk
  case ndot => exact completes_of (body := ndotBody h o) (fun _ => rfl) fun _ _ _ ⟨hu, ha, hb⟩ => ndotBody_adds hu ha hb
  case nsclStops =>
    refine stopsAt_of (body := nsclBody h o) (fun _ => rfl) fun e c m hn => ?_
    obtain ⟨ht, _⟩ := narrowBodies_unusable (e := e) hn
    exact ht
  case npckStops =>
    refine stopsAt_of (body := npckBody h o) (fun _ => rfl) fun e c m hp => ?_
    obtain hn | ⟨hs, hk⟩ := hp
    · obtain ⟨_, ht, _⟩ := narrowBodies_unusable (e := e) hn
      exact ht
    · exact npckBody_mismatch hs hk
  case nunpStops =>
    refine stopsAt_of (body := nunpBody h o) (fun _ => rfl) fun e c m hp => ?_
    obtain hn | hk := hp
    · obtain ⟨_, _, ht, _⟩ := narrowBodies_unusable (e := e) hn
      exact ht
    · exact nunpBody_mismatch hk
  case ndotStops =>
    refine stopsAt_of (body := ndotBody h o) (fun _ => rfl) fun e c m hp => ?_
    obtain hn | hk := hp
    · obtain ⟨_, _, _, ht⟩ := narrowBodies_unusable (e := e) hn
      exact ht
    · exact ndotBody_mismatch hk

end Sys2Proof.Machine
end

section
/-! PROOF. Cross-lane instructions (07 R212 to R216), control registers, identities and counters (R217 to R220). -/
namespace Sys2Proof.Machine
open Sys2Proof

section
variable {h : Hdr} {o : FA} {e : Env} {c : Ctx} {m : Mach}

/-! `vote` (07 R214). -/

/-- Mode 3 delivers the mask of the members whose predicate holds. -/
theorem voteBody_mask (hm : fnHi h = 3) :
    voteBody h o e c m =
      let on := c.lanes.filter (fun l => (predSrc m (c.at l) o.sa).1)
      ok (if isS o.dst then resA e c h o .n32 2 (laneMask on) m else resLanes e c h o .n32 2 (fun _ => laneMask on) [] m) := by
  simp only [voteBody, hm, ↓reduceIte, apply_ite ok]
  rfl

/-- The other modes deliver one predicate to every member. -/
theorem voteBody_pred (hm : fnHi h ≠ 3) :
    voteBody h o e c m =
      let p := fun l => predSrc m (c.at l) o.sa
      let q := if fnHi h = 0 then c.lanes.all (fun l => (p l).1) else if fnHi h = 1 then c.lanes.any (fun l => (p l).1)
        else c.lanes.all (fun l => (p l).1) || c.lanes.all (fun l => !(p l).1)
      ok (land m (e.now + 2) (c.lanes.flatMap (fun l => wrP (c.at l) o.dst (q, c.lanes.any (fun l => (p l).2)))) c.toks) := by
  simp only [voteBody, if_neg hm, List.all_map, List.any_map, flatMap_wrP]
  cases o.dst
  case p n => rcases fnHi h with _ | _ | k <;> rfl
  all_goals rfl

/-! `setc` and `clk` (07 R217, R218, R220). -/

theorem imm_toNat_eq_zero : o.imm.toNat = 0 ↔ o.imm = 0 := (BitVec.toNat_eq (y := 0#16)).symm

theorem imm_toNat_eq_one : o.imm.toNat = 1 ↔ o.imm = 1 := (BitVec.toNat_eq (y := 1#16)).symm

theorem setcBody_writes (hm : o.imm = 0 → (readOp e m c .n32 o.sa).2 % 8 < 5)
    (ht : 16 ≤ o.imm.toNat →
      tcBad (BitVec.ofNat 32 (readOp e m c .n32 o.sa).2) = false ∧ tileHeld (readOp e m c .n32 o.sa).1 c.team (o.imm.toNat - 16) = true) :
    setcBody o e c m =
      let r := readOp e m c .n32 o.sa
      let x : Word := BitVec.ofNat 32 r.2
      ok (land r.1 (e.now + 2) (if o.imm = 0 then [.creg c.g 0 (x &&& 0xEFF0FF07)] else if o.imm = 1 then [.creg c.g 1 (x &&& 7)]
        else if o.imm.toNat < 16 then [.creg c.g o.imm.toNat (x &&& 0x0003FF7F)] else [.tc c.core (o.imm.toNat - 16) (x &&& 0x000FFF3F)]) c.tok) := by
  simp only [setcBody, imm_toNat_eq_zero, imm_toNat_eq_one]
  by_cases hz : o.imm = 0
  · rw [if_pos hz, if_pos hz, if_neg (Nat.not_le.mpr (hm hz))]
  by_cases ho : o.imm = 1
  · rw [if_neg hz, if_neg hz, if_pos ho, if_pos ho]
  by_cases hf : o.imm.toNat < 16
  · rw [if_neg hz, if_neg hz, if_neg ho, if_neg ho, if_pos hf, if_pos hf]
  · obtain ⟨hb, hh⟩ := ht (Nat.not_lt.mp hf)
    simp only [hz, ho, hf, hb, hh, ↓reduceIte, Bool.false_eq_true, Bool.not_true]

theorem setcBody_reservedMode (hz : o.imm = 0) (hm : 5 ≤ (readOp e m c .n32 o.sa).2 % 8) :
    setcBody o e c m = trapOf (readOp e m c .n32 o.sa).1 cFMT := by
  simp only [setcBody, imm_toNat_eq_zero, if_pos hz, if_pos hm]

/-- A shape is checked for itself before its tile is (entry 18 of the assumption log). -/
theorem setcBody_shape (h16 : 16 ≤ o.imm.toNat) :
    setcBody o e c m =
      let r := readOp e m c .n32 o.sa
      if tcBad (BitVec.ofNat 32 r.2) then trapOf r.1 cFMT else if !tileHeld r.1 c.team (o.imm.toNat - 16) then trapOf r.1 cPROT
        else ok (land r.1 (e.now + 2) [.tc c.core (o.imm.toNat - 16) (BitVec.ofNat 32 r.2 &&& 0x000FFF3F)] c.tok) := by
  have h0 : ¬ o.imm.toNat = 0 := by omega
  have h1 : ¬ o.imm.toNat = 1 := by omega
  simp only [setcBody, if_neg h0, if_neg h1, if_neg (Nat.not_lt.mpr h16)]

theorem clkBody_eq :
    clkBody h o e c m =
      ok (if o.imm = 0 then resA e c h o .n64 2 (e.clk.now % 2 ^ 64) m else if o.imm = 1 then resA e c h o .n64 2 (e.clk.pcnt % 2 ^ 64) m
        else resA e c h o .n32 2 (grpOf m c.g).icnt.toNat m) := by
  simp only [clkBody, ← imm_toNat_eq_zero, ← imm_toNat_eq_one]
  rcases o.imm.toNat with _ | _ | k <;> rfl

end

/-- Settles O11: every body reads all contributing members and lands for all of them together, and so is its effect; the modes of `vote` are told apart. -/
theorem crossLaneCompletes : Obligations.CrossLaneCompletes := by
  unfold Obligations.CrossLaneCompletes
  refine fun h o => ⟨?shfl, ?vote, ?blot, ?redx, ?scan, ?sred, ?rdl, ?wrl, ?mtch⟩
  case vote =>
    refine completes_of (body := voteBody h o) (fun _ => rfl) fun e c m _ => ?_
    by_cases hm : fnHi h = 3
    · simp only [voteBody_mask hm, Effect.free, hm, ↓reduceIte, ok]
    · simp only [voteBody_pred hm, Effect.free, hm, ↓reduceIte, ok]
  all_goals exact completes_of (fun _ => rfl) fun _ _ _ _ => rfl

/-- Settles O12: the reads land at once; `setc` checks by the register that it names. -/
theorem controlRegistersComplete : Obligations.ControlRegistersComplete := by
  unfold Obligations.ControlRegistersComplete
  refine fun h o => ⟨?getc, ?getid, ?clk, ?setc, ?refused, ?unheld⟩
  case getc => exact completes_of (body := getcBody h o) (fun _ => rfl) fun _ _ _ _ => rfl
  case getid => exact completes_of (body := getidBody h o) (fun _ => rfl) fun _ _ _ _ => rfl
  case clk => exact completes_of (body := clkBody h o) (fun _ => rfl) fun _ _ _ _ => clkBody_eq
  case setc => exact completes_of (body := setcBody o) (fun _ => rfl) fun _ _ _ ⟨hm, ht⟩ => setcBody_writes hm ht
  case refused =>
    refine stopsAt_of (body := setcBody o) (fun _ => rfl) fun e c m hp => ?_
    obtain ⟨hz, hm⟩ | ⟨h16, hb⟩ := hp
    · exact setcBody_reservedMode hz hm
    · exact (setcBody_shape h16).trans (if_pos hb)
  case unheld =>
    refine stopsAt_of (body := setcBody o) (fun _ => rfl) fun e c m ⟨h16, hb, hh⟩ => ?_
    have ht : (!tileHeld (readOp e m c .n32 o.sa).1 c.team (o.imm.toNat - 16)) = true := by rw [hh]; rfl
    exact (setcBody_shape h16).trans ((if_neg (Bool.eq_false_iff.mp hb)).trans (if_pos ht))

end Sys2Proof.Machine
end

section
/-! PROOF. Transfers, calls and loops (08 R226 to R228, 06 R166, R167), convergence barriers and the ends of a thread and of a run (08 R229 to R232). -/
namespace Sys2Proof.Machine
open Sys2Proof

section
variable {h : Hdr} {o : FC} {e : Env} {c : Ctx} {m : Mach} {t hi : Nat} {k : Mach → BRes}

/-! The transfer of 08 R226, by the check that decides it. -/

theorem transfer_goes (hg : mayGo h t hi e c m) : transfer e c h t hi m k = k (seen e c t m) := by
  obtain ⟨ht, hz, hd⟩ := hg
  simp only [transfer, ht, hz, hd, seen, ne_eq, not_true_eq_false, Bool.false_eq_true, ↓reduceIte]

theorem transfer_tainted (ht : taintTrap m c.g c.lane h = true) : transfer e c h t hi m k = trapOf m cPBRANCH := if_pos ht

theorem transfer_wide (ht : taintTrap m c.g c.lane h = false) (hz : hi ≠ 0) : transfer e c h t hi m k = trapAt m cILLTGT (t % 2 ^ 56) := by
  rw [transfer, if_neg (Bool.eq_false_iff.mp ht), if_pos hz]

/-- The line offset of a direct target is a signed number of lines (06 R167). -/
theorem directTarget_eq_branchTo (c : Ctx) (o : FC) : directTarget c o = branchTo c o := by
  rw [directTarget, signExt_eq_toInt (by decide), BitVec.ofNat_toNat, BitVec.setWidth_eq]
  rfl

/-! Branches, calls and loops. -/

theorem braBody_goes (hg : mayGo h (branchTo c o) 0 e c m) :
    braBody h o e c m = ok (quietly e c (goTo (seen e c (branchTo c o) m) c (branchTo c o))) := by
  rw [braBody, directTarget_eq_branchTo, transfer_goes hg]
  rfl

theorem indirectBody_goes (hg : mayGo h (readOp e m c .n64 o.src).2 ((readOp e m c .n64 o.src).2 / 2 ^ 56) e c m) :
    indirectBody h o e c m =
      let t := (readOp e m c .n64 o.src).2
      ok (quietly e c (goTo (seen e c t m) c t)) := by
  simp only [indirectBody, transfer_goes hg]
  rfl

theorem indirectBody_wide (ht : taintTrap m c.g c.lane h = false) (hw : 2 ^ 56 ≤ (readOp e m c .n64 o.src).2) :
    indirectBody h o e c m = trapAt m cILLTGT ((readOp e m c .n64 o.src).2 % 2 ^ 56) := by
  have hz : (readOp e m c .n64 o.src).2 / 2 ^ 56 ≠ 0 := by omega
  simp only [indirectBody, transfer_wide ht hz]

/-- A call enters its target at once, or claims the registers that its budget lacks (01 R30). -/
theorem callTo_eq (b : Nat) : callTo e c o t b m = ok (callEff e c o t b m) := by
  simp only [callTo, callEff, ← Nat.not_lt, ite_not]
  exact (apply_ite ok _ _ _).symm

theorem callBody_goes (hg : mayGo h (branchTo c o) 0 e c m) :
    callBody h o e c m = ok (callEff e c o (branchTo c o) (8 * (o.aux.toNat % 32)) (seen e c (branchTo c o) m)) := by
  rw [callBody, directTarget_eq_branchTo, transfer_goes hg, callTo_eq]

theorem caliBody_goes (hg : mayGo h (readOp e m c .n64 o.src).2 ((readOp e m c .n64 o.src).2 / 2 ^ 61) e c m) :
    caliBody h o e c m =
      let t := (readOp e m c .n64 o.src).2
      ok (callEff e c o (t % 2 ^ 56) (8 * (t / 2 ^ 56 % 32)) (seen e c t m)) :=
  (transfer_goes hg).trans (callTo_eq _)

/-- The counter of a loop counts down as a 32-bit number. -/
theorem loopCount_toNat : ((loopCount e c o m).toNat : Int) = (((readOp e m c .n32 o.src).2 : Int) - 1) % 2 ^ 32 := by
  have hone : (1 : BitVec 32).toNat = 1 := rfl
  simp only [loopCount, BitVec.toNat_sub, BitVec.toNat_ofNat, hone]
  omega

theorem loopBody_eq (hg : loopCount e c o m ≠ 0 → mayGo h (branchTo c o) 0 e c m) :
    loopBody h o e c m =
      let n := loopCount e c o m
      let m1 := if n = 0 then m
        else (if isS o.src then c.lanes else [c.lane]).foldl (fun m l => updThr m c.g l (fun th => { th with pc := branchTo c o })) (seen e c (branchTo c o) m)
      ok (land m1 (e.now + 1) (wrReg c .n32 o.src n.toNat) (if isS o.src then c.toks else c.tok)) := by
  have hcount : (loopCount e c o m).toNat = 0 ↔ loopCount e c o m = 0 := (BitVec.toNat_eq (y := 0#32)).symm
  simp only [loopBody, ← loopCount_toNat, directTarget_eq_branchTo, Int.toNat_natCast, Int.natCast_eq_zero, hcount]
  by_cases hz : loopCount e c o m = 0
  · simp only [if_pos hz]
  · simp only [if_neg hz, transfer_goes (hg hz)]

/-! Convergence barriers, and the ends of a thread and of a run. -/

theorem cvwBody_eq :
    cvwBody o e c m =
      let k := o.aux.toNat % 4
      ok (if bitOf (lget (grpOf m c.g).cbm k 0).toNat c.lane then
          quietly e c (updThr (updGrp m c.g (fun a => { a with cba := lupd a.cba k (fun w => w ||| BitVec.ofNat 32 (2 ^ c.lane)) })) c.g c.lane
            (fun t => { t with wait := .cvw k, pc := c.pc, resume := c.next }))
        else quietly e c m) :=
  (apply_ite ok _ _ _).symm

/-- No thread of a group is live just when all have ended. -/
theorem not_liveGrp (gr : Group) : (!liveGrp gr) = gr.th.all (fun t => t.st == .exited) := by
  rw [liveGrp, List.not_any_eq_all_not]
  simp only [live, bne, Bool.not_not]

theorem endThread_eq (g l : Nat) :
    endThread m g l =
      let m1 := updThr m g l (fun t => { t with st := .exited, wait := .none, mon := none, vecAt := none, step := false })
      if (grpOf m1 g).th.all (fun t => t.st == .exited) && !(grpOf m1 g).ab.isEmpty then startFlush m1 [g] [] none else m1 := by
  simp only [endThread, not_liveGrp]
  rfl

end

/-- Settles O13: a transfer that may be made goes to its target; the taint of the guard is looked at first, then the bits above the address. -/
theorem transfersCompleteOrTrap : Obligations.TransfersCompleteOrTrap := by
  unfold Obligations.TransfersCompleteOrTrap
  refine fun h o => ⟨?bra, ?brx, ?ret, ?call, ?cali, ?loop, ?braStops, ?callStops, ?brxStops, ?retStops⟩
  case bra => exact completes_of (body := braBody h o) (fun _ => rfl) fun _ _ _ hg => braBody_goes hg
  case brx | ret => exact completes_of (body := indirectBody h o) (fun _ => rfl) fun _ _ _ hg => indirectBody_goes hg
  case call => exact completes_of (body := callBody h o) (fun _ => rfl) fun _ _ _ hg => callBody_goes hg
  case cali => exact completes_of (body := caliBody h o) (fun _ => rfl) fun _ _ _ hg => caliBody_goes hg
  case loop => exact completes_of (body := loopBody h o) (fun _ => rfl) fun _ _ _ hg => loopBody_eq hg
  case braStops => exact stopsAt_of (body := braBody h o) (fun _ => rfl) fun _ _ _ ht => transfer_tainted ht
  case callStops => exact stopsAt_of (body := callBody h o) (fun _ => rfl) fun _ _ _ ht => transfer_tainted ht
  case brxStops | retStops => exact stopsAt_of (body := indirectBody h o) (fun _ => rfl) fun _ _ _ ⟨ht, hw⟩ => indirectBody_wide ht hw

/-- Settles O14: each of these bodies completes, and so is its effect; the last thread of a group to end flushes its slot. -/
theorem convergenceCompletes : Obligations.ConvergenceCompletes := by
  unfold Obligations.ConvergenceCompletes
  refine fun h o => ⟨?cvb, ?cvbCur, ?cvw, ?exit, ?yield, ?nop⟩
  case cvb => exact completes_of (body := cvbBody o) (fun _ => rfl) fun _ _ _ _ => rfl
  case cvbCur => exact completes_of (body := cvbCurBody o) (fun _ => rfl) fun _ _ _ _ => rfl
  case cvw => exact completes_of (body := cvwBody o) (fun _ => rfl) fun _ _ _ _ => cvwBody_eq
  case exit => exact completes_of (body := exitBody) (fun _ => rfl) fun _ c _ _ => congrArg ok (endThread_eq c.g c.lane)
  case yield => exact completes_of (body := yieldBody) (fun _ => rfl) fun _ _ _ _ => rfl
  case nop => exact completes_of (body := nopBody) (fun _ => rfl) fun _ _ _ _ => rfl

end Sys2Proof.Machine
end

section
/-! PROOF. Loads and stores (08 R223, R233 to R235, 03 R85, R87). -/
namespace Sys2Proof.Machine
open Sys2Proof

section
variable {h : Hdr} {o : FM} {e : Env} {c : Ctx} {m : Mach}

/-! `ld`, and `ldv` of registers (08 R234, R238). -/

/-- What the address checks of `ld` (kind 0) and `st` (kind 1) answer. -/
def plainAddr (kind : Nat) (o : FM) (e : Env) (c : Ctx) (m : Mach) : AddrRes := addrOf e c o (widthBytes o.width.toNat) kind (o.width == 3) m

/-- What a load asks of the home of its bytes. -/
def loadAsked (h : Hdr) (o : FM) (e : Env) (c : Ctx) (m : Mach) : Mach :=
  askM e c o (homeOf (plainAddr 0 o e c m).place) (isAcq o) false false
    (.load (plainAddr 0 o e c m).place (widthBytes o.width.toNat) (h.fn == 1) o.d none c.pc (effAddr e m c o).2.toNat) (effAddr e m c o).1

theorem ldBody_passes (hp : (plainAddr 0 o e c m).passes) : ldBody h o e c m = ok (loadAsked h o e c m) := by
  obtain ⟨sa, hsa⟩ := AddrRes.ok_of_passes hp
  rw [loadAsked, hsa]
  simp only [plainAddr, addrOf] at hsa
  simp only [ldBody, hsa]
  rfl

/-- A word of the metadata window is read at the home of its frame (03 R87). -/
theorem ldBody_metadata {f : Nat} (hf : plainAddr 0 o e c m = .metaw f) :
    ldBody h o e c m = ok (askM e c o (homeOf (f * 16384)) (isAcq o) false false (.metaRead f o.d c.pc (effAddr e m c o).2.toNat) (effAddr e m c o).1) := by
  simp only [plainAddr, addrOf] at hf
  simp only [ldBody, hf]
  rfl

theorem ldBody_causes (hc : (plainAddr 0 o e c m).causes) :
    ldBody h o e c m = { m := (effAddr e m c o).1, out := (plainAddr 0 o e c m).stops.out } := by
  obtain ⟨k, a, hka⟩ := hc
  rw [hka]
  simp only [plainAddr, addrOf] at hka
  simp only [ldBody, hka]
  rfl

/-! `st` (08 R235, 05 R149). -/

/-- The machine once address and data of a store have been read. -/
def storeRead (o : FM) (e : Env) (c : Ctx) (m : Mach) : Mach := (storeData e (effAddr e m c o).1 c o.width.toNat o.d).1

/-- What a store asks of the home of its bytes. -/
def storeAsked (o : FM) (e : Env) (c : Ctx) (m : Mach) : Mach :=
  askAs e c c.tok [c.lane] o.scope.toNat (homeOf (plainAddr 1 o e c m).place) false (isRel o) true
    (.store [((plainAddr 1 o e c m).place, toBytes (widthBytes o.width.toNat) (storeNat e c o (effAddr e m c o).1))] false true) (storeRead o e c m)

theorem stBody_passes (hp : (plainAddr 1 o e c m).passes) (hs : mayStore c (8 * widthBytes o.width.toNat) (storeNat e c o (effAddr e m c o).1) m) :
    stBody o e c m = ok (storeAsked o e c m) := by
  obtain ⟨sa, hsa⟩ := AddrRes.ok_of_passes hp
  rw [storeAsked, hsa]
  simp only [plainAddr, addrOf] at hsa
  simp only [stBody, hsa]
  exact if_neg (not_pstore_of_mayStore hs)

/-- A store to a trigger goes to the Front End of the core's die (03 R85). -/
theorem stBody_trigger {k : Nat} (hk : plainAddr 1 o e c m = .trig k)
    (hs : mayStore c (8 * widthBytes o.width.toNat) (storeNat e c o (effAddr e m c o).1) m) :
    stBody o e c m = ok (askAs e c c.tok [c.lane] o.scope.toNat (feHome (coreDie c.core)) false (isRel o) true (.trigger c.part k) (storeRead o e c m)) := by
  simp only [plainAddr, addrOf] at hk
  simp only [stBody, hk]
  exact if_neg (not_pstore_of_mayStore hs)

theorem stBody_causes (hc : (plainAddr 1 o e c m).causes) :
    stBody o e c m = { m := (effAddr e m c o).1, out := (plainAddr 1 o e c m).stops.out } := by
  obtain ⟨k, a, hka⟩ := hc
  rw [hka]
  simp only [plainAddr, addrOf] at hka
  simp only [stBody, hka]
  rfl

theorem stBody_poison (hp : (plainAddr 1 o e c m).passes) (hs : ¬ mayStore c (8 * widthBytes o.width.toNat) (storeNat e c o (effAddr e m c o).1) m) :
    stBody o e c m = trapAt (storeRead o e c m) cPSTORE (lowBits 56 (effAddr e m c o).2) := by
  obtain ⟨sa, hsa⟩ := AddrRes.ok_of_passes hp
  simp only [plainAddr, addrOf] at hsa
  simp only [stBody, hsa]
  exact if_pos ((Bool.and_eq_true _ _).mpr (Decidable.not_not.mp hs))

end

/-- Settles O15: each body is its effect where its checks pass, and answers the cause of the first that fails; translation comes before PSTORE. -/
theorem loadStoreCompletesOrTraps : Obligations.LoadStoreCompletesOrTraps := by
  unfold Obligations.LoadStoreCompletesOrTraps
  refine fun h o => ⟨?ld, ?st, ?ldStops, ?stStops, ?poison⟩
  case ld =>
    refine completes_of (body := ldBody h o) (fun _ => rfl) fun e c m hc => ?_
    obtain hp | ⟨f, hf⟩ := hc
    · obtain ⟨sa, hsa⟩ := AddrRes.ok_of_passes hp
      rw [ldBody_passes hp]
      simp only [loadAsked, plainAddr, hsa]
      rfl
    · simp only [hf]
      exact ldBody_metadata hf
  case st =>
    refine completes_of (body := stBody o) (fun _ => rfl) fun e c m hc => ?_
    obtain ⟨hp | ⟨k, hk⟩, hs⟩ := hc
    · obtain ⟨sa, hsa⟩ := AddrRes.ok_of_passes hp
      rw [stBody_passes hp hs]
      simp only [storeAsked, plainAddr, hsa]
      rfl
    · simp only [hk]
      exact stBody_trigger hk hs
  case ldStops => exact stopsAt_of (body := ldBody h o) (fun _ => rfl) fun _ _ _ hc => ldBody_causes hc
  case stStops => exact stopsAt_of (body := stBody o) (fun _ => rfl) fun _ _ _ hc => stBody_causes hc
  case poison => exact stopsAt_of (body := stBody o) (fun _ => rfl) fun _ _ _ ⟨hp, hs⟩ => stBody_poison hp hs

end Sys2Proof.Machine
end

section
/-! PROOF. Tile accesses and prefetches (08 R236 to R239, 03 R92). -/
namespace Sys2Proof.Machine
open Sys2Proof

section
variable {h : Hdr} {o : FM} {e : Env} {c : Ctx} {m : Mach}

/-! `ldt`, `stt` and `ldv` of tiles (08 R236 to R238). -/

/-- Pieces of storage of the memory rows of a move that translate from row `p` on. -/
def tilePieces (e : Env) (m : Mach) (c : Ctx) (kind : Nat) (t : TileGeo) (p : Nat) : List (Nat × Nat × Nat) :=
  (tileSegs e m c kind (tileRows t) p).1.flatMap (fun x => rowPieces t x.1 x.2)

/-- The rows from which a tile load goes on: a transposing one starts again (16 R370). -/
def ldtFrom (c : Ctx) (t : TileGeo) : Nat := if t.tr = 0 then c.prog else 0

/-- A tile load whose rows translate from row `p` on asks for them frame by frame; one that has nothing left to read completes. -/
def askTileReads (o : FM) (e : Env) (c : Ctx) (m : Mach) (t : TileGeo) (p : Nat) (msgs : List (List (Nat × Nat × Nat))) : Mach :=
  if msgs.isEmpty then land m (e.now + 2) [] c.toks
  else
    let q := openTile m msgs.length (e.now + 2) c t.k (p = 0)
    replayToks c c.toks (msgs.foldl (fun m l => tileSend e m c o t q.1 l) q.2)

theorem ldtBody_loads {t : TileGeo} (ht : tileGeo e m c h o (bitsOf h.fn.toNat 5 4) = t) (hc : tileCheck m c t = none)
    (hs : (tileSegs e m c 0 (tileRows t) (ldtFrom c t)).2 = none) :
    ldtBody h o e c m = ok (askTileReads o e c m t (ldtFrom c t) (byFrame (tilePieces e m c 0 t (ldtFrom c t)))) := by
  simp only [ldtFrom] at hs
  simp only [ldtBody, ht, hc, hs, Option.isSome_none, Bool.and_false, Bool.false_eq_true, ↓reduceIte, tilePieces, ldtFrom]
  generalize byFrame _ = msgs
  cases msgs <;> rfl

/-- A tile store whose rows translate writes them piece by piece; one that has nothing left to write completes. -/
def askTileWrites (o : FM) (e : Env) (c : Ctx) (m : Mach) (t : TileGeo) (pcs : List (Nat × Nat × Nat)) : Mach :=
  if pcs.isEmpty then land m (e.now + 2) [] c.toks
  else
    let q := openOp m pcs.length (e.now + 2) c.toks
    replayToks c c.toks (pcs.foldl (fun m r => sendSet e m c o.scope.toNat (homeOf r.1) false (isRel o) true q.1
      (.store [(r.1, tileBytes m c.core t.k r.2.2 r.2.1)] false true)) q.2)

theorem sttBody_stores {t : TileGeo} (ht : tileGeo e m c h o 0 = t) (ha : bitOf h.fn.toNat 4 = false) (hc : tileCheck m c t = none)
    (hs : (tileSegs e m c 1 (tileRows t) c.prog).2 = none)
    (hp : ¬ (pstOn m c.g = true ∧ tilePoison m c t (tcEw (shapeOf m c.core t.k)) = true ∧ c.prog = 0)) :
    sttBody h o e c m = ok (askTileWrites o e c m t (tilePieces e m c 1 t c.prog)) := by
  have hstore : ¬ (pstOn m c.g && tilePoison m c t (tcEw (shapeOf m c.core t.k)) && decide (c.prog = 0)) = true := by
    simpa only [Bool.and_eq_true, decide_eq_true_eq, and_assoc] using hp
  simp only [sttBody, ht, ha, hc, hs, Bool.false_and, Bool.false_eq_true, ↓reduceIte, if_neg hstore, tilePieces]
  generalize List.flatMap _ _ = pcs
  cases pcs <;> rfl

/-- A store of one frame is one message of the whole set (08 R237). -/
theorem sttBody_aon {t : TileGeo} (ht : tileGeo e m c h o 0 = t) (ha : bitOf h.fn.toNat 4 = true) (hc : tileCheck m c t = none)
    (hf : oneFrame ((tileRows t).map (fun r => (r.1.toNat, r.2.1))) = true) (hs : (tileSegs e m c 1 (tileRows t) 0).2 = none)
    (ho : oneFrame ((tilePieces e m c 1 t 0).map (fun r => (r.1, r.2.1))) = true)
    (hp : ¬ (pstOn m c.g = true ∧ tilePoison m c t (tcEw (shapeOf m c.core t.k)) = true)) :
    sttBody h o e c m = ok (askAs e c c.toks c.lanes o.scope.toNat (homeOf (((tilePieces e m c 1 t 0).map (·.1)).headD 0)) false (isRel o) true
      (.store ((tilePieces e m c 1 t 0).map (fun r => (r.1, tileBytes m c.core t.k r.2.2 r.2.1))) true true) m) := by
  rw [← Bool.and_eq_true] at hp
  rw [tilePieces] at ho ⊢
  simp only [sttBody, ht, ha, hc, hf, hs, ho, hp, Bool.not_true, Bool.and_false, Bool.false_eq_true, ↓reduceIte]
  rfl

theorem ldvTile_loads {t : TileGeo} (ht : tileGeo e m c h o (bitsOf h.fn.toNat 5 4) = t) (hc : tileCheck m c t = none)
    (hf : oneFrame ((tileRows t).map (fun r => (r.1.toNat, r.2.1))) = true) (hs : (tileSegs e m c 0 (tileRows t) 0).2 = none)
    (ho : oneFrame ((tilePieces e m c 0 t 0).map (fun r => (r.1, r.2.1))) = true) :
    ldvTile h o e c m =
      let q := openTile m 1 (e.now + 2) c t.k true
      ok (tileSend e q.2 c o t q.1 (tilePieces e m c 0 t 0)) := by
  rw [tilePieces] at ho ⊢
  simp only [ldvTile, ht, hc, hf, hs, ho, Bool.not_true, Bool.false_eq_true, ↓reduceIte]

/-! Prefetches (08 R239). -/

theorem pfxLines_eq (sa : Nat) :
    pfxLines o sa = if o.hint ≠ 2 then (sa, 0) else if o.width = 5 then (sa / 16384 * 16384, 16384) else (sa, 64) := by
  simp only [pfxLines, bne_iff_ne, beq_iff_eq]

/-- A prefetch whose checks pass fills its lines, one whose translation misses walks, and any other has no effect. -/
theorem pfxBody_eq :
    pfxBody o e c m = ok (
      let a := effAddr e m c o
      let al := if o.width = 5 then 1 else widthBytes o.width.toNat
      match checkAddr e a.1 c a.2 al al 0 false with
      | .ok sa =>
        let r := if o.hint ≠ 2 then (sa, 0) else if o.width = 5 then (sa / 16384 * 16384, 16384) else (sa, 64)
        land { fillRetr a.1 (clusterOf c.core) r.1 r.2 with free := a.1.free + 1 + r.2 } (e.now + pfxFill a.1 (clusterOf c.core) r) [] c.tok
      | .stop (.walk va _ _) => joinWalk e a.1 (coreDie c.core) c.part va []
          [{ core := c.core, va := va, frame := o.hint == 2 && o.width == 5, lines := o.hint == 2, toks := c.tok }] []
      | _ => land a.1 (e.now + 2) [] c.tok) := by
  simp only [pfxBody, pfxLines_eq, beq_iff_eq]
  generalize checkAddr e _ c _ _ _ 0 false = r
  cases r
  case stop out => cases out <;> rfl
  all_goals rfl

end

/-- Settles O16: where every check passes, each body asks for what its rows or its address name; a prefetch that may not be made has no effect. -/
theorem tileAccessesComplete : Obligations.TileAccessesComplete := by
  unfold Obligations.TileAccessesComplete
  refine fun h o => ⟨?ldt, ?stt, ?aon, fun hw => ?ldv, fun hw => ?ldvTile, ?pfx⟩
  case ldt => exact completes_of (body := ldtBody h o) (fun _ => rfl) fun _ _ _ ⟨hc, hs⟩ => ldtBody_loads rfl hc hs
  case stt => exact completes_of (body := sttBody h o) (fun _ => rfl) fun _ _ _ ⟨ha, hc, hs, hp⟩ => sttBody_stores rfl ha hc hs hp
  case aon => exact completes_of (body := sttBody h o) (fun _ => rfl) fun _ _ _ ⟨ha, hc, hf, hs, ho, hp⟩ => sttBody_aon rfl ha hc hf hs ho hp
  case ldv =>
    have hb : (o.width == 5) = false := beq_false_of_ne hw
    refine completes_of (body := ldBody h o) (fun s => ?_) fun _ _ _ hp => ldBody_passes hp
    show runI (.ldv h o) h (isS o.d || o.width == 5) (ldvBody h o) s = _
    rw [ldvBody, hb, Bool.or_false]
    rfl
  case ldvTile =>
    have hb : (o.width == 5) = true := beq_of_eq hw
    refine completes_of (body := ldvTile h o) (fun s => ?_) fun _ _ _ ⟨hc, hf, hs, ho⟩ => ldvTile_loads rfl hc hf hs ho
    show runI (.ldv h o) h (isS o.d || o.width == 5) (ldvBody h o) s = _
    rw [ldvBody, hb, Bool.or_true]
    rfl
  case pfx => exact completes_of (body := pfxBody o) (fun _ => rfl) fun _ _ _ _ => pfxBody_eq

end Sys2Proof.Machine
end

section
/-! PROOF. Monitors and queued waits (08 R246 to R249, 04 R123, R124). -/
namespace Sys2Proof.Machine
open Sys2Proof

section
variable {h : Hdr} {o : FM} {i : FI} {e : Env} {c : Ctx} {m : Mach}

/-! `mon` and `mwt` (08 R246, R247). -/

/-- What the address checks of `mon` answer. -/
def monAddr (h : Hdr) (o : FM) (e : Env) (c : Ctx) (m : Mach) : AddrRes := addrOf e c o (tyBits (atomTyOf h) / 8) 0 false m

theorem bytes_eq_eight_iff (ty : NTy) : tyBits ty / 8 = 8 ↔ tyBits ty = 64 := by
  cases ty <;> decide

theorem monBody_passes (hp : (monAddr h o e c m).passes) :
    monBody h o e c m =
      let a := effAddr e m c o
      let d := readOp e a.1 c (atomTyOf h) o.d
      let sa := (monAddr h o e c m).place
      ok (armMon e (openOp d.1 1 (e.now + 2) c.tok).2 c
        { sn := 0, va := a.2.toNat, sa := sa, home := homeOf sa, b64 := decide (tyBits (atomTyOf h) = 64), signed := tySigned (atomTyOf h), cond := fnHi h,
          val := BitVec.ofNat 64 d.2, acq := isAcq o, scope := o.scope.toNat, awt := false, armed := false, poll := none, sat := none, learn := [] } d.1.serial) := by
  obtain ⟨sa, hsa⟩ := AddrRes.ok_of_passes hp
  have hb : (tyBits (atomTyOf h) / 8 == 8) = decide (tyBits (atomTyOf h) = 64) := decide_eq_decide.mpr (bytes_eq_eight_iff _)
  rw [hsa]
  simp only [monAddr, addrOf] at hsa
  simp only [monBody, hsa, hb]
  rfl

/-- A monitor of a pair needs a pair to deliver to, within the budget. -/
theorem mwtBody_waits {k : Mon} (hk : (thrOf m c.g c.lane).mon = some k)
    (hb : k.b64 = true → pairDst i.dst = true ∧ vTop 2 i.dst ≤ (thrOf m c.g c.lane).v.length) :
    mwtBody i e c m = ok (waitMon e (.mwt (if i.imm = 0xFFFFFFFF then none else some (e.now + i.imm.toNat)) i.dst) c i.dst m) := by
  cases h64 : k.b64
  case false => simp only [mwtBody, hk, h64, Bool.false_and, Bool.false_eq_true, ↓reduceIte, beq_iff_eq]
  case true =>
    obtain ⟨hpair, hbudget⟩ := hb h64
    simp only [mwtBody, hk, h64, hpair, Nat.not_lt.mpr hbudget, Bool.not_true, decide_false, Bool.and_false, Bool.false_eq_true, ↓reduceIte, beq_iff_eq]

theorem mwtBody_unarmed (hn : (thrOf m c.g c.lane).mon = none) : mwtBody i e c m = trapOf m cWAITTO := by
  simp only [mwtBody, hn]

/-! `qwait` and `wake` (08 R248, R249). -/

/-- What the address checks of a wait queue answer. -/
def waitqAddr (o : FM) (e : Env) (c : Ctx) (m : Mach) : AddrRes := addrOf e c o 8 2 false m

theorem qwaitBody_passes (hp : (waitqAddr o e c m).passes) :
    qwaitBody o e c m =
      let sa := (waitqAddr o e c m).place
      ok (sendThr e (waitFor e .qwait c (effAddr e m c o).1 c.lane) c (homeOf sa) false false false 0 (.qwait sa)) := by
  obtain ⟨sa, hsa⟩ := AddrRes.ok_of_passes hp
  rw [hsa]
  simp only [waitqAddr, addrOf] at hsa
  simp only [qwaitBody, hsa]
  rfl

/-- How many threads `wake` wakes, with the machine in which that has been read. -/
def wakeCount (o : FM) (e : Env) (c : Ctx) (m : Mach) : Mach × Nat := readOp e (effAddr e m c o).1 c .n32 o.d

theorem wakeBody_wakes (hp : (waitqAddr o e c m).passes) (h1 : 1 ≤ (wakeCount o e c m).2) (h2 : (wakeCount o e c m).2 ≤ 65535) :
    wakeBody o e c m =
      let sa := (waitqAddr o e c m).place
      ok (askAs e c c.tok [c.lane] o.scope.toNat (homeOf sa) false true true (.wake sa (wakeCount o e c m).2) (wakeCount o e c m).1) := by
  obtain ⟨sa, hsa⟩ := AddrRes.ok_of_passes hp
  rw [hsa]
  simp only [waitqAddr, addrOf] at hsa
  simp only [wakeBody, hsa]
  refine if_neg ?_
  rw [Bool.or_eq_true, decide_eq_true_eq, decide_eq_true_eq]
  exact not_or.mpr ⟨Nat.one_le_iff_ne_zero.mp h1, Nat.not_lt.mpr h2⟩

theorem wakeBody_range (hp : (waitqAddr o e c m).passes) (hn : (wakeCount o e c m).2 = 0 ∨ 65535 < (wakeCount o e c m).2) :
    wakeBody o e c m = trapAt (wakeCount o e c m).1 cRANGE (lowBits 56 (effAddr e m c o).2) := by
  obtain ⟨sa, hsa⟩ := AddrRes.ok_of_passes hp
  simp only [waitqAddr, addrOf] at hsa
  simp only [wakeBody, hsa]
  refine if_pos ?_
  rw [Bool.or_eq_true, decide_eq_true_eq, decide_eq_true_eq]
  exact hn

end

/-- Settles O18: each body is its effect where the address passes; `mwt` looks for the monitor first, and `wake` at its count after the address. -/
theorem monitorsAndQueuedWaitsComplete : Obligations.MonitorsAndQueuedWaitsComplete := by
  unfold Obligations.MonitorsAndQueuedWaitsComplete
  refine fun h => ⟨fun o => ?mon, fun o => ?mwt, fun o => ?unarmed, fun o => ?qwait, fun o => ?wake, fun o => ?range⟩
  case mon => exact completes_of (body := monBody h o) (fun _ => rfl) fun _ _ _ hp => monBody_passes hp
  case mwt => exact completes_of (body := mwtBody o) (fun _ => rfl) fun _ _ _ ⟨_, hk, hb⟩ => mwtBody_waits hk hb
  case unarmed => exact stopsAt_of (body := mwtBody o) (fun _ => rfl) fun _ _ _ hn => mwtBody_unarmed hn
  case qwait => exact completes_of (body := qwaitBody o) (fun _ => rfl) fun _ _ _ hp => qwaitBody_passes hp
  case wake => exact completes_of (body := wakeBody o) (fun _ => rfl) fun _ _ _ ⟨hp, h1, h2⟩ => wakeBody_wakes hp h1 h2
  case range => exact stopsAt_of (body := wakeBody o) (fun _ => rfl) fun _ _ _ ⟨hp, hn⟩ => wakeBody_range hp hn

end Sys2Proof.Machine
end

section
/-! PROOF. Barriers and arrival words (08 R251 to R255). -/
namespace Sys2Proof.Machine
open Sys2Proof

section
variable {h : Hdr} {o : FA} {e : Env} {c : Ctx} {m : Mach}

theorem barOf_eq (h : Hdr) (x : BitVec 16) : barOf h x = if h.fn = 0x10 then 4 else x.toNat % 4 := by
  simp only [barOf, beq_iff_eq]

theorem arrBody_passes {rel : Bool} {f : Nat → Nat → Body} (hp : arrOk e c o m) (hn : arrN e c o m ≤ 0x0FFFFFFF) :
    arrBody o rel f e c m = ok (ask e c c.tok (homeOf (arrSa e c o m)) false rel true (f (arrSa e c o m) (arrN e c o m))
      (readOp e (readOp e m c .n64 o.sa).1 c .n32 o.sb).1) := by
  obtain ⟨sa, hsa⟩ := AddrRes.ok_of_passes hp
  simp only [arrBody, arrSa, hsa]
  exact if_neg (Nat.not_lt.mpr hn)

theorem arrBody_range {rel : Bool} {f : Nat → Nat → Body} (hp : arrOk e c o m) (hn : 0x0FFFFFFF < arrN e c o m) :
    arrBody o rel f e c m = trapAt (readOp e (readOp e m c .n64 o.sa).1 c .n32 o.sb).1 cRANGE ((readOp e m c .n64 o.sa).2 % 2 ^ 56) := by
  obtain ⟨sa, hsa⟩ := AddrRes.ok_of_passes hp
  simp only [arrBody, hsa]
  exact if_pos hn

/-- What the address checks of `awt` answer, once both operands have been read. -/
def awtAddr (o : FA) (e : Env) (c : Ctx) (m : Mach) : AddrRes :=
  checkAddr e (readOp e (readOp e m c .n64 o.sa).1 c .n32 o.sb).1 c ((readOp e m c .n64 o.sa).2 : Int) 8 8 0 false

theorem awtBody_passes (hp : (awtAddr o e c m).passes) :
    awtBody h o e c m =
      let a := readOp e m c .n64 o.sa
      let g := readOp e a.1 c .n32 o.sb
      let sa := (awtAddr o e c m).place
      ok (armMon e (waitMon e (.awt (dstA h o) (some (latchA c o))) c o.dst g.1) c
        { sn := 0, va := a.2, sa := sa, home := homeOf sa, b64 := true, signed := false, cond := 0, val := BitVec.ofNat 64 (g.2 % 256), acq := true, scope := 3,
          awt := true, armed := false, poll := none, sat := none, learn := [] } 0) := by
  obtain ⟨sa, hsa⟩ := AddrRes.ok_of_passes hp
  rw [hsa]
  simp only [awtAddr] at hsa
  simp only [awtBody, hsa]
  rfl

end

/-- Settles O19: barriers and broadcasts make every member wait; an arrival word is checked for its address, then for its amount. -/
theorem barriersAndArrivalsComplete : Obligations.BarriersAndArrivalsComplete := by
  unfold Obligations.BarriersAndArrivalsComplete
  refine fun h o => ⟨?bar, ?bsc, ?set, ?add, ?awt, ?range⟩
  case bar =>
    rw [← barOf_eq]
    exact completes_of (body := barBody h o) (fun _ => rfl) fun _ _ _ _ => rfl
  case bsc =>
    rw [← barOf_eq]
    exact completes_of (body := bscBody h o) (fun _ => rfl) fun _ _ _ _ => rfl
  case set => exact completes_of (body := arrBody o false .arrSet) (fun _ => rfl) fun _ _ _ ⟨hp, hn⟩ => arrBody_passes hp hn
  case add => exact completes_of (body := arrBody o true fun sa n => .arrInc sa n 0) (fun _ => rfl) fun _ _ _ ⟨hp, hn⟩ => arrBody_passes hp hn
  case awt => exact completes_of (body := awtBody h o) (fun _ => rfl) fun _ _ _ hp => awtBody_passes hp
  case range => exact stopsAt_of (body := arrBody o true fun sa n => .arrInc sa n 0) (fun _ => rfl) fun _ _ _ ⟨hp, hn⟩ => arrBody_range hp hn

end Sys2Proof.Machine
end

section
/-! PROOF. Hand queues, register budgets and messages (08 R256 to R259, 01 R27 to R31). -/
namespace Sys2Proof.Machine
open Sys2Proof

section
variable {h : Hdr} {o : FA} {e : Env} {c : Ctx} {m : Mach}

/-! Hand queues (08 R256). -/

theorem qpushBody_attached (ha : attached m c (o.imm.toNat % 8) true = true) :
    qpushBody o e c m =
      let sa := queueAt e m c.team (o.imm.toNat % 8)
      let q := waitSet e .qpush c m
      ok (sendSet e q.2 c 1 (homeOf sa) false true true q.1 (.push sa c.team (o.imm.toNat % 8) (BitVec.ofNat 64 (readOp e m c .n64 o.sa).2))) := by
  simp only [qpushBody, ha, Bool.not_true, Bool.false_eq_true, ↓reduceIte]

theorem qpushBody_unattached (ha : attached m c (o.imm.toNat % 8) true = false) : qpushBody o e c m = trapOf m cPROT := by
  simp only [qpushBody, ha, Bool.not_false, ↓reduceIte]

theorem qpopBody_attached (ha : attached m c (o.imm.toNat % 8) false = true) :
    qpopBody h o e c m =
      let sa := queueAt e m c.team (o.imm.toNat % 8)
      let q := waitSet e .qpop c m
      ok (sendSet e q.2 c 1 (homeOf sa) true false false q.1 (.pop sa c.team (o.imm.toNat % 8) (dstA h o) (some (latchA c o)) c.pc 0)) := by
  simp only [qpopBody, ha, Bool.not_true, Bool.false_eq_true, ↓reduceIte]

theorem qpopBody_unattached (ha : attached m c (o.imm.toNat % 8) false = false) : qpopBody h o e c m = trapOf m cPROT := by
  simp only [qpopBody, ha, Bool.not_false, ↓reduceIte]

/-! Budgets (08 R257, R258; 01 R27, R28). -/

theorem lendBody_eq :
    lendBody o e c m =
      let n := (readOp e m c .n32 o.sa).2
      if n % 8 ≠ 0 ∨ ∃ l ∈ c.lanes, (thrOf m c.g l).v.length < n + 8 then trapOf m cBUDGET
      else ok (land (c.lanes.foldl (fun m l => updThr m c.g l (lendThr n c.sn)) m) (e.now + 2) [] c.toks) := by
  simp only [lendBody, Bool.or_eq_true, List.any_eq_true, decide_eq_true_eq]

theorem lendBody_within (h8 : (readOp e m c .n32 o.sa).2 % 8 = 0) (hb : budgets c m (fun b => (readOp e m c .n32 o.sa).2 + 8 ≤ b)) :
    lendBody o e c m =
      let n := (readOp e m c .n32 o.sa).2
      ok (land (c.lanes.foldl (fun m l => updThr m c.g l (lendThr n c.sn)) m) (e.now + 2) [] c.toks) := by
  rw [lendBody_eq]
  exact if_neg (not_or.mpr ⟨Decidable.not_not.mpr h8, fun ⟨l, hl, hlow⟩ => Nat.not_lt.mpr (hb l hl) hlow⟩)

/-- The claim of a whole set: every member waits, and the claim joins those of the team. -/
def claimSet (n : Nat) (e : Env) (c : Ctx) (m : Mach) : Mach :=
  let m1 := c.lanes.foldl (fun m l => updThr m c.g l (waitThr .claim 0 c)) m
  updTeam { m1 with serial := m1.serial + 1 } c.team (fun tm => { tm with claims := tm.claims ++
    [{ id := m1.serial, who := c.lanes.map (fun l => { g := c.g, lane := l }), n := n, tm := e.now, call := none, toks := c.toks }] })

theorem claimBody_eq :
    claimBody o e c m =
      let n := (readOp e m c .n32 o.sa).2
      if n % 8 ≠ 0 ∨ ∃ l ∈ c.lanes, 248 < (thrOf m c.g l).v.length + n then trapOf m cBUDGET else ok (claimSet n e c m) := by
  simp only [claimBody, claimSet, Bool.or_eq_true, List.any_eq_true, decide_eq_true_eq]

theorem claimBody_within (h8 : (readOp e m c .n32 o.sa).2 % 8 = 0) (hb : budgets c m (fun b => b + (readOp e m c .n32 o.sa).2 ≤ 248)) :
    claimBody o e c m = ok (claimSet (readOp e m c .n32 o.sa).2 e c m) := by
  rw [claimBody_eq]
  exact if_neg (not_or.mpr ⟨Decidable.not_not.mpr h8, fun ⟨l, hl, hover⟩ => Nat.not_lt.mpr (hb l hl) hover⟩)

/-! Messages (08 R259). -/

theorem sendBody_inside {k : Nat} (hn : (readOp e m c .n32 o.sa).2 < 4096) (hk : placeCore e.sys c.part (readOp e m c .n32 o.sa).2 = some k) :
    sendBody o e c m =
      let r := readOp e m c .n32 o.sa
      ok (askAs e c c.tok [c.lane] o.md.toNat k false true true
        (.ring k (o.imm.toNat % 8) (markOf e.sys c.part c.core) (payloadBytes e r.1 c o.sb (bitsOf o.imm.toNat 13 8)) (predNo o.dst)) r.1) := by
  simp only [sendBody, if_neg (Nat.not_le.mpr hn), hk]
  rfl

theorem sendBody_outside (hk : 4096 ≤ (readOp e m c .n32 o.sa).2 ∨ placeCore e.sys c.part (readOp e m c .n32 o.sa).2 = none) :
    sendBody o e c m = trapOf (readOp e m c .n32 o.sa).1 cRANGE := by
  by_cases hn : 4096 ≤ (readOp e m c .n32 o.sa).2
  · simp only [sendBody, if_pos hn]
  · simp only [sendBody, if_neg hn, hk.resolve_left hn]

end

/-- Settles O20: attachment, amount and place are checked first, and each check raises its own cause. -/
theorem queuesAndBudgetsCompleteOrTrap : Obligations.QueuesAndBudgetsCompleteOrTrap := by
  unfold Obligations.QueuesAndBudgetsCompleteOrTrap
  refine fun h o => ⟨?qpush, ?qpop, ?lend, ?claim, ?send, ?qpushStops, ?qpopStops, ?lendStops, ?claimStops, ?sendStops⟩
  case qpush => exact completes_of (body := qpushBody o) (fun _ => rfl) fun _ _ _ ha => qpushBody_attached ha
  case qpop => exact completes_of (body := qpopBody h o) (fun _ => rfl) fun _ _ _ ha => qpopBody_attached ha
  case lend => exact completes_of (body := lendBody o) (fun _ => rfl) fun _ _ _ ⟨h8, hb⟩ => lendBody_within h8 hb
  case claim => exact completes_of (body := claimBody o) (fun _ => rfl) fun _ _ _ ⟨h8, hb⟩ => claimBody_within h8 hb
  case send =>
    refine completes_of (body := sendBody o) (fun _ => rfl) fun e c m ⟨hn, hs⟩ => ?_
    obtain ⟨k, hk⟩ := Option.isSome_iff_exists.mp hs
    simp only [hk, Option.getD_some]
    exact sendBody_inside hn hk
  case qpushStops => exact stopsAt_of (body := qpushBody o) (fun _ => rfl) fun _ _ _ ha => qpushBody_unattached ha
  case qpopStops => exact stopsAt_of (body := qpopBody h o) (fun _ => rfl) fun _ _ _ ha => qpopBody_unattached ha
  case lendStops => exact stopsAt_of (body := lendBody o) (fun _ => rfl) fun _ _ _ hb => lendBody_eq.trans (if_pos hb)
  case claimStops => exact stopsAt_of (body := claimBody o) (fun _ => rfl) fun _ _ _ hb => claimBody_eq.trans (if_pos hb)
  case sendStops => exact stopsAt_of (body := sendBody o) (fun _ => rfl) fun _ _ _ hk => sendBody_outside hk

end Sys2Proof.Machine
end

section
/-! PROOF. Copies, retrieval and sealing (09 R265 to R276). -/
namespace Sys2Proof.Machine
open Sys2Proof

section
variable {o : FE} {e : Env} {c : Ctx} {m : Mach}

/-! `cpy` and `cpym` (09 R265 to R270). -/

/-- What the address checks of a copy's slice descriptor answer. -/
def descAddr (o : FE) (e : Env) (c : Ctx) (m : Mach) : AddrRes := checkAddr e m c ((readOp e m c .n64 o.sa).2 : Int) 32 32 0 false

/-- The slices that a copy opens on its channel where none is open (09 R267). -/
def chanOf (o : FE) (e : Env) (c : Ctx) (m : Mach) : Chan :=
  { n := bitsOf o.ctl.toNat 23 16 + 1, col := compObj e m c o.sb, arr := compObj e m c o.sc, stamp := BitVec.ofNat 64 (bitsOf o.ext.toNat 63 0), slices := [], toks := [] }

theorem cpyBody_passes (hp : (descAddr o e c m).passes)
    (hc : cpyCheck e (engRead e m c (descAddr o e c m).place 32).1 c (engRead e m c (descAddr o e c m).place 32).2 (compObj e m c o.sb) (compObj e m c o.sc)
      (bitsOf o.ctl.toNat 23 16 + 1, compObj e m c o.sb, compObj e m c o.sc, BitVec.ofNat 64 (bitsOf o.ext.toNat 63 0)) (bitsOf o.ctl.toNat 15 12) = none) :
    cpyBody o e c m =
      let r := engRead e m c (descAddr o e c m).place 32
      ok (addSlice r.1 c.team (bitsOf o.ctl.toNat 15 12) (chanOf o e c m) ((e.now * 4096 + markOf e.sys c.part c.core) * 64 + (grpOf m c.g).gi) c.g
        ([c.core, r.2, c.lane, c.pc, m.serial, laneMask c.lanes] ++ knowOf m (some c.ref) c.lanes (.monArm 0)) c.toks) := by
  obtain ⟨sa, hsa⟩ := AddrRes.ok_of_passes hp
  rw [hsa] at hc ⊢
  simp only [descAddr] at hsa
  simp only [AddrRes.place] at hc ⊢
  simp only [cpyBody, hsa, hc]
  rfl

/-- The completion control of a `cpym`: none where its operand is no scalar pair (09 R270). -/
def cpymCtl (o : FE) (e : Env) (c : Ctx) (m : Mach) : Nat :=
  match o.sc with
  | .s _ => (readOp e m c .n64 o.sc).2
  | _ => 0

/-- The marks to which a `cpym` copies (09 R270). -/
def cpymMarks (o : FE) : List Nat := ((List.range 16).filter (bitOf (bitsOf o.ext.toNat 83 68))).map (fun k => bitsOf o.ext.toNat 95 84 + k)

/-- Every mark is one of the partition's, and source and destination lie in range. -/
theorem cpym_inRange (hm : ∀ k ∈ cpymMarks o, k ≤ 0xFFF ∧ placeCore e.sys c.part k ≠ none) {off len : Nat} (ho : off + len ≤ 2 ^ 20) {a : Int} (hr : rowBad e c a len = false) :
    ((cpymMarks o).any (fun k => decide (0xFFF < k) || (placeCore e.sys c.part k).isNone) || decide (2 ^ 20 < off + len) || rowBad e c a len) = false := by
  have hmarks : (cpymMarks o).any (fun k => decide (0xFFF < k) || (placeCore e.sys c.part k).isNone) = false := by
    refine List.any_eq_false.mpr fun k hk => ?_
    obtain ⟨hlow, hplace⟩ := hm k hk
    simpa only [Bool.or_eq_true, decide_eq_true_eq, Option.isNone_iff_eq_none, not_or, Nat.not_lt] using And.intro hlow hplace
  rw [hmarks, hr, decide_eq_false (Nat.not_lt.mpr ho)]
  rfl

/-- The machine in which a `cpym` with its two words of completion control has been forked. -/
def cpymForked (o : FE) (e : Env) (c : Ctx) (m : Mach) (col arr : Option Nat) : Mach :=
  { m with
    serial := m.serial + 1
    copies := tset m.copies m.serial (cpymCopy c m (readOp e m c .n64 o.sa).2 (readOp e m c .n32 o.sb).2 (bitsOf o.ctl.toNat 19 0) (cpymMarks o) col arr
      (bitsOf o.ext.toNat 63 0)) }

/-- The order of the checks of `cpym`: alignment, the words of completion control, then marks and ranges. -/
theorem cpymBody_eq :
    cpymBody o e c m =
      let src := (readOp e m c .n64 o.sa).2
      let off := (readOp e m c .n32 o.sb).2
      let len := bitsOf o.ctl.toNat 19 0
      if src % 4 ≠ 0 || off % 4 ≠ 0 then trapAt m cMISAL (src % 2 ^ 56)
      else match ctlWord (cpymCtl o e c m % 2 ^ 32), ctlWord (cpymCtl o e c m / 2 ^ 32) with
        | .ok col, .ok arr =>
          if (cpymMarks o).any (fun k => decide (0xFFF < k) || (placeCore e.sys c.part k).isNone) || decide (2 ^ 20 < off + len) || rowBad e c (src : Int) len
          then trapAt m cRANGE (src % 2 ^ 56) else ok (cpymForked o e c m col arr)
        | _, _ => trapAt m cRANGE (src % 2 ^ 56) := rfl

theorem cpymBody_passes {col arr : Option Nat} (hs : (readOp e m c .n64 o.sa).2 % 4 = 0) (hd : (readOp e m c .n32 o.sb).2 % 4 = 0)
    (hcol : ctlWord (cpymCtl o e c m % 2 ^ 32) = .ok col) (harr : ctlWord (cpymCtl o e c m / 2 ^ 32) = .ok arr)
    (hm : ∀ k ∈ cpymMarks o, k ≤ 0xFFF ∧ placeCore e.sys c.part k ≠ none) (ho : (readOp e m c .n32 o.sb).2 + bitsOf o.ctl.toNat 19 0 ≤ 2 ^ 20)
    (hr : rowBad e c ((readOp e m c .n64 o.sa).2 : Int) (bitsOf o.ctl.toNat 19 0) = false) :
    cpymBody o e c m = ok (cpymForked o e c m col arr) := by
  have haligned : ¬ (decide ((readOp e m c .n64 o.sa).2 % 4 ≠ 0) || decide ((readOp e m c .n32 o.sb).2 % 4 ≠ 0)) = true := by
    rw [Bool.or_eq_true, decide_eq_true_eq, decide_eq_true_eq]
    exact not_or.mpr ⟨fun h => h hs, fun h => h hd⟩
  rw [cpymBody_eq, hcol, harr]
  exact (if_neg haligned).trans (if_neg (Bool.eq_false_iff.mp (cpym_inRange hm ho hr)))

/-! `rfet` and `rfett` (09 R271 to R275). -/

/-- Elements of a retrieval (09 R275). -/
def rfetLen (o : FE) : Nat := bitsOf o.ctl.toNat 4 0 + 1

/-- What a retrieval by a card reads, element by element from its progress index on. -/
def rfetRead (o : FE) (e : Env) (c : Ctx) (m : Mach) (cd : Card) (ek : EKind) : Mach × List (Nat × Nat) × Option Out :=
  rfetElems e c cd ek (retrCvt o) (retrMode m c o) (coords e m c o.sb cd.ndim) (rfetLen o - c.prog) c.prog (noteCard e m c (readOp e m c .n64 o.sa).2)

theorem rfetBody_retrieves {cd : Card} {ek : EKind} (hc : rfetCheck e o c m = .ok (cd, ek))
    (hb : max (vTop cd.ndim o.sb) (vTop (if outBits ek (retrCvt o) = 64 then 2 * rfetLen o else rfetLen o) o.dst) ≤ (thrOf m c.g c.lane).v.length)
    (hr : (rfetRead o e c m cd ek).2.2 = none) :
    rfetBody o e c m =
      let r := rfetRead o e c m cd ek
      ok (replayToks c c.tok (land { r.1 with free := r.1.free + 1 } (retrLand e m r.1 c (rfetLen o))
        (r.2.1.flatMap (fun x => if outBits ek (retrCvt o) = 64 then wrReg c .n64 (opndUp o.dst (2 * x.1)) x.2 else wrReg c .n32 (opndUp o.dst x.1) x.2)) c.tok)) := by
  simp only [rfetRead, rfetLen] at hb hr
  simp only [rfetBody, hc, if_neg (Nat.not_lt.mpr hb), hr]
  rfl

/-- What a retrieval into a tile reads, row by row from its progress index on. -/
def rfettRead (o : FE) (e : Env) (c : Ctx) (m : Mach) (cd : Card) : Mach × List (Nat × List Nat) × Option Out :=
  let tc := shapeOf m c.core (tileNo o.dst)
  rfettRows e c cd (ekOf cd) (retrCvt o) (retrMode m c o) (coords e m c o.sb cd.ndim) (tcCols tc) (tcRows tc - c.prog) c.prog (noteCard e m c (readOp e m c .n64 o.sa).2)

theorem rfettBody_retrieves {cd : Card} (ht : tileHeld m c.team (tileNo o.dst) = true) (hc : cardHere e c o m = .ok cd) (hf : fmRefused m c.g (ekOf cd) = false)
    (hw : rfettFits (ekOf cd) (retrCvt o) (tcEw (shapeOf m c.core (tileNo o.dst))) = true) (hg : rangeFits o.sb cd.ndim = true)
    (hr : (rfettRead o e c m cd).2.2 = none) :
    rfettBody o e c m =
      let k := tileNo o.dst
      let tc := shapeOf m c.core k
      let r := rfettRead o e c m cd
      ok (replayToks c c.toks (land { r.1 with free := r.1.free + 1 } (retrLand e m r.1 c (tcRows tc))
        (r.2.1.map (fun x => RegWr.tile c.core k (x.1 * tcCols tc * ewBytes (tcEw tc)) (x.2.flatMap (toBytes (ewBytes (tcEw tc)))))
          ++ [RegWr.himag c.core k (c.prog == 0) (r.2.1.any (fun x => x.2.any (hiElem (ekOf cd) (retrCvt o))))]) c.toks)) := by
  simp only [rfettRead, ekOf] at hr hf hw
  simp only [cardHere] at hc
  simp only [rfettBody, ht, hc, hf, hw, hg, hr, Bool.not_true, Bool.or_self, Bool.false_eq_true, ↓reduceIte]
  rfl

/-! `cseal` (09 R276). -/

/-- What the address checks of a card to seal answer. -/
def sealAddr (o : FE) (e : Env) (c : Ctx) (m : Mach) : AddrRes :=
  checkAddr e (readOp e m c .n64 o.sa).1 c ((readOp e m c .n64 o.sa).2 : Int) 128 128 2 false

theorem csealBody_passes (hp : (sealAddr o e c m).passes) :
    csealBody o e c m =
      let a := readOp e m c .n64 o.sa
      let sa := (sealAddr o e c m).place
      ok (askAs e c (if isS o.dst then c.toks else c.tok) (actors c o.dst) 3 (homeOf sa) false true true
        (.seal sa (if o.dst = .v 0 then none else some o.dst) c.pc a.2) a.1) := by
  obtain ⟨sa, hsa⟩ := AddrRes.ok_of_passes hp
  rw [hsa]
  simp only [sealAddr] at hsa
  simp only [csealBody, hsa, beq_iff_eq]
  rfl

end

/-- Settles O21: each body is its effect where its descriptor, card or address passes and every further check answers that nothing fails. -/
theorem copiesAndRetrievalComplete : Obligations.CopiesAndRetrievalComplete := by
  unfold Obligations.CopiesAndRetrievalComplete
  refine fun h o => ⟨?cpy, ?cpym, ?rfet, ?rfett, ?cseal⟩
  case cpy =>
    refine completes_of (body := cpyBody o) (fun _ => rfl) fun e c m ⟨hp, hc⟩ => ?_
    rw [cpyBody_passes hp hc]
    simp only [chanOf]
    rfl
  case cpym =>
    refine completes_of (body := cpymBody o) (fun _ => rfl) fun e c m ⟨hs, hd, ⟨col, hcol⟩, ⟨arr, harr⟩, hm, ho, hr⟩ => ?_
    rw [cpymBody_passes hs hd hcol harr hm ho hr]
    simp only [hcol, harr]
    rfl
  case rfet =>
    refine completes_of (body := rfetBody o) (fun _ => rfl) fun e c m ⟨cd, ek, hc, hb, hr⟩ => ?_
    simp only [hc]
    exact rfetBody_retrieves hc hb hr
  case rfett =>
    refine completes_of (body := rfettBody o) (fun _ => rfl) fun e c m ⟨ht, cd, hc, hf, hw, hg, hr⟩ => ?_
    simp only [hc]
    exact rfettBody_retrieves ht hc hf hw hg hr
  case cseal => exact completes_of (body := csealBody o) (fun _ => rfl) fun _ _ _ hp => csealBody_passes hp

end Sys2Proof.Machine
end

section
/-! PROOF. Matrix postings, tile moves, row access and key bounds (09 R277 to R284). -/
namespace Sys2Proof.Machine
open Sys2Proof

theorem any_not_eq_false_of_forall {α : Type} {p : α → Bool} {l : List α} (hp : ∀ a ∈ l, p a = true) : l.any (fun a => !p a) = false := by
  rw [← List.not_all_eq_any_not, List.all_eq_true.mpr hp, Bool.not_true]

section
variable {h : Hdr} {o : FA} {e : Env} {c : Ctx} {m : Mach}

/-! Postings (09 R277 to R281). -/

/-- Tiles that a posting names: the scales of a narrow pass beside C, A and B (09 R278). -/
def postTiles (h : Hdr) (o : FA) : List Nat := [tileNo o.dst, tileNo o.sa, tileNo o.sb] ++ (if 8 ≤ fnLo h then [tileNo o.sc] else [])

/-- Width in bits of the elements of a posting (09 R277). -/
def postWidth (h : Hdr) (o : FA) : Nat := if 8 ≤ fnLo h then o.md.toNat % 8 + 3 else fmtBits (fnLo h)

/-- The reservation of a posting, with the frame by which it may be skipped. -/
def postReq (h : Hdr) (o : FA) (sparse : Bool) (e : Env) (c : Ctx) (m : Mach) (z : Option (Nat × Nat)) : MReq :=
  mkReq e m c o (fnLo h) (postWidth h o) sparse (bitOf h.fn.toNat 4) (if 8 ≤ fnLo h then some (tileNo o.sc) else none) z

theorem postBody_posts {sparse : Bool} {z : Option (Nat × Nat)} (ht : ∀ t ∈ postTiles h o, tileHeld m c.team t = true)
    (hf : postBad m c (fnLo h) (postWidth h o) sparse (tileNo o.dst) (tileNo o.sa) (tileNo o.sb) (tileNo o.sc) = false)
    (hz : zeroSkip e m c (!sparse && bitOf h.fn.toNat 5) o.sc = .ok z) :
    postBody h o sparse e c m = ok (updClus m (clusterOf c.core) (postTo c.g (postReq h o sparse e c m z))) := by
  have hheld := any_not_eq_false_of_forall ht
  simp only [postTiles] at hheld
  simp only [postWidth] at hf
  simp only [postBody, hheld, hf, hz, Bool.false_eq_true, ↓reduceIte]
  rfl

theorem postBody_notHeld {sparse : Bool} (ht : tileHeld m c.team (tileNo o.dst) = false ∨ tileHeld m c.team (tileNo o.sa) = false ∨ tileHeld m c.team (tileNo o.sb) = false) :
    postBody h o sparse e c m = trapOf m cPROT := by
  refine if_pos ?_
  simp only [List.any_append, List.any_cons, List.any_nil, Bool.or_false, Bool.or_eq_true, Bool.not_eq_true']
  exact .inl ht

/-! Tile moves (09 R282). -/

theorem tzroBody_held (ht : tileHeld m c.team (tileNo o.dst) = true) :
    tzroBody o e c m = ok (land m (e.now + 2) [.tile c.core (tileNo o.dst) 0 (List.replicate 16384 0), .himag c.core (tileNo o.dst) true false] c.toks) := by
  simp only [tzroBody, ht, Bool.not_true, Bool.false_eq_true, ↓reduceIte]

theorem tzroBody_notHeld (ht : tileHeld m c.team (tileNo o.dst) = false) : tzroBody o e c m = trapOf m cPROT := by
  simp only [tzroBody, ht, Bool.not_false, ↓reduceIte]

theorem tmovBody_held (hd : tileHeld m c.team (tileNo o.dst) = true) (ha : tileHeld m c.team (tileNo o.sa) = true) :
    tmovBody o e c m = ok (land m (e.now + 4) [.tile c.core (tileNo o.dst) 0 (tileBytes m c.core (tileNo o.sa) 0 16384),
      .himag c.core (tileNo o.dst) true (lget (coreOf m c.core).himag (tileNo o.sa) false)] c.toks) := by
  simp only [tmovBody, hd, ha, Bool.not_true, Bool.or_self, Bool.false_eq_true, ↓reduceIte]

theorem tmovBody_notHeld (ht : tileHeld m c.team (tileNo o.dst) = false ∨ tileHeld m c.team (tileNo o.sa) = false) : tmovBody o e c m = trapOf m cPROT := by
  refine if_pos ?_
  rwa [Bool.or_eq_true, Bool.not_eq_true', Bool.not_eq_true']

/-! Row access (09 R283). -/

/-- The elements that `trmx.get` delivers: zero for a member whose row is none of the tile's. -/
def trmxElems (o : FA) (c : Ctx) (m : Mach) : List Nat :=
  let k := tileNo o.sa
  let tc := shapeOf m c.core k
  (List.range (o.imm.toNat % 32 + 1)).map (fun i =>
    if tcRows tc ≤ trmxRow c o then 0 else tileElem m c.core k (tcEw tc) (trmxRow c o * tcCols tc + bitsOf o.imm.toNat 15 8 + i))

theorem trmxGetBody_reads (hc : trmxCheck m c o (tileNo o.sa) o.dst = none) :
    trmxGetBody h o e c m =
      let tc := shapeOf m c.core (tileNo o.sa)
      let xs := trmxElems o c m
      ok (land m (e.now + 6) ((if h.ws then [] else xs.zipIdx.flatMap (fun x =>
          if tcEw tc = 3 then wrReg c .n64 (opndUp o.dst (2 * x.2)) x.1 else wrReg c .n32 (opndUp o.dst x.2) x.1))
        ++ wrLatch c (if tcEw tc = 3 then .n64 else .n32) o.lt.toNat [c.lane] (xs.headD 0)) c.tok) := by
  simp only [trmxGetBody, hc]
  rfl

/-- The elements that `trmx.put` writes. -/
def trmxSources (o : FA) (e : Env) (c : Ctx) (m : Mach) : List Nat :=
  let tc := shapeOf m c.core (tileNo o.dst)
  (List.range (o.imm.toNat % 32 + 1)).map (fun i =>
    (if tcEw tc = 3 then (readOp e m c .n64 (opndUp o.sa (2 * i))).2 else (readOp e m c .n32 (opndUp o.sa i)).2) % 2 ^ (8 * ewBytes (tcEw tc)))

theorem trmxPutBody_writes (hc : trmxCheck m c o (tileNo o.dst) o.sa = none) :
    trmxPutBody o e c m =
      let k := tileNo o.dst
      let tc := shapeOf m c.core k
      let xs := trmxSources o e c m
      ok (land m (e.now + 6) (if tcRows tc ≤ trmxRow c o then []
        else [.tile c.core k ((trmxRow c o * tcCols tc + bitsOf o.imm.toNat 15 8) * ewBytes (tcEw tc)) (xs.flatMap (toBytes (ewBytes (tcEw tc)))),
          .himag c.core k false (xs.any (hiEw [] (tcEw tc)))]) c.tok) := by
  by_cases hrow : tcRows (shapeOf m c.core (tileNo o.dst)) ≤ trmxRow c o
  · simp only [trmxPutBody, hc, hrow, ↓reduceIte]
  · simp only [trmxPutBody, hc, hrow, ↓reduceIte]
    rfl

/-! Key bounds (09 R284). -/

/-- Both tiles hold rows of f32 of one length, and the block of keys lies in its tile. -/
theorem kbndBody_bounds (hq : tileHeld m c.team (tileNo o.sa) = true) (hs : tileHeld m c.team (tileNo o.sb) = true) (hqw : tcEw (shapeOf m c.core (tileNo o.sa)) = 2)
    (hsw : tcEw (shapeOf m c.core (tileNo o.sb)) = 2) (hcols : tcCols (shapeOf m c.core (tileNo o.sa)) = tcCols (shapeOf m c.core (tileNo o.sb)))
    (hb : 2 * bitsOf o.imm.toNat 15 8 + 2 ≤ tcRows (shapeOf m c.core (tileNo o.sb))) :
    kbndBody h o e c m = ok (resA e c h o .f32 8 (kbndVal e c o m).2 (kbndVal e c o m).1) := by
  simp only [kbndBody, hq, hs, hqw, hsw, hcols, Nat.not_lt.mpr hb, bne_self_eq_false, decide_false, Bool.not_true, Bool.or_self, Bool.false_eq_true, ↓reduceIte]
  rfl

end

/-- Settles O22: the allocation of every tile is looked at first, then its shape. -/
theorem tileInstructionsCompleteOrTrap : Obligations.TileInstructionsCompleteOrTrap := by
  unfold Obligations.TileInstructionsCompleteOrTrap
  refine fun h o => ⟨?tzro, ?tmov, ?get, ?put, ?kbnd, ?mma, ?mmsp, ?tzroStops, ?tmovStops, ?mmaStops⟩
  case tzro => exact completes_of (body := tzroBody o) (fun _ => rfl) fun _ _ _ ht => tzroBody_held ht
  case tmov => exact completes_of (body := tmovBody o) (fun _ => rfl) fun _ _ _ ⟨hd, ha⟩ => tmovBody_held hd ha
  case get => exact completes_of (body := trmxGetBody h o) (fun _ => rfl) fun _ _ _ hc => trmxGetBody_reads hc
  case put => exact completes_of (body := trmxPutBody o) (fun _ => rfl) fun _ _ _ hc => trmxPutBody_writes hc
  case kbnd => exact completes_of (body := kbndBody h o) (fun _ => rfl) fun _ _ _ ⟨hq, hs, hqw, hsw, hcols, hb⟩ => kbndBody_bounds hq hs hqw hsw hcols hb
  case mma =>
    refine completes_of (body := postBody h o false) (fun _ => rfl) fun e c m ⟨ht, hf, z, hz⟩ => ?_
    simp only [hz]
    exact postBody_posts ht hf hz
  case mmsp => exact completes_of (body := postBody h o true) (fun _ => rfl) fun _ _ _ ⟨ht, hf⟩ => postBody_posts ht hf rfl
  case tzroStops => exact stopsAt_of (body := tzroBody o) (fun _ => rfl) fun _ _ _ ht => tzroBody_notHeld ht
  case tmovStops => exact stopsAt_of (body := tmovBody o) (fun _ => rfl) fun _ _ _ ht => tmovBody_notHeld ht
  case mmaStops => exact stopsAt_of (body := postBody h o false) (fun _ => rfl) fun _ _ _ ht => postBody_notHeld ht

end Sys2Proof.Machine
end

section
/-! PROOF. Record instructions (09 R285 to R293). -/
namespace Sys2Proof.Machine
open Sys2Proof

section
variable {h : Hdr} {o : FA} {e : Env} {c : Ctx} {m : Mach}

/-! The current graph of the team (09 R286). -/

theorem onGraph_here {p : Nat → Prop} (hg : onGraph c m p) : teamGraph m c.team = some (graphHere c m) ∧ p (graphHere c m) := by
  obtain ⟨g, hgr, hp⟩ := hg
  have hhere : graphHere c m = g := by rw [graphHere, hgr, Option.getD_some]
  rw [hhere]
  exact ⟨hgr, hp⟩

theorem withGraph_here {k : Nat → BRes} {p : Nat → Prop} (hg : onGraph c m p) : withGraph m c k = k (graphHere c m) := by
  obtain ⟨hgr, _⟩ := onGraph_here hg
  rw [withGraph, hgr]

theorem withGraph_none {k : Nat → BRes} (hn : (teamOf m c.team).graph = none) : withGraph m c k = trapOf m cPROT := by
  rw [withGraph, teamGraph, hn]

/-! Records of a team's graph (09 R287 to R290). -/

theorem ralcBody_asks (hg : onGraph c m (fun g => (readOp e m c .n32 o.sa).2 < gNodes (graphOf m g) ∧ 1 ≤ (readOp e m c .n32 o.sb).2 ∧ (readOp e m c .n32 o.sb).2 ≤ 32)) :
    ralcBody o e c m = ok (askAs e c c.toks c.lanes 3 (catHome (coreDie c.core)) false false false
      (.ralc (graphHere c m) (readOp e m c .n32 o.sa).2 (readOp e m c .n32 o.sb).2 (predNo o.dst) c.lanes) m) := by
  obtain ⟨_, hnode, hlow, hhigh⟩ := onGraph_here hg
  rw [ralcBody, withGraph_here hg]
  simp only [Nat.not_lt.mpr hlow, Nat.not_lt.mpr hhigh, Nat.not_le.mpr hnode, decide_false, Bool.or_self, Bool.false_eq_true, ↓reduceIte]
  rfl

/-- What `rput` and `rput.in` send: the header with the fields that the device fills, and the payload (02 R51, 09 R288). -/
def rputData (o : FA) (e : Env) (c : Ctx) (m : Mach) (accn depth : Nat) : List Byte :=
  let hd := quadOf m c o.sa
  let len := o.imm.toNat % 16
  recordBytes accn (bitsOf hd 63 32) depth len (bitsOf hd 19 8) (bitsOf hd 7 0) (payloadBytes e m c o.sb (16 * len))

/-- The member waits for the answer of its Catalogue to a record. -/
def rputAsked (o : FA) (e : Env) (c : Ctx) (m : Mach) (accn depth : Nat) (isIn : Bool) : Mach :=
  let m1 := waitFor e .answer c m c.lane
  sendThr e m1 c (catHome (coreDie c.core)) false true false (thrOf m1 c.g c.lane).wop (.rput (graphHere c m) (rputData o e c m accn depth) depth isIn (predNo o.dst))

theorem rputBody_derived (hg : onGraph c m (fun _ => True)) :
    rputBody o false e c m = ok (rputAsked o e c m (if (teamOf m c.team).standing then (grpOf m c.g).accn else 0)
      (newDepth m c (graphOf m (graphHere c m)) (bitsOf (quadOf m c o.sa) 7 0)) false) := by
  rw [rputBody, withGraph_here hg]
  cases hs : (teamOf m c.team).standing <;> rfl

theorem rputBody_input (hg : onGraph c m (fun _ => True)) : rputBody o true e c m = ok (rputAsked o e c m 0 0 true) := by
  rw [rputBody, withGraph_here hg]
  rfl

/-- A member in a dispatch finds the dispatch of its group. -/
theorem disp_of_inDispatch (hd : inDispatch m c = true) : ∃ d, (grpOf m c.g).disp = some d := by
  obtain ⟨hsome, _⟩ := (Bool.and_eq_true _ _).mp hd
  exact Option.isSome_iff_exists.mp hsome

/-- A record beyond those of the dispatch reads as zero. -/
theorem rgetBody_beyond (hg : onGraph c m (fun _ => True)) (hd : inDispatch m c = true) (hn : regS m c.g 1 ≤ (readOp e m c .n32 o.sa).2) :
    rgetBody h o e c m =
      let words := 4 * (o.imm.toNat % 16 + 1)
      ok (land (readOp e m c .n32 o.sa).1 (e.now + 8) ((if h.ws then [] else wrWords c o.dst (List.replicate words 0)) ++ wrLatch c .n32 o.lt.toNat [c.lane] 0) c.tok) := by
  obtain ⟨d, hdisp⟩ := disp_of_inDispatch hd
  rw [rgetBody, withGraph_here hg]
  simp only [hd, hdisp, hn, ↓reduceIte]

/-- The load of a record's window slot, of the dispatch `d`; words beyond the slot are zero (09 R289). -/
def rgetAsked (h : Hdr) (o : FA) (e : Env) (c : Ctx) (m : Mach) (d : Disp) : Mach :=
  let r := readOp e m c .n32 o.sa
  let words := 4 * (o.imm.toNat % 16 + 1)
  let slot := 16 * (d.rsz + 1)
  let n := min (4 * words) slot
  let off := (d.base + r.2 * slot) % 2 ^ 20
  let sa := sliceAddr e m c.core off
  let p := openOp r.1 1 (e.now + 2) c.tok
  let zero := if h.ws then [] else (List.range (words - n / 4)).map (fun i => RegWr.v c.g c.lane (vNo o.dst + n / 4 + i) 0 c.sn)
  sendThr e { p.2 with ops := tupd p.2.ops p.1 (fun x => { x with land := { x.land with wr := zero } }) } c (homeOf sa) false false false p.1
    (.load sa n false (if h.ws then .t 0 else o.dst) (some (latchA c o)) c.pc (padVa (markOf e.sys c.part c.core) off))

theorem rgetBody_loads {d : Disp} (hg : onGraph c m (fun _ => True)) (hd : inDispatch m c = true) (hdisp : (grpOf m c.g).disp = some d)
    (hn : (readOp e m c .n32 o.sa).2 < regS m c.g 1) : rgetBody h o e c m = ok (rgetAsked h o e c m d) := by
  rw [rgetBody, withGraph_here hg]
  simp only [hd, hdisp, Nat.not_le.mpr hn, ↓reduceIte]
  rfl

theorem rdonBody_ends (hg : onGraph c m (fun _ => True)) :
    rdonBody e c m = ok (land (if inDispatch m c then updThr m c.g c.lane (fun t => { t with rdon := true, rdonSn := m.serial }) else m) (e.now + 2) [] c.tok) := by
  rw [rdonBody, withGraph_here hg]

/-! Residuals, result words and snapshots (09 R291 to R293). -/

/-- The weight of `rsd`, with the machine in which target and weight have been read. -/
def rsdWeight (o : FA) (e : Env) (c : Ctx) (m : Mach) : Mach × Nat := readOp e (readOp e m c .n32 o.sa).1 c .f32 o.sb

theorem rsdBody_sends (hg : onGraph c m (fun g => targetBad (graphOf m g) (readOp e m c .n32 o.sa).2 = false ∧ wgtBad (rsdWeight o e c m).2 = false)) :
    rsdBody o e c m =
      let g := graphHere c m
      let t := readOp e m c .n32 o.sa
      let w := rsdWeight o e c m
      let p := openOp w.1 1 (e.now + 2) c.tok
      ok (send e (countSent p.2 g (coreDie c.core)) c.core (catHome (blockDie (graphOf m g) (t.2 % 256) (t.2 / 256 % 4096))) true (some c.ref) [c.lane] 3 false true false p.1
        (.rsd g (t.2 % 256) (t.2 / 256 % 4096) (BitVec.ofNat 32 w.2))) := by
  obtain ⟨_, htarget, hweight⟩ := onGraph_here hg
  simp only [rsdWeight] at hweight
  rw [rsdBody, withGraph_here hg]
  simp only [htarget, hweight, Bool.or_self, Bool.false_eq_true, ↓reduceIte]
  rfl

theorem rsdBody_range (hg : onGraph c m (fun g => targetBad (graphOf m g) (readOp e m c .n32 o.sa).2 = true ∨ wgtBad (rsdWeight o e c m).2 = true)) :
    rsdBody o e c m = trapOf (rsdWeight o e c m).1 cRANGE := by
  obtain ⟨_, hbad⟩ := onGraph_here hg
  rw [rsdBody, withGraph_here hg]
  exact if_pos ((Bool.or_eq_true _ _).mpr hbad.symm)

theorem postBodyOf_sends {g : Nat} (hg : (teamOf m c.team).grid = some g) :
    postBodyOf o e c m =
      let x := readOp e m c .s32 o.sa
      ok (askAs e c c.toks c.lanes 3 (feHome (((tget m.grids g).map (·.die)).getD 0)) false true true (.post g (o.imm.toNat % 4) (BitVec.ofNat 32 x.2)) x.1) := by
  simp only [postBodyOf, hg]
  rfl

theorem postBodyOf_noGrid (hn : (teamOf m c.team).grid = none) : postBodyOf o e c m = trapOf m cPROT := by
  simp only [postBodyOf, hn]

theorem snapBody_asks {g : Nat} (hg : snapGraph m c o.imm.toNat = .ok g) (ht : targetBad (graphOf m g) (readOp e m c .n32 o.sa).2 = false) :
    snapBody h o e c m =
      let t := readOp e m c .n32 o.sa
      ok (askAs e c (tokA c o.dst) (actors c o.dst) 3 (catHome (blockDie (graphOf m g) (t.2 % 256) (t.2 / 256 % 4096))) true false false
        (.snap g (t.2 % 256) (t.2 / 256 % 4096) (if h.ws then .t 0 else o.dst) (some (latchA c o))) t.1) := by
  simp only [snapBody, hg, ht, Bool.false_eq_true, ↓reduceIte]
  rfl

end

/-- A team without a graph raises PROT in every instruction that acts on one (09 R286). -/
theorem recordInstructions_stopWithoutGraph (h : Hdr) (o : FA) : ∀ i ∈ [Instr.ralc h o, .rput h o, .rputIn h o, .rget h o, .rdon h o, .rsd h o],
    StopsAt i h (fun _ c m => (teamOf m c.team).graph = none) (fun _ _ _ => ⟨5, 0, 0, false⟩) (fun _ _ m => m) := by
  simp only [List.forall_mem_cons]
  refine ⟨?ralc, ?rput, ?rputIn, ?rget, ?rdon, ?rsd, List.forall_mem_nil _⟩
  case ralc => exact stopsAt_of (body := ralcBody o) (fun _ => rfl) fun _ _ _ hn => withGraph_none hn
  case rput => exact stopsAt_of (body := rputBody o false) (fun _ => rfl) fun _ _ _ hn => withGraph_none hn
  case rputIn => exact stopsAt_of (body := rputBody o true) (fun _ => rfl) fun _ _ _ hn => withGraph_none hn
  case rget => exact stopsAt_of (body := rgetBody h o) (fun _ => rfl) fun _ _ _ hn => withGraph_none hn
  case rdon => exact stopsAt_of (body := rdonBody) (fun _ => rfl) fun _ _ _ hn => withGraph_none hn
  case rsd => exact stopsAt_of (body := rsdBody o) (fun _ => rfl) fun _ _ _ hn => withGraph_none hn

/-- Settles O23: the team's graph, or its grid, is looked for first; then the operands are checked against it. -/
theorem recordInstructionsCompleteOrTrap : Obligations.RecordInstructionsCompleteOrTrap := by
  unfold Obligations.RecordInstructionsCompleteOrTrap
  refine fun h o => ⟨?ralc, ?rput, ?rputIn, ?beyond, ?rget, ?rdon, ?rsd, ?post, ?snap, recordInstructions_stopWithoutGraph h o, ?postStops, ?rsdStops⟩
  case ralc => exact completes_of (body := ralcBody o) (fun _ => rfl) fun _ _ _ hg => ralcBody_asks hg
  case rput => exact completes_of (body := rputBody o false) (fun _ => rfl) fun _ _ _ hg => rputBody_derived hg
  case rputIn => exact completes_of (body := rputBody o true) (fun _ => rfl) fun _ _ _ hg => rputBody_input hg
  case beyond => exact completes_of (body := rgetBody h o) (fun _ => rfl) fun _ _ _ ⟨hg, hd, hn⟩ => rgetBody_beyond hg hd hn
  case rget =>
    refine completes_of (body := rgetBody h o) (fun _ => rfl) fun e c m ⟨hg, hd, hn⟩ => ?_
    obtain ⟨d, hdisp⟩ := disp_of_inDispatch hd
    simp only [hdisp]
    exact rgetBody_loads hg hd hdisp hn
  case rdon => exact completes_of (body := rdonBody) (fun _ => rfl) fun _ _ _ hg => rdonBody_ends hg
  case rsd => exact completes_of (body := rsdBody o) (fun _ => rfl) fun _ _ _ hg => rsdBody_sends hg
  case post =>
    refine completes_of (body := postBodyOf o) (fun _ => rfl) fun e c m hs => ?_
    obtain ⟨g, hg⟩ := Option.isSome_iff_exists.mp hs
    simp only [hg, Option.getD_some]
    exact postBodyOf_sends hg
  case snap =>
    refine completes_of (body := snapBody h o) (fun _ => rfl) fun e c m ⟨g, hg, ht⟩ => ?_
    simp only [hg]
    exact snapBody_asks hg ht
  case postStops => exact stopsAt_of (body := postBodyOf o) (fun _ => rfl) fun _ _ _ hn => postBodyOf_noGrid hn
  case rsdStops => exact stopsAt_of (body := rsdBody o) (fun _ => rfl) fun _ _ _ hg => rsdBody_range hg

end Sys2Proof.Machine
end

section
/-! PROOF. Loop nests and contractions (09 R294 to R300). -/
namespace Sys2Proof.Machine
open Sys2Proof

section
variable {e : Env} {c : Ctx} {m : Mach}

/-! `nest` and `nred` (09 R294 to R297). -/

/-- The batches of a nest from its progress index on. -/
def nestRun (o : FL) (e : Env) (c : Ctx) (m : Mach) : Mach × Option Out := nestGo e c o (lCount o / 32 + 1) c.prog m

theorem nestBody_ends {o : FL} (hb : baseBad m c o (if lNop o = 0 then [0, 2] else [0, 1, 2]) = none) (hr : (nestRun o e c m).2 = none) :
    nestBody o e c m = loopEnd e (nestRun o e c m).1 c (lCount o) := by
  simp only [nestRun] at hr
  simp only [nestBody, hb, hr]
  rfl

/-- The tuples of a reduction from its progress index on. -/
def nredRun (o : FL) (e : Env) (c : Ctx) (m : Mach) : Mach × Option Out := nredGo e c o (lCount o / lExt o 0 - c.prog) c.prog m

theorem nredBody_ends {o : FL} (hb : baseBad m c o (if lNop o = 1 then [0, 1, 2] else [0, 2]) = none) (hr : (nredRun o e c m).2 = none) :
    nredBody o e c m = loopEnd e (nredRun o e c m).1 c (lCount o) := by
  simp only [nredRun] at hr
  simp only [nredBody, hb, hr]
  rfl

/-! `xcon` (09 R298 to R300). -/

variable {o : FE}

/-- What the address checks of a contraction's block answer. -/
def blockAddr (o : FE) (e : Env) (c : Ctx) (m : Mach) : AddrRes := checkAddr e m c ((readOp e m c .n64 o.sa).2 : Int) 128 128 0 false

/-- The block of a contraction, with the machine in which it has been read. -/
def blockRead (o : FE) (e : Env) (c : Ctx) (m : Mach) : Mach × Nat := engRead e m c (blockAddr o e c m).place 128

/-- Handles of the cards of A, B and C in a block (09 R299). -/
def cardA (n : Nat) : Nat := bitsOf n 55 0
def cardB (n : Nat) : Nat := bitsOf n 119 64
def cardC (n : Nat) : Nat := bitsOf n 183 128

/-- Checks 2 and 3 of R300 find nothing in the block `n` with its three cards. -/
structure BlockGood (e : Env) (c : Ctx) (m : Mach) (n : Nat) (ca cb cc : Card) : Prop where
  shape : xBad n ca cb cc = false
  fmt : xFmtBad ca cb cc = false
  reg : fmRefused m c.g (ekOf ca) = false
  tagA : xTagBad e m c n 0 ca = false
  tagB : xTagBad e m c n 1 cb = false

/-- The engine thread of a contraction, forked in machine `m` once the block `n` has been read. -/
def xconForked (o : FE) (e : Env) (c : Ctx) (m : Mach) (n : Nat) : Mach :=
  { [cardA n, cardB n, cardC n].foldl (fun m h => noteCard e m c h) m with
    serial := m.serial + 1
    copies := tset m.copies m.serial { cpymCopy c m 0 0 0 [] none none 0 with
      todo := []
      xcon := some { block := n, cards := [cardA n, cardB n, cardC n].map (cardBits e m c), tile := bitsOf o.ctl.toNat 3 0, cnt := bitsOf o.ctl.toNat 7 4,
                     mode := (grpOf m c.g).mode, fm := (grpOf m c.g).fm, blk := 0, kpos := 0, accs := [], nexts := [], hia := false, hib := false, posted := false } } }

theorem xconBody_noImage (hi : e.sys.dev.images.contains 3 = false) : xconBody o e c m = trapOf m cILLOP := by
  simp only [xconBody, hi, Bool.not_false, ↓reduceIte]

theorem xconBody_forks {ca cb cc : Card} (hi : e.sys.dev.images.contains 3 = true)
    (ht : ∀ i < bitsOf o.ctl.toNat 7 4, tileHeld m c.team (bitsOf o.ctl.toNat 3 0 + i) = true) (hp : (blockAddr o e c m).passes)
    (ha : readCard e (blockRead o e c m).1 c (cardA (blockRead o e c m).2) = .ok ca) (hb : readCard e (blockRead o e c m).1 c (cardB (blockRead o e c m).2) = .ok cb)
    (hc : readCard e (blockRead o e c m).1 c (cardC (blockRead o e c m).2) = .ok cc) (hg : BlockGood e c (blockRead o e c m).1 (blockRead o e c m).2 ca cb cc) :
    xconBody o e c m = ok (xconForked o e c (blockRead o e c m).1 (blockRead o e c m).2) := by
  obtain ⟨hshape, hfmt, hreg, htagA, htagB⟩ := hg
  have hheld : (List.range (bitsOf o.ctl.toNat 7 4)).any (fun i => !tileHeld m c.team (bitsOf o.ctl.toNat 3 0 + i)) = false :=
    any_not_eq_false_of_forall fun i hm => ht i (List.mem_range.mp hm)
  obtain ⟨sa, hsa⟩ := AddrRes.ok_of_passes hp
  simp only [blockRead, hsa, AddrRes.place, cardA, cardB, cardC] at ha hb hc hshape hfmt hreg htagA htagB ⊢
  simp only [blockAddr] at hsa
  simp only [xconBody, hi, hheld, hsa, ha, hb, hc, hshape, hfmt, hreg, htagA, htagB, Bool.not_true, Bool.or_self, Bool.false_eq_true, ↓reduceIte]
  rfl

end

/-- Settles O24: a loop whose bases and every access are good ends with its last write, and a contraction whose block passes forks its engine thread. -/
theorem loopsAndContractionComplete : Obligations.LoopsAndContractionComplete := by
  unfold Obligations.LoopsAndContractionComplete
  refine fun h => ⟨fun o => ?nest, fun o => ?nred, fun o => ?xcon, fun o => ?noImage⟩
  case nest => exact completes_of (body := nestBody o) (fun _ => rfl) fun _ _ _ ⟨hb, hr⟩ => nestBody_ends hb hr
  case nred => exact completes_of (body := nredBody o) (fun _ => rfl) fun _ _ _ ⟨hb, hr⟩ => nredBody_ends hb hr
  case xcon =>
    refine completes_of (body := xconBody o) (fun _ => rfl) fun e c m ⟨hi, ht, hp, ca, cb, cc, ha, hb, hc, hshape, hfmt, hreg, htagA, htagB⟩ => ?_
    exact xconBody_forks hi ht hp ha hb hc ⟨hshape, hfmt, hreg, htagA, htagB⟩
  case noImage => exact stopsAt_of (body := xconBody o) (fun _ => rfl) fun _ _ _ hi => xconBody_noImage hi

end Sys2Proof.Machine
end

section
/-! PROOF. Teams start, standing teams are formed, and grids complete (01 R16, 02 R50, 14 R343). -/
namespace Sys2Proof.Machine
open Sys2Proof

theorem teamStartDo_of {s : State} {k gid en ent : Nat} {g : Grid} {plan : List GPlan} (h : startable s k = some (gid, g, en, ent, plan)) :
    teamStartDo k s = { s with
      m := startTeam s.env s.m gid g en ent plan
      sys := if g.started + 1 < g.nteam then s.sys else { s.sys with waiting := s.sys.waiting.eraseIdx k } } := by
  simp only [teamStartDo, h]
  split <;> rfl

theorem takes_teamStart {s : State} {k : Nat} (h : nextStart s = some k) : Takes .teamStart s (teamStartDo k s) := by
  have ht : Takes .teamStart s (teamStartDo ((nextStart s).getD 0) s) := ev_due (by rw [h]; rfl)
  rwa [h] at ht

theorem standingDo_of {s : State} {k g mk c ent : Nat} (h : formable s k = some (g, mk, c, ent)) :
    standingDo k s =
      let t := standingTeam g (graphOf s.m g) mk ent
      let w := s.sys.waiting.eraseIdx k
      { s with
        sys := { s.sys with waiting := w }
        m := updGraph (initCore t.tiles (takeEntry { s.m with serial := s.m.serial + 1, teams := tset s.m.teams s.m.serial t } ent t.part mk) c) g
          (fun gr => { gr with teams := gr.teams ++ [s.m.serial], starting := w.any (fun x => x.graph.any (fun y => y.1 == g)) }) } := by
  simp only [standingDo, h]

theorem takes_standingTeamFormed {s : State} {k : Nat} (h : nextFormed s = some k) : Takes .standingTeamFormed s (standingDo k s) := by
  have ht : Takes .standingTeamFormed s (standingDo ((nextFormed s).getD 0) s) := ev_due (by rw [h]; rfl)
  rwa [h] at ht

/-- A grid is over when its teams have all started and ended, no write of theirs is left, and, for a launch node, no engine thread of theirs. -/
theorem gridOver_of {m : Mach} {k : Nat} {g : Grid} (hc : g.comp = false) (hs : g.started = g.nteam) (ht : ∀ x ∈ m.teams, x.2.grid = some k → x.2.gone = true)
    (hw : gridWrites m k = false) (hn : g.node = true → ∀ x ∈ m.copies, (teamOf m x.2.team).grid ≠ some k) : gridOver m k g = true := by
  have hteams : m.teams.all (fun x => x.2.grid != some k || x.2.gone) = true := by
    rw [List.all_eq_true]
    intro x hx
    by_cases hg : x.2.grid = some k
    · rw [ht x hx hg, Bool.or_true]
    · rw [bne_iff_ne.mpr hg, Bool.true_or]
  have hcopies : (g.node && m.copies.any (fun x => (teamOf m x.2.team).grid == some k)) = false := by
    rw [Bool.and_eq_false_imp, List.any_eq_false]
    exact fun hg x hx => mt beq_iff_eq.mp (hn hg x hx)
  simp only [gridOver, hc, hs, hteams, hw, hcopies, BEq.rfl, Bool.not_false, Bool.and_self]

/-- Settles O35: each of the three steps is due under the conditions stated, and does what is stated. -/
theorem teamSteps : Obligations.TeamSteps := by
  unfold Obligations.TeamSteps
  refine fun s => ⟨?start, ?formed, ?complete⟩
  case start =>
    intro k gid g en ent plan hn hs
    rw [← teamStartDo_of hs]
    exact takes_teamStart hn
  case formed =>
    intro k g mk c ent hn hf
    have h := takes_standingTeamFormed hn
    rwa [standingDo_of hf] at h
  case complete =>
    intro k g hg hc hs ht hw hn
    have hd : gridDue s k = true := by rw [gridDue, hg]; exact gridOver_of hc hs ht hw hn
    exact ev_due hd

end Sys2Proof.Machine
end

section
/-! SUPPORT. Host queues: what moves past a packet and what counts it (14 R335 to R339), and when the row of a packet is taken. -/
namespace Sys2Proof.Machine
open Sys2Proof

/-! Reads of a queue after an update. -/

@[simp] theorem queueOfNo_updQueue_same (s : State) (q : Nat) (f : Queue → Queue) : queueOfNo (updQueue s q f).sys q = f (queueOfNo s.sys q) := by
  simp only [queueOfNo, updQueue, tget_tset_self, Option.getD_some]

theorem queueOfNo_updQueue_other (s : State) {q k : Nat} (f : Queue → Queue) (h : k ≠ q) : queueOfNo (updQueue s q f).sys k = queueOfNo s.sys k := by
  simp only [queueOfNo, updQueue, tget_tset_other _ _ _ _ h]

/-- An event leaves every queue. -/
theorem queueOfNo_countEvent (sys : Sys) (v now q : Nat) : queueOfNo (countEvent sys v now) q = queueOfNo sys q := rfl

/-! A packet starts. -/

theorem pass_ring {x : Queue} (n : Nat) (h : x.bufs = []) : pass x n = { x with topHead := x.qhead, qhead := x.qhead + BitVec.ofNat 32 n, tops := x.tops + 1 } := by
  simp only [pass, h]

theorem pass_buffer {x : Queue} (n : Nat) {a k id : Nat} {r : List (Nat × Nat × Nat)} (h : x.bufs = (a, k, id) :: r) :
    pass x n = { x with bufs := (a + 8 * n, k - n, id) :: r } := by
  simp only [pass, h]

/-- Moving past a packet moves places alone. -/
theorem pass_keeps (x : Queue) (n : Nat) : pass x n = { x with
    topHead := (pass x n).topHead, qhead := (pass x n).qhead, tops := (pass x n).tops, bufs := (pass x n).bufs } := by
  unfold pass
  split <;> rfl

/-- The packet that a queue holds once it has started. -/
def startedPkt (s : State) (q : Nat) (ws : List Nat) (step ref : Nat) : Pkt :=
  let x := queueOfNo s.sys q
  { id := s.m.serial, words := ws, top := x.tops, lvl := x.bufs.length, parent := ((x.bufs.head?).map (·.2.2)).getD 0, step := step, ref := ref }

section
variable (s : State) (q : Nat) (ws : List Nat) (step ref : Nat)

theorem queueOfNo_startPkt_same : queueOfNo (startPkt s q ws step ref).sys q =
    let y := pass (queueOfNo s.sys q) ws.length
    { y with step := if resumes ws ref then step else y.step, pkts := (queueOfNo s.sys q).pkts ++ [startedPkt s q ws step ref] } := by
  have hp : (pass (queueOfNo s.sys q) ws.length).pkts = (queueOfNo s.sys q).pkts := by rw [pass_keeps]
  simp only [startPkt, queueOfNo_updQueue_same, hp]
  rfl

theorem queueOfNo_startPkt_other {k : Nat} (h : k ≠ q) : queueOfNo (startPkt s q ws step ref).sys k = queueOfNo s.sys k := by
  simp only [startPkt, queueOfNo_updQueue_other s _ h]

theorem startPkt_passed : Passed s q ws step ref (startPkt s q ws step ref) := by
  unfold Passed
  rw [queueOfNo_startPkt_same]
  refine ⟨rfl, fun h => ?ring, fun a k id r h => ?buffer, ?keeps, fun k h => queueOfNo_startPkt_other s q ws step ref h, rfl⟩
  case ring =>
    rw [pass_ring _ h]
    exact ⟨rfl, rfl, rfl, h⟩
  case buffer =>
    rw [pass_buffer _ h]
    exact ⟨rfl, rfl⟩
  case keeps =>
    rw [pass_keeps]
    exact ⟨rfl, rfl, rfl, rfl, rfl, rfl, rfl⟩

end

/-! A packet completes. -/

/-- The queue once a packet of it has completed. -/
def finished (x : Queue) (p : Pkt) : Queue :=
  let y := { x with pkts := x.pkts.filter (fun r => r.id != p.id), owed := if qdAddr x = 0 then 0 else x.owed + 1 }
  if p.lvl = 0 then countTop y p.top else y

@[simp] theorem queueOfNo_finishPkt_same (s : State) (q : Nat) (p : Pkt) : queueOfNo (finishPkt s q p).sys q = finished (queueOfNo s.sys q) p := by
  have hq : queueOfNo (if bitOf (lget p.words 0 0) 8 then countEvent s.sys (queueOfNo s.sys q).vec s.clk.now else s.sys) q = queueOfNo s.sys q := by
    split
    · exact queueOfNo_countEvent _ _ _ _
    · rfl
  simp only [finishPkt, queueOfNo_updQueue_same, hq]
  rfl

/-- The next packet in the order of the ring is counted as it completes. -/
theorem countTop_next {x : Queue} (h : x.doneTops = []) : (countTop x x.count).count = x.count + 1 ∧ (countTop x x.count).doneTops = [] := by
  simp [countTop, h]

/-- A packet that completes changes the queue's packets, its count and the completion words that it owes alone. -/
theorem finished_keeps (x : Queue) (p : Pkt) : finished x p = { x with
    pkts := x.pkts.filter (fun r => r.id != p.id), owed := if qdAddr x = 0 then 0 else x.owed + 1
    count := (finished x p).count, doneTops := (finished x p).doneTops } := by
  by_cases hl : p.lvl = 0
  · simp only [finished, hl, ↓reduceIte]
    rfl
  · simp only [finished, hl, ↓reduceIte]

theorem finished_next {x : Queue} {p : Pkt} (hl : p.lvl = 0) (ht : p.top = x.count) (hd : x.doneTops = []) :
    (finished x p).count = x.count + 1 ∧ (finished x p).doneTops = [] := by
  simp only [finished, hl, ht, ↓reduceIte]
  exact countTop_next hd

theorem startDone_eq (s : State) (q : Nat) (ws : List Nat) : startDone s q ws = finishPkt (startPkt s q ws 0 0) q (startedPkt s q ws 0 0) := by
  simp only [startDone, queueOfNo_startPkt_same, List.getLast?_concat]

theorem startDone_counted (s : State) (q : Nat) (ws : List Nat) : Counted s q ws (startDone s q ws) := by
  unfold Counted
  rw [startDone_eq, queueOfNo_finishPkt_same, finished_keeps, queueOfNo_startPkt_same]
  refine ⟨fun p hp => ?gone, fun h => ?ring, ?owed, rfl⟩
  case gone => exact bne_iff_ne.mp (List.mem_filter.mp hp).2
  case ring =>
    rw [pass_ring _ h]
    exact ⟨rfl, rfl, fun ht hd => finished_next (congrArg List.length h) ht hd⟩
  case owed =>
    rw [pass_keeps]
    rfl

/-! The row of a packet is taken. -/

section
variable {s : State} {q row : Nat} {i : Instr} {name : String} {f : Nat → List Nat → State → Except (Nat × Nat) State}
  (he : exec i s = ev (pktDue s q row) name (runRow f q s))
include he

/-- A packet that is read and passes the checks of its row has the row's effect. -/
theorem takes_packet {ws : List Nat} {t : State} (hr : Reads s q row ws) (hf : f q ws s = .ok t) : Takes i s (spend (queueOfNo s.sys q).part 0 t) := by
  have hd : pktDue s q row = true := by simp only [pktDue, hr.serves, hr.next, Option.any_some, BEq.rfl, Bool.and_self]
  rw [Takes, he, ev_due hd]
  simp only [runRow, hr.next, hf]

/-- A packet that cannot be read stops its queue. -/
theorem takes_stop {c d : Nat} (hs : serving s (queueOfNo s.sys q).part q = true) (hp : peek s q = some (row, .error (c, d))) :
    Takes i s (spend (queueOfNo s.sys q).part 0 (updQueue s q (fun x => stopAtPkt x c d))) := by
  have hd : pktDue s q row = true := by simp only [pktDue, hs, hp, Option.any_some, BEq.rfl, Bool.and_self]
  rw [Takes, he, ev_due hd]
  simp only [runRow, hp]

end

end Sys2Proof.Machine
end

section
/-! PROOF. The registers of a host queue, and the packets of each type but GRAPH (14 R335 to R343). -/
namespace Sys2Proof.Machine
open Sys2Proof

/-- A write to a register of a queue that is there, at a level that answers it. -/
theorem queueReg_writes {s t : State} {q : Nat} (hl : 1 ≤ s.sys.dev.level) (hq : q < 64) :
    (if (decide (s.sys.dev.level = 0) || decide (64 ≤ q)) = true then s else t) = t := by
  refine if_neg ?_
  rw [Bool.or_eq_true, decide_eq_true_eq, decide_eq_true_eq]
  omega

section
variable {s : State} {q : Nat} {ws : List Nat}

/-! What a packet that passes the checks of its row does. -/

/-- A grid is named by the serial at its launch. -/
theorem newGrid_serial (s : State) (part : Nat) (lp maps : List Nat) (node : Bool) : (newGrid s part lp maps node).1 = s.m.serial := rfl

theorem launchPktDo_ok {maps : List Nat} (h : checkLaunch s.env s.m (queueOfNo s.sys q).part ws false = .ok maps) :
    launchPktDo q ws s = .ok (startPkt (newGrid s (queueOfNo s.sys q).part ws maps false).2 q ws 1 s.m.serial) := by
  unfold launchPktDo
  rw [partOfQueue, h, ← newGrid_serial s (queueOfNo s.sys q).part ws maps false]

theorem writeDo_ok {sa : Nat} (h : agentAddr s.env s.m (queueOfNo s.sys q).part (lget ws 1 0) 8 1 = .ok sa) :
    writeDo q ws s = .ok (startPkt (feStore s sa (lget ws 2 0)) q ws 0 s.m.serial) := by
  simp only [writeDo, partOfQueue, h]

theorem waitDo_ok {v : Nat} (h : agentNat s.env s.m (queueOfNo s.sys q).part (lget ws 1 0) 8 = .ok v) : waitDo q ws s = .ok (startPkt s q ws 0 0) := by
  simp only [waitDo, partOfQueue, h]

theorem indirectDo_ok {v : Nat} (h : agentNat s.env s.m (queueOfNo s.sys q).part (lget ws 1 0) 8 = .ok v) :
    indirectDo q ws s = .ok (updQueue (startPkt s q ws 0 0) q (fun x => { x with bufs := (lget ws 1 0, hArg (lget ws 0 0), s.m.serial) :: x.bufs })) := by
  simp only [indirectDo, partOfQueue, h]

/-- An INPUT whose record fits its node starts, and waits where the pool has no slot. -/
theorem inputPktDo_ok {gr : Graph} (hg : graphFor s.m (queueOfNo s.sys q).part (hArg (lget ws 0 0)) = some gr)
    (hi : inGraph gr (bitsOf (ofBytes ((inputRecord ws).take 16)) 7 0) (bitsOf (ofBytes ((inputRecord ws).take 16)) 19 8) = true)
    (hz : bitsOf (ofBytes ((inputRecord ws).take 16)) 23 20 ≤ nRsz gr (bitsOf (ofBytes ((inputRecord ws).take 16)) 7 0))
    (hw : wgtBad (bitsOf (ofBytes ((inputRecord ws).take 16)) 63 32) = false) :
    inputPktDo q ws s = .ok (match sendInput s (hArg (lget ws 0 0)) (inputRecord ws) with
      | some s1 => startPkt s1 q ws 0 s.m.serial
      | none => startPkt s q ws 0 0) := by
  simp only [inputPktDo, partOfQueue, hg, hi, Nat.not_lt.mpr hz, hw, Bool.not_true, decide_false, Bool.or_self, Bool.false_eq_true, ↓reduceIte]
  cases sendInput s (hArg (lget ws 0 0)) (inputRecord ws) <;> rfl

end

/-- Settles O36: what moves a queue past a packet is said once, and each packet that is read takes its row with the row's effect. -/
theorem queuePacketsStart : Obligations.QueuePacketsStart := by
  unfold Obligations.QueuePacketsStart
  refine fun s q => ⟨?tail, ?run, startPkt_passed (q := q), startDone_counted (q := q), ?nop, ?launch, ?write, ?signal, ?wait, ?indirect, ?trigger, ?input⟩
  case tail => exact fun v hl hq => congrArg Host.Outcome.next (queueReg_writes hl hq)
  case run => exact fun r hl hq => congrArg Host.Outcome.next (queueReg_writes hl hq)
  case nop => exact fun ws hr => takes_packet (f := nopDo) rfl hr rfl
  case launch =>
    intro ws maps hr hc
    have hgrid : ∃ g, tget (newGrid s (queueOfNo s.sys q).part ws maps false).2.m.grids s.m.serial = some g ∧ g.lp = ws ∧ g.maps = maps ∧
        g.part = (queueOfNo s.sys q).part ∧ g.nteam = maps.length ∧ g.started = 0 ∧ g.comp = false :=
      ⟨_, tget_tset_self _ _ _, rfl, rfl, rfl, rfl, rfl, rfl⟩
    exact ⟨⟨rfl, rfl, hgrid⟩, takes_packet (f := launchPktDo) rfl hr (launchPktDo_ok hc)⟩
  case write => exact fun ws sa hr ha => takes_packet (f := writeDo) rfl hr (writeDo_ok ha)
  case signal => exact fun ws sa hr ha => takes_packet (f := writeDo) rfl hr (writeDo_ok ha)
  case wait => exact fun ws v hr ha => takes_packet (f := waitDo) rfl hr (waitDo_ok ha)
  case indirect => exact fun ws v hr ha => takes_packet (f := indirectDo) rfl hr (indirectDo_ok ha)
  case trigger => exact fun ws hr => takes_packet (f := triggerDo) rfl hr rfl
  case input => exact fun ws gr hr hg hi hz hw => takes_packet (f := inputPktDo) rfl hr (inputPktDo_ok hg hi hz hw)

end Sys2Proof.Machine
end

section
/-! PROOF. GRAPH packets: standing graphs and task graphs (02 R50, 14 R345, R350, R351). -/
namespace Sys2Proof.Machine
open Sys2Proof

/-! The start of a standing graph (02 R50). -/

/-- A graph with its descriptors and its standing-team record read anew. -/
def readied (gr : Graph) (b : List Byte) : Graph :=
  { gr with nodes := gr.desc, entry := gr.entry.take 16 ++ (List.range 4).map (fun i => ofBytes ((b.drop (8 * i)).take 8)) }

/-- Marks of a graph on which no standing team of it stands yet. -/
def marksToForm (s : State) (g : Nat) (gr : Graph) : List Nat :=
  let stand := s.m.teams.filterMap (fun x => if x.2.standing && !x.2.gone && x.2.graph == some g then x.2.marks.head?.map (·.1) else none)
  (graphMarks s.env gr).filter (fun k => !stand.contains k)

/-- The graph runs once the standing teams on those marks have been formed, for which they wait. -/
def graphStarted (s : State) (g : Nat) (gr : Graph) : State :=
  { s with
    sys := { s.sys with waiting := s.sys.waiting ++ (marksToForm s g gr).map (fun k => { grid := none, graph := some (g, k) }) }
    m := updGraph s.m g (fun _ => { gr with running := true, starting := !(marksToForm s g gr).isEmpty, stopping := false }) }

section
variable {s : State} {p g : Nat} {gr : Graph} (hg : graphFor s.m p g = some gr)
include hg

/-- A graph that runs stays as it is. -/
theorem startGraph_running (hr : gr.running = true) : startGraph s p g = .ok s := by
  simp only [startGraph, hg, hr, ↓reduceIte]

theorem startGraph_starts {b : List Byte} (hr : gr.running = false) (hb : agentRead s.env s.m p 3 (65536 * gfield gr 249 210) 32 = .ok b)
    (he : (partOf s.sys p).en = true) (hs : staOk (readied gr b) = true) (hn : ∀ n, n < gNodes (readied gr b) → nodeOk s.env s.m (readied gr b) n = true) :
    startGraph s p g = .ok (graphStarted s g (readied gr b)) := by
  have hall : (List.range (gNodes (readied gr b))).all (nodeOk s.env s.m (readied gr b)) = true :=
    List.all_eq_true.mpr fun n hm => hn n (List.mem_range.mp hm)
  have hgo : (!(partOf s.sys p).en || !staOk (readied gr b) || !(List.range (gNodes (readied gr b))).all (nodeOk s.env s.m (readied gr b))) = false := by
    rw [he, hs, hall]
    rfl
  simp only [startGraph, hg, hb, if_neg (Bool.eq_false_iff.mp hr)]
  exact if_neg (Bool.eq_false_iff.mp hgo)

end

/-! What a packet that passes the checks of its row does. -/

section
variable {s : State} {q : Nat} {ws : List Nat}

theorem loadDo_ok {gr : Graph} (h : tget s.m.graphs (bitsOf (hArg (lget ws 0 0)) 13 8) = none)
    (hr : readGraph s.env s.m (queueOfNo s.sys q).part (lget ws 1 0) = .ok gr) (he : entryOk s.sys s.m (bitsOf (hArg (lget ws 0 0)) 13 8) gr = true) :
    loadDo q ws s = .ok (startDone { s with m := { s.m with graphs := tset s.m.graphs (bitsOf (hArg (lget ws 0 0)) 13 8) gr } } q ws) := by
  simp only [loadDo, partOfQueue, h, hr, he, Option.isSome_none, Bool.false_eq_true, ↓reduceIte]

theorem startPktDo_ok {t : State} (h : startGraph s (queueOfNo s.sys q).part (bitsOf (hArg (lget ws 0 0)) 13 8) = .ok t) :
    startPktDo q ws s = .ok (startPkt t q ws 0 0) := by
  simp only [startPktDo, partOfQueue, h]

theorem stopPktDo_ok {gr : Graph} (h : graphFor s.m (queueOfNo s.sys q).part (bitsOf (hArg (lget ws 0 0)) 13 8) = some gr) :
    stopPktDo q ws s = .ok (startPkt (stopGraph s (bitsOf (hArg (lget ws 0 0)) 13 8)) q ws 0 0) := by
  simp only [stopPktDo, partOfQueue, h]

theorem loadTaskDo_ok {t : Task} (h : tget s.sys.tasks (taskKey (queueOfNo s.sys q).part (bitsOf (hArg (lget ws 0 0)) 13 8)) = none)
    (hr : readTask s.env s.m (queueOfNo s.sys q).part (lget ws 1 0) = .ok (some t)) :
    loadTaskDo q ws s = .ok (startDone
      { s with sys := { s.sys with tasks := tset s.sys.tasks (taskKey (queueOfNo s.sys q).part (bitsOf (hArg (lget ws 0 0)) 13 8)) t } } q ws) := by
  simp only [loadTaskDo, partOfQueue, h, hr, Option.isSome_none, Bool.false_eq_true, ↓reduceIte]

theorem unloadTaskDo_ok {t : Task} (h : tget s.sys.tasks (taskKey (queueOfNo s.sys q).part (bitsOf (hArg (lget ws 0 0)) 13 8)) = some t) :
    unloadTaskDo q ws s = .ok (startPkt
      (withSys s (fun y => { y with
        tasks := if t.node.isNone then tdel y.tasks (taskKey (queueOfNo s.sys q).part (bitsOf (hArg (lget ws 0 0)) 13 8))
          else tset y.tasks (taskKey (queueOfNo s.sys q).part (bitsOf (hArg (lget ws 0 0)) 13 8)) { t with unload := true } })) q ws 0 0) := by
  simp only [unloadTaskDo, partOfQueue, h]
  rfl

end

/-! Ops 2, 3 and 4 complete once no dispatch of the graph runs. -/

section
variable {s : State} {q : Nat} {p : Pkt} (ht : hType (lget p.words 0 0) = 6)
  (hs : (tget s.m.graphs (bitsOf (hArg (lget p.words 0 0)) 13 8)).all graphStill = true)
include ht hs

theorem pktDone_stop (ho : bitsOf (hArg (lget p.words 0 0)) 3 0 = 2) : pktDone s q p = some s := by
  simp only [pktDone, ht, ho, hs, ↓reduceIte]

theorem pktDone_reset (ho : bitsOf (hArg (lget p.words 0 0)) 3 0 = 3) :
    pktDone s q p = some { s with m := clearGraph s.m (bitsOf (hArg (lget p.words 0 0)) 13 8) } := by
  simp only [pktDone, ht, ho, hs, ↓reduceIte]

theorem pktDone_unload (ho : bitsOf (hArg (lget p.words 0 0)) 3 0 = 4) :
    pktDone s q p = some { s with m := { s.m with graphs := tdel s.m.graphs (bitsOf (hArg (lget p.words 0 0)) 13 8) } } := by
  simp only [pktDone, ht, ho, hs, ↓reduceIte]

end

/-- Settles O37: each GRAPH packet that is read takes its row with the row's effect, and a stop, reset or unload is complete once the graph is still. -/
theorem graphPacketsStart : Obligations.GraphPacketsStart := by
  unfold Obligations.GraphPacketsStart
  refine fun s q ws => ⟨?load, ?running, ?starts, ?stops, ?completes, ?loadTask, ?unloadTask⟩
  case load => exact fun gr hr hg hrd he => takes_packet (f := loadDo) rfl hr (loadDo_ok hg hrd he)
  case running => exact fun gr hg hrun hr => takes_packet (f := startPktDo) rfl hr (startPktDo_ok (startGraph_running hg hrun))
  case starts =>
    intro gr b hg hrun hr hb gr' he hs hn
    exact takes_packet (f := startPktDo) rfl hr (startPktDo_ok (startGraph_starts hg hrun hb he hs hn))
  case stops =>
    intro gr hg
    have hok := stopPktDo_ok hg
    exact ⟨fun hr => takes_packet (f := stopPktDo) rfl hr hok, fun hr => takes_packet (f := stopPktDo) rfl hr hok, fun hr => takes_packet (f := stopPktDo) rfl hr hok⟩
  case completes => exact fun s1 x p ht _ hs => ⟨pktDone_stop ht hs, pktDone_reset ht hs, pktDone_unload ht hs⟩
  case loadTask => exact fun t hr hg hrd => takes_packet (f := loadTaskDo) rfl hr (loadTaskDo_ok hg hrd)
  case unloadTask => exact fun t hr hg => takes_packet (f := unloadTaskDo) rfl hr (unloadTaskDo_ok hg)

end Sys2Proof.Machine
end

section
/-! PROOF. What stops a host queue, pool slots that become free, and completion words (14 R337 to R340). -/
namespace Sys2Proof.Machine
open Sys2Proof

/-- Every row of the packet table runs the next packet of its queue. -/
theorem exec_packetRow {r : Nat × (Nat → Instr)} (q : Nat) (hr : r ∈ packetRows) : ∃ name f, ∀ s, exec (r.2 q) s = ev (pktDue s q r.1) name (runRow f q s) := by
  simp only [packetRows, List.mem_cons, List.not_mem_nil, or_false] at hr
  rcases hr with rfl | rfl | rfl | rfl | rfl | rfl | rfl | rfl | rfl | rfl | rfl | rfl | rfl | rfl | rfl <;> exact ⟨_, _, fun _ => rfl⟩

section
variable {s s1 : State} {k q : Nat} {p : Pkt} (hk : pktById s k = some (q, p)) (hs : sendInput s (hArg (lget p.words 0 0)) (inputRecord p.words) = some s1)
include hk hs

theorem slotDue_of (ht : hType (lget p.words 0 0) = 7) (hr : p.ref = 0) (hv : serving s (partOfQueue s q) q = true) (hq : queueOn (queueOfNo s.sys q) = true) :
    slotDue s k = true := by
  simp only [slotDue, hk, ht, hr, hv, hq, hs, BEq.rfl, Option.isSome_some, Bool.or_true, Bool.and_self]

/-- The packet's record takes the slot. -/
theorem slotDo_sends (hg : graphFor s.m (partOfQueue s q) (hArg (lget p.words 0 0)) ≠ none) :
    slotDo k s = spend (partOfQueue s q) 0
      (updQueue s1 q (fun x => { x with pkts := x.pkts.map (fun r => if r.id = k then { r with ref := s.m.serial } else r) })) := by
  obtain ⟨gr, hg⟩ := Option.ne_none_iff_exists'.mp hg
  simp only [slotDo, hk, hg, hs]

end

theorem owedDue_of {s : State} {q : Nat} (ho : 0 < (queueOfNo s.sys q).owed) (hd : qdAddr (queueOfNo s.sys q) ≠ 0) (hp : (queueOfNo s.sys q).part < 16)
    (hf : ¬ ((queueOfNo s.sys q).fault ≠ 0 ∧ (queueOfNo s.sys q).detail = 255)) : owedDue s q = true := by
  have hb : ((queueOfNo s.sys q).fault != 0 && (queueOfNo s.sys q).detail == 255) = false := by
    rw [Bool.eq_false_iff, ne_eq, Bool.and_eq_true, bne_iff_ne, beq_iff_eq]
    exact hf
  simp only [owedDue, ho, bne_iff_ne.mpr hd, hp, hb, decide_true, Bool.not_false, Bool.and_self]

theorem owedDo_stores {s : State} {q sa : Nat} (h : agentAddr s.env s.m (queueOfNo s.sys q).part (qdAddr (queueOfNo s.sys q)) 8 1 = .ok sa) :
    owedDo q s = updQueue (feStore s sa ((queueOfNo s.sys q).count % 2 ^ 64)) q (fun x => { x with owed := x.owed - 1 }) := by
  simp only [owedDo, h]

/-- Settles O38: whichever row reads a packet that fails stops its queue; a freed slot and an owed completion word are due where stated. -/
theorem queueStopsAndCompletions : Obligations.QueueStopsAndCompletions := by
  unfold Obligations.QueueStopsAndCompletions
  refine fun s => ⟨?stop, ?slot, ?word⟩
  case stop =>
    intro q row c d hs hp i hi hrow
    obtain ⟨r, hr, rfl⟩ := List.mem_map.mp (show i ∈ packetRows.map (fun r => (r.1, r.2 q)) from hi)
    obtain ⟨name, f, he⟩ := exec_packetRow q hr
    subst hrow
    exact takes_stop (he s) hs hp
  case slot =>
    intro k q p s1 hk ht hr hv hq hg hs
    rw [← slotDo_sends hk hs hg]
    exact ev_due (slotDue_of hk hs ht hr hv hq)
  case word =>
    rintro q _ sa rfl ho hd hp hf ha
    rw [← owedDo_stores ha]
    exact ev_due (owedDue_of ho hd hp hf)

end Sys2Proof.Machine
end

section
/-! PROOF. Task graphs: their nodes, their triggers and the end of a run (14 R344, R346). -/
namespace Sys2Proof.Machine
open Sys2Proof

/-- A step of a task graph that is due acts on its task. -/
theorem takes_onTask {s : State} {part g : Nat} {i : Instr} {due : Bool} {name : String} {f : Task → State → State} {t : Task}
    (he : exec i s = ev due name (onTask part g f s)) (hd : due = true) (ht : taskOf s.sys part g = some t) : Takes i s (spend part 1 (f t s)) := by
  rw [Takes, he, ev_due hd]
  simp only [onTask, ht]

section
variable {s : State} {kind part g : Nat} {t : Task} (ha : AtNode s kind part g t) (hp : t.phase = 0)
include ha hp

/-- A node that has not begun takes a step. -/
theorem nodeDue_of : nodeDue s kind part g = true := by
  have hrun : t.node.isSome = true := Option.isSome_iff_ne_none.mpr ha.run
  have hend : (t.phase != endPhase) = true := by rw [hp]; rfl
  have hready : nodeReady s part t = true := by simp only [nodeReady, hp, ↓reduceIte]
  simp only [nodeDue, ha.task, hrun, hend, ha.kind, ha.serves, hready, BEq.rfl, Bool.and_self]

theorem takes_node {i : Instr} {name : String} {f : Task → State → State} (he : exec i s = ev (nodeDue s kind part g) name (onTask part g f s)) :
    Takes i s (spend part 1 (f t s)) := takes_onTask he (nodeDue_of ha hp) ha.task

end

/-! What each node does in its first phase. -/

section
variable {s : State} {part g : Nat} {t : Task}

theorem launchNodeDo_launches {lp maps : List Nat} (hp : t.phase = 0) (hn : nodePacket s.env s.m part (tArgA (curNode t)) = .ok lp) (ht : hType (lget lp 0 0) = 1)
    (hc : checkLaunch s.env s.m part lp true = .ok maps) :
    launchNodeDo part g t s =
      let r := newGrid { s with m := dropGrid s.m (lget t.grids (t.node.getD 0) 0) } part lp maps true
      updTask r.2 part g (fun u => { u with phase := 1, ref := r.1, grids := setAt u.grids (t.node.getD 0) r.1 }) := by
  simp only [launchNodeDo, hp, hn, ht, hc, Nat.zero_ne_one, ne_eq, not_true_eq_false, ↓reduceIte]

theorem standingNodeDo_starts {gr : Graph} {s1 : State} (hp : t.phase = 0) (hg : graphFor s.m part (bitsOf (tArgC (curNode t)) 5 0) = some gr)
    (hs : startGraph s part (bitsOf (tArgC (curNode t)) 5 0) = .ok s1) :
    standingNodeDo part g t s = updTask s1 part g (fun t => { t with phase := 1, ref := gr.seq }) := by
  simp only [standingNodeDo, hp, hg, hs, Nat.zero_ne_one, ↓reduceIte]

theorem loopNodeDo_eq : loopNodeDo part g t s = updTask s part g (fun u =>
    if lget t.ctrs (t.node.getD 0) 0 < tArgC (curNode t) then goNext 1 { u with ctrs := setAt u.ctrs (t.node.getD 0) (lget t.ctrs (t.node.getD 0) 0 + 1) }
    else goNext 0 { u with ctrs := setAt u.ctrs (t.node.getD 0) 0 }) := by
  unfold loopNodeDo
  by_cases hc : lget t.ctrs (t.node.getD 0) 0 < tArgC (curNode t)
  · simp only [hc, ↓reduceIte]
  · simp only [hc, ↓reduceIte]

theorem signalNodeDo_stores {sa : Nat} (hp : t.phase = 0) (ha : agentAddr s.env s.m part (tArgA (curNode t)) 8 1 = .ok sa) :
    signalNodeDo part g t s = updTask (feStore s sa (tArgB (curNode t))) part g (fun t => { t with phase := 1, ref := s.m.serial }) := by
  simp only [signalNodeDo, hp, ha, Nat.zero_ne_one, ↓reduceIte]

/-- The wait of a wait node begins once. -/
theorem waitNodeDue_of (ha : AtNode s 5 part g t) (hp : t.phase = 0) : waitNodeDue s part g = true := by
  simp only [waitNodeDue, nodeDue_of ha hp, ha.task, hp, Option.any_some, BEq.rfl, Bool.and_self]

theorem runEndDue_of (ht : taskOf s.sys part g = some t) (hn : t.node ≠ none) (hp : t.phase = 99) (hs : serving s part (64 + g) = true) :
    runEndDue s part g = true := by
  have hrun : t.node.isSome = true := Option.isSome_iff_ne_none.mpr hn
  simp only [runEndDue, ht, hrun, hp, hs, endPhase, Option.any_some, BEq.rfl, Bool.and_self]

end

/-- Settles O39: each node in its first phase, a trigger and the end of a run do what is stated. -/
theorem taskGraphSteps : Obligations.TaskGraphSteps := by
  unfold Obligations.TaskGraphSteps
  refine fun s part g => ⟨?launch, ?standing, ?conditional, ?loop, ?copy, ?wait, ?signal, ?trigger, ?runEnd⟩
  case launch =>
    intro t lp maps ha hp hn ht hc
    have h : Takes (.launchNode part g) s (spend part 1 (launchNodeDo part g t s)) := takes_node ha hp rfl
    rwa [launchNodeDo_launches hp hn ht hc] at h
  case standing =>
    intro t gr s1 ha hp hg hs
    have h : Takes (.standingNode part g) s (spend part 1 (standingNodeDo part g t s)) := takes_node ha hp rfl
    rwa [standingNodeDo_starts hp hg hs] at h
  case conditional => exact fun t ha hp => takes_node (f := condNodeDo part g) ha hp rfl
  case loop =>
    intro t ha hp
    have h : Takes (.loopNode part g) s (spend part 1 (loopNodeDo part g t s)) := takes_node ha hp rfl
    rwa [loopNodeDo_eq] at h
  case copy => exact fun t ha hp => takes_node (f := copyNodeDo part g) ha hp rfl
  case wait => exact fun t ha hp => takes_onTask (f := fun _ s => updTask s part g (fun t => { t with phase := 1 })) rfl (waitNodeDue_of ha hp) ha.task
  case signal =>
    intro t sa ha hp hsa
    have h : Takes (.signalNode part g) s (spend part 1 (signalNodeDo part g t s)) := takes_node ha hp rfl
    rwa [signalNodeDo_stores hp hsa] at h
  case trigger => rfl
  case runEnd => exact fun t ht hn hp hs => takes_onTask (f := runEndDo part g) rfl (runEndDue_of ht hn hp hs) ht

end Sys2Proof.Machine
end

section
/-! PROOF. WAIT packets, time slices and interrupt messages (14 R337, R346, R348, R349). -/
namespace Sys2Proof.Machine
open Sys2Proof

/-! WAIT: an even number names a packet. -/

section
variable {s : State} {k q v : Nat} {p : Pkt} (hk : pktById s k = some (q, p))
  (ha : agentNat s.env s.m (partOfQueue s q) (lget p.words 1 0) 8 = .ok v)
include hk ha

theorem waitMetDue_packet (ht : hType (lget p.words 0 0) = 4) (hq : queueOn (queueOfNo s.sys q) = true) (hs : serving s (partOfQueue s q) q = true)
    (hw : waitHolds (bitsOf (hArg (lget p.words 0 0)) 2 0) v (lget p.words 2 0) = true) : waitMetDue s (2 * k) = true := by
  have h2 : 2 * k % 2 ≠ 1 := by omega
  simp only [waitMetDue, h2, Nat.mul_div_cancel_left k Nat.two_pos, hk, ha, ht, hq, hs, hw, BEq.rfl, Bool.and_self, ↓reduceIte]

theorem waitMetDo_packet : waitMetDo (2 * k) s = spend (partOfQueue s q) 0 (finishPkt (feAcquire s (partOfQueue s q) (lget p.words 1 0)) q p) := by
  have h2 : 2 * k % 2 ≠ 1 := by omega
  simp only [waitMetDo, h2, Nat.mul_div_cancel_left k Nat.two_pos, hk, ha, ↓reduceIte]

end

/-! Time slices. -/

theorem sliceDue_of {s : State} {p i : Nat} (hi : inSignal s p (sliceOfPart s.sys p).cur = false) (hl : 2 ≤ s.sys.dev.level) (hd : (sliceOfPart s.sys p).due ≤ s.clk.now)
    (he : (sliceOfPart s.sys p).ends ≤ s.clk.now ∨ itemWork s p (sliceOfPart s.sys p).cur = false) (hn : nextItem s p = some i) : sliceDue s p = true := by
  have hb : (decide ((sliceOfPart s.sys p).ends ≤ s.clk.now) || !itemWork s p (sliceOfPart s.sys p).cur) = true := by
    rwa [Bool.or_eq_true, decide_eq_true_eq, Bool.not_eq_true']
  simp only [sliceDue, hi, hl, hd, hb, hn, decide_true, Bool.not_false, Option.isSome_some, Bool.and_self]

theorem sliceDo_switches {s : State} {p i : Nat} (hn : nextItem s p = some i) : sliceDo p s = withSys s (fun y => { y with
    slice := tset y.slice p { sliceOfPart s.sys p with cur := i, ends := s.clk.now + (sliceOfPart s.sys p).len } }) := by
  simp only [sliceDo, hn]
  rfl

/-! Interrupt messages. -/

/-- A vector's register asks for a message by its count, or by the age of its first event. -/
theorem vecFull_of {now : Nat} {x : Vec} (hp : 1 ≤ x.pend) (h : max 1 x.cnt ≤ x.pend ∨ (x.time ≠ 0 ∧ x.first + x.time ≤ now)) : vecFull now x = true := by
  rw [vecFull, Bool.and_eq_true, Bool.or_eq_true, Bool.and_eq_true, bne_iff_ne, decide_eq_true_eq, decide_eq_true_eq, decide_eq_true_eq]
  exact ⟨hp, h⟩

/-- Settles O40: each of the steps is due under the conditions stated, and does what is stated. -/
theorem waitsSlicesAndInterrupts : Obligations.WaitsSlicesAndInterrupts := by
  unfold Obligations.WaitsSlicesAndInterrupts
  refine fun s => ⟨?wait, ?slice, ?message, ?unmask⟩
  case wait =>
    intro k q p v hk ht hq hs ha hw
    rw [← waitMetDo_packet hk ha]
    exact ev_due (waitMetDue_packet hk ha ht hq hs hw)
  case slice =>
    intro p i hi hl hd he hn
    rw [← sliceDo_switches hn]
    exact ev_due (sliceDue_of hi hl hd he hn)
  case message =>
    rintro v _ rfl hm hp hf
    have hd : msixDue s v = true := by rw [msixDue, hm, vecFull_of hp hf]; rfl
    exact ev_due hd
  case unmask => exact fun v hv => congrArg Host.Outcome.next (if_pos hv)

end Sys2Proof.Machine
end

section
/-! PROOF. Traps: `trap` and `brk` raise their causes (16 R375), a trap saves the state of its thread in the record, and a return restores it (16 R363, R364, R376). -/
namespace Sys2Proof.Machine
open Sys2Proof

/-- Settles O25: neither body does anything but raise its cause, `brk` after the stop that STOPALL asks for. -/
theorem trapAndBreakRaise : Obligations.TrapAndBreakRaise := by
  unfold Obligations.TrapAndBreakRaise
  refine fun h o => ⟨?trap, ?brk⟩
  case trap => exact stopsAt_of (body := trapBody o) (fun _ => rfl) (fun _ _ _ _ => rfl)
  case brk => exact stopsAt_of (body := brkBody o) (fun _ => rfl) (fun _ _ _ _ => rfl)

/-! The trap record, word by word (16 R364). -/

section
variable (t : Thread) {cause faddr info spc prog : Nat} (psolo : Bool)

/-- Word 5 holds the cause from bit 0, the predicates from bit 5, their taints from bit 12, HSTEP as 0 in bit 19, and PSOLO in bit 20. -/
theorem trapRecord_word5 (hc : cause < 32) :
    (lget (trapRecord t cause faddr info spc prog psolo) 5 0).toNat =
      cause + 2 ^ 5 * t.pv.toNat + 2 ^ 12 * t.pt.toNat + 2 ^ 20 * psolo.toNat := by
  have hp : t.pv.toNat < 2 ^ 7 := t.pv.isLt
  have ht : t.pt.toNat < 2 ^ 7 := t.pt.isLt
  have hs : psolo.toNat < 2 := psolo.toNat_lt
  have hb : (if psolo then 1 else 0) = psolo.toNat := by cases psolo <;> rfl
  have hr : (lget (trapRecord t cause faddr info spc prog psolo) 5 0).toNat =
      Sys2Proof.pack [(5, cause), (7, t.pv.toNat), (7, t.pt.toNat), (1, 0), (1, if psolo then 1 else 0)] % 2 ^ 32 := rfl
  rw [hr, hb]
  simp only [Sys2Proof.pack]
  omega

theorem trapRecord_info (hi : info < 2 ^ 24) : (lget (trapRecord t cause faddr info spc prog psolo) 6 0).toNat = info := by
  have hr : (lget (trapRecord t cause faddr info spc prog psolo) 6 0).toNat = info % 2 ^ 24 % 2 ^ 32 := rfl
  omega

theorem trapRecord_progress (hp : prog < 2 ^ 32) : (lget (trapRecord t cause faddr info spc prog psolo) 7 0).toNat = prog :=
  Nat.mod_eq_of_lt hp

/-- The low word of the address, and its high word in 24 bits. -/
theorem trapRecord_addr (ha : faddr < 2 ^ 56) :
    (lget (trapRecord t cause faddr info spc prog psolo) 8 0).toNat = faddr % 2 ^ 32 ∧
      (lget (trapRecord t cause faddr info spc prog psolo) 9 0).toNat = faddr / 2 ^ 32 := by
  have hr : (lget (trapRecord t cause faddr info spc prog psolo) 9 0).toNat = faddr % 2 ^ 56 / 2 ^ 32 % 2 ^ 32 := rfl
  exact ⟨rfl, by omega⟩

/-- The low word of the saved PC, and its high word in 24 bits. -/
theorem trapRecord_savedPc (hs : spc < 2 ^ 56) :
    (lget (trapRecord t cause faddr info spc prog psolo) 10 0).toNat = spc % 2 ^ 32 ∧
      (lget (trapRecord t cause faddr info spc prog psolo) 11 0).toNat = spc / 2 ^ 32 := by
  have hr : (lget (trapRecord t cause faddr info spc prog psolo) 11 0).toNat = spc % 2 ^ 56 / 2 ^ 32 % 2 ^ 32 := rfl
  exact ⟨rfl, by omega⟩

/-- The first five words are zero. -/
theorem trapRecord_zero {k : Nat} (hk : k < 5) : lget (trapRecord t cause faddr info spc prog psolo) k 0 = 0 := by
  obtain rfl | rfl | rfl | rfl | rfl : k = 0 ∨ k = 1 ∨ k = 2 ∨ k = 3 ∨ k = 4 := by omega
  all_goals rfl

/-- The last four words are v0 to v3. -/
theorem trapRecord_regs {k : Nat} (hk : k < 4) : lget (trapRecord t cause faddr info spc prog psolo) (12 + k) 0 = lget t.v k 0 := by
  obtain rfl | rfl | rfl | rfl : k = 0 ∨ k = 1 ∨ k = 2 ∨ k = 3 := by omega
  all_goals rfl

end

/-! Fields of word 5. -/

/-- The fields that word 5 joins read back. -/
theorem word5_fields {n c p q : Nat} {b : Bool} (hn : n = c + 2 ^ 5 * p + 2 ^ 12 * q + 2 ^ 20 * b.toNat) (hc : c < 32) (hp : p < 2 ^ 7) (hq : q < 2 ^ 7) :
    bitsOf n 4 0 = c ∧ bitsOf n 11 5 = p ∧ bitsOf n 18 12 = q ∧ bitOf n 19 = false ∧ bitOf n 20 = b ∧ n < 2 ^ 21 := by
  have hb : b.toNat < 2 := b.toNat_lt
  have h20 : n / 2 ^ 20 % 2 = b.toNat := by omega
  refine ⟨?_, ?_, ?_, ?_, ?_, by omega⟩
  · simp only [bitsOf]; omega
  · simp only [bitsOf]; omega
  · simp only [bitsOf]; omega
  · rw [bitOf, beq_eq_false_iff_ne]; omega
  · rw [bitOf, h20]; cases b <;> rfl

/-! The return (16 R376). -/

theorem length_setAt {α : Type} (l : List α) (i : Nat) (a : α) : (setAt l i a).length = l.length := List.length_set

theorem lget_setAt_of_lt {α : Type} (l : List α) {i : Nat} (j : Nat) (a d : α) (h : i < l.length) :
    lget (setAt l i a) j d = if j = i then a else lget l j d := by
  split
  · next hj => rw [hj, lget_setAt_self _ _ _ h]
  · next hj => exact lget_setAt_other _ _ _ hj

/-- After a return v0 to v3 hold words 12 to 15 of the record, and every other vector register stays. -/
theorem tretThr_v (st : TSt) (a : Thread) (ha : 4 ≤ a.v.length) (k : Nat) :
    lget (tretThr st a).v k 0 = if k < 4 then lget a.trec (12 + k) 0 else lget a.v k 0 := by
  have hset : lget (tretThr st a).v k 0 = if k = 3 then lget a.trec 15 0 else if k = 2 then lget a.trec 14 0 else if k = 1 then lget a.trec 13 0
      else if k = 0 then lget a.trec 12 0 else lget a.v k 0 := by
    have hlt : ∀ i, i < 4 → i < a.v.length := fun i hi => Nat.lt_of_lt_of_le hi ha
    simp only [tretThr, lget_setAt_of_lt, length_setAt, hlt, Nat.reduceLT]
  by_cases hk : k < 4
  · rw [hset, if_pos hk]
    obtain rfl | rfl | rfl | rfl : k = 0 ∨ k = 1 ∨ k = 2 ∨ k = 3 := by omega
    all_goals rfl
  · rw [hset, if_neg hk, if_neg (by omega), if_neg (by omega), if_neg (by omega), if_neg (by omega)]

theorem tretThr_length (st : TSt) (a : Thread) : (tretThr st a).v.length = a.v.length := by
  simp only [tretThr, length_setAt]

/-- PSOLO of the record is clear after the return. -/
theorem tretThr_psolo (st : TSt) (a : Thread) (h5 : 5 < a.trec.length) : bitOf (lget (tretThr st a).trec 5 0).toNat 20 = false := by
  have hr : (tretThr st a).trec = setAt a.trec 5 (BitVec.ofNat 32 (putBits (lget a.trec 5 0).toNat 20 20 0)) := rfl
  rw [hr, lget_setAt_self _ _ _ h5, BitVec.toNat_ofNat, bitOf_eq_testBit, Nat.testBit_mod_two_pow, ← bitOf_eq_testBit, bitOf_putBits_one]
  rfl

/-- Settles O51: the record is written word by word, and what `tretThr` reads of it are the fields that were written. -/
theorem trapSavesAndTretRestores : Obligations.TrapSavesAndTretRestores := by
  unfold Obligations.TrapSavesAndTretRestores
  intro t now cause faddr info spc prog psolo hc ha hs hi hp u w
  have htrec : u.trec = trapRecord t cause faddr info spc prog psolo := rfl
  obtain ⟨hcause, hpv, hpt, hstep, hsolo, hlt⟩ := word5_fields (trapRecord_word5 t (faddr := faddr) (info := info) (spc := spc) (prog := prog) psolo hc)
    hc t.pv.isLt t.pt.isLt
  obtain ⟨haddrLo, haddrHi⟩ := trapRecord_addr t (cause := cause) (info := info) (spc := spc) (prog := prog) psolo ha
  obtain ⟨hpcLo, hpcHi⟩ := trapRecord_savedPc t (cause := cause) (faddr := faddr) (info := info) (prog := prog) psolo hs
  refine ⟨⟨rfl, rfl, rfl, rfl, rfl, rfl, trapRecord_length ..⟩, ?zero, ⟨hcause, hpv, hpt, hstep, hsolo, hlt⟩, ⟨?info, ?progress, ?addr, ?pc⟩, ?regs, ?back⟩
  case zero => exact fun k hk => congrArg BitVec.toNat (trapRecord_zero t psolo hk)
  case info => exact trapRecord_info t psolo hi
  case progress => exact trapRecord_progress t psolo hp
  case addr =>
    show (lget u.trec 8 0).toNat + 2 ^ 32 * (lget u.trec 9 0).toNat = faddr
    rw [htrec, haddrLo, haddrHi]
    exact Nat.mod_add_div faddr (2 ^ 32)
  case pc =>
    show (lget u.trec 10 0).toNat + 2 ^ 32 * (lget u.trec 11 0).toNat = spc
    rw [htrec, hpcLo, hpcHi]
    exact Nat.mod_add_div spc (2 ^ 32)
  case regs => exact fun k hk => trapRecord_regs t psolo hk
  case back =>
    intro a st hat hlen b
    have hrec : a.trec = trapRecord t cause faddr info spc prog psolo := hat
    refine ⟨rfl, rfl, ?pc, ?solo, ?step, ?pv, ?pt, tretThr_length st a, ?low, ?high, ?psolo⟩
    case pc =>
      show (lget a.trec 10 0).toNat + bitsOf (lget a.trec 11 0).toNat 23 0 * 2 ^ 32 = spc
      rw [hrec, hpcLo, hpcHi, bitsOf]
      omega
    case solo => rw [← hsolo, ← hrec]; rfl
    case step => rw [← hstep, ← hrec]; rfl
    case pv =>
      show BitVec.ofNat 7 (bitsOf (lget a.trec 5 0).toNat 11 5) = t.pv
      rw [hrec, hpv, BitVec.ofNat_toNat, BitVec.setWidth_eq]
    case pt =>
      show BitVec.ofNat 7 (bitsOf (lget a.trec 5 0).toNat 18 12) = t.pt
      rw [hrec, hpt, BitVec.ofNat_toNat, BitVec.setWidth_eq]
    case low =>
      intro k hk
      rw [tretThr_v st a hlen, if_pos hk, hrec, trapRecord_regs t psolo hk]
    case high => exact fun k hk => by rw [tretThr_v st a hlen, if_neg (Nat.not_lt.mpr hk)]
    case psolo => exact tretThr_psolo st a (by rw [hrec, trapRecord_length]; decide)

end Sys2Proof.Machine
end

section
/-! PROOF. Handler entry, answers to faults, stops, single steps, and what the monitor writes for a team (16 R363, R369, R372, R373, R378, R383, R394, 18 R404, 19 R430). -/
namespace Sys2Proof.Machine
open Sys2Proof

/-- Machines that are equal stand in equal states. -/
theorem next_withMach (s : State) {m m' : Mach} (h : m = m') : (.next (s.withMach m) : Host.Outcome State Fault Refusal) = .next (s.withMach m') := by
  rw [h]

/-! When the steps of a thread or a team are due. -/

theorem entryDue_of {s : State} {g lane v : Nat} (hp : (thrOf s.m g lane).st = .parked) (hv : (thrOf s.m g lane).vecAt = some v) (hn : v ≤ s.clk.now)
    (hr : resident (teamOf s.m (grpOf s.m g).team) = true) : entryDue s g lane = true := by
  simp only [entryDue, hp, hv, hr, hn, BEq.rfl, Option.any_some, decide_true, Bool.and_self]

theorem stopDue_of {s : State} {t a : Nat} (ha : (teamOf s.m t).stopAt = some a) (hn : a ≤ s.clk.now) : stopDue s t = true := by
  simp only [stopDue, ha, hn, Option.any_some, decide_true]

theorem resumeDue_of {s : State} {t a : Nat} (ha : (teamOf s.m t).resumeAt = some a) (hn : a ≤ s.clk.now) : resumeDue s t = true := by
  simp only [resumeDue, ha, hn, Option.any_some, decide_true]

theorem stepDue_of {s : State} {g lane : Nat} (hs : (thrOf s.m g lane).step = true) (hrp : (thrOf s.m g lane).rp = false)
    (hw : waitEnds s.m { g := g, lane := lane } = true) (hst : (thrOf s.m g lane).st = .run) (hl : (thrOf s.m g lane).lastIssue < s.clk.now)
    (hr : resident (teamOf s.m (grpOf s.m g).team) = true) : stepDue s g lane = true := by
  simp only [stepDue, hs, hrp, hw, hst, hl, hr, BEq.rfl, Bool.not_false, decide_true, Bool.and_self]

/-! Answers to faults (16 R369, R394). -/

/-- The monitor's answer to an entry that is not pending does nothing. -/
theorem answerFault_idle {e : Env} {m : Mach} {cl k : Nat} (st : Nat) (prot : Bool) (h : ∀ f, tget (clusOf m cl).fbuf k = some f → f.st ≠ 1) :
    answerFault e m cl k st prot = m := by
  rw [answerFault]
  split
  · next f hf => rw [if_neg (h f hf)]
  · rfl

/-- A pending entry releases its requesters and stays with none. -/
theorem answerFault_pending {e : Env} {m : Mach} {cl k : Nat} {f : FEnt} (st : Nat) (prot : Bool) (hf : tget (clusOf m cl).fbuf k = some f) (h1 : f.st = 1) :
    answerFault e m cl k st prot = updClus (releaseReqs e m cl { f with st := st, protf := prot }) cl
      (fun c => { c with fbuf := tset c.fbuf k { f with st := st, protf := prot, who := [], engines := [] } }) := by
  simp only [answerFault, hf, h1, ↓reduceIte]

/-- A requester that is still parked raises the cause of the refusal with its own address; any other is left alone. -/
def refusedThr (e : Env) (prot : Bool) (m : Mach) (x : TRef × Nat) : Mach :=
  let t := thrOf m x.1.g x.1.lane
  if t.st = .parked then
    raise e (updThr m x.1.g x.1.lane (fun t => { t with st := if t.hm then .handler else .run })) x.1.g x.1.lane (if prot then 5 else 6) (x.2 % 2 ^ 56) 0
      t.pc t.pc (lget t.trec 7 0).toNat (bitOf (lget t.trec 5 0).toNat 20)
  else m

theorem refuseThr_eq (e : Env) (prot : Bool) : refuseThr e (if prot then cPROT else cXLATE) = refusedThr e prot := by
  funext m x
  by_cases h : (thrOf m x.1.g x.1.lane).st = .parked
  · simp only [refuseThr, refusedThr, h, bne_self_eq_false, Bool.false_eq_true, ↓reduceIte, cPROT, cXLATE]
  · simp only [refuseThr, refusedThr, bne_iff_ne.mpr h, h, ↓reduceIte]

/-- A refused entry: its requesters raise their cause, in the order in which they joined, and then its engine threads end. -/
theorem releaseReqs_refused (e : Env) (m : Mach) (cl : Nat) {f : FEnt} (h : f.st = 3) : releaseReqs e m cl f =
    f.engines.foldl (endEngine e) (withImages (f.who.map (·.1.g)) (fun m => f.who.foldl (refusedThr e f.protf) m) m) := by
  have h2 : f.st ≠ 2 := by rw [h]; decide
  rw [releaseReqs, if_neg h2, refuseThr_eq]

/-- Entries that all wait for their answer stay. -/
theorem freeAnswered_pending {e : Env} {m : Mach} {cl : Nat} (h : ∀ f, f ∈ (clusOf m cl).fbuf → f.2.st = 1) : freeAnswered e m cl = m := by
  have hn : (clusOf m cl).fbuf.filter (fun x => x.2.st != 1) = [] :=
    filter_none _ _ (fun f hf => by rw [h f hf, bne_self_eq_false])
  simp only [freeAnswered, hn]

/-- The one answered entry releases those that joined it, and is free. -/
theorem freeAnswered_one {e : Env} {m : Mach} {cl k : Nat} {f : FEnt} (h : (clusOf m cl).fbuf.filter (fun x => x.2.st != 1) = [(k, f)]) :
    freeAnswered e m cl = admitWaiting (updClus (releaseReqs e m cl f) cl (fun c => { c with fbuf := c.fbuf.filter (fun x => x.2.st == 1) })) cl := by
  simp only [freeAnswered, h, List.foldl_cons, List.foldl_nil]

/-! Replies to calls (16 R383). -/

theorem execFcalReply_off {s : State} {d ent gi : Nat} {x : Word} (h : 4 ≤ d ∨ teamOfEntry s.m ent = none) : execFcalReply d ent gi x s = .next s := by
  have hm : (if d < 4 then replyDo ent gi x s.env s.m else s.m) = s.m := by
    rcases h with h | h
    · rw [if_neg (Nat.not_lt.mpr h)]
    · simp only [replyDo, h, ite_self]
  exact next_withMach s hm

/-- A value for a group without an outstanding call goes nowhere. -/
theorem execFcalReply_uncalled {s : State} {d ent gi t : Nat} {x : Word} (ht : teamOfEntry s.m ent = some t)
    (hf : (teamOf s.m t).fcalOut.find? (fun y => (grpOf s.m y.1).gteam == gi) = none) : execFcalReply d ent gi x s = .next s := by
  have hm : (if d < 4 then replyDo ent gi x s.env s.m else s.m) = s.m := by
    simp only [replyDo, ht, hf, ite_self]
  exact next_withMach s hm

/-! An image for a team (19 R430). -/

theorem teamOf_updEnt (m : Mach) (k t : Nat) (f : Entry → Entry) : teamOf (updEnt m k f) t = teamOf m t := rfl

/-- A base that is zero, or for a team that is not suspended in place, is only noted. -/
theorem imgbDo_notes {e : Env} {m : Mach} {t base : Nat} (h : base = 0 ∨ (teamOf m t).susp ≠ .inPlace) :
    imgbDo t base e m = updEnt m (teamOf m t).ent (fun en => { en with imgb := base }) := by
  have hc : (base ≠ 0 && (teamOf (updEnt m (teamOf m t).ent (fun en => { en with imgb := base })) t).susp == .inPlace) = false := by
    rcases h with h | h
    · simp only [h, ne_eq, not_true_eq_false, decide_false, Bool.false_and]
    · rw [teamOf_updEnt, beq_eq_false_iff_ne.mpr h, Bool.and_false]
  simp only [imgbDo, hc, Bool.false_eq_true, ↓reduceIte]

/-- A base for a team that is suspended in place lets its threads go, and a pre-emption signal takes the team out; where the signal is not sent, as another team on its cores has no image, nothing but the base and the interrupt stays. -/
theorem imgbDo_goes {e : Env} {m : Mach} {t base : Nat} (hb : base ≠ 0) (hs : (teamOf m t).susp = .inPlace) :
    let m1 := updEnt m (teamOf m t).ent (fun en => { en with imgb := base })
    let m2 := updTeam (eachOfTeam t (fun u => { (if u.hm || !(entOf m1 (teamOf m t).ent).stopped then unholdThr u else u) with readyAt := e.now + bsnPkg + 1 }) m1) t
      (fun u => { u with susp := .no })
    let m3 := preempt e m2 (teamCores e.sys (teamOf m2 t))
    imgbDo t base e m = if m3.prem.length = m.prem.length then { m1 with dies := m3.dies } else m3 := by
  have hc : (base ≠ 0 && (teamOf (updEnt m (teamOf m t).ent (fun en => { en with imgb := base })) t).susp == .inPlace) = true := by
    rw [decide_eq_true hb, teamOf_updEnt, hs]
    rfl
  rw [imgbDo, if_pos hc]
  rfl

/-! The end of a clock (16 R394). -/

/-- With nothing left to take in the last phase, the step is the passage to the next clock. -/
theorem step_nextPhase {s : State} (hc : s.m.cur = none) (hp : (settle s).clk.phase = 6) (hi : nextInput (settle s) true = none)
    (ha : nextAct (settle s) true = none) (hd : dueNow (settle s) = none) : step s = .next (nextPhase (settle s)) := by
  simp only [step, hc, runDevice, hp, hi, ha, hd]

/-- The next clock begins in phase 0, with the answered faults free and no cause remembered. -/
theorem nextPhase_last {s : State} (hp : s.clk.phase = 6) : nextPhase s =
    { s with m := freeFaults s.env (endRaised s.m), sys := endTriggers s.sys, clk := tick s.clk s.sys.dev.cstep } := by
  simp only [nextPhase, hp]

/-- Settles O33: each step is due under the conditions stated, and does what is stated. -/
theorem trapAndMonitorSteps : Obligations.TrapAndMonitorSteps := by
  unfold Obligations.TrapAndMonitorSteps
  refine fun s => ⟨?entry, ?idle, ?answer, ?stop, ?dbgc, ?resume, ?step, ?replyOff, ?replyNone, ?reply, ?inval, ?park, ?image, ?clock, ?pending, ?freed⟩
  case entry => exact fun g lane v hp hv hn hr => ev_due (entryDue_of hp hv hn hr)
  case idle =>
    intro cl k h
    exact ⟨next_withMach s (answerFault_idle 2 false h),
      fun prot => next_withMach s (answerFault_idle 3 prot h)⟩
  case answer =>
    intro cl k f hf h1 held
    refine ⟨?_, fun prot => ?_⟩
    · exact next_withMach s (answerFault_pending 2 false hf h1)
    · have ha := answerFault_pending (e := s.env) 3 prot hf h1
      rw [releaseReqs_refused s.env s.m cl rfl] at ha
      exact next_withMach s ha
  case stop => exact fun t a ha hn => ev_due (stopDue_of ha hn)
  case dbgc => exact fun t => rfl
  case resume => exact fun t a ha hn => ev_due (resumeDue_of ha hn)
  case step => exact fun g lane hs hrp hw hst hl hr => ev_due (stepDue_of hs hrp hw hst hl hr)
  case replyOff => exact fun d ent g x h => execFcalReply_off h
  case replyNone => exact fun d ent gi x t ht hf => execFcalReply_uncalled ht hf
  case reply =>
    intro d ent gi x t g dst who toks hd ht hf
    refine next_withMach s ((if_pos hd).trans ?_)
    simp only [replyDo, ht, hf]
    rfl
  case inval => exact fun d a n reach p => rfl
  case park => exact fun t => rfl
  case image =>
    intro t v base m1
    refine ⟨fun h => next_withMach s (imgbDo_notes h), ?_⟩
    intro hb hs go m2 m3
    exact next_withMach s (imgbDo_goes hb hs)
  case clock =>
    intro hc hp hi ha hd
    have hs : step s = .next (nextPhase (settle s)) := step_nextPhase hc hp hi ha hd
    rw [nextPhase_last hp] at hs
    exact ⟨_, hs, rfl, rfl, rfl⟩
  case pending => exact fun cl h => freeAnswered_pending h
  case freed => exact fun cl k f h => freeAnswered_one h

end Sys2Proof.Machine
end

section
/-! PROOF. Pre-emption: the signal, the swap of the banks, the spill, deferral, the copy of the allocation, and the way back (16 R384 to R389). -/
namespace Sys2Proof.Machine
open Sys2Proof

/-! The arrival of a signal (16 R385). -/

/-- No run and no latches in a lane-block. -/
def idleSched (sc : Sched) : Sched := { sc with run := none, xs := [] }

/-- At a core of the signal both lane-blocks lose their run and latches, and the banks begin to swap; `leaves` says that an outgoing team stands on it. -/
def signalCore (now : Nat) (leaves : Nat → Bool) (m : Mach) (c : Nat) : Mach :=
  updCore (updSched (updSched m (schedKey c 0) idleSched) (schedKey c 1) idleSched) c (fun x => { x with swapUntil := some (now + 10), copying := x.copying || leaves c })

section
variable (now : Nat) (leaves : Nat → Bool)

/-- The cores of a signal change in their core and scheduler tables alone. -/
theorem signalCores_keeps (cores : List Nat) (m : Mach) :
    (cores.foldl (signalCore now leaves) m).prem = m.prem ∧ (cores.foldl (signalCore now leaves) m).teams = m.teams ∧
      (cores.foldl (signalCore now leaves) m).mem = m.mem := by
  induction cores generalizing m with
  | nil => exact ⟨rfl, rfl, rfl⟩
  | cons c r ih => exact ih (signalCore now leaves m c)

theorem coreOf_updCore_other (m : Mach) {c k : Nat} (f : Core → Core) (h : k ≠ c) : coreOf (updCore m c f) k = coreOf m k := by
  rw [coreOf, updCore_cores, tget_tset_other _ _ _ _ h, coreOf]

theorem schedOf_updSched_other (m : Mach) {c k : Nat} (f : Sched → Sched) (h : k ≠ c) : schedOf (updSched m c f) k = schedOf m k := by
  rw [schedOf, updSched_scheds, tget_tset_other _ _ _ _ h, schedOf]

/-- A core that swaps until a clock still does once another core, or it again, has the signal. -/
theorem signalCore_swaps (m : Mach) (c k : Nat) (h : (coreOf m k).swapUntil = some (now + 10) ∨ k = c) :
    (coreOf (signalCore now leaves m c) k).swapUntil = some (now + 10) := by
  by_cases hk : k = c
  · rw [signalCore, hk, coreOf_updCore_self]
  · rw [signalCore, coreOf_updCore_other _ _ hk]
    exact h.resolve_right hk

/-- Every core of the signal swaps over the next 10 clocks. -/
theorem signalCores_swap (cores : List Nat) (m : Mach) {k : Nat} (h : (coreOf m k).swapUntil = some (now + 10) ∨ k ∈ cores) :
    (coreOf (cores.foldl (signalCore now leaves) m) k).swapUntil = some (now + 10) := by
  induction cores generalizing m with
  | nil => exact h.resolve_right List.not_mem_nil
  | cons c r ih =>
    refine ih (signalCore now leaves m c) ?_
    rcases h with h | h
    · exact .inl (signalCore_swaps now leaves m c k (.inl h))
    · rcases List.mem_cons.mp h with h | h
      · exact .inl (signalCore_swaps now leaves m c k (.inr h))
      · exact .inr h

/-- A lane-block without a run and latches, and each of the core's, has none afterwards. -/
theorem signalCore_idle (m : Mach) (c j : Nat) (h : (schedOf m j).run = none ∧ (schedOf m j).xs = [] ∨ ∃ lb, lb < 2 ∧ j = schedKey c lb) :
    (schedOf (signalCore now leaves m c) j).run = none ∧ (schedOf (signalCore now leaves m c) j).xs = [] := by
  have hs : schedOf (signalCore now leaves m c) j = schedOf (updSched (updSched m (schedKey c 0) idleSched) (schedKey c 1) idleSched) j := rfl
  rw [hs]
  by_cases h1 : j = schedKey c 1
  · rw [h1, schedOf_updSched_self]
    exact ⟨rfl, rfl⟩
  rw [schedOf_updSched_other _ _ h1]
  by_cases h0 : j = schedKey c 0
  · rw [h0, schedOf_updSched_self]
    exact ⟨rfl, rfl⟩
  rw [schedOf_updSched_other _ _ h0]
  refine h.resolve_right ?_
  rintro ⟨lb, hlb, rfl⟩
  obtain rfl | rfl : lb = 0 ∨ lb = 1 := by omega
  · exact h0 rfl
  · exact h1 rfl

/-- No lane-block of the signal's cores has a run or latches. -/
theorem signalCores_idle (cores : List Nat) (m : Mach) {j : Nat}
    (h : (schedOf m j).run = none ∧ (schedOf m j).xs = [] ∨ ∃ c ∈ cores, ∃ lb, lb < 2 ∧ j = schedKey c lb) :
    (schedOf (cores.foldl (signalCore now leaves) m) j).run = none ∧ (schedOf (cores.foldl (signalCore now leaves) m) j).xs = [] := by
  induction cores generalizing m with
  | nil => exact h.resolve_right (fun ⟨_, hc, _⟩ => List.not_mem_nil hc)
  | cons c r ih =>
    refine ih (signalCore now leaves m c) ?_
    rcases h with h | ⟨d, hd, hj⟩
    · exact .inl (signalCore_idle now leaves m c j (.inl h))
    · rcases List.mem_cons.mp hd with rfl | hd
      · exact .inl (signalCore_idle now leaves m d j (.inr hj))
      · exact .inr ⟨d, hd, hj⟩

end

/-- Teams that begin their spill change in the table of teams alone. -/
theorem spillTeams_eq (out : List (Nat × Team)) (m : Mach) :
    out.foldl (fun m x => updTeam m x.1 (fun t => { t with susp := .spilling })) m =
      { m with teams := out.foldl (fun l x => tupd l x.1 (fun t => { t with susp := .spilling })) m.teams } := by
  induction out generalizing m with
  | nil => rfl
  | cons x r ih => exact ih _

/-- The machine of a signal before its cores have it: the signal is spent, and the outgoing teams spill, their timeouts stopped. -/
def signalTeams (cores : List Nat) (e : Env) (m : Mach) : Mach :=
  let out := outgoing e m cores
  { m with
    prem := m.prem.filter (fun p => !(p.cores == cores && decide (p.tm ≤ e.now)))
    teams := out.foldl (fun l x => tupd l x.1 (fun t => { t with susp := .spilling })) m.teams
    groups := m.groups.map (fun x => if out.any (fun y => y.1 == x.2.team) then (x.1, { x.2 with th := x.2.th.map (pauseThr e.now) }) else x) }

/-- First the teams of a signal change, then its cores one by one. -/
theorem signalDo_eq (cores : List Nat) (e : Env) (m : Mach) : signalDo cores e m =
    cores.foldl (signalCore e.now (fun c => (outgoing e m cores).any (fun y => (teamCores e.sys y.2).contains c))) (signalTeams cores e m) := by
  have hs := spillTeams_eq (outgoing e m cores) { m with prem := m.prem.filter (fun p => !(p.cores == cores && decide (p.tm ≤ e.now))) }
  exact congrArg (fun m1 : Mach => cores.foldl (signalCore e.now (fun c => (outgoing e m cores).any (fun y => (teamCores e.sys y.2).contains c)))
    { m1 with groups := m1.groups.map (fun x => if (outgoing e m cores).any (fun y => y.1 == x.2.team) then (x.1, { x.2 with th := x.2.th.map (pauseThr e.now) }) else x) }) hs

/-- The arrival of a signal does what R385 says, at every core and lane-block that it names. -/
theorem signalState_signalled (cores : List Nat) (s : State) : Signalled s cores (signalState cores s) := by
  have hm : (signalState cores s).m = signalDo cores s.env s.m := rfl
  rw [signalDo_eq] at hm
  obtain ⟨hprem, hteams, hmem⟩ := signalCores_keeps s.env.now (fun c => (outgoing s.env s.m cores).any (fun y => (teamCores s.env.sys y.2).contains c)) cores
    (signalTeams cores s.env s.m)
  rw [← hm] at hprem hteams hmem
  refine ⟨hprem, hteams, ?swap, ?idle, rfl, hmem, rfl⟩
  case swap =>
    intro c hc
    rw [hm]
    exact signalCores_swap _ _ cores _ (.inr hc)
  case idle =>
    intro c hc lb hlb
    rw [hm]
    exact signalCores_idle _ _ cores _ (.inr ⟨c, hc, lb, hlb, rfl⟩)

/-! Sending a signal (16 R384). -/

/-- A team without an image on one of the cores keeps the signal from being sent; else the teams that stand on them are signalled. -/
theorem preempt_holdsBack {e : Env} {m : Mach} {cores : List Nat}
    (h : (teamsOn e m (preemptSet e m m.teams.length cores)).any (fun x => (entOf m x.2.ent).imgb == 0) = true) :
    preempt e m cores = setIntr m (coreDie (cores.headD 0)) 5 := if_pos h

theorem preempt_sends {e : Env} {m : Mach} {cores : List Nat}
    (h : (teamsOn e m (preemptSet e m m.teams.length cores)).any (fun x => (entOf m x.2.ent).imgb == 0) = false) :
    let set := preemptSet e m m.teams.length cores
    let tm := e.now + (if set.all (fun c => coreDie c == coreDie (cores.headD 0)) then 18 else 72)
    preempt e m cores = { ((teamsOn e m set).foldl (fun m x => updTeam m x.1 (fun t => if t.susp == .no then { t with susp := .signalled tm } else t)) m) with
      prem := m.prem ++ [{ tm := tm, cores := set }] } := if_neg (Bool.eq_false_iff.mp h)

/-! Swap, copies and resumption: when each is due, and what it does. -/

theorem swapDue_of {s : State} {c t : Nat} (h : (coreOf s.m c).swapUntil = some t) (hn : t ≤ s.clk.now) : swapDue s c = true := by
  simp only [swapDue, h, hn, Option.any_some, decide_true]

theorem copyDue_of {s : State} {t a : Nat} (h : (teamOf s.m t).susp = .copying a) (hn : a ≤ s.clk.now) : copyDue s t = true := by
  simp only [copyDue, h, hn, decide_true]

theorem backDue_of {s : State} {t a : Nat} (h : (teamOf s.m t).susp = .copyback a) (hn : a ≤ s.clk.now) : backDue s t = true := by
  simp only [backDue, h, hn, decide_true]

theorem deferDue_of {s : State} {id : Nat} {x : Msg} (hx : msgOf s.m id = some x) (ha : arrived s.env s.m x = true) (hh : x.stage ≠ .held)
    (hd : mustDefer s.env s.m x = true) (hr : (s.m.flight.filter (fun y => y.stage == .deferred && y.dst == x.dst)).length < 64) : deferDue s id = true := by
  simp only [deferDue, hx, ha, bne_iff_ne.mpr hh, hd, hr, decide_true, Bool.and_self]

/-- A spill that is due takes its next stage. -/
theorem takes_spill {s : State} {t : Nat} {m : Mach} (hd : spillDue s t = true) (hm : spillDo t s.env s.m = m) : Takes (.spill t) s (s.withMach m) := by
  have h : Takes (.spill t) s (s.withMach (spillDo t s.env s.m)) := ev_due hd
  rwa [hm] at h

/-- With slots to drain a spill drains them first; without, it copies the allocation at once. -/
theorem spillDo_copies {e : Env} {m : Mach} {t : Nat} (hs : (teamOf m t).susp = .spilling) (hn : drainOrder e m (teamGroups m t) = []) :
    spillDo t e m = beginCopy e m t := by
  simp only [spillDo, hs, hn, List.isEmpty_nil, ↓reduceIte]

theorem spillDo_drains {e : Env} {m : Mach} {t : Nat} (hs : (teamOf m t).susp = .spilling) (hn : drainOrder e m (teamGroups m t) ≠ []) :
    spillDo t e m = updTeam (startFlush m (drainOrder e m (teamGroups m t)) [] none) t (fun u => { u with susp := .draining m.serial }) := by
  simp only [spillDo, hs, List.isEmpty_eq_false_iff.mpr hn, Bool.false_eq_true, ↓reduceIte]

theorem resumptionDue_out {s : State} {t : Nat} (ho : (teamOf s.m t).susp = .out) (hb : bankFree s.m (teamCores s.sys (teamOf s.m t)) = true) :
    resumptionDue s t = true := by
  simp only [resumptionDue, ho]
  exact hb

theorem resumptionDue_resuming {s : State} {t a : Nat} (hr : (teamOf s.m t).susp = .resuming a) (hn : a ≤ s.clk.now) (hp : ∀ p ∈ s.m.prem, s.clk.now < p.tm) :
    resumptionDue s t = true := by
  have hno : s.m.prem.any (fun p => decide (p.tm ≤ s.clk.now)) = false := by
    rw [List.any_eq_false]
    exact fun p hm => by rw [decide_eq_true_eq]; exact Nat.not_le.mpr (hp p hm)
  simp only [resumptionDue, hr, hn, hno, decide_true, Bool.not_false, Bool.and_self]

/-- A team that is out asks for its cores, and one whose signal has arrived is swapped in. -/
theorem takes_teamResumption_out {s : State} {t : Nat} (ho : (teamOf s.m t).susp = .out) (hb : bankFree s.m (teamCores s.sys (teamOf s.m t)) = true) :
    Takes (.teamResumption t) s (s.withMach (startResumption s.env s.m t)) := by
  have he : exec (.teamResumption t) s = execTeamResumption t s := rfl
  rw [Takes, he, execTeamResumption, ev_due (resumptionDue_out ho hb)]
  simp only [State.mapM, ho]

theorem takes_teamResumption_resuming {s : State} {t a : Nat} (hr : (teamOf s.m t).susp = .resuming a) (hn : a ≤ s.clk.now)
    (hp : ∀ p ∈ s.m.prem, s.clk.now < p.tm) : Takes (.teamResumption t) s (s.withMach (swapIn s.env s.m t)) := by
  have he : exec (.teamResumption t) s = execTeamResumption t s := rfl
  rw [Takes, he, execTeamResumption, ev_due (resumptionDue_resuming hr hn hp)]
  simp only [State.mapM, hr]

/-- The signal that a resumption sends fixes the clock of the swap; where it is not sent the team stays out. -/
theorem startResumption_sent {e : Env} {m : Mach} {t : Nat} {p : Prem} (h : (preempt e m (teamCores e.sys (teamOf m t))).prem = m.prem ++ [p]) :
    startResumption e m t = updTeam (preempt e m (teamCores e.sys (teamOf m t))) t (fun u => { u with susp := .resuming p.tm }) := by
  have hl : ¬ (m.prem ++ [p]).length = m.prem.length := by rw [List.length_append, List.length_singleton]; omega
  simp only [startResumption, h, List.getLast?_concat, hl, ↓reduceIte]

theorem startResumption_unsent {e : Env} {m : Mach} {t : Nat} (h : (preempt e m (teamCores e.sys (teamOf m t))).prem = m.prem) :
    startResumption e m t = preempt e m (teamCores e.sys (teamOf m t)) := by
  simp only [startResumption, h, ↓reduceIte]
  split <;> rfl

/-- Settles O34: each step is due under the conditions stated, and does what is stated. -/
theorem preemptionSteps : Obligations.PreemptionSteps := by
  unfold Obligations.PreemptionSteps
  refine fun s => ⟨?arrives, ?sends, ?swap, ?spillCopies, ?spillDrains, ?drained, ?copied, ?defer, ?copy, ?resumes, ?swapsIn, ?back⟩
  case arrives => exact fun cores h => ⟨congrArg Host.Outcome.next (if_pos h), signalState_signalled cores s⟩
  case sends =>
    intro cores h set on tm
    have hn : Takes (.preemptionSignal cores) s (s.withMach (preempt s.env s.m cores)) := congrArg Host.Outcome.next (if_neg (Bool.eq_false_iff.mp h))
    refine ⟨fun hi => ?_, fun hi => ?_⟩
    · rwa [preempt_holdsBack hi] at hn
    · rwa [preempt_sends hi] at hn
  case swap => exact fun c t h hn => ev_due (swapDue_of h hn)
  case spillCopies =>
    intro t hs hn
    exact takes_spill (by simp only [spillDue, hs]) (spillDo_copies hs hn)
  case spillDrains =>
    intro t hs hn
    exact takes_spill (by simp only [spillDue, hs]) (spillDo_drains hs hn)
  case drained =>
    intro t f hs hf
    exact takes_spill (by simp only [spillDue, hs, hf, Option.isNone_none]) (by simp only [spillDo, hs]; rfl)
  case copied =>
    intro t hs hp
    exact takes_spill (by simp only [spillDue, hs, hp, Bool.not_false]) (by simp only [spillDo, hs]; rfl)
  case defer => exact fun id x hx ha hh hd hr => ev_due (deferDue_of hx ha hh hd hr)
  case copy => exact fun t a h hn => ev_due (copyDue_of h hn)
  case resumes =>
    intro t ho hb m1
    have h := takes_teamResumption_out ho hb
    refine ⟨fun p hp => ?_, fun hp => ?_⟩
    · rwa [startResumption_sent hp] at h
    · rwa [startResumption_unsent hp] at h
  case swapsIn => exact fun t a hr hn hp => takes_teamResumption_resuming hr hn hp
  case back => exact fun t a h hn => ev_due (backDue_of h hn)

end Sys2Proof.Machine
end

section
/-! PROOF. Page walks, copy channels, engine threads and the matrix engine (18 R403, R406, 09 R263 to R270, R278 to R281). -/
namespace Sys2Proof.Machine
open Sys2Proof

/-! Page walks (18 R403, R406). -/

theorem walkDue_iff {s : State} {k : Nat} {w : Walk} (hw : s.m.walks[k]? = some w) : walkDue s k = true ↔ ∃ t, w.due = some t ∧ t ≤ s.clk.now := by
  simp only [walkDue, hw, Option.any_some, Option.any_eq_true, decide_eq_true_eq]

theorem nextWalk_of_firstAt {s : State} {k : Nat} {w : Walk} (h : FirstAt s.m.walks (fun w => ∃ t, w.due = some t ∧ t ≤ s.clk.now) k w) : nextWalk s = some k :=
  find?_range_of_firstAt _ (fun _ _ hb => walkDue_iff hb) h

/-- The walk that ends first stops the machine by name where it would read a table without memory. -/
theorem exec_pageWalk_noHome {s : State} {k pa : Nat} {w : Walk} (h : FirstAt s.m.walks (fun w => ∃ t, w.due = some t ∧ t ≤ s.clk.now) k w)
    (hp : walkVa s.m w.root (w.page * 4096) = .noHome pa) : exec .pageWalk s = .fault (.noHome pa) := by
  have he : exec .pageWalk s = execPageWalk s := rfl
  simp only [he, execPageWalk, nextWalk_of_firstAt h, walkHole, h.1, hp]

/-- Where every table that it reads has a home, the walk that ends first ends. -/
theorem takes_pageWalk {s : State} {k : Nat} {w : Walk} (h : FirstAt s.m.walks (fun w => ∃ t, w.due = some t ∧ t ≤ s.clk.now) k w)
    (hp : ∀ pa, walkVa s.m w.root (w.page * 4096) ≠ .noHome pa) : Takes .pageWalk s (s.mapM (walkDo k)) := by
  have he : exec .pageWalk s = execPageWalk s := rfl
  have hh : walkHole s k = none := by
    cases hv : walkVa s.m w.root (w.page * 4096) with
    | noHome pa => exact absurd hv (hp pa)
    | none | leaf => simp only [walkHole, h.1, hv]
  simp only [Takes, he, execPageWalk, nextWalk_of_firstAt h, hh]

/-- With no walk of the die that waits, a slot that becomes free stays free. -/
theorem nextSlot_none {e : Env} {m : Mach} {die : Nat} (h : ∀ w, w ∈ m.walks → ¬ (w.die = die ∧ w.due = none)) : nextSlot e m die = m := by
  have hn : m.walks.findIdx? (fun w => w.die == die && w.due.isNone) = none := by
    rw [List.findIdx?_eq_none_iff]
    intro w hw
    rw [← Bool.not_eq_true, Bool.and_eq_true, beq_iff_eq, Option.isNone_iff_eq_none]
    exact h w hw
  simp only [nextSlot, hn]

/-- The walk of the die that waits longest takes the slot. -/
theorem nextSlot_first {e : Env} {m : Mach} {die i : Nat} {w : Walk} (h : FirstAt m.walks (fun w => w.die = die ∧ w.due = none) i w) :
    nextSlot e m die = { m with free := m.free + 1, walks := m.walks.modify i (startSlot e m) } := by
  obtain ⟨hi, hw, hb⟩ := h
  obtain ⟨hl, hg⟩ := List.getElem?_eq_some_iff.mp hi
  have hn : m.walks.findIdx? (fun w => w.die == die && w.due.isNone) = some i := by
    rw [List.findIdx?_eq_some_iff_getElem]
    refine ⟨hl, ?_, fun j hj => ?_⟩
    · rw [hg, Bool.and_eq_true, beq_iff_eq, Option.isNone_iff_eq_none]
      exact hw
    · rw [Bool.and_eq_true, beq_iff_eq, Option.isNone_iff_eq_none]
      exact hb j _ hj (List.getElem?_eq_getElem (hj.trans hl))
  simp only [nextSlot, hn]

/-! Copy channels (09 R267). -/

theorem chanDue_of {s : State} {t ch : Nat} {x : Chan} (hx : tget (teamOf s.m t).chans ch = some x)
    (h : x.slices.length = x.n ∨ sliceless s.m t x < x.n - x.slices.length) : chanDue s t ch = true := by
  simp only [chanDue, hx, Bool.or_eq_true, beq_iff_eq, decide_eq_true_eq]
  exact h.imp_left Eq.symm

/-- A channel that has all its slices, or can get no more, starts its copy. -/
theorem takes_copyInstanceStart {s : State} {t ch : Nat} {x : Chan} (hx : tget (teamOf s.m t).chans ch = some x)
    (h : x.slices.length = x.n ∨ sliceless s.m t x < x.n - x.slices.length) :
    Takes (.copyInstanceStart t ch) s (s.withMach { updTeam s.m t (fun u => { u with chans := tdel u.chans ch }) with
      serial := s.m.serial + 1, copies := tset s.m.copies s.m.serial (chanCopy s.m t x) }) := by
  have ht : Takes (.copyInstanceStart t ch) s (s.mapM (chanDo t ch)) := ev_due (chanDue_of hx h)
  have hm : chanDo t ch s.env s.m = { updTeam s.m t (fun u => { u with chans := tdel u.chans ch }) with
      serial := s.m.serial + 1, copies := tset s.m.copies s.m.serial (chanCopy s.m t x) } := by
    simp only [chanDo, hx]
  rwa [State.mapM, hm] at ht

/-! Engine threads (09 R263, R268 to R270). -/

theorem takes_enginePacketWrite {s : State} {k : Nat} {m : Mach} (hd : engDue s k = true) (hm : engDo k s.env s.m = m) :
    Takes (.enginePacketWrite k) s (s.withMach m) := by
  have h : Takes (.enginePacketWrite k) s (s.withMach (engDo k s.env s.m)) := ev_due hd
  rwa [hm] at h

section
variable {s : State} {k : Nat} {cp : Copy} (hc : tget s.m.copies k = some cp)
include hc

/-- An engine thread that is not held back steps while it has rows to move, a contraction to go on with, or colophons to send. -/
theorem engDue_of (hb : cp.blocked = false) (hn : cp.next ≤ s.clk.now) (hf : forkDone s.m cp = true) (hi : (coreOf s.m cp.core).isol = false)
    (h : (!cp.todo.isEmpty || cp.xcon.any (xReady cp) || (cp.xcon.isNone && cp.out == 0 && cp.incs == 0 && !cp.cols.isEmpty && !cp.colSent)) = true) :
    engDue s k = true := by
  simp only [engDue, hc, hb, hn, hf, hi, h, BEq.rfl, Bool.not_false, decide_true, Bool.and_self]

theorem engDo_contract {e : Env} {x : XCon} (hx : cp.xcon = some x) : engDo k e s.m = engContract e s.m k cp x := by
  simp only [engDo, hc, hx]

theorem engDo_packet {e : Env} {r : CRow} {rest : List CRow} (hx : cp.xcon = none) (ht : cp.todo = r :: rest) : engDo k e s.m = engPacket e s.m k cp r rest := by
  simp only [engDo, hc, hx, ht]

theorem engDo_colophon {e : Env} (hx : cp.xcon = none) (ht : cp.todo = []) : engDo k e s.m = engColophon e s.m k cp := by
  simp only [engDo, hc, hx, ht]

end

/-! The matrix engine (09 R281). -/

theorem grantDue_of {s : State} {cl i : Nat} {q : MReq} (hf : (clusOf s.m cl).freeAt ≤ s.clk.now) (hq : nextGrant s.env s.m cl = some (q, i)) :
    grantDue s cl = true := by
  simp only [grantDue, hf, hq, Option.isSome_some, decide_true, Bool.and_self]

theorem passDue_of {s : State} {cl : Nat} {q : MReq} {l : Landing} {r : List (MReq × Landing)} (hg : (clusOf s.m cl).granted = (q, l) :: r) (hn : l.tm ≤ s.clk.now) :
    passDue s cl = true := by
  simp only [passDue, hg, List.head?_cons, Option.any_some, hn, decide_true]

/-- Settles O31: each step is due under the conditions stated, and does what is stated. -/
theorem walksAndEnginesStep : Obligations.WalksAndEnginesStep := by
  unfold Obligations.WalksAndEnginesStep
  refine fun s => ⟨?walk, ?hole, ?chan, ?engine, ?grant, ?pass⟩
  case walk =>
    intro k w h hp m1 m2 free
    have ht : Takes .pageWalk s (s.mapM (walkDo k)) := takes_pageWalk h hp
    have hm : walkDo k s.env s.m = nextSlot s.env m2 w.die := by simp only [walkDo, h.1]; rfl
    rw [State.mapM, hm] at ht
    refine ⟨fun hn => ?_, fun i w2 hf => ?_⟩
    · rwa [nextSlot_none hn] at ht
    · rwa [nextSlot_first hf] at ht
  case hole => exact fun k w pa h hp => exec_pageWalk_noHome h hp
  case chan => exact fun t ch x hx h => takes_copyInstanceStart hx h
  case engine =>
    intro k cp hc hb hn hf hi
    refine ⟨fun x hx hr => ?_, fun r rest hx ht => ?_, fun hx ht ho hin hcol hs => ?_⟩
    · refine takes_enginePacketWrite (engDue_of hc hb hn hf hi ?_) (engDo_contract hc hx)
      simp only [hx, Option.any_some, hr, Bool.or_true, Bool.true_or]
    · refine takes_enginePacketWrite (engDue_of hc hb hn hf hi ?_) (engDo_packet hc hx ht)
      simp only [ht, List.isEmpty_cons, Bool.not_false, Bool.true_or]
    · refine takes_enginePacketWrite (engDue_of hc hb hn hf hi ?_) (engDo_colophon hc hx ht)
      simp only [hx, ho, hin, hs, List.isEmpty_eq_false_iff.mpr hcol, Option.isNone_none, BEq.rfl, Bool.not_false, Bool.and_self, Bool.or_true]
  case grant =>
    intro cl q i hf hq m0 r
    have ht : Takes (.matrixGrant cl) s (s.withMach (grantDo cl s.env s.m)) := ev_due (grantDue_of hf hq)
    simp only [grantDo, hq] at ht
    exact ht
  case pass =>
    intro cl q l r hg hn
    have ht : Takes (.matrixPassComplete cl) s (s.withMach (passDo cl s.env s.m)) := ev_due (passDue_of hg hn)
    simp only [passDo, hg] at ht
    exact ht

end Sys2Proof.Machine
end

section
/-! SUPPORT. What reads after a range of memory is written or left out, and what the end of a group leaves (18 R412). -/
namespace Sys2Proof.Machine
open Sys2Proof

/-! Memory. -/

theorem memRead_of_bytes (mem : Memory) (l : List Byte) (a : Nat) (h : ∀ i (hi : i < l.length), memGet mem (a + i) = l[i]) : memRead mem a l.length = l := by
  induction l generalizing a with
  | nil => rfl
  | cons b r ih =>
    have h0 : memGet mem a = b := h 0 (Nat.zero_lt_succ _)
    have hr : memRead mem (a + 1) r.length = r := ih (a + 1) (fun i hi => by
      rw [Nat.add_assoc, Nat.add_comm 1 i]
      exact h (i + 1) (Nat.succ_lt_succ hi))
    rw [List.length_cons, memRead, h0, hr]

/-- Bytes that were written read back. -/
theorem memRead_memWrite (l : List Byte) (mem : Memory) (a : Nat) (h : Memory.wf mem = true) : memRead (memWrite mem a l) a l.length = l :=
  memRead_of_bytes _ l a (fun i hi => by
    rw [memGet_memWrite l mem a (a + i) h, if_pos (Nat.le_add_right a i), Nat.add_sub_cancel_left, List.getElem?_eq_getElem hi, Option.getD_some])

/-- An address that is left out reads as zero. -/
theorem memGet_filter_out (p : Nat × Byte → Bool) (mem : Memory) (a : Nat) (h : ∀ b, p (a, b) = false) : memGet (mem.filter p) a = 0 := by
  induction mem with
  | nil => rfl
  | cons x r ih =>
    obtain ⟨k, b⟩ := x
    rw [List.filter_cons]
    split
    case isFalse => exact ih
    case isTrue hp =>
      have hk : a ≠ k := fun hk => by rw [← hk, h b] at hp; exact Bool.false_ne_true hp
      rw [memGet, if_neg hk, ih]

/-- A fold whose every step keeps the canonical form keeps it. -/
theorem foldl_wf {β : Type} {f : Mach → β → Mach} (hf : ∀ m b, Memory.wf m.mem = true → Memory.wf (f m b).mem = true) (l : List β) {m : Mach}
    (h : Memory.wf m.mem = true) : Memory.wf (l.foldl f m).mem = true :=
  List.foldlRecOn l f h (fun m hm b _ => hf m b hm)

/-! Groups. -/

theorem mem_of_tget {α : Type} {t : Tab α} {i : Nat} {a : α} (h : tget t i = some a) : (i, a) ∈ t := by
  induction t with
  | nil => exact nomatch h
  | cons x r ih =>
    obtain ⟨k, b⟩ := x
    rw [tget] at h
    split at h
    case isTrue hk => exact List.mem_cons.mpr (.inl (by rw [hk, Option.some.inj h]))
    case isFalse => exact List.mem_cons_of_mem _ (ih h)

theorem grpOf_congr {m m' : Mach} (h : m'.groups = m.groups) (g : Nat) : grpOf m' g = grpOf m g := by
  rw [grpOf, h, grpOf]

/-- What an update leaves of a group stays, whichever group is read. -/
theorem grpOf_updGrp_keeps {α : Type} (m : Mach) (g k : Nat) {f : Group → Group} (p : Group → α) (h : p (f (grpOf m g)) = p (grpOf m g)) :
    p (grpOf (updGrp m g f) k) = p (grpOf m k) := by
  by_cases hk : k = g
  case neg => rw [grpOf_updGrp_other m f hk]
  case pos =>
    subst hk
    rcases grpOf_updGrp_self m k f with e | ⟨e, e'⟩
    · rw [e, h]
    · rw [e, e']

theorem storeAt_groups (m : Mach) (sa : Nat) (data : List Byte) (aon : Bool) : (storeAt m sa data aon).groups = m.groups := by
  rw [storeAt, foldl_keeps Mach.groups (f := touchFrame _) (fun _ _ => rfl)]

theorem logEntry_groups (e : Env) (m : Mach) (team core ix words : Nat) : (logEntry e m team core ix words).groups = m.groups := by
  unfold logEntry
  dsimp only
  split
  · rfl
  · split
    · exact storeAt_groups _ _ _ _
    · rfl

theorem linkPoison_groups (e : Env) (m : Mach) (g k grp : Nat) : (linkPoison e m g k grp).groups = m.groups := logEntry_groups _ _ _ _ _ _

theorem linkPoison_wf (e : Env) (m : Mach) (g k grp : Nat) (h : Memory.wf m.mem = true) : Memory.wf (linkPoison e m g k grp).mem = true :=
  genPoison_wf _ _ _ _ _ _ _ h

theorem unlinkThr_groups (e : Env) (m : Mach) (r : TRef) : (unlinkThr e m r).groups = m.groups := by
  unfold unlinkThr
  dsimp only
  split
  · exact storeAt_groups _ _ _ _
  · rfl

theorem unlinkThr_wf (e : Env) (m : Mach) (r : TRef) (h : Memory.wf m.mem = true) : Memory.wf (unlinkThr e m r).mem = true := by
  unfold unlinkThr
  dsimp only
  split
  · exact storeAt_wf _ _ _ _ h
  · exact h

theorem returnResv_mem (m : Mach) (g : Nat) : (returnResv m g).mem = m.mem := by
  unfold returnResv
  dsimp only
  split <;> rfl

/-- Slots that a group gives back change no thread. -/
theorem returnResv_th (m : Mach) (g k : Nat) : (grpOf (returnResv m g) k).th = (grpOf m k).th := by
  unfold returnResv
  dsimp only
  split
  · rfl
  · exact grpOf_updGrp_keeps _ g k Group.th rfl

/-- The dispatch of a group that ends, if it has one, is retired with poison of kind LINK. -/
def dropDisp (e : Env) (m : Mach) (g : Nat) : Mach :=
  match (grpOf m g).disp with
  | some d => linkPoison e (freeRecs (returnResv m g) d) d.graph (blkKey d.node d.blk) g
  | none => m

/-- No thread of the group stands in a queue. -/
def unqueued (e : Env) (m : Mach) (g : Nat) : Mach := (List.range (grpOf m g).th.length).foldl (fun m j => unlinkThr e m { g := g, lane := j }) m

theorem endGroup_eq (e : Env) (m : Mach) (g : Nat) : endGroup e m g = updGrp (unqueued e (dropDisp e m g) g) g (fun gr => { gr with
    disp := none, ab := [], th := gr.th.map (fun t => { exitThr t with v := t.v.map (fun _ => 0) }), s := gr.s.map (fun _ => 0) }) := rfl

theorem dropDisp_th (e : Env) (m : Mach) (g k : Nat) : (grpOf (dropDisp e m g) k).th = (grpOf m k).th := by
  unfold dropDisp
  split
  · rw [grpOf_congr (linkPoison_groups _ _ _ _ _)]
    exact returnResv_th m g k
  · rfl

theorem dropDisp_wf (e : Env) (m : Mach) (g : Nat) (h : Memory.wf m.mem = true) : Memory.wf (dropDisp e m g).mem = true := by
  unfold dropDisp
  split
  case h_1 d _ =>
    have hm : (freeRecs (returnResv m g) d).mem = m.mem := returnResv_mem m g
    exact linkPoison_wf _ _ _ _ _ (hm ▸ h)
  case h_2 => exact h

theorem unqueued_groups (e : Env) (m : Mach) (g : Nat) : (unqueued e m g).groups = m.groups := foldl_keeps Mach.groups (fun _ _ => unlinkThr_groups _ _ _) _ _

theorem endGroup_wf (e : Env) (m : Mach) (g : Nat) (h : Memory.wf m.mem = true) : Memory.wf (endGroup e m g).mem = true := by
  rw [endGroup_eq, updGrp_mem]
  exact foldl_wf (fun m j => unlinkThr_wf e m _) _ (dropDisp_wf e m g h)

/-- The group has no live thread any more, and every other has those that it had. -/
theorem liveGrp_endGroup (e : Env) (m : Mach) (g k : Nat) : liveGrp (grpOf (endGroup e m g) k) = (!(k == g) && liveGrp (grpOf m k)) := by
  rw [endGroup_eq]
  by_cases hk : k = g
  case pos =>
    subst hk
    rw [BEq.rfl, Bool.not_true, Bool.false_and]
    rcases grpOf_updGrp_self (unqueued e (dropDisp e m k) k) k _ with hg | ⟨hg, _⟩
    · rw [hg, liveGrp, List.any_map, List.any_eq_false]
      exact fun t _ => Bool.false_ne_true
    · rw [hg]
      rfl
  case neg =>
    rw [grpOf_updGrp_other _ _ hk, grpOf_congr (unqueued_groups _ _ _), liveGrp, dropDisp_th, beq_eq_false_iff_ne.mpr hk, Bool.not_false, Bool.true_and, liveGrp]

theorem liveGrp_endGroups (e : Env) (gs : List Nat) (m : Mach) (k : Nat) : liveGrp (grpOf (gs.foldl (endGroup e) m) k) = (!gs.contains k && liveGrp (grpOf m k)) := by
  induction gs generalizing m with
  | nil => rfl
  | cons g r ih => rw [List.foldl_cons, ih, liveGrp_endGroup, List.contains_cons, Bool.not_or, Bool.and_left_comm, Bool.and_assoc]

end Sys2Proof.Machine
end

section
/-! PROOF. Partitions and Place Tables, isolation, the answers of an isolated core, the reset of a cluster and the restore of its credits (18 R406 to R414). -/
namespace Sys2Proof.Machine
open Sys2Proof

theorem next_eq {s t : State} (h : s = t) : (.next s : Host.Outcome State Fault Refusal) = .next t := by rw [h]

/-! Partitions (18 R406, R408). -/

theorem partEnable_eq (s : State) (p : Nat) (r : Bool) : partEnable s p r = { s with
    sys := { s.sys with parts := tset s.sys.parts p { partOf s.sys p with en := r } }
    m := if r then s.m else { s.m with tlb := s.m.tlb.filter (fun t => t.part != p) } } := by
  cases r <;> rfl

theorem commitPlace_fails {s : State} {p : Nat} (h : commitCode s p ≠ 1) :
    commitPlace s p = updPart s p (fun x => { x with cst := commitCode s p }) := by
  simp only [commitPlace, h, ↓reduceIte]

/-- The staged copy that passes every check is installed, with RDR and IMGP of the entries that it replaces. -/
theorem commitPlace_installs {s : State} {p : Nat} (h : commitCode s p = 1) : commitPlace s p = updPart s p (fun x => { x with
    cst := 1
    place := x.staged.map (fun w => let o := (tget x.place w.1).getD 0; (w.1, putBits (putBits w.2 62 62 (bitsOf o 62 62)) 51 16 (bitsOf o 51 16))) }) := by
  simp only [commitPlace, h, ↓reduceIte]

/-! Isolation and cut packets (18 R410, R412). -/

theorem resetGo_starts {e : Env} {m : Mach} {d cl : Nat} (hd : d ≤ 3) (hb : (dieOf m d).rbusy = false) (hc : cl ≤ 35) :
    resetGo e m d cl = updDie m d (fun x => { x with rclus := cl, rrun := cl, rdone := false, rbusy := true, isoAt := some (e.now + 18) }) := by
  simp only [resetGo, Nat.not_lt.mpr hd, ↓reduceIte, updDie, hb, Bool.false_or, decide_eq_true_eq, Nat.not_lt.mpr hc, bsnDie]

theorem resetGo_ignored {e : Env} {m : Mach} {d cl : Nat} (hd : d ≤ 3) (h : (dieOf m d).rbusy = true ∨ 35 < cl) :
    resetGo e m d cl = updDie m d (fun x => { x with rclus := cl }) := by
  have hc : ((dieOf m d).rbusy || decide (35 < cl)) = true := by rwa [Bool.or_eq_true, decide_eq_true_eq]
  simp only [resetGo, Nat.not_lt.mpr hd, ↓reduceIte, updDie, hc]

theorem isolationDue_of {s : State} {d t : Nat} (h : (dieOf s.m d).isoAt = some t) (hn : t ≤ s.clk.now) : isolationDue s d = true := by
  simp only [isolationDue, h, hn, Option.any_some, decide_true]

theorem cutDue_of {s : State} {id : Nat} {x : Msg} (hx : msgOf s.m id = some x) (hs : x.stage = .cut) (hn : x.due ≤ s.clk.now) : cutDue s id = true := by
  simp only [cutDue, hx, hs, hn, Option.any_some, BEq.rfl, decide_true, Bool.and_self]

theorem takes_cutPacketArrival {s : State} {id : Nat} {m : Mach} (hd : cutDue s id = true) (hm : cutDo id s.env s.m = m) :
    Takes (.cutPacketArrival id) s (s.withMach m) := by
  have h : Takes (.cutPacketArrival id) s (s.withMach (cutDo id s.env s.m)) := ev_due hd
  rwa [hm] at h

/-- A cut packet that is no message, record, input or post is only discarded and counted. -/
theorem cutDo_counts {e : Env} {m : Mach} {id : Nat} {x : Msg} (hx : msgOf m id = some x) (hr : ∀ core k sender data pd, x.body ≠ .ring core k sender data pd)
    (hc : ∀ g data slot, x.body ≠ .record g data slot ∧ x.body ≠ .input g data slot) (hp : ∀ g n b w, x.body ≠ .rsd g n b w) :
    cutDo id e m = countDiscard (dropMsg m id) x.dst := by
  simp only [cutDo, hx]
  split
  · next hb => exact absurd hb (hr _ _ _ _ _)
  · next hb => exact absurd hb (hc _ _ _).1
  · next hb => exact absurd hb (hc _ _ _).2
  · next hb => exact absurd hb (hp _ _ _ _)
  · rfl

/-! The answers of an isolated core (18 R413). -/

theorem takes_isolatedPacketAnswer {s : State} {id : Nat} {x : Msg} {n : Mach} (hx : msgOf s.m id = some x) (hi : toIsolated s.m x = true)
    (ha : arrived s.env s.m x = true) (hh : x.stage ≠ .held) (hn : isolatedAnswer s.env (dropMsg s.m id) x = n) :
    Takes (.isolatedPacketAnswer id) s (s.withMach (updDie n (coreDie x.dst) (fun d => { d with refd := d.refd + 1 }))) := by
  have he : exec (.isolatedPacketAnswer id) s = execIsolatedPacketAnswer id s := rfl
  have hd : refusalDue s id = true := by simp only [refusalDue, hx, hi, ha, bne_iff_ne.mpr hh, Option.any_some, Bool.and_self]
  rw [Takes, he, execIsolatedPacketAnswer, ev_due hd]
  simp only [State.mapM, hx, hn]

/-- A read of storage or of a log gives bytes that have failed with kind LINK. -/
theorem isolatedAnswer_reads {e : Env} {m : Mach} {x : Msg} (hr : readsOnly x.body = true) (hp : ∀ sa k j d l pc va, x.body ≠ .pop sa k j d l pc va)
    (hc : ∀ cc sa n sx fp rd, x.body ≠ .ctlLoad cc sa n sx fp rd) : isolatedAnswer e m x = linkRead e m x := by
  cases hb : x.body
  case pop => exact absurd hb (hp _ _ _ _ _ _ _)
  case ctlLoad => exact absurd hb (hc _ _ _ _ _ _)
  case load | tileRead | plogRead => simp only [isolatedAnswer, hb]
  all_goals exact absurd hr (by rw [hb]; exact Bool.false_ne_true)

/-! Clearing (18 R412). -/

/-- Groups of some teams. -/
def groupsOf (m : Mach) (teams : List Nat) : List Nat := (m.groups.filter (fun x => teams.contains x.2.team)).map (·.1)

theorem mem_groupsOf {m : Mach} {teams : List Nat} {g : Nat} {gr : Group} (hg : tget m.groups g = some gr) (ht : gr.team ∈ teams) : g ∈ groupsOf m teams :=
  List.mem_map.mpr ⟨(g, gr), List.mem_filter.mpr ⟨mem_of_tget hg, List.contains_iff_mem.mpr ht⟩, rfl⟩

/-- Engine threads of the cluster end, and leave memory and groups. -/
theorem endEngines_keeps (e : Env) (cl : Nat) (l : Tab Copy) (m : Mach) :
    (l.foldl (fun m x => if x.2.cluster == cl then endEngine e m x.1 else m) m).mem = m.mem ∧
      (l.foldl (fun m x => if x.2.cluster == cl then endEngine e m x.1 else m) m).groups = m.groups :=
  ⟨foldl_keeps Mach.mem (fun _ _ => by split <;> rfl) l m, foldl_keeps Mach.groups (fun _ _ => by split <;> rfl) l m⟩

section
variable (e : Env) (m : Mach) (cl : Nat) (teams : List Nat)

/-- Of memory, the clearing leaves out the cluster's storage, once the groups have ended. -/
theorem clearMach_mem : (clearMach e m cl teams).mem = ((groupsOf m teams).foldl (endGroup e) m).mem.filter (fun x => !clusterStore cl x.1) := by
  simp only [clearMach, updClus_mem]
  rw [foldl_keeps Mach.mem (fun _ _ => updCore_mem _ _ _), foldl_keeps Mach.mem (fun _ _ => updTeam_mem _ _ _)]
  exact congrArg (List.filter _) (endEngines_keeps e cl _ _).1

theorem clearMach_groups : (clearMach e m cl teams).groups = ((groupsOf m teams).foldl (endGroup e) m).groups := by
  simp only [clearMach, updClus_groups]
  rw [foldl_keeps Mach.groups (fun _ _ => updCore_groups _ _ _), foldl_keeps Mach.groups (fun _ _ => updTeam_groups _ _ _)]
  exact (endEngines_keeps e cl _ _).2

theorem clearMach_wf (h : Memory.wf m.mem = true) : Memory.wf (clearMach e m cl teams).mem = true := by
  rw [clearMach_mem]
  exact wf_filter _ _ (foldl_wf (fun m g => endGroup_wf e m g) _ h)

/-- The cluster's storage reads as zero. -/
theorem memGet_clearMach {a : Nat} (h : clusterStore cl a = true) : memGet (clearMach e m cl teams).mem a = 0 := by
  rw [clearMach_mem]
  exact memGet_filter_out _ _ a (fun _ => by rw [h, Bool.not_true])

/-- No group of the teams lives. -/
theorem liveGrp_clearMach {g : Nat} (h : (grpOf m g).team ∈ teams) : liveGrp (grpOf (clearMach e m cl teams) g) = false := by
  rw [grpOf_congr (clearMach_groups e m cl teams), liveGrp_endGroups]
  cases hg : tget m.groups g with
  | none =>
    have ho : grpOf m g = goneGroup := by rw [grpOf, hg, Option.getD_none]
    rw [ho, Bool.and_eq_false_iff]
    exact .inr rfl
  | some gr =>
    have ho : grpOf m g = gr := by rw [grpOf, hg, Option.getD_some]
    have hm : (groupsOf m teams).contains g = true := List.contains_iff_mem.mpr (mem_groupsOf hg (ho ▸ h))
    rw [hm, Bool.not_true, Bool.false_and]

end

theorem resetDue_of {s : State} {d t : Nat} (h : (dieOf s.m d).rstAt = some t) (hn : t ≤ s.clk.now) : resetDue s d = true := by
  simp only [resetDue, h, hn, Option.any_some, decide_true]

/-- The machine of a cleared cluster. -/
def clearedMach (s : State) (d : Nat) : Mach := clearMach s.env s.m (resetCluster s.m d) ((teamsOfCluster s (resetCluster s.m d)).map (·.1))

theorem clearedMach_wf {s : State} (d : Nat) (h : Memory.wf s.m.mem = true) : Memory.wf (clearedMach s d).mem = true := clearMach_wf _ _ _ _ h

/-- The machine of a cleared cluster with the record of the reset, written where RECA names storage. -/
def recordedMach (s : State) (d : Nat) : Mach :=
  if served (dieOf s.m d).reca then storeAt (clearedMach s d) (dieOf s.m d).reca (toBytes 64 (resetRecord s d)) false else clearedMach s d

/-- A reset clears the cluster, writes the record, and then shows that it is complete. -/
theorem resetState_m (s : State) (d : Nat) : (resetState d s).m =
    updClus (setIntr (updDie (recordedMach s d) d (fun x => { x with rstAt := none, rdone := true, rbusy := false })) d 0) (resetCluster s.m d)
      (fun c => { c with restoreDue := true }) := rfl

theorem resetState_groups (s : State) (d : Nat) : (resetState d s).m.groups = (clearedMach s d).groups := by
  rw [resetState_m, setIntr, updClus_groups, updDie_groups, updDie_groups, recordedMach]
  split
  · exact storeAt_groups _ _ _ _
  · rfl

theorem resetState_mem (s : State) (d : Nat) : (resetState d s).m.mem =
    if served (dieOf s.m d).reca then memWrite (clearedMach s d).mem (dieOf s.m d).reca (toBytes 64 (resetRecord s d)) else (clearedMach s d).mem := by
  rw [resetState_m, setIntr, updClus_mem, updDie_mem, updDie_mem, recordedMach]
  split
  · exact storeAt_mem _ _ _ _
  · rfl

theorem resetState_die (s : State) (d : Nat) : dieOf (resetState d s).m d =
    { dieOf (recordedMach s d) d with rstAt := none, rdone := true, rbusy := false, intr := (dieOf (recordedMach s d) d).intr ||| 2 ^ 0 } := by
  have hc : ∀ (m : Mach) (c : Nat) (f : Cluster → Cluster), dieOf (updClus m c f) d = dieOf m d := fun _ _ _ => rfl
  rw [resetState_m, hc, setIntr, dieOf_updDie_self, dieOf_updDie_self]

/-- The registers of the die show that the reset is complete, and its cluster waits for the restore. -/
theorem resetState_status (s : State) (d : Nat) : (dieOf (resetState d s).m d).rdone = true ∧ (dieOf (resetState d s).m d).rbusy = false ∧
    (dieOf (resetState d s).m d).rstAt = none ∧ bitOf (dieOf (resetState d s).m d).intr 0 = true ∧
    (clusOf (resetState d s).m (resetCluster s.m d)).restoreDue = true := by
  have hclus : (clusOf (resetState d s).m (resetCluster s.m d)).restoreDue = true := by
    rw [resetState_m, clusOf_updClus_self]
  rw [resetState_die]
  refine ⟨rfl, rfl, rfl, ?_, hclus⟩
  rw [bitOf_eq_testBit, Nat.testBit_or, Nat.testBit_two_pow_self, Bool.or_true]

/-- Settles O41: each step is due under the conditions stated, and does what is stated. -/
theorem partitionAndContainmentSteps : Obligations.PartitionAndContainmentSteps := by
  unfold Obligations.PartitionAndContainmentSteps
  refine fun s => ⟨?enable, ?commit, ?go, ?isolate, ?cut, ?answer, ?complete, ?restore⟩
  case enable => exact fun p r hp => next_eq ((if_pos hp).trans (partEnable_eq s p r))
  case commit =>
    intro p hp x l code
    exact ⟨fun hc => next_eq ((if_pos hp).trans (commitPlace_fails hc)), fun hc => next_eq ((if_pos hp).trans (commitPlace_installs hc))⟩
  case go =>
    intro d cl hd
    exact ⟨fun hb hc => next_withMach s (resetGo_starts hd hb hc), fun h => next_withMach s (resetGo_ignored hd h)⟩
  case isolate => exact fun d t h hn => ev_due (isolationDue_of h hn)
  case cut =>
    intro id x hx hs hn h m1
    have hd := cutDue_of hx hs hn
    refine ⟨?ring, ?record, ?input, ?post, ?other⟩
    case ring => exact fun core k sender data pd hb => takes_cutPacketArrival hd (by simp only [cutDo, hx, hb]; rfl)
    case record => exact fun g data slot hb => takes_cutPacketArrival hd (by simp only [cutDo, hx, hb]; rfl)
    case input => exact fun g data slot hb => takes_cutPacketArrival hd (by simp only [cutDo, hx, hb]; rfl)
    case post => exact fun g n b w hb => takes_cutPacketArrival hd (by simp only [cutDo, hx, hb]; rfl)
    case other => exact fun hr hc hp => takes_cutPacketArrival hd (cutDo_counts hx hr hc hp)
  case answer =>
    intro id x hx hi ha hh m answers link
    have takes : ∀ n, isolatedAnswer s.env m x = n → answers n := fun n hn => takes_isolatedPacketAnswer hx hi ha hh hn
    refine ⟨?reads, ?store, ?atom, ?drain, ?cas, ?frame, ?push, ?packet, ?colophon, ?arrivals, ?ring, ?nireg, ?niread⟩
    case reads => exact fun hr hp hc => takes _ (isolatedAnswer_reads hr hp hc)
    case store => exact fun rows aon prog hb => takes _ (by simp only [isolatedAnswer, hb])
    case atom => exact fun sa op ty b d g l pc va hb => takes _ (by simp only [isolatedAnswer, hb]; rfl)
    case drain => exact fun sa op ty b g l pc va hb => takes _ (by simp only [isolatedAnswer, hb])
    case cas => exact fun sa w ex new d pc va hb => takes _ (by simp only [isolatedAnswer, hb]; rfl)
    case frame => exact fun f d pc va hb => takes _ (by simp only [isolatedAnswer, hb]; rfl)
    case push => exact fun sa k j d hb => takes _ (by simp only [isolatedAnswer, hb]; rfl)
    case packet => exact fun copy i sa d ep hb => takes _ (by simp only [isolatedAnswer, hb])
    case colophon => exact fun sa st copy hb => takes _ (by simp only [isolatedAnswer, hb])
    case arrivals => exact fun sa n hb => takes _ (by simp only [isolatedAnswer, hb, ↓reduceIte])
    case ring => exact fun core k sender data pd hb => takes _ (by simp only [isolatedAnswer, hb])
    case nireg => exact fun core reg w hb => takes _ (by simp only [isolatedAnswer, performBody, hb])
    case niread => exact fun core reg d hb => takes _ (by simp only [isolatedAnswer, performBody, hb])
  case complete =>
    intro d t h hn
    refine ⟨resetState d s, ev_due (resetDue_of h hn), resetState_status s d, fun hw hs => ?record, fun hw a ha ho => ?cleared, fun g hg => ?ended⟩
    case record =>
      rw [resetState_mem, if_pos hs]
      have hr := memRead_memWrite (toBytes 64 (resetRecord s d)) _ (dieOf s.m d).reca (clearedMach_wf d hw)
      rwa [length_toBytes] at hr
    case cleared =>
      rw [resetState_mem]
      have hz : memGet (clearedMach s d).mem a = 0 := memGet_clearMach _ _ _ _ ha
      split
      case isFalse => exact hz
      case isTrue hs =>
        have hout := ho.resolve_left (fun hf => Bool.false_ne_true (hf.symm.trans hs))
        rwa [memGet_memWrite_out _ _ _ _ (clearedMach_wf d hw) (by rwa [length_toBytes])]
    case ended =>
      rw [grpOf_congr (resetState_groups s d)]
      exact liveGrp_clearMach _ _ _ _ hg
  case restore => exact fun d hd => next_eq (if_pos (Nat.lt_succ_of_le hd))

end Sys2Proof.Machine
end

section
/-! SUPPORT. The registers on which the device invariant rests (19 R416, R417, R427), and what leaves them: the machine part, the Front End's tables, the partitions, and every row but those of bring-up, reset, power and heat. -/
namespace Sys2Proof.Machine
open Sys2Proof

/-- What `DeviceInv` reads of a state: phase and fraction of the clock, CSTEP, the released HBM parts, LEVEL, and the floor record, which names the defective parts. -/
structure Board where
  phase : Nat
  frac : Nat
  cstep : Nat
  hbmr : List Bool
  level : Nat
  floor : Option (List Byte)

def boardOf (c : Clk) (d : Dev) : Board := { phase := c.phase, frac := c.frac, cstep := d.cstep, hbmr := d.hbmr, level := d.level, floor := d.floor }

def board (s : State) : Board := boardOf s.clk s.sys.dev

section
variable {s t : State} (h : board t = board s)
include h

theorem released_of_board (d : Nat) : released t.sys d = released s.sys d := by
  have hb : t.sys.dev.hbmr = s.sys.dev.hbmr := congrArg Board.hbmr h
  rw [released, hb, released]

theorem allReleased_of_board : allReleased t = allReleased s := by
  have hf : t.sys.dev.floor = s.sys.dev.floor := congrArg Board.floor h
  simp only [allReleased, floorField, released_of_board h, hf]

end

theorem DeviceInv.of_board {s t : State} (I : DeviceInv s) (h : board t = board s) : DeviceInv t := by
  obtain ⟨hp, hf, hc, hb, hl, _⟩ := Board.mk.inj h
  constructor
  case phase => exact hp ▸ I.phase
  case frac => exact hf ▸ I.frac
  case cstep => exact hc ▸ I.cstep
  case parts => exact hb ▸ I.parts
  case level => exact hl ▸ I.level
  case hbm => simpa only [hl, released_of_board h] using I.hbm
  case full => simpa only [hl, allReleased_of_board h] using I.full

/-- A change of the clock and of the system tables leaves the board where the clock and the device's registers stay. -/
theorem board_of_clk_dev {s t : State} (hc : t.clk = s.clk) (hd : t.sys.dev = s.sys.dev) : board t = board s := by
  rw [board, hc, hd, board]

/-! The machine part, and system tables other than the device's registers. -/

section
variable (s : State)

@[simp] theorem board_withMach (m : Mach) : board (s.withMach m) = board s := rfl
/-- The schedulers and Catalogues that have had their turn are no part of the board. -/
theorem board_of_clk_turn (m : Mach) (l : List Nat) : board { s.withMach m with clk := { s.clk with turn := l } } = board s := rfl
@[simp] theorem board_mapM (f : Env → Mach → Mach) : board (s.mapM f) = board s := rfl
@[simp] theorem board_updQueue (q : Nat) (f : Queue → Queue) : board (updQueue s q f) = board s := rfl
@[simp] theorem board_updTask (p g : Nat) (f : Task → Task) : board (updTask s p g f) = board s := rfl
@[simp] theorem board_updPart (p : Nat) (f : Part → Part) : board (updPart s p f) = board s := rfl
@[simp] theorem board_updVec (k : Nat) (f : Vec → Vec) : board (updVec s k f) = board s := rfl
@[simp] theorem board_spend (p n : Nat) : board (spend p n s) = board s := rfl
@[simp] theorem board_feStore (sa v : Nat) : board (feStore s sa v) = board s := rfl
@[simp] theorem board_startPkt (q : Nat) (ws : List Nat) (step ref : Nat) : board (startPkt s q ws step ref) = board s := rfl
@[simp] theorem board_newGrid (p : Nat) (lp maps : List Nat) (node : Bool) : board (newGrid s p lp maps node).2 = board s := rfl
@[simp] theorem board_stopGraph (g : Nat) : board (stopGraph s g) = board s := rfl
@[simp] theorem board_commitPlace (p : Nat) : board (commitPlace s p) = board s := rfl
@[simp] theorem board_ctlUpd (cc : Nat) (f : CtlCore → CtlCore) : board (ctlUpd s cc f) = board s := rfl
@[simp] theorem board_graphWord (g w v : Nat) : board (graphWord s g w v) = board s := rfl
@[simp] theorem board_seedPredictors : board (seedPredictors s) = board s := by simp only [board, seedPredictors]

@[simp] theorem board_partEnable (p : Nat) (run : Bool) : board (partEnable s p run) = board s := by
  rw [partEnable_eq]
  rfl

@[simp] theorem board_feAcquire (p va : Nat) : board (feAcquire s p va) = board s := by
  unfold feAcquire
  split <;> rfl

/-- An event is counted in the table of vectors. -/
@[simp] theorem board_finishPkt (q : Nat) (p : Pkt) : board (finishPkt s q p) = board s := by
  unfold finishPkt
  dsimp only
  rw [board_updQueue]
  split <;> rfl

@[simp] theorem board_startDone (q : Nat) (ws : List Nat) : board (startDone s q ws) = board s := by
  rw [startDone_eq, board_finishPkt, board_startPkt]

/-- A suspension that begins or ends is noted in the Place Tables. -/
theorem dev_setRdr (sys : Sys) (p k b : Nat) : (setRdr sys p k b).dev = sys.dev := rfl
theorem dev_clearRdr (sys : Sys) (p k : Nat) : (clearRdr sys p k).dev = sys.dev := rfl

theorem board_signalState (cores : List Nat) : board (signalState cores s) = board s :=
  board_of_clk_dev rfl (foldl_keeps Sys.dev (fun sys _ => foldl_keeps Sys.dev (fun sys _ => dev_setRdr sys _ _ _) _ sys) _ _)

theorem board_backState (t : Nat) : board (backState t s) = board s :=
  board_of_clk_dev rfl (foldl_keeps Sys.dev (fun sys _ => dev_clearRdr sys _ _) _ _)

theorem clearCluster_dev (cl : Nat) : (clearCluster s cl).sys.dev = s.sys.dev :=
  foldl_keeps Sys.dev (fun sys _ => foldl_keeps Sys.dev (fun sys _ => dev_clearRdr sys _ _) _ sys) _ _

theorem board_clearCluster (cl : Nat) : board (clearCluster s cl) = board s := board_of_clk_dev rfl (clearCluster_dev s cl)

theorem board_resetState (d : Nat) : board (resetState d s) = board s := board_clearCluster s (resetCluster s.m d)

end

end Sys2Proof.Machine
end

section
/-! SUPPORT. The Front End leaves the board: packets, task graphs, waits, slices and completion words write queues, tasks, vectors and memory (14 R335 to R349). -/
namespace Sys2Proof.Machine
open Sys2Proof

/-! Packets (14 R335 to R345). -/

/-- A packet that passes the checks of its row leaves the board. -/
def PacketKeepsBoard (f : Nat → List Nat → State → Except (Nat × Nat) State) : Prop := ∀ q ws s t, f q ws s = .ok t → board t = board s

theorem board_runRow {f : Nat → List Nat → State → Except (Nat × Nat) State} (hf : PacketKeepsBoard f) (q : Nat) (s : State) : board (runRow f q s) = board s := by
  unfold runRow
  dsimp only
  split
  · simp only [board_spend, board_updQueue]
  · split
    · simp only [board_spend, board_updQueue]
    · rename_i hx
      rw [board_spend]
      exact hf _ _ _ _ hx
  · rfl

theorem nopDo_keepsBoard : PacketKeepsBoard nopDo := by
  intro q ws s t h
  cases h
  exact board_startDone s q ws

theorem writeDo_keepsBoard : PacketKeepsBoard writeDo := by
  intro q ws s t h
  unfold writeDo at h
  split at h <;> cases h
  rw [board_startPkt, board_feStore]

theorem waitDo_keepsBoard : PacketKeepsBoard waitDo := by
  intro q ws s t h
  unfold waitDo at h
  split at h <;> cases h
  exact board_startPkt s q ws 0 0

theorem indirectDo_keepsBoard : PacketKeepsBoard indirectDo := by
  intro q ws s t h
  unfold indirectDo at h
  split at h <;> cases h
  rw [board_updQueue, board_startPkt]

/-- A trigger changes its task graph. -/
theorem triggerDo_keepsBoard : PacketKeepsBoard triggerDo := by
  intro q ws s t h
  cases h
  exact board_startDone s q ws

theorem board_sendInput {s t : State} {g : Nat} {data : List Byte} (h : sendInput s g data = some t) : board t = board s := by
  obtain ⟨x, _, rfl⟩ := Option.map_eq_some_iff.mp h
  rfl

theorem inputPktDo_keepsBoard : PacketKeepsBoard inputPktDo := by
  intro q ws s t h
  unfold inputPktDo at h
  dsimp only at h
  split at h
  · cases h
  · split at h
    · cases h
    · split at h <;> cases h
      · rename_i hs
        rw [board_startPkt, board_sendInput hs]
      · exact board_startPkt s q ws 0 0

theorem launchPktDo_keepsBoard : PacketKeepsBoard launchPktDo := by
  intro q ws s t h
  unfold launchPktDo at h
  split at h <;> cases h
  rw [board_startPkt, board_newGrid]

theorem loadDo_keepsBoard : PacketKeepsBoard loadDo := by
  intro q ws s t h
  unfold loadDo at h
  dsimp only at h
  split at h
  · cases h
  · split at h
    · cases h
    · split at h <;> cases h
      exact board_startDone _ q ws

/-- A standing graph that starts has its teams wait. -/
theorem board_startGraph {s t : State} {p g : Nat} (h : startGraph s p g = .ok t) : board t = board s := by
  unfold startGraph at h
  split at h
  · cases h
  · split at h
    · cases h
      rfl
    · split at h
      · cases h
      · dsimp only at h
        split at h <;> cases h
        rfl

theorem startPktDo_keepsBoard : PacketKeepsBoard startPktDo := by
  intro q ws s t h
  unfold startPktDo at h
  split at h <;> cases h
  rename_i hs
  rw [board_startPkt, board_startGraph hs]

theorem stopPktDo_keepsBoard : PacketKeepsBoard stopPktDo := by
  intro q ws s t h
  unfold stopPktDo at h
  dsimp only at h
  split at h <;> cases h
  rw [board_startPkt, board_stopGraph]

theorem loadTaskDo_keepsBoard : PacketKeepsBoard loadTaskDo := by
  intro q ws s t h
  unfold loadTaskDo at h
  dsimp only at h
  split at h
  · cases h
  · split at h <;> cases h
    exact board_startDone _ q ws

theorem unloadTaskDo_keepsBoard : PacketKeepsBoard unloadTaskDo := by
  intro q ws s t h
  unfold unloadTaskDo at h
  dsimp only at h
  split at h <;> cases h
  exact board_startPkt _ q ws 0 0

/-! Completion (14 R337 to R340). -/

/-- A packet that is complete leaves its grid, its graph or its event. -/
theorem board_pktDone {s t : State} {q : Nat} {p : Pkt} (h : pktDone s q p = some t) : board t = board s := by
  unfold pktDone at h
  dsimp only at h
  repeat' split at h
  all_goals cases h <;> rfl

theorem board_finishQueue (s : State) (q : Nat) : board (finishQueue s q) = board s := by
  unfold finishQueue
  dsimp only
  rw [foldl_keeps board]
  · split
    · exact board_updQueue s q _
    · rfl
  · intro s p
    split
    · rename_i hp
      rw [board_finishPkt, board_pktDone hp]
    · rfl

theorem board_finishQueues (s : State) : board (finishQueues s) = board s := by
  unfold finishQueues
  refine foldl_keeps board (fun s x => ?_) _ s
  exact foldl_keeps board (fun s _ => board_finishQueue s x.1) _ s

theorem board_settle (s : State) : board (settle s) = board s := by
  rw [settle, board_finishQueues, board_mapM]

theorem board_slotDo (k : Nat) (s : State) : board (slotDo k s) = board s := by
  unfold slotDo
  split
  · rfl
  · dsimp only
    split
    · simp only [board_spend, board_updQueue]
    · rename_i hs
      rw [board_spend, board_updQueue, board_sendInput hs]
    · rfl

theorem board_owedDo (q : Nat) (s : State) : board (owedDo q s) = board s := by
  unfold owedDo
  dsimp only
  split
  · rw [board_updQueue, board_feStore]
  · exact board_updQueue s q _

/-! Task graphs and waits (14 R337, R344, R346). -/

theorem board_onTask {f : Task → State → State} (hf : ∀ t s, board (f t s) = board s) (p g : Nat) (s : State) : board (onTask p g f s) = board s := by
  unfold onTask
  split
  · rw [board_spend, hf]
  · rfl

theorem board_launchNodeDo (p g : Nat) (t : Task) (s : State) : board (launchNodeDo p g t s) = board s := by
  unfold launchNodeDo
  dsimp only
  split
  · exact board_updTask s p g _
  · split
    · exact board_updTask s p g _
    · split
      · exact board_updTask s p g _
      · split
        · exact board_updTask s p g _
        · exact board_updTask s p g _
        · rw [board_updTask, board_newGrid]
          rfl

theorem board_standingNodeDo (p g : Nat) (t : Task) (s : State) : board (standingNodeDo p g t s) = board s := by
  unfold standingNodeDo
  dsimp only
  split
  · exact board_updTask s p g _
  · split
    · exact board_updTask s p g _
    · split
      · exact board_updTask s p g _
      · exact board_updTask s p g _
      · rename_i hs
        rw [board_updTask, board_startGraph hs]

theorem board_loopNodeDo (p g : Nat) (t : Task) (s : State) : board (loopNodeDo p g t s) = board s := by
  unfold loopNodeDo
  dsimp only
  split <;> rfl

theorem board_copyNodeDo (p g : Nat) (t : Task) (s : State) : board (copyNodeDo p g t s) = board s := rfl

theorem board_signalNodeDo (p g : Nat) (t : Task) (s : State) : board (signalNodeDo p g t s) = board s := by
  unfold signalNodeDo
  dsimp only
  split
  · rfl
  · split
    · exact board_updTask s p g _
    · rw [board_updTask, board_feStore]

theorem board_runEndDo (p g : Nat) (t : Task) (s : State) : board (runEndDo p g t s) = board s := by
  unfold runEndDo
  split <;> rfl

theorem board_waitMetDo (k : Nat) (s : State) : board (waitMetDo k s) = board s := by
  unfold waitMetDo
  split
  · refine board_onTask (fun t s => ?_) _ _ s
    dsimp only
    split
    · rw [board_updTask, board_feAcquire]
    · exact board_updTask s _ _ _
  · split
    · dsimp only
      split
      · rw [board_spend, board_finishPkt, board_feAcquire]
      · rw [board_spend, board_updQueue]
    · rfl

theorem board_sliceDo (p : Nat) (s : State) : board (sliceDo p s) = board s := by
  unfold sliceDo
  split <;> rfl

/-! Teams, reports and messages with a trigger. -/

theorem board_teamStartDo (k : Nat) (s : State) : board (teamStartDo k s) = board s := by
  unfold teamStartDo
  split
  · rfl
  · dsimp only
    split <;> rfl

theorem board_standingDo (k : Nat) (s : State) : board (standingDo k s) = board s := by
  unfold standingDo
  split <;> rfl

theorem board_reportDo (g : Nat) (s : State) : board (reportDo g s) = board s := by
  refine board_of_clk_dev rfl ?_
  unfold reportDo
  dsimp only
  split <;> rfl

theorem board_accessDo (id : Nat) (s : State) : board (accessDo id s) = board s := by
  unfold accessDo
  dsimp only
  split
  · split <;> rfl
  · rfl

end Sys2Proof.Machine
end

section
/-! SUPPORT. Registers, host accesses and acts leave the board, but for the recovery mailbox, which may restart the boot at level ROM (19 R418, R425, R428). -/
namespace Sys2Proof.Machine
open Sys2Proof

/-- The board stays, or the boot restarts from level ROM. -/
def Stays (s t : State) : Prop := board t = board s ∨ s.sys.dev.level = 0 ∧ board t = board (moduleReset s)

theorem Stays.of_board {s s1 t : State} (h : board s1 = board s) (ht : Stays s1 t) : Stays s t := by
  have hl : s1.sys.dev.level = s.sys.dev.level := congrArg Board.level h
  have hf : s1.sys.dev.floor = s.sys.dev.floor := congrArg Board.floor h
  have hr : board (moduleReset s1) = board (moduleReset s) := by simp only [board, boardOf, moduleReset, hf]
  rwa [Stays, h, hl, hr] at ht

theorem Stays.board_right {s t u : State} (ht : Stays s t) (h : board u = board t) : Stays s u := by rwa [Stays, h]

/-- A restart leaves LEVEL at ROM, where it was. -/
theorem Stays.level {s t : State} (h : Stays s t) : t.sys.dev.level = s.sys.dev.level := by
  rcases h with h | ⟨h0, h⟩
  · exact congrArg Board.level h
  · exact (congrArg Board.level h).trans h0.symm

/-! Registers of the device outside the board. -/

theorem board_putMboxAddr (s : State) (v : Nat) : board (updDev s (fun d => { d with mboxAddr := v })) = board s := rfl
theorem board_putPlim (s : State) (v : Nat) : board (updDev s (fun d => { d with plim := v })) = board s := rfl
theorem board_refuseStep (s : State) (code : Nat) : board (refuseStep s code) = board s := rfl
theorem board_putLoadAddr (s : State) (v : Nat) : board (updDev s (fun d => { d with loadAddr := v })) = board s := rfl

theorem board_loadStart (s : State) (a : Nat) : board (loadStart s a) = board s := by
  unfold loadStart
  split <;> rfl

/-- The image at an address of device memory, as far as its head gives a length that is read. -/
def imageAt (m : Mach) (a : Nat) : List Byte :=
  let head := memRead m.mem a 128
  head ++ (if imgLen head ≤ 2 ^ 32 then memRead m.mem (a + 128) (imgLen head) else [])

/-- The image at an address of the host. -/
def mailImage (m : Mach) (a : Nat) : List Byte :=
  let head := hostRead m a 128
  head ++ (if imgLen head ≤ 2 ^ 32 then hostRead m (a + 128) (imgLen head) else [])

/-- KIND of the image to be loaded. -/
def loadKind (s : State) : Nat := bitsOf (imgHead (imageAt s.m s.sys.dev.loadAddr)) 127 96

theorem loadDone_eq (s : State) : loadDone s =
    let k := loadKind s
    let s1 := updDev s (fun d => { d with loading := none })
    if (k == 3 || k == 4) && imageOk s.sys k (imageAt s.m s.sys.dev.loadAddr) then
      let s2 := updDev s1 (fun d => { d with loadRes := 0, images := if d.images.contains k then d.images else d.images ++ [k] })
      if k == 4 then seedPredictors s2 else s2
    else updDev s1 (fun d => { d with loadRes := 6, fail := 6 }) := rfl

theorem board_loadDone (s : State) : board (loadDone s) = board s := by
  rw [loadDone_eq]
  dsimp only
  split
  · split
    · exact board_seedPredictors _
    · rfl
  · rfl

theorem mailboxStart_eq {s : State} (a : Nat) (hl : s.sys.dev.level = 0) : mailboxStart s a =
    if imageOk s.sys 6 (mailImage s.m a) then moduleReset (updDev s (fun d => { d with flash := mailImage s.m a }))
    else updDev s (fun d => { d with mboxAddr := a, mboxStat := d.mboxStat + 1 }) := if_neg (not_not.mpr hl)

theorem mailboxStart_off {s : State} (a : Nat) (hl : s.sys.dev.level ≠ 0) : mailboxStart s a = s := if_pos hl

theorem mailboxStart_stays (s : State) (a : Nat) : Stays s (mailboxStart s a) := by
  by_cases hl : s.sys.dev.level = 0
  case neg =>
    rw [mailboxStart_off a hl]
    exact .inl rfl
  case pos =>
    rw [mailboxStart_eq a hl]
    split
    · exact .inr ⟨hl, rfl⟩
    · exact .inl rfl

theorem board_hostAccess (s : State) (pa : Nat) (data : List Byte) (write : Bool) : board (hostAccess s pa data write) = board s := by
  unfold hostAccess
  split
  · rfl
  · dsimp only
    split <;> rfl

/-! The register map (19 R428). -/

theorem board_triggerTask (s : State) (p g : Nat) : board { s with sys := triggerTask s.sys p g } = board s := rfl

theorem board_partWord (s : State) (p w v : Nat) : board (partWord s p w v) = board s := by
  simp only [partWord, apply_ite board, board_updPart, board_partEnable, board_commitPlace, ite_self]

theorem board_queueWordWrite (s : State) (a : Agent) (q w v : Nat) : board (queueWordWrite s a q w v) = board s := rfl

theorem board_dieWord (s : State) (d o v : Nat) : board (dieWord s d o v) = board s := rfl

theorem board_entryWord (s : State) (k w v : Nat) : board (entryWord s k w v) = board s := by
  unfold entryWord
  split
  · dsimp only
    split <;> exact board_withMach s _
  · split <;> exact board_withMach s _
  · rfl

theorem board_ite {c : Prop} [Decidable c] {s a b : State} (ha : board a = board s) (hb : board b = board s) : board (if c then a else b) = board s := by
  split
  · exact ha
  · exact hb

/-- Every register but the mailbox's START leaves the board. -/
theorem board_regWrite {s : State} {a : Agent} {o v : Nat} (ho : o ≠ 0x1008) : board (regWrite s a o v) = board s := by
  rw [regWrite, if_neg ho]
  refine board_ite (board_putMboxAddr s v) ?_
  refine board_ite (board_putPlim s _) ?_
  refine board_ite (board_putLoadAddr s v) ?_
  refine board_ite (board_loadStart s _) ?_
  refine board_ite (board_partWord s _ _ v) ?_
  refine board_ite (board_updPart s _ _) ?_
  refine board_ite (board_queueWordWrite s a _ _ v) ?_
  refine board_ite (board_updVec s _ _) ?_
  refine board_ite (board_updVec s _ _) ?_
  refine board_ite (board_triggerTask s _ _) ?_
  refine board_ite (board_graphWord s _ _ v) ?_
  refine board_ite (board_dieWord s _ _ v) ?_
  exact board_ite (board_entryWord s _ _ v) rfl

theorem regWrite_stays (s : State) (a : Agent) (o v : Nat) : Stays s (regWrite s a o v) := by
  by_cases ho : o = 0x1008
  case pos =>
    subst ho
    exact mailboxStart_stays s _
  case neg => exact .inl (board_regWrite ho)

theorem board_keepRun (s s1 : State) (q : Nat) : board (keepRun s s1 q) = board s1 := by
  unfold keepRun
  dsimp only
  split <;> rfl

theorem registerWrite_stays (s : State) (a : Agent) (o size v : Nat) : Stays s (registerWrite s a o size v) := by
  unfold registerWrite
  split
  case isFalse => exact .inl rfl
  case isTrue =>
    split
    case isTrue => exact regWrite_stays s a o v
    case isFalse =>
      dsimp only
      split
      case isTrue => exact (regWrite_stays s a _ _).board_right (board_keepRun _ _ _)
      case isFalse => exact regWrite_stays s a _ _

/-! Acts of control cores and of the outside (14 R332 to R334, 19 R422, R423). -/

theorem board_ctlFetch (s : State) (cc va : Nat) : board (ctlFetch s cc va) = board s := by
  unfold ctlFetch
  dsimp only
  split
  · rfl
  · split <;> rfl

theorem board_ctlLoadDo (s : State) (cc va n : Nat) (sx fp : Bool) (rd : Nat) : board (ctlLoadDo s cc va n sx fp rd) = board s := by
  unfold ctlLoadDo
  dsimp only
  split
  · rfl
  · split
    · rfl
    · rfl
    · split <;> rfl
    · rfl

theorem ctlStoreDo_stays (s : State) (cc va n : Nat) (v : Dword) : Stays s (ctlStoreDo s cc va n v) := by
  unfold ctlStoreDo
  dsimp only
  split
  · exact .inl rfl
  · split
    · exact .inl rfl
    · exact .inl rfl
    · split
      · exact (registerWrite_stays s _ _ _ _).board_right rfl
      · exact .inl rfl
    · exact .inl rfl

theorem board_loadPlugin (s : State) (p pa : Nat) : board (loadPlugin s p pa) = board s := by
  have hp : loadPlugin s p pa = if imageOk s.sys 2 (imageAt s.m pa) then updPart s p (fun x => { x with plugins := if x.plugins.contains pa then x.plugins else x.plugins ++ [pa] }) else s := rfl
  rw [hp]
  split <;> rfl

theorem board_setSlice (s : State) (p n : Nat) : board (setSlice s p n) = board s := by
  unfold setSlice
  split <;> rfl

theorem ctlOp_stays (s : State) (cc : Nat) (op : CtlOp) : Stays s (ctlOp s cc op) := by
  cases op with
  | store va n v => exact ctlStoreDo_stays s cc va n v
  | fetch va => exact .inl (board_ctlFetch s cc va)
  | load va n sx fp rd => exact .inl (board_ctlLoadDo s cc va n sx fp rd)
  | fence | fenceI | csrWrite | csrRead | ecall | mret | sret => exact .inl (board_ctlUpd s cc _)
  | assignCore | assignVec | enrol =>
    unfold ctlOp
    dsimp only
    split <;> exact .inl rfl
  | sliceLen n =>
    unfold ctlOp
    dsimp only
    split
    · split
      · exact .inl (board_setSlice s _ n)
      · exact .inl rfl
    · exact .inl rfl
  | plugin pa =>
    unfold ctlOp
    dsimp only
    split
    · split
      · exact .inl (board_loadPlugin s _ pa)
      · exact .inl rfl
    · exact .inl rfl

theorem doAct_stays (a : Act) (s : State) : Stays s (doAct a s) := by
  cases a with
  | ctl cc op =>
    unfold doAct
    dsimp only
    split
    · exact ctlOp_stays s cc op
    · exact .inl rfl
  | hostRead | upset | flitFail => exact .inl rfl
  | hostPoison pa n => exact .inl (board_hostAccess s pa _ true)
  | corrected | retransmit =>
    unfold doAct
    dsimp only
    split <;> exact .inl rfl

/-- The act leaves the list of those to come, and is done. -/
theorem takeAct_stays (k : Nat) (s : State) : Stays s (takeAct k s) := by
  unfold takeAct
  dsimp only
  split
  · exact (doAct_stays _ _).of_board (board_of_clk_dev rfl rfl)
  · exact .inl rfl

end Sys2Proof.Machine
end

section
/-! SUPPORT. What an instruction or a row does with the board: all but seven rows leave it, the recovery mailbox aside. -/
namespace Sys2Proof.Machine
open Sys2Proof

/-- The rows of bring-up, reset, power and heat, which change the board (19 R417, R424, R427). -/
def movesBoard : Instr → Bool
  | .moduleReset | .monitorLevel | .lpddrOnlyLevel | .hbmRelease _ | .functionLevelReset | .clockStepUpdate | .thermalTrip => true
  | _ => false

theorem movesBoard_cases {i : Instr} (h : movesBoard i = true) :
    i = .moduleReset ∨ i = .monitorLevel ∨ i = .lpddrOnlyLevel ∨ (∃ d, i = .hbmRelease d) ∨ i = .functionLevelReset ∨ i = .clockStepUpdate ∨ i = .thermalTrip := by
  cases i with
  | moduleReset => exact .inl rfl
  | monitorLevel => exact .inr (.inl rfl)
  | lpddrOnlyLevel => exact .inr (.inr (.inl rfl))
  | hbmRelease d => exact .inr (.inr (.inr (.inl ⟨d, rfl⟩)))
  | functionLevelReset => exact .inr (.inr (.inr (.inr (.inl rfl))))
  | clockStepUpdate => exact .inr (.inr (.inr (.inr (.inr (.inl rfl)))))
  | thermalTrip => exact .inr (.inr (.inr (.inr (.inr (.inr rfl)))))
  | _ => cases h

theorem eq_of_ev {due : Bool} {name : String} {u t : State} (h : ev due name u = .next t) : t = u := by
  unfold ev at h
  split at h <;> cases h
  rfl

theorem stays_of_ev {due : Bool} {name : String} {s u t : State} (h : ev due name u = .next t) (hu : board u = board s) : Stays s t := by
  rw [eq_of_ev h]
  exact .inl hu

theorem stays_of_next {s u t : State} (h : (.next u : Host.Outcome State Fault Refusal) = .next t) (hu : Stays s u) : Stays s t := by
  cases h
  exact hu

/-- An instruction of a program changes the machine part alone. -/
theorem runI_next {i : Instr} {h : Hdr} {once : Bool} {body : Env → Ctx → Mach → BRes} {s t : State} (hx : runI i h once body s = .next t) :
    ∃ m, t = s.withMach m := by
  unfold runI at hx
  split at hx <;> cases hx
  exact ⟨_, rfl⟩

theorem execPageWalk_stays {s t : State} (h : execPageWalk s = .next t) : Stays s t := by
  unfold execPageWalk at h
  split at h
  · split at h <;> cases h
    exact .inl rfl
  · cases h

/-- A row of the device that is none of the seven: what it writes is the machine part, or a table that the board does not show. -/
theorem exec_row_stays {i : Instr} {s t : State} (hh : hdrOfInstr i = none) (hm : movesBoard i = false) (h : exec i s = .next t) : Stays s t := by
  cases i with
  | moduleReset | monitorLevel | lpddrOnlyLevel | hbmRelease | functionLevelReset | clockStepUpdate | thermalTrip => cases hm
  | monitorPoll | mwtTimeout | claimGrant | deadlockDetect | cvwRelease | barDeparture | atomicBufferDrain | causalBufferRelease | handQueueApply
  | inboxMessageArrival | senderResetMarker | arrivalIncrement | colophonWrite | copyInstanceStart | enginePacketWrite | matrixGrant | matrixPassComplete
  | inputAccession | recordArrival | residualPostApply | catalogueAnswer | blockActivation | coalescingTimerLapse | dispatchLaunch
  | dispatchRetire | probeStart | probeAnswer | gridComplete | handlerEntry | stopArrival | resumeArrival | singleStep | shadowSwapComplete | spill
  | packetDeferral | allocationCopyComplete | teamResumption | isolation | cutPacketArrival | isolatedPacketAnswer | backInvalidate
  | resultLand | qwaitRetry => exact stays_of_ev h (board_mapM s _)
  | faultFill | faultRefuse | dbgcResume | fcalReply | invalidationStart | parkRelease | imgbWrite | clusterResetGo =>
    exact stays_of_next h (.inl (board_mapM s _))
  | catalogueChoice d => exact stays_of_ev h (board_of_clk_turn s _ _)
  | taskGraphTrigger p g => exact stays_of_next h (.inl (board_triggerTask s p g))
  | msixMessage v => exact stays_of_ev h (board_of_clk_dev rfl rfl)
  | memoryAccessPerform id => exact stays_of_ev h (board_accessDo id s)
  | pageWalk => exact execPageWalk_stays h
  | reportWrite g => exact stays_of_ev h (board_reportDo g s)
  | preemptionSignal cores => exact stays_of_next h (.inl (board_ite (board_signalState s cores) (board_mapM s _)))
  | copyBackComplete t => exact stays_of_ev h (board_backState s t)
  | teamStart => exact stays_of_ev h (board_teamStartDo _ s)
  | standingTeamFormed => exact stays_of_ev h (board_standingDo _ s)
  | qtailDoorbell q v => exact stays_of_next h (.inl (board_ite rfl (board_updQueue s q _)))
  | queueRunWrite q run => exact stays_of_next h (.inl (board_ite rfl (board_updQueue s q _)))
  | nopPacket q => exact stays_of_ev h (board_runRow nopDo_keepsBoard q s)
  | launch q => exact stays_of_ev h (board_runRow launchPktDo_keepsBoard q s)
  | write q => exact stays_of_ev h (board_runRow writeDo_keepsBoard q s)
  | signalPacket q => exact stays_of_ev h (board_runRow writeDo_keepsBoard q s)
  | waitPacket q => exact stays_of_ev h (board_runRow waitDo_keepsBoard q s)
  | indirect q => exact stays_of_ev h (board_runRow indirectDo_keepsBoard q s)
  | trigger q => exact stays_of_ev h (board_runRow triggerDo_keepsBoard q s)
  | input q => exact stays_of_ev h (board_runRow inputPktDo_keepsBoard q s)
  | loadStandingGraph q => exact stays_of_ev h (board_runRow loadDo_keepsBoard q s)
  | startStandingGraph q => exact stays_of_ev h (board_runRow startPktDo_keepsBoard q s)
  | stopStandingGraph q => exact stays_of_ev h (board_runRow stopPktDo_keepsBoard q s)
  | resetStandingGraph q => exact stays_of_ev h (board_runRow stopPktDo_keepsBoard q s)
  | unloadStandingGraph q => exact stays_of_ev h (board_runRow stopPktDo_keepsBoard q s)
  | loadTaskGraph q => exact stays_of_ev h (board_runRow loadTaskDo_keepsBoard q s)
  | unloadTaskGraph q => exact stays_of_ev h (board_runRow unloadTaskDo_keepsBoard q s)
  | inputSlotFreed k => exact stays_of_ev h (board_slotDo k s)
  | completionWordWrite q => exact stays_of_ev h (board_owedDo q s)
  | launchNode p g => exact stays_of_ev h (board_onTask (board_launchNodeDo p g) p g s)
  | standingNode p g => exact stays_of_ev h (board_onTask (board_standingNodeDo p g) p g s)
  | conditionalNode p g => exact stays_of_ev h (board_onTask (fun _ s => board_updTask s p g _) p g s)
  | loopNode p g => exact stays_of_ev h (board_onTask (board_loopNodeDo p g) p g s)
  | copyNode p g => exact stays_of_ev h (board_onTask (board_copyNodeDo p g) p g s)
  | waitNode p g => exact stays_of_ev h (board_onTask (fun _ s => board_updTask s p g _) p g s)
  | signalNode p g => exact stays_of_ev h (board_onTask (board_signalNodeDo p g) p g s)
  | taskGraphRunEnd p g => exact stays_of_ev h (board_onTask (board_runEndDo p g) p g s)
  | waitConditionMet k => exact stays_of_ev h (board_waitMetDo k s)
  | timeSliceSwitch p => exact stays_of_ev h (board_sliceDo p s)
  | msixUnmask v => exact stays_of_next h (.inl (board_ite (board_of_clk_dev rfl rfl) rfl))
  | partitionEnable p run => exact stays_of_next h (.inl (board_ite (board_partEnable s p run) rfl))
  | placeTableCommit p => exact stays_of_next h (.inl (board_ite (board_commitPlace s p) rfl))
  | resetComplete d => exact stays_of_ev h (board_resetState s d)
  | restore d => exact stays_of_next h (.inl (board_ite (board_mapM s _) rfl))
  | imageLoadStart a => exact stays_of_next h (.inl (board_loadStart s a.toNat))
  | imageLoadComplete => exact stays_of_ev h (board_loadDone s)
  | mailboxStart a => exact stays_of_next h (mailboxStart_stays s a.toNat)
  | hostMemAccess pa d w => exact stays_of_next h (.inl (board_hostAccess s pa d w))
  | registerWrite a o n x => exact stays_of_next h (registerWrite_stays s (agentOf a) o n x.toNat)
  | _ => cases hh

/-- Whatever is executed but for the seven rows, the board stays or the boot restarts. -/
theorem exec_stays {i : Instr} {s t : State} (hm : movesBoard i = false) (h : exec i s = .next t) : Stays s t := by
  cases hh : hdrOfInstr i with
  | none => exact exec_row_stays hh hm h
  | some hd =>
    obtain ⟨once, body, he⟩ := exec_eq_runI hh
    obtain ⟨m, rfl⟩ := runI_next ((he s).symm.trans h)
    exact .inl (board_withMach s m)

end Sys2Proof.Machine
end

section
/-! PROOF. Every instruction, every row and every step keeps the device invariant, and LEVEL rises and falls where 19 R417 says (19 R416 to R418, R424, R427). -/
namespace Sys2Proof.Machine
open Sys2Proof

/-! No part of HBM is released. -/

/-- The registers HBMR at their reset value. -/
theorem released_reset {sys : Sys} (h : sys.dev.hbmr = [false, false, false, false]) (d : Nat) : released sys d = false := by
  rw [released, h]
  match d with
  | 0 | 1 | 2 | 3 | _ + 4 => rfl

theorem DeviceInv.unreleased {s : State} (I : DeviceInv s) (hl : s.sys.dev.level ≤ 2) (d : Nat) : released s.sys d = false := by
  by_cases hd : d < 4
  case pos =>
    rw [Bool.eq_false_iff]
    exact fun hr => absurd (I.hbm.mpr ⟨d, hd, hr⟩) (by omega)
  case neg => rw [released, lget, List.getD_eq_getElem?_getD, List.getElem?_eq_none (by rw [I.parts]; omega), Option.getD_none]

/-- Below PARTIAL-HBM the invariant asks for no released part. -/
theorem deviceInv_of_unreleased {t : State} (hp : t.clk.phase ≤ 6) (hf : t.clk.frac < 16) (hc : t.sys.dev.cstep ≤ 12) (hb : t.sys.dev.hbmr.length = 4)
    (hl : t.sys.dev.level ≤ 2) (hr : ∀ d, released t.sys d = false) : DeviceInv t := by
  constructor
  case phase => exact hp
  case frac => exact hf
  case cstep => exact hc
  case parts => exact hb
  case level => omega
  case hbm =>
    constructor
    · intro h
      omega
    · rintro ⟨d, _, hd⟩
      exact absurd hd (by rw [hr d]; exact Bool.false_ne_true)
  case full =>
    intro h
    omega

/-! Bring-up (19 R417). -/

/-- A step of bring-up below PARTIAL-HBM leaves the clock, CSTEP and HBMR. -/
theorem DeviceInv.of_bringUp {s t : State} (I : DeviceInv s) (hl : s.sys.dev.level ≤ 2) (hl' : t.sys.dev.level ≤ 2)
    (h : t.clk = s.clk ∧ t.sys.dev.cstep = s.sys.dev.cstep ∧ t.sys.dev.hbmr = s.sys.dev.hbmr) : DeviceInv t := by
  obtain ⟨hc, hs, hb⟩ := h
  refine deviceInv_of_unreleased (hc ▸ I.phase) (hc ▸ I.frac) (hs ▸ I.cstep) (hb ▸ I.parts) hl' (fun d => ?_)
  rw [released, hb]
  exact I.unreleased hl d

section
variable {s : State}

theorem monitorLevel_off (hl : s.sys.dev.level ≠ 0) : monitorLevel s = s := if_pos hl

/-- The state with the flash's floor record in use. -/
def withFloor (s : State) : State := updDev s (fun d => { d with floor := some (imgBody (Config.flashImage s.sys.dev.flash 5)) })

/-- The flash's floor record is the one in use, or may replace it. -/
def floorPasses (s : State) : Prop :=
  s.sys.dev.floor = some (imgBody (Config.flashImage s.sys.dev.flash 5)) ∨ floorOk s.sys (Config.flashImage s.sys.dev.flash 5) = true

theorem monitorLevel_noFloor (hl : s.sys.dev.level = 0) (hf : s.sys.dev.floor ≠ some (imgBody (Config.flashImage s.sys.dev.flash 5)))
    (ho : floorOk s.sys (Config.flashImage s.sys.dev.flash 5) = false) : monitorLevel s = refuseStep s 1 := by
  have hc : (s.sys.dev.floor != some (imgBody (Config.flashImage s.sys.dev.flash 5)) && !floorOk s.sys (Config.flashImage s.sys.dev.flash 5)) = true := by
    rw [bne_iff_ne.mpr hf, ho]
    rfl
  simp only [monitorLevel, hl, hc, ne_eq, not_true_eq_false, ↓reduceIte]

theorem monitorLevel_floor (hl : s.sys.dev.level = 0) (hf : floorPasses s) : monitorLevel s =
    if !imageOk (withFloor s).sys 0 (Config.flashImage s.sys.dev.flash 0) then refuseStep (withFloor s) 2
    else
      let s2 := (withFloor s).withMach { s.m with free := s.m.free + 1 }
      if Config.trained s.m.free then updDev s2 (fun d => { d with level := 1, link := true, images := d.images ++ [0] }) else s2 := by
  have hc : ¬ (s.sys.dev.floor != some (imgBody (Config.flashImage s.sys.dev.flash 5)) && !floorOk s.sys (Config.flashImage s.sys.dev.flash 5)) = true := by
    rw [Bool.and_eq_true, bne_iff_ne, Bool.not_eq_true', not_and, Bool.not_eq_false]
    exact fun hn => hf.resolve_left hn
  exact (if_neg (not_not.mpr hl)).trans (if_neg hc)

/-- What bring-up to MONITOR can leave: LEVEL goes from ROM to MONITOR or stays, and clock, CSTEP and HBMR stay. -/
theorem monitorLevel_cases (s : State) : monitorLevel s = s ∨ s.sys.dev.level = 0 ∧ (monitorLevel s).sys.dev.level ≤ 1 ∧
    (monitorLevel s).clk = s.clk ∧ (monitorLevel s).sys.dev.cstep = s.sys.dev.cstep ∧ (monitorLevel s).sys.dev.hbmr = s.sys.dev.hbmr := by
  by_cases hl : s.sys.dev.level = 0
  case neg => exact .inl (monitorLevel_off hl)
  case pos =>
    have hl1 : s.sys.dev.level ≤ 1 := by omega
    refine .inr ⟨hl, ?_⟩
    by_cases hf : floorPasses s
    case neg =>
      rw [floorPasses, not_or, Bool.not_eq_true] at hf
      rw [monitorLevel_noFloor hl hf.1 hf.2]
      exact ⟨hl1, rfl, rfl, rfl⟩
    case pos =>
      rw [monitorLevel_floor hl hf]
      dsimp only
      split
      · exact ⟨hl1, rfl, rfl, rfl⟩
      · split
        · exact ⟨Nat.le_refl 1, rfl, rfl, rfl⟩
        · exact ⟨hl1, rfl, rfl, rfl⟩

theorem lpddrLevel_off (hl : s.sys.dev.level ≠ 1) : lpddrLevel s = s := if_pos hl

/-- An LPDDR channel that is not defective fails its training. -/
def channelBad (s : State) : Bool := (List.range 32).any (fun c => floorField s.sys (1088 + c) (1088 + c) == 0 && !Config.trained (s.m.free + c))

/-- The state once `n` free values have been drawn. -/
def drew (s : State) (n : Nat) : State := s.withMach { s.m with free := s.m.free + n }

theorem lpddrLevel_on (hl : s.sys.dev.level = 1) : lpddrLevel s =
    if channelBad s then refuseStep (drew s 32) 4
    else if !imageOk s.sys 1 (Config.flashImage s.sys.dev.flash 1) then refuseStep (drew s 32) 3
    else updDev (drew s 32) (fun d => { d with level := 2, images := d.images ++ [1] }) := if_neg (not_not.mpr hl)

/-- What bring-up to LPDDR-ONLY can leave: LEVEL goes from MONITOR to LPDDR-ONLY or stays, and clock, CSTEP and HBMR stay. -/
theorem lpddrLevel_cases (s : State) : lpddrLevel s = s ∨ s.sys.dev.level = 1 ∧ ((lpddrLevel s).sys.dev.level = 1 ∨ (lpddrLevel s).sys.dev.level = 2) ∧
    (lpddrLevel s).clk = s.clk ∧ (lpddrLevel s).sys.dev.cstep = s.sys.dev.cstep ∧ (lpddrLevel s).sys.dev.hbmr = s.sys.dev.hbmr := by
  by_cases hl : s.sys.dev.level = 1
  case neg => exact .inl (lpddrLevel_off hl)
  case pos =>
    refine .inr ⟨hl, ?_⟩
    rw [lpddrLevel_on hl]
    split
    · exact ⟨.inl hl, rfl, rfl, rfl⟩
    · split
      · exact ⟨.inl hl, rfl, rfl, rfl⟩
      · exact ⟨.inr rfl, rfl, rfl, rfl⟩

theorem DeviceInv.monitorLevel (I : DeviceInv s) : DeviceInv (monitorLevel s) := by
  rcases monitorLevel_cases s with h | ⟨hl, hl', hk⟩
  · rwa [h]
  · exact I.of_bringUp (by omega) (by omega) hk

theorem DeviceInv.lpddrLevel (I : DeviceInv s) : DeviceInv (lpddrLevel s) := by
  rcases lpddrLevel_cases s with h | ⟨hl, hl', hk⟩
  · rwa [h]
  · exact I.of_bringUp (by omega) (by omega) hk

/-! Release of an HBM part (19 R417, R418). -/

/-- The part of a die may be released. -/
structure Releasable (s : State) (d : Nat) : Prop where
  level : 2 ≤ s.sys.dev.level
  die : d ≤ 3
  held : released s.sys d = false
  good : lget s.sys.dev.hbmBad d false = false
  present : floorField s.sys (1120 + d) (1120 + d) ≠ 1

/-- The state with the part of a die released, its level not yet set. -/
def freed (s : State) (d : Nat) : State := updDev (drew s 2) (fun v => { v with hbmr := setAt v.hbmr d true })

variable {d : Nat}

theorem hbmRelease_off (h : ¬ Releasable s d) : hbmRelease s d = s := by
  refine if_pos ?_
  simp only [Bool.or_eq_true, decide_eq_true_eq, beq_iff_eq]
  by_contra hn
  simp only [not_or, Nat.not_lt, Bool.not_eq_true] at hn
  obtain ⟨⟨⟨⟨hl, hd⟩, hr⟩, hb⟩, hf⟩ := hn
  exact h ⟨hl, hd, hr, hb, hf⟩

theorem hbmRelease_on (R : Releasable s d) : hbmRelease s d =
    if Config.trained s.m.free && Config.trained (s.m.free + 1) then updDev (freed s d) (fun v => { v with level := if allReleased (freed s d) then 4 else 3 })
    else refuseStep (updDev (drew s 2) (fun v => { v with hbmBad := setAt v.hbmBad d true })) 5 := by
  refine if_neg ?_
  simp only [Bool.or_eq_true, decide_eq_true_eq, beq_iff_eq, R.held, R.good, R.present, Nat.not_lt.mpr R.level, Nat.not_lt.mpr R.die, or_self,
    Bool.false_eq_true, not_false_eq_true]

/-- What a release can leave: the board, or the part released at PARTIAL-HBM or FULL. -/
theorem hbmRelease_cases (s : State) (d : Nat) : board (hbmRelease s d) = board s ∨
    Releasable s d ∧ hbmRelease s d = updDev (freed s d) (fun v => { v with level := if allReleased (freed s d) then 4 else 3 }) := by
  by_cases R : Releasable s d
  case neg => exact .inl (by rw [hbmRelease_off R])
  case pos =>
    rw [hbmRelease_on R]
    split
    · exact .inr ⟨R, rfl⟩
    · exact .inl rfl

theorem released_freed (I : DeviceInv s) (hd : d ≤ 3) : released (freed s d).sys d = true :=
  lget_setAt_self s.sys.dev.hbmr true false (by rw [I.parts]; omega)

theorem DeviceInv.hbmRelease (I : DeviceInv s) (d : Nat) : DeviceInv (hbmRelease s d) := by
  rcases hbmRelease_cases s d with h | ⟨R, h⟩
  · exact I.of_board h
  · rw [h]
    constructor
    case phase => exact I.phase
    case frac => exact I.frac
    case cstep => exact I.cstep
    case parts => exact (List.length_set ..).trans I.parts
    case level =>
      dsimp only [updDev]
      split <;> omega
    case hbm =>
      have hl : 3 ≤ if allReleased (freed s d) then 4 else 3 := by split <;> omega
      exact ⟨fun _ => ⟨d, Nat.lt_succ_of_le R.die, released_freed I R.die⟩, fun _ => hl⟩
    case full =>
      intro (hf : (if allReleased (freed s d) then 4 else 3) = 4)
      change allReleased (freed s d) = true
      by_contra ha
      rw [if_neg ha] at hf
      omega

/-- At FULL no part is left to release. -/
theorem Releasable.not_full (R : Releasable s d) (I : DeviceInv s) : s.sys.dev.level ≤ 3 := by
  by_contra hn
  have hl := I.level
  have ha := List.all_eq_true.mp (I.full (by omega)) d (List.mem_range.mpr (Nat.lt_succ_of_le R.die))
  rw [R.held, Bool.false_or, beq_iff_eq] at ha
  exact R.present ha

end

/-! Resets (19 R417, R424). -/

theorem deviceInv_moduleReset (s : State) : DeviceInv (moduleReset s) :=
  deviceInv_of_unreleased (Nat.zero_le 6) (Nat.zero_lt_succ _) (Nat.zero_le 12) rfl (Nat.zero_le 2) (released_reset rfl)

theorem Stays.deviceInv {s t : State} (h : Stays s t) (I : DeviceInv s) : DeviceInv t := by
  rcases h with h | ⟨_, h⟩
  · exact I.of_board h
  · exact (deviceInv_moduleReset s).of_board h

/-- Clearing clusters leaves the clock, the device's registers and the queues. -/
theorem clearClusters_clk (l : List Nat) (s : State) : (l.foldl clearCluster s).clk = s.clk := foldl_keeps State.clk (f := clearCluster) (fun _ _ => rfl) l s

theorem clearClusters_dev (l : List Nat) (s : State) : (l.foldl clearCluster s).sys.dev = s.sys.dev :=
  foldl_keeps (fun s : State => s.sys.dev) clearCluster_dev l s

theorem queues_clearRdr (sys : Sys) (p k : Nat) : (clearRdr sys p k).queues = sys.queues := rfl

theorem clearCluster_queues (s : State) (cl : Nat) : (clearCluster s cl).sys.queues = s.sys.queues :=
  foldl_keeps Sys.queues (fun sys _ => foldl_keeps Sys.queues (fun sys _ => queues_clearRdr sys _ _) _ sys) _ _

theorem clearClusters_queues (l : List Nat) (s : State) : (l.foldl clearCluster s).sys.queues = s.sys.queues :=
  foldl_keeps (fun s : State => s.sys.queues) clearCluster_queues l s

theorem functionReset_clk (s : State) : (functionReset s).clk = s.clk := by
  simp only [functionReset, clearClusters_clk]

theorem functionReset_dev (s : State) :
    (functionReset s).sys.dev = { s.sys.dev with level := min 1 s.sys.dev.level, hbmr := [false, false, false, false] } := by
  simp only [functionReset, clearClusters_dev]

theorem DeviceInv.functionReset {s : State} (I : DeviceInv s) : DeviceInv (functionReset s) := by
  have hc := functionReset_clk s
  have hd := functionReset_dev s
  have hb : (Machine.functionReset s).sys.dev.hbmr = [false, false, false, false] := by rw [hd]
  refine deviceInv_of_unreleased (by rw [hc]; exact I.phase) (by rw [hc]; exact I.frac) ?_ ?_ ?_ (released_reset hb)
  · rw [hd]; exact I.cstep
  · rw [hb]; rfl
  · rw [hd]; exact Nat.le_succ_of_le (Nat.min_le_left 1 _)

/-! Power and heat (19 R427). -/

theorem newStep_le {step : Nat} (h : step ≤ 12) (pwr temp plim : Nat) : newStep step pwr temp plim ≤ 12 := by
  unfold newStep
  split
  · omega
  · split <;> omega

/-- CSTEP after the sensors are read. -/
def stepRead (s : State) : Nat := newStep s.sys.dev.cstep (Config.power s.m.free % 65536) (Config.temperature s.m.free % 65536) (min 3200 s.sys.dev.plim)

theorem clockStepDo_eq (s : State) : clockStepDo s = { s with
    clk := { s.clk with turn := s.clk.turn ++ [200000] }
    sys := { s.sys with dev := { s.sys.dev with temp := Config.temperature s.m.free % 65536, pwr := Config.power s.m.free % 65536, cstep := stepRead s } }
    m := if stepRead s = s.sys.dev.cstep then { s.m with free := s.m.free + 1 }
      else (List.range 4).foldl (fun m k => setIntr m k 4) { s.m with free := s.m.free + 1 } } := by
  unfold clockStepDo
  dsimp only
  change (if stepRead s = s.sys.dev.cstep then _ else _) = _
  split <;> rfl

theorem DeviceInv.clockStepDo {s : State} (I : DeviceInv s) : DeviceInv (clockStepDo s) := by
  rw [clockStepDo_eq]
  exact ⟨I.phase, I.frac, newStep_le I.cstep _ _ _, I.parts, I.level, I.hbm, I.full⟩

/-! The invariant, by instruction and by step. -/

theorem exec_keepsDeviceInv {i : Instr} {s t : State} (I : DeviceInv s) (h : exec i s = .next t) : DeviceInv t := by
  cases hm : movesBoard i with
  | false => exact (exec_stays hm h).deviceInv I
  | true =>
    rcases movesBoard_cases hm with rfl | rfl | rfl | ⟨d, rfl⟩ | rfl | rfl | rfl
    · cases h; exact deviceInv_moduleReset s
    · cases h; exact I.monitorLevel
    · cases h; exact I.lpddrLevel
    · cases h; exact I.hbmRelease d
    · cases h; exact I.functionReset
    · rw [eq_of_ev h]; exact I.clockStepDo
    · rw [eq_of_ev h]; exact I.functionReset.of_board (board_refuseStep _ 7)

theorem runLine_keepsDeviceInv {e : Env} {s t : State} {cu : Cur} {l : Nat} (I : DeviceInv s) (h : runLine e s cu l = .next t) : DeviceInv t := by
  have on : ∀ m, DeviceInv (s.withMach m) := fun m => I.of_board (board_withMach s m)
  unfold runLine at h
  split at h
  · split at h
    · exact exec_keepsDeviceInv I h
    · cases h; exact on _
  · split at h
    · exact exec_keepsDeviceInv (on _) h
    · split at h
      · cases h; exact on _
      · exact exec_keepsDeviceInv (on _) h
    · cases h; exact on _

theorem runCur_keepsDeviceInv {s t : State} {cu : Cur} (I : DeviceInv s) (h : runCur s cu = .next t) : DeviceInv t := by
  have on : ∀ m, DeviceInv (s.withMach m) := fun m => I.of_board (board_withMach s m)
  unfold runCur at h
  dsimp only at h
  split at h
  · exact runLine_keepsDeviceInv (on _) h
  · cases h; exact on _

theorem takeInput_keepsDeviceInv {s t : State} {k : Nat} (I : DeviceInv s) (h : takeInput s k = .next t) : DeviceInv t := by
  have I1 : DeviceInv { s with sys := { s.sys with inputs := s.sys.inputs.eraseIdx k } } := I.of_board rfl
  unfold takeInput at h
  dsimp only at h
  split at h
  · split at h
    · exact exec_keepsDeviceInv I1 h
    · cases h; exact I1
  · cases h; exact I1

/-- Another clock within its bounds keeps the invariant. -/
theorem DeviceInv.of_clock {s t : State} (I : DeviceInv s) (hd : t.sys.dev = s.sys.dev) (hp : t.clk.phase ≤ 6) (hf : t.clk.frac < 16) : DeviceInv t := by
  have I1 : DeviceInv { s with clk := t.clk } := ⟨hp, hf, I.cstep, I.parts, I.level, I.hbm, I.full⟩
  exact I1.of_board (board_of_clk_dev rfl hd)

/-- The clock advances within its phases, and a tick leaves a fraction below one reference cycle (19 R427). -/
theorem DeviceInv.nextPhase {s : State} (I : DeviceInv s) : DeviceInv (nextPhase s) := by
  have hp := I.phase
  have hc := I.cstep
  unfold Machine.nextPhase
  split
  · exact I.of_clock rfl (by decide : 2 ≤ 6) I.frac
  · exact I.of_clock rfl (by decide : 3 ≤ 6) I.frac
  · have hf : (s.clk.frac + 16) % (16 - s.sys.dev.cstep) < 16 - s.sys.dev.cstep := Nat.mod_lt _ (by omega)
    exact I.of_clock rfl (Nat.zero_le 6) (Nat.lt_of_lt_of_le hf (Nat.sub_le 16 _))
  · rename_i h6
    exact I.of_clock rfl (Nat.lt_of_le_of_ne hp h6) I.frac

theorem runDevice_keepsDeviceInv {s t : State} (I : DeviceInv s) (h : runDevice s = .next t) : DeviceInv t := by
  unfold runDevice at h
  split at h
  · split at h
    · exact takeInput_keepsDeviceInv I h
    · cases h; exact (takeAct_stays _ s).deviceInv I
    · cases h; exact I.nextPhase
  · split at h
    · cases h; exact I.of_board rfl
    · cases h; exact I.nextPhase
  · split at h
    · exact takeInput_keepsDeviceInv I h
    · cases h; exact (takeAct_stays _ s).deviceInv I
    · exact exec_keepsDeviceInv I h
    · cases h; exact I.nextPhase
  · split at h
    · exact exec_keepsDeviceInv I h
    · cases h; exact I.nextPhase

/-- Settles O54: a step is an issue of the selected set, or a step of the device once the state has settled, and each keeps the invariant. The bound on the phases is that of log entry 7; what it asks of FULL and of the released parts rests in part on entry 53. -/
theorem everyStepKeepsDeviceInv : Obligations.EveryStepKeepsDeviceInv := by
  unfold Obligations.EveryStepKeepsDeviceInv
  intro s t I h
  unfold step at h
  split at h
  · exact runCur_keepsDeviceInv I h
  · exact runDevice_keepsDeviceInv (I.of_board (board_settle s)) h

/-- Settles O55: the reset state lists no byte of memory, and no part of HBM is released in it. -/
theorem resetInv : Obligations.ResetInv :=
  ⟨rfl, deviceInv_of_unreleased (Nat.zero_le 6) (Nat.zero_lt_succ _) (Nat.zero_le 12) rfl (Nat.zero_le 2) (released_reset rfl)⟩

/-- Settles O56: LEVEL moves in the rows of bring-up, reset and heat alone. -/
theorem levelRisesAndFallsAsStated : Obligations.LevelRisesAndFallsAsStated := by
  unfold Obligations.LevelRisesAndFallsAsStated
  intro i s t I h
  cases hm : movesBoard i with
  | false =>
    have hl := (exec_stays hm h).level
    exact ⟨fun hr => by omega, fun hf => by omega⟩
  | true =>
    rcases movesBoard_cases hm with rfl | rfl | rfl | ⟨d, rfl⟩ | rfl | rfl | rfl
    · cases h
      exact ⟨fun hr => absurd hr (Nat.not_lt_zero _), fun _ => .inl rfl⟩
    · cases h
      rcases monitorLevel_cases s with he | ⟨hl, hl', -⟩
      · rw [he]
        exact ⟨fun hr => by omega, fun hf => by omega⟩
      · exact ⟨fun hr => .inl ⟨rfl, hl, by omega⟩, fun hf => by omega⟩
    · cases h
      rcases lpddrLevel_cases s with he | ⟨hl, hl', -⟩
      · rw [he]
        exact ⟨fun hr => by omega, fun hf => by omega⟩
      · exact ⟨fun hr => .inr (.inl ⟨rfl, hl, by omega⟩), fun hf => by omega⟩
    · cases h
      rcases hbmRelease_cases s d with he | ⟨R, he⟩
      · have hl : (hbmRelease s d).sys.dev.level = s.sys.dev.level := congrArg Board.level he
        exact ⟨fun hr => by omega, fun hf => by omega⟩
      · have hl : 3 ≤ (hbmRelease s d).sys.dev.level := by
          rw [he]
          dsimp only [updDev]
          split <;> omega
        have h3 := R.not_full I
        refine ⟨fun _ => .inr (.inr ⟨d, rfl, R.level, R.held, ?_⟩), fun hf => by omega⟩
        rw [he]
        exact released_freed I R.die
    · cases h
      have hl : (functionReset s).sys.dev.level = min 1 s.sys.dev.level := by rw [functionReset_dev]
      exact ⟨fun hr => by omega, fun _ => .inr (.inl rfl)⟩
    · have hl : t.sys.dev.level = s.sys.dev.level := by rw [eq_of_ev h, clockStepDo_eq]
      exact ⟨fun hr => by omega, fun hf => by omega⟩
    · have hl : t.sys.dev.level = (functionReset s).sys.dev.level := by rw [eq_of_ev h]; rfl
      rw [functionReset_dev] at hl
      dsimp only at hl
      exact ⟨fun hr => by omega, fun _ => .inr (.inr rfl)⟩

end Sys2Proof.Machine
end

section
/-! PROOF. Bring-up, images, resets, the sensors, accesses of the host and the register map take their steps (19 R416 to R430), and what every register reads at reset. -/
namespace Sys2Proof.Machine
open Sys2Proof

/-! Resets and the trip (19 R424, R427). -/

theorem functionReset_queues (s : State) :
    (functionReset s).sys.queues = s.sys.queues.map (fun x => (x.1, { Queue.initial with part := x.2.part, vec := x.2.vec })) := by
  simp only [functionReset, clearClusters_queues]

/-- What a function-level reset leaves, and what the code of FAIL changes of it: nothing. -/
theorem refuse_cleared {s t : State} (h : FunctionCleared s t) (code : Nat) : FunctionCleared s (refuseStep t code) := h

theorem functionReset_cleared (s : State) : FunctionCleared s (functionReset s) := by
  have hd := functionReset_dev s
  refine ⟨⟨?level, released_reset ?parts⟩, ⟨functionReset_queues s, rfl, rfl, rfl⟩, ?gone, functionReset_clk s⟩
  case level => rw [hd]
  case parts => rw [hd]
  case gone => exact ⟨rfl, rfl, rfl, rfl, rfl, rfl, rfl, rfl, rfl, rfl, rfl, rfl⟩

theorem tripDue_of {s : State} (ht : 840 ≤ s.sys.dev.temp) (hl : 1 ≤ s.sys.dev.level) (hn : ¬ (s.sys.dev.level = 1 ∧ s.sys.dev.fail = 7)) : tripDue s = true := by
  have h7 : (s.sys.dev.level == 1 && s.sys.dev.fail == 7) = false := by
    rw [Bool.eq_false_iff, ne_eq, Bool.and_eq_true, beq_iff_eq, beq_iff_eq]
    exact hn
  simp only [tripDue, ht, hl, h7, decide_true, Bool.not_false, Bool.and_self]

/-! The sensors (19 R427). -/

theorem clockStepDue_of {s : State} (hm : s.clk.now % 15000 = 0) (hp : 0 < s.clk.now) (ht : s.clk.turn.contains 200000 = false) : clockStepDue s = true := by
  simp only [clockStepDue, stepTurn, hm, hp, ht, BEq.rfl, decide_true, Bool.not_false, Bool.and_self]

theorem newStep_eq (step pwr temp plim : Nat) : newStep step pwr temp plim =
    if plim < pwr ∨ 760 ≤ temp then min 12 (step + 1) else if pwr + 100 < plim ∧ temp < 720 then step - 1 else step := by
  simp only [newStep, Bool.or_eq_true, Bool.and_eq_true, decide_eq_true_eq]

/-! Images (19 R418, R421). -/

theorem loadDue_of {s : State} {t : Nat} (h : s.sys.dev.loading = some t) (ht : t ≤ s.clk.now) : loadDue s = true := by
  rw [loadDue, h]
  exact decide_eq_true ht

section
variable {s : State}

theorem loadDone_microcode (hk : loadKind s = 3) (hi : imageOk s.sys (loadKind s) (imageAt s.m s.sys.dev.loadAddr) = true) : loadDone s =
    updDev s (fun d => { d with loading := none, loadRes := 0, images := if d.images.contains (loadKind s) then d.images else d.images ++ [loadKind s] }) := by
  rw [loadDone_eq]
  dsimp only
  rw [hi, hk]
  rfl

theorem loadDone_table (hk : loadKind s = 4) (hi : imageOk s.sys (loadKind s) (imageAt s.m s.sys.dev.loadAddr) = true) : loadDone s =
    seedPredictors (updDev s (fun d => { d with loading := none, loadRes := 0, images := if d.images.contains (loadKind s) then d.images else d.images ++ [loadKind s] })) := by
  rw [loadDone_eq]
  dsimp only
  rw [hi, hk]
  rfl

theorem loadDone_refused (h : loadKind s ≠ 3 ∧ loadKind s ≠ 4 ∨ imageOk s.sys (loadKind s) (imageAt s.m s.sys.dev.loadAddr) = false) :
    loadDone s = updDev s (fun d => { d with loading := none, loadRes := 6, fail := 6 }) := by
  have hc : ((loadKind s == 3 || loadKind s == 4) && imageOk s.sys (loadKind s) (imageAt s.m s.sys.dev.loadAddr)) = false := by
    rcases h with ⟨h3, h4⟩ | hi
    · rw [beq_eq_false_iff_ne.mpr h3, beq_eq_false_iff_ne.mpr h4]
      rfl
    · rw [hi, Bool.and_false]
  rw [loadDone_eq]
  dsimp only
  rw [hc]
  rfl

end

/-! Accesses of the host (19 R425). -/

/-- The lines that the host holds once it has accessed `n` bytes at an address. -/
def heldAfter (m : Mach) (pa n : Nat) : List Nat :=
  m.hostLines ++ ((List.range ((pa + n - 1) / 64 - pa / 64 + 1)).map (· + pa / 64)).filter (fun l => !m.hostLines.contains l)

theorem hostAccess_on {s : State} {pa : Nat} {d : List Byte} (w : Bool) (hd : d ≠ []) (ha : hostReaches s.sys pa = true)
    (hb : hostReaches s.sys (pa + d.length - 1) = true) : hostAccess s pa d w =
      let s1 := s.withMach { (if w then storeAt s.m pa d false else noteBad s.m [(pa, d.length)]) with hostLines := heldAfter s.m pa d.length }
      if w then s1 else updDev s1 (fun x => { x with hostAns := some (memRead s.m.mem pa d.length, (badKind s.m pa d.length).isSome) }) := by
  have hc : ¬ (d.isEmpty || !hostReaches s.sys pa || !hostReaches s.sys (pa + d.length - 1)) = true := by
    rw [ha, hb, List.isEmpty_eq_false_iff.mpr hd]
    exact Bool.false_ne_true
  exact if_neg hc

theorem recallDue_of {s : State} {line : Nat} {x : Msg} (hl : line ∈ s.m.hostLines) (hx : x ∈ s.m.flight) (hd : x.due ≤ s.clk.now)
    (ho : ∃ a ∈ bodyAddrs x.body, overlaps (64 * line) 64 a.1 a.2 = true) : recallDue s line = true := by
  have hf : s.m.flight.any (fun x => decide (x.due ≤ s.clk.now) && (bodyAddrs x.body).any (fun a => overlaps (64 * line) 64 a.1 a.2)) = true :=
    List.any_eq_true.mpr ⟨x, hx, by rw [decide_eq_true hd, Bool.true_and, List.any_eq_true]; exact ho⟩
  rw [recallDue, List.contains_iff_mem.mpr hl, Bool.true_and]
  exact hf

/-! The register map (19 R428). -/

section
variable {s : State} {a : Agent} {o n v : Nat}

/-- A size or an alignment that the map refuses, or an address that the agent may not write. -/
theorem registerWrite_refused (h : ¬ (n = 4 ∨ n = 8) ∨ o % n ≠ 0 ∨ accessAt s a o = .silent ∨ accessAt s a o = .ro) : registerWrite s a o n v = s := by
  refine if_neg ?_
  simp only [regSize, Bool.and_eq_true, Bool.or_eq_true, beq_iff_eq, not_and]
  rintro ⟨hn, ho⟩ ha
  rcases h with h | h | h | h
  · exact h hn
  · exact h ho
  · rw [h] at ha
    exact ha.elim nofun nofun
  · rw [h] at ha
    exact ha.elim nofun nofun

/-- An aligned write of eight bytes to a register that the agent may read and write. -/
theorem registerWrite_rw (ho : o % 8 = 0) (ha : accessAt s a o = .rw) : registerWrite s a o 8 v = regWrite s a o v := by
  have hs : regSize o 8 = true := by rw [regSize, ho]; rfl
  have hc : (regSize o 8 && (accessAt s a o == .rw || accessAt s a o == .wo)) = true := by rw [hs, ha]; rfl
  exact (if_pos hc).trans (if_pos rfl)

/-- The first word of a partition control block holds ROOT. -/
theorem regWrite_root {p : Nat} (hp : p < 16) : regWrite s a (0x40000 + 16 * p) v = updPart s p (fun x => { x with root := bitsOf v 51 12 }) := by
  have hr : (decide (0x40000 ≤ 0x40000 + 16 * p) && decide (0x40000 + 16 * p < 0x40100)) = true := by
    rw [Bool.and_eq_true, decide_eq_true_eq, decide_eq_true_eq]
    omega
  have hi : (0x40000 + 16 * p - 0x40000) / 16 = p := by omega
  have hw : (0x40000 + 16 * p) % 16 / 8 = 0 := by omega
  rw [regWrite, if_neg (by omega), if_neg (by omega), if_neg (by omega), if_neg (by omega), if_neg (by omega), if_pos hr, hi, hw]
  exact if_pos rfl

/-- A coalescing register holds TIME and CNT. -/
theorem regWrite_vec {k : Nat} (hk : k < 2048) :
    regWrite s a (0x190000 + 8 * k) v = updVec s k (fun x => { x with time := bitsOf v 63 32, cnt := bitsOf v 31 24 }) := by
  have out : ∀ lo hi, hi ≤ 0x190000 → ¬ (decide (lo ≤ 0x190000 + 8 * k) && decide (0x190000 + 8 * k < hi)) = true := by
    intro lo hi h
    rw [Bool.and_eq_true, decide_eq_true_eq, decide_eq_true_eq]
    omega
  have hr : (decide (0x190000 ≤ 0x190000 + 8 * k) && decide (0x190000 + 8 * k < 0x194000)) = true := by
    rw [Bool.and_eq_true, decide_eq_true_eq, decide_eq_true_eq]
    omega
  have hi : (0x190000 + 8 * k - 0x190000) / 8 = k := by omega
  rw [regWrite, if_neg (by omega), if_neg (by omega), if_neg (by omega), if_neg (by omega), if_neg (by omega), if_neg (out _ _ (by omega)),
    if_neg (out _ _ (by omega)), if_neg (out _ _ (by omega)), if_pos hr, hi]

end

/-- Settles O42: each step is due under the conditions stated, and does what is stated. -/
theorem bringUpAndHostSteps : Obligations.BringUpAndHostSteps := by
  unfold Obligations.BringUpAndHostSteps
  intro s v dev drew
  refine ⟨?monitorOff, ?monitor, ?lpddrOff, ?lpddr, ?releaseOff, ?release, ?reset, ?mailOff, ?mail, ?loadOff, ?load, ?loaded, ?function, ?sensors, ?trip, ?host, ?invalidate,
    ?register, ?registers⟩
  case monitorOff => exact fun hl => next_eq (monitorLevel_off hl)
  case monitor =>
    intro hl fl s1
    refine ⟨fun hf ho => next_eq (monitorLevel_noFloor hl hf ho), fun hf hi => ?noImage, fun hf hi => ⟨fun ht => ?up, fun ht => ?untrained⟩⟩
    all_goals have h := monitorLevel_floor hl hf
    case noImage => exact next_eq (h.trans (if_pos (by rw [Bool.not_eq_true']; exact hi)))
    case up => exact next_eq ((h.trans (if_neg (by rw [Bool.not_eq_true', Bool.not_eq_false]; exact hi))).trans (if_pos ht))
    case untrained => exact next_eq ((h.trans (if_neg (by rw [Bool.not_eq_true', Bool.not_eq_false]; exact hi))).trans (if_neg (by rw [ht]; exact Bool.false_ne_true)))
  case lpddrOff => exact fun hl => next_eq (lpddrLevel_off hl)
  case lpddr =>
    intro hl bad
    have h := lpddrLevel_on hl
    refine ⟨fun hb => next_eq (h.trans (if_pos hb)), fun hb hi => ?noImage, fun hb hi => ?up⟩
    all_goals have h1 := h.trans (if_neg (ne_true_of_eq_false hb))
    case noImage => exact next_eq (h1.trans (if_pos (by rw [Bool.not_eq_true']; exact hi)))
    case up => exact next_eq (h1.trans (if_neg (by rw [Bool.not_eq_true', Bool.not_eq_false]; exact hi)))
  case releaseOff =>
    intro d hd
    refine next_eq (hbmRelease_off fun R => ?_)
    rcases hd with h | h | h | h | h
    · exact absurd R.level (Nat.not_le.mpr h)
    · exact absurd R.die (Nat.not_le.mpr h)
    · exact ne_true_of_eq_false R.held h
    · exact ne_true_of_eq_false R.good h
    · exact R.present h
  case release =>
    intro d hl hd hr hb hf
    have h := hbmRelease_on ⟨hl, hd, hr, hb, hf⟩
    refine ⟨fun h1 h2 => next_eq (h.trans (if_pos (Bool.and_eq_true_iff.mpr ⟨h1, h2⟩))), fun hn => next_eq (h.trans (if_neg ?_))⟩
    rw [Bool.and_eq_true, not_and_or, Bool.not_eq_true, Bool.not_eq_true]
    exact hn
  case reset => exact rfl
  case mailOff => exact fun a hl => next_eq (mailboxStart_off _ hl)
  case mail =>
    intro a hl head img
    have h := mailboxStart_eq a.toNat hl
    exact ⟨fun hi => next_eq (h.trans (if_pos hi)), fun hi => next_eq (h.trans (if_neg (ne_true_of_eq_false hi)))⟩
  case loadOff => exact fun a hl => next_eq (if_pos hl)
  case load => exact fun a hl => next_eq (if_neg hl)
  case loaded =>
    intro t ht hn head img k done
    have hd := loadDue_of ht hn
    refine ⟨fun hk hi => (ev_due hd).trans (next_eq (loadDone_microcode hk hi)), fun hk hi => (ev_due hd).trans (next_eq (loadDone_table hk hi)),
      fun hk => (ev_due hd).trans (next_eq (loadDone_refused hk))⟩
  case function => exact ⟨functionReset s, rfl, functionReset_cleared s, by rw [functionReset_dev]⟩
  case sensors =>
    intro hm hp ht temp pwr plim st m1
    have hs : stepRead s = st := newStep_eq _ _ _ _
    refine (ev_due (clockStepDue_of hm hp ht)).trans (next_eq ?_)
    rw [clockStepDo_eq, hs]
  case trip => exact fun ht hl hn => ⟨_, ev_due (tripDue_of ht hl hn), refuse_cleared (functionReset_cleared s) 7, rfl⟩
  case host =>
    intro pa d w hd ha hb lines holds
    have h := hostAccess_on w hd ha hb
    constructor
    all_goals
      rintro rfl
      exact next_eq h
  case invalidate => exact fun line x hl hx hd ho => ev_due (recallDue_of hl hx hd ho)
  case register => exact fun a o n x => ⟨rfl, fun h => next_eq (registerWrite_refused h)⟩
  case registers =>
    intro a x
    refine ⟨fun h => next_eq (registerWrite_rw rfl h), fun h => next_eq (registerWrite_rw rfl h), fun h => next_eq (registerWrite_rw rfl h), fun p hp h => ?root, fun k hk h => ?vec⟩
    case root => exact next_eq ((registerWrite_rw (by omega) h).trans (regWrite_root hp))
    case vec => exact next_eq ((registerWrite_rw (by omega) h).trans (regWrite_vec hk))

/-! What the registers read at reset. -/

/-- Every tile has the reset value of TC (07 R218). -/
theorem shapeOf_reset {c k : Nat} (hk : k < 16) : shapeOf Mach.reset c k = 0x00023F3F := by
  have ht : shapeOf Mach.reset c k = (List.replicate 16 tcReset).getD k tcReset := rfl
  rw [ht, List.getD_eq_getElem?_getD, List.getElem?_replicate, if_pos hk, Option.getD_some]
  rfl

/-- Settles O57: a table in which nothing is written reads as its reset value. -/
theorem resetValues : Obligations.ResetValues := by
  unfold Obligations.ResetValues
  refine ⟨?level, ?power, ?queues, ?vectors, ?partitions, ?entries, fun c k hk => shapeOf_reset hk, fun c => rfl, fun f => rfl, ?dies⟩
  case level => exact ⟨rfl, rfl, rfl, released_reset rfl⟩
  case power => exact ⟨rfl, rfl, rfl, rfl⟩
  case queues => exact fun q => ⟨rfl, rfl, rfl, rfl, rfl, rfl, rfl, rfl, rfl, rfl, rfl⟩
  case vectors => exact fun v => ⟨rfl, rfl, rfl⟩
  case partitions => exact fun p => ⟨rfl, rfl, rfl, rfl, rfl⟩
  case entries => exact fun k => ⟨rfl, rfl, rfl, rfl, rfl, rfl, rfl, rfl, rfl, rfl, rfl⟩
  case dies => exact fun d => ⟨rfl, rfl, rfl⟩

end Sys2Proof.Machine
end

section
/-! PROOF. Markers of a reset sender, the causal buffer, polling monitors, timeouts and retries of queued waits (03 R98, 04 R116, R123, 08 R247, R248). -/
namespace Sys2Proof.Machine
open Sys2Proof

theorem causalDue_of {s : State} {id : Nat} {x : Msg} (hx : msgOf s.m id = some x) (hs : x.stage = .held) (hv : vcBlocked s.m x = false) :
    causalDue s id = true := by
  simp only [causalDue, hx, hs, hv, BEq.rfl, Bool.not_false, Bool.and_self]

theorem markerDue_of {s : State} {core k sender : Nat} (hm : (sender, k) ∈ (coreOf s.m core).markers) (hf : markerFits s.env s.m core k ≠ none) :
    markerDue s core k = true := by
  have ha : (coreOf s.m core).markers.any (fun x => x.2 == k) = true := List.any_eq_true.mpr ⟨_, hm, BEq.rfl⟩
  simp only [markerDue, ha, Option.isSome_iff_ne_none.mpr hf, Bool.and_self]

/-- The oldest pending marker of a ring with space is appended with its sender's sequence number, which begins again (03 R98, 18 R412). -/
theorem appendMarker_oldest {e : Env} {m : Mach} {core k sender off : Nat} (hm : (coreOf m core).markers.find? (fun x => x.2 == k) = some (sender, k))
    (hf : markerFits e m core k = some off) :
    appendMarker e m core k = ringAppend e (updCore m core (fun c =>
      { c with markers := c.markers.filter (fun x => x != (sender, k)), sseq := tset c.sseq (sender * 8 + k) 0 })) core off sender 1
      ((tget (coreOf m core).sseq (sender * 8 + k)).getD 0) [] := by
  simp only [appendMarker, hm, hf]

theorem pollDue_of {s : State} {g lane t : Nat} {mo : Mon} (hm : (thrOf s.m g lane).mon = some mo) (ha : mo.armed = true) (hs : mo.sat = none)
    (hp : mo.poll = some t) (ht : t ≤ s.clk.now) : pollDue s g lane = true := by
  simp only [pollDue, hm, ha, hs, hp, ht, Option.isNone_none, Option.any_some, decide_true, Bool.and_self]

/-- A `mwt` lapses at its deadline, or with a timeout of 0 after the first test, if nothing satisfies its monitor by then (08 R247). -/
theorem timeoutDue_of {s : State} {g lane d : Nat} {dst : Opnd} (hw : (thrOf s.m g lane).wait = .mwt (some d) dst) (hd : d ≤ s.clk.now)
    (hr : resident (teamOf s.m (grpOf s.m g).team) = true)
    (hm : ∀ mo, (thrOf s.m g lane).mon = some mo → (d = (thrOf s.m g lane).lastIssue → mo.armed = true ∧ mo.sat = none) ∧
      ∀ v tm, mo.sat = some (v, tm) → s.clk.now < tm) : timeoutDue s g lane = true := by
  simp only [timeoutDue, hw, hd, hr, decide_true, Bool.true_and]
  cases ho : (thrOf s.m g lane).mon with
  | none => simp only [Option.all_none, Bool.or_true, Bool.and_self]
  | some mo =>
    obtain ⟨h0, hsat⟩ := hm mo ho
    have hl : mo.sat.all (fun x => decide (s.clk.now < x.2)) = true := by
      cases hs : mo.sat with
      | none => rfl
      | some x => exact decide_eq_true (hsat x.1 x.2 hs)
    by_cases hz : d = (thrOf s.m g lane).lastIssue
    · obtain ⟨ha, hs⟩ := h0 hz
      simp only [Option.all_some, ha, hs, hz, Bool.or_true, ↓reduceIte, Option.isNone_none, Bool.and_self]
    · simp only [Option.all_some, bne_iff_ne.mpr hz, Bool.true_or, if_neg hz, hl, Bool.and_self]

theorem nextRetry_of_firstAt {s : State} {k : Nat} {x : Nat × TRef × Nat} (h : FirstAt s.m.retries (fun x => x.2.2 ≤ s.clk.now) k x) :
    nextRetry s = some k :=
  find?_range_of_firstAt _ (fun j b hb => by simp only [retryDue, hb, Option.any_some, decide_eq_true_eq]) h

/-- A retry that is due links its thread to the queue of its word again. -/
theorem retryDo_at {e : Env} {m : Mach} {k sa t : Nat} {r : TRef} (h : m.retries[k]? = some (sa, r, t)) :
    retryDo k e m = linkQueue e { m with retries := m.retries.eraseIdx k } sa r := by
  simp only [retryDo, h]

/-- Settles O29: each of the five steps is due under the conditions stated, and does what is stated. -/
theorem waitsAtHomesEnd : Obligations.WaitsAtHomesEnd := by
  unfold Obligations.WaitsAtHomesEnd
  refine fun s => ⟨?causal, ?marker, ?oldest, ?poll, ?timeout, ?retry⟩
  case causal => exact fun id x hx hs hv => ev_due (causalDue_of hx hs hv)
  case marker => exact fun core k sender hm hf => ev_due (markerDue_of hm hf)
  case oldest =>
    intro core k sender off hm hf
    have h : Takes (.senderResetMarker core k) s (s.mapM (fun e m => appendMarker e m core k)) :=
      ev_due (markerDue_of (List.mem_of_find?_eq_some hm) (by rw [hf]; exact Option.some_ne_none off))
    rwa [State.mapM, appendMarker_oldest hm hf] at h
  case poll => exact fun g lane mo t hm ha hs hp ht => ev_due (pollDue_of hm ha hs hp ht)
  case timeout => exact fun g lane d dst hw hd hr hm => ev_due (timeoutDue_of hw hd hr hm)
  case retry =>
    intro k sa r t h
    have hd : Takes .qwaitRetry s (s.mapM (retryDo ((nextRetry s).getD 0))) := ev_due (by rw [nextRetry_of_firstAt h]; rfl)
    rwa [State.mapM, nextRetry_of_firstAt h, Option.getD_some, retryDo_at h.1] at hd

end Sys2Proof.Machine
end

section
/-! PROOF. A store of a thread at its home (03 R86, R96, R100, 04 R108, 08 R235, R248): the words that stores leave, the bytes that are written, and the frames that are touched. -/
namespace Sys2Proof.Machine
open Sys2Proof

/-! What a store depends on, and what performing it leaves. -/

/-- Storage with its metadata, and what says which words stores leave alone: teams, their entries, queues and rings. -/
def storeView (m : Mach) : Memory × Tab (BitVec 32 × Bool) × Tab Team × Tab Entry × Tab (List TRef) × (Nat → List Word) :=
  (m.mem, m.frames, m.teams, m.entries, m.queues, fun c => (coreOf m c).ring)

theorem storeView_useBanks (e : Env) (m : Mach) (x : Msg) : storeView (useBanks e m x) = storeView m := by
  have hr : ∀ (b : Core → List (Nat × Nat × Nat)) (c : Nat), (coreOf (updCore m x.dst (fun a => { a with banks := b a })) c).ring = (coreOf m c).ring := by
    intro b c
    by_cases hc : c = x.dst
    · rw [hc, coreOf_updCore_self]
    · simp only [coreOf, updCore, tget_tset_other _ _ _ _ hc]
  unfold useBanks
  split
  · rfl
  · simp only [storeView, hr, updCore_mem, updCore_frames, updCore_teams, updCore_entries, updCore_queues]

theorem storeView_markFar (m : Mach) (x : Msg) : storeView (markFar m x) = storeView m := by
  unfold markFar
  split <;> rfl

theorem storeView_noteBad (m : Mach) (rs : List (Nat × Nat)) : storeView (noteBad m rs) = storeView m := by
  unfold noteBad
  split
  · rfl
  · exact foldl_keeps storeView (fun m r => by split <;> rfl) rs m

/-- A message that leaves the network changes nothing of it. -/
theorem storeView_atHomeMach (s : State) (id : Nat) (x : Msg) : storeView (atHomeMach s id x) = storeView s.m :=
  (storeView_noteBad _ _).trans ((storeView_useBanks s.env (markFar s.m x) x).trans (storeView_markFar s.m x))

theorem storeView_mergeClocks (m : Mach) (x : Msg) : storeView (mergeClocks m x) = storeView m := by
  unfold mergeClocks
  split <;> rfl

theorem storeView_closePart (m : Mach) (op tm : Nat) (wr : List RegWr) (wake : List TRef) : storeView (closePart m op tm wr wake) = storeView m := by
  unfold closePart
  split
  · rfl
  · dsimp only
    split <;> rfl

theorem storeView_notePast (e : Env) (m0 m : Mach) (x : Msg) : storeView (notePast e m0 m x) = storeView m := by
  unfold notePast
  split <;> rfl

theorem storeView_blend (m : Mach) (x : Msg) : storeView (blend m x) = storeView m := by
  unfold blend
  dsimp only
  split <;> rfl

/-- Nor do the answer to a store and what is noted of it. -/
theorem storeView_performedAs (s : State) (x : Msg) (e : Env) (m : Mach) : storeView (performedAs s x (respondHere e m x)).m = storeView m :=
  (storeView_blend _ _).trans ((storeView_notePast s.env s.m _ x).trans ((storeView_closePart _ _ _ _ _).trans (storeView_mergeClocks m x)))

section
variable {e : Env} {m m' : Mach} (h : storeView m' = storeView m)
include h

theorem mem_of_view : m'.mem = m.mem := congrArg Prod.fst h
theorem frameOf_of_view (f : Nat) : frameOf m' f = frameOf m f := by
  have hf : m'.frames = m.frames := congrArg (·.2.1) h
  rw [frameOf, hf, frameOf]

theorem queueHdrs_of_view : queueHdrs e m' = queueHdrs e m := by
  have ht : m'.teams = m.teams := congrArg (·.2.2.1) h
  have he : m'.entries = m.entries := congrArg (·.2.2.2.1) h
  have hs : ∀ c off, sliceAddr e m' c off = sliceAddr e m c off := fun c off => by simp only [sliceAddr, markAddr, imageOf, entOf, ht, he]
  have hq : ∀ k, queueAt e m' k = queueAt e m k := fun k => by
    funext j
    simp only [queueAt, teamOf, ht, hs]
  simp only [queueHdrs, ht, hq]

theorem readOnly_of_view (sa n : Nat) : readOnly e m' sa n = readOnly e m sa n := by
  have hq : m'.queues = m.queues := congrArg (·.2.2.2.2.1) h
  have hr : ∀ c, (coreOf m' c).ring = (coreOf m c).ring := congrFun (congrArg (·.2.2.2.2.2) h)
  simp only [readOnly, queueHdrs_of_view h, busyWords, hq, hr]

end

/-! The bytes that are written. -/

/-- Runs of bytes written to a memory in turn. -/
def writeRuns (mem : Memory) (rs : List (Nat × List Byte)) : Memory := rs.foldl (fun a r => memWrite a r.1 r.2) mem

theorem writeRuns_wf (rs : List (Nat × List Byte)) {mem : Memory} (h : Memory.wf mem = true) : Memory.wf (writeRuns mem rs) = true := by
  induction rs generalizing mem with
  | nil => exact h
  | cons r s ih => exact ih (memWrite_wf _ _ _ h)

theorem putRuns_mem (rs : List (Nat × List Byte)) (m : Mach) : (rs.foldl putRun m).mem = writeRuns m.mem rs := by
  induction rs generalizing m with
  | nil => rfl
  | cons r s ih => exact ih _

/-- A place lies in one of some ranges. -/
def lockedAt (ro : List (Nat × Nat)) (a : Nat) : Bool := ro.any (fun r => decide (r.1 ≤ a) && decide (a < r.1 + r.2))

/-- Cutting the ranges out of a run is to write it byte by byte, but for the bytes in them. -/
theorem writeRuns_outside_cons (ro : List (Nat × Nat)) (a : Nat) (b : Byte) (r : List Byte) (mem : Memory) :
    writeRuns mem (outside ro a (b :: r)) = writeRuns (if lockedAt ro a then mem else memSet mem a b) (outside ro (a + 1) r) := by
  have hl : ro.any (fun (x, n) => decide (x ≤ a) && decide (a < x + n)) = lockedAt ro a := rfl
  rw [outside, hl]
  by_cases h : lockedAt ro a = true
  · rw [if_pos h, if_pos h]
  · rw [if_neg h, if_neg h]
    rcases outside ro (a + 1) r with _ | ⟨⟨k, l⟩, s⟩
    · rfl
    · dsimp only
      split
      · next hk => rw [hk]; rfl
      · rfl

theorem memGet_writeRuns_outside (ro : List (Nat × Nat)) (l : List Byte) (a : Nat) {mem : Memory} (a' : Nat) (h : Memory.wf mem = true) :
    memGet (writeRuns mem (outside ro a l)) a' = if a ≤ a' ∧ lockedAt ro a' = false then (l[a' - a]?).getD (memGet mem a') else memGet mem a' := by
  induction l generalizing mem a with
  | nil => simp [outside, writeRuns]
  | cons b r ih =>
    have hwf : Memory.wf (if lockedAt ro a then mem else memSet mem a b) = true := by
      split
      · exact h
      · exact memSet_wf _ _ _ h
    have hget : a' ≠ a ∨ lockedAt ro a' = true → memGet (if lockedAt ro a then mem else memSet mem a b) a' = memGet mem a' := by
      intro hc
      split
      · rfl
      · next hn =>
        refine (memGet_memSet _ _ _ _ h).trans (if_neg fun he => ?_)
        rcases hc with hc | hc
        · exact hc he
        · exact hn (he ▸ hc)
    rw [writeRuns_outside_cons, ih _ hwf]
    by_cases hlo : lockedAt ro a' = true
    · simp only [hlo, Bool.true_eq_false, and_false, ↓reduceIte, hget (.inr hlo)]
    · rw [Bool.not_eq_true] at hlo
      by_cases he : a' = a
      · subst he
        simp [hlo, memGet_memSet _ _ _ _ h]
      · by_cases hle : a ≤ a'
        · obtain ⟨d, rfl⟩ : ∃ d, a' = a + (d + 1) := ⟨a' - a - 1, by omega⟩
          have h1 : a + (d + 1) - (a + 1) = d := by omega
          have h2 : a + (d + 1) - a = d + 1 := by omega
          have h3 : a + 1 ≤ a + (d + 1) := by omega
          simp only [hlo, hle, h1, h2, h3, and_self, ↓reduceIte, List.getElem?_cons_succ, hget (.inl he)]
        · have h1 : ¬ a + 1 ≤ a' := by omega
          simp only [h1, hle, false_and, ↓reduceIte, hget (.inl he)]

/-- Without a range the run is written whole. -/
theorem writeRuns_outside_nil (l : List Byte) (a : Nat) (mem : Memory) : writeRuns mem (outside [] a l) = memWrite mem a l := by
  induction l generalizing mem a with
  | nil => rfl
  | cons b r ih =>
    rw [writeRuns_outside_cons, ih]
    rfl

theorem writeRuns_writable (e : Env) (m : Mach) (a : Nat) (l : List Byte) (mem : Memory) :
    writeRuns mem (writable e m a l) = writeRuns mem (outside (readOnly e m a l.length) a l) := by
  unfold writable
  split
  · next h =>
    rw [h, writeRuns_outside_nil]
    cases l <;> rfl
  · rfl

/-- Each run that is left of a run lies in it. -/
theorem outside_within (ro : List (Nat × Nat)) (l : List Byte) (a : Nat) : ∀ r ∈ outside ro a l, a ≤ r.1 ∧ r.1 + r.2.length ≤ a + l.length := by
  induction l generalizing a with
  | nil => exact fun r hr => nomatch hr
  | cons b t ih =>
    have hin : ∀ r ∈ outside ro (a + 1) t, a ≤ r.1 ∧ r.1 + r.2.length ≤ a + (b :: t).length := by
      intro r hr
      have := ih (a + 1) r hr
      rw [List.length_cons]
      omega
    rw [outside]
    split
    · exact hin
    · split
      · next k l s he =>
        have hk := ih (a + 1) (k, l) (by rw [he]; exact List.mem_cons_self)
        simp only at hk
        have hs : ∀ r ∈ s, a ≤ r.1 ∧ r.1 + r.2.length ≤ a + (b :: t).length := fun r hr => hin r (by rw [he]; exact List.mem_cons_of_mem _ hr)
        split
        · intro r hr
          rcases List.mem_cons.mp hr with rfl | hr
          · simp only [List.length_cons]; omega
          · exact hs r hr
        · intro r hr
          rcases List.mem_cons.mp hr with rfl | hr
          · simp only [List.length_cons, List.length_nil]; omega
          · exact hin r (by rw [he]; exact hr)
      · intro r hr
        rw [List.mem_singleton.mp hr]
        simp only [List.length_cons, List.length_nil]
        omega

theorem writable_within (e : Env) (m : Mach) (a : Nat) (l : List Byte) : ∀ r ∈ writable e m a l, a ≤ r.1 ∧ r.1 + r.2.length ≤ a + l.length := by
  unfold writable
  split
  · split
    · exact fun r hr => nomatch hr
    · intro r hr
      rw [List.mem_singleton.mp hr]
      exact ⟨Nat.le_refl _, Nat.le_refl _⟩
  · exact outside_within _ _ _

/-! ALLOW follows CAP (03 R100). -/

theorem keepAllow_frames (e : Env) (m : Mach) (rows : List (Nat × List Byte)) : (keepAllow e m rows).frames = m.frames :=
  foldl_keeps Mach.frames (by intros; rfl) _ _

/-- ALLOW of the queue with a header becomes CAP less COUNT. -/
def followCap (m : Mach) (q : Nat) : Mach :=
  { m with mem := memSet m.mem (q + 13) (BitVec.ofNat 8 ((memGet m.mem (q + 14)).toNat - (memGet m.mem (q + 12)).toNat)) }

theorem memGet_followCaps (qs : List Nat) (m : Mach) (a : Nat) (h : Memory.wf m.mem = true) (hn : ∀ q ∈ qs, a ≠ q + 13) :
    memGet (qs.foldl followCap m).mem a = memGet m.mem a := by
  induction qs generalizing m with
  | nil => rfl
  | cons q r ih =>
    rw [List.foldl_cons, ih _ (memSet_wf _ _ _ h) (fun p hp => hn p (List.mem_cons_of_mem _ hp))]
    exact (memGet_memSet _ _ _ _ h).trans (if_neg (hn q List.mem_cons_self))

theorem memGet_keepAllow (e : Env) (m : Mach) (rows : List (Nat × List Byte)) (a : Nat) (h : Memory.wf m.mem = true)
    (hn : ∀ q ∈ queueHdrs e m, rows.any (fun r => overlaps r.1 r.2.length (q + 14) 1) = true → a ≠ q + 13) :
    memGet (keepAllow e m rows).mem a = memGet m.mem a :=
  memGet_followCaps _ m a h (fun q hq => hn q (List.mem_filter.mp hq).1 (List.mem_filter.mp hq).2)

/-! The frames that are touched (03 R86). -/

theorem mem_framesOf {sa n f : Nat} : f ∈ framesOf sa n ↔ n ≠ 0 ∧ sa / 16384 ≤ f ∧ f ≤ (sa + n - 1) / 16384 := by
  unfold framesOf
  split
  · next h => simp [h]
  · next h =>
    simp only [List.mem_map, List.mem_range, ne_eq, h, not_false_eq_true, true_and]
    constructor
    · rintro ⟨i, hi, rfl⟩
      omega
    · rintro ⟨h1, h2⟩
      exact ⟨f - sa / 16384, by omega, by omega⟩

/-- The frames of a part of a range are frames of the range. -/
theorem framesOf_within {sa n sb k f : Nat} (h1 : sa ≤ sb) (h2 : sb + k ≤ sa + n) (h : f ∈ framesOf sb k) : f ∈ framesOf sa n := by
  rw [mem_framesOf] at h ⊢
  obtain ⟨hk, hl, hu⟩ := h
  have hu' : (sb + k - 1) / 16384 ≤ (sa + n - 1) / 16384 := Nat.div_le_div_right (by omega)
  have hl' : sa / 16384 ≤ sb / 16384 := Nat.div_le_div_right h1
  omega

theorem nodup_eraseDups (l : List Nat) : l.eraseDups.Nodup := by
  induction hn : l.length using Nat.strong_induction_on generalizing l with
  | _ n ih =>
    cases l with
    | nil => exact List.nodup_nil
    | cons a r =>
      rw [List.eraseDups_cons, List.nodup_cons]
      refine ⟨fun hm => ?_, ih _ ?_ _ rfl⟩
      · simpa using (List.mem_filter.mp (List.mem_eraseDups.mp hm)).2
      · have := List.length_filter_le (fun b => !b == a) r
        rw [← hn, List.length_cons]
        omega

theorem frameOf_touchFrame (z : Bool) (m : Mach) (f g : Nat) : frameOf (touchFrame z m f) g = if g = f then ((frameOf m f).1 + 1, z) else frameOf m g := by
  split
  · next h => rw [h, frameOf, touchFrame, tget_tset_self, Option.getD_some]
  · next h => simp only [frameOf, touchFrame, tget_tset_other _ _ _ _ h]

/-- Each frame of a list without repetition is touched once, and no other frame. -/
theorem frameOf_touchFrames (z : Bool) {fs : List Nat} (hn : fs.Nodup) (m : Mach) (g : Nat) :
    frameOf (fs.foldl (touchFrame z) m) g = if g ∈ fs then ((frameOf m g).1 + 1, z) else frameOf m g := by
  induction fs generalizing m with
  | nil => rfl
  | cons f r ih =>
    obtain ⟨hf, hr⟩ := List.nodup_cons.mp hn
    rw [List.foldl_cons, ih hr, frameOf_touchFrame]
    by_cases hg : g = f
    · subst hg
      simp only [hf, ↓reduceIte, List.mem_cons, true_or]
    · simp only [hg, ↓reduceIte, List.mem_cons, false_or]

/-! A store of one run of bytes. -/

section
variable (e : Env) (m : Mach) (sa : Nat) (data : List Byte)

/-- Frames that a store of one run touches. -/
def storeFrames : List Nat := ((writable e m sa data).flatMap (fun r => framesOf r.1 r.2.length)).eraseDups

theorem threadStore_one : threadStore e m [(sa, data)] false =
    keepAllow e ((storeFrames e m sa data).foldl (touchFrame false) ((writable e m sa data).foldl putRun m)) [(sa, data)] := by
  have hr : [(sa, data)].flatMap (fun (a, l) => writable e m a l) = writable e m sa data := List.append_nil _
  simp only [threadStore, hr, Bool.false_eq_true, ↓reduceIte]
  rfl

/-- The bytes are written, but for those in a range that stores leave, and ALLOW of a queue whose CAP is written follows. -/
theorem memGet_threadStore (h : Memory.wf m.mem = true) (a : Nat)
    (hf : (queueHdrs e m).any (fun q => a == q + 13 && overlaps sa data.length (q + 14) 1) = false) :
    memGet (threadStore e m [(sa, data)] false).mem a =
      if sa ≤ a ∧ lockedAt (readOnly e m sa data.length) a = false then (data[a - sa]?).getD (memGet m.mem a) else memGet m.mem a := by
  have hm : ((storeFrames e m sa data).foldl (touchFrame false) ((writable e m sa data).foldl putRun m)).mem =
      writeRuns m.mem (outside (readOnly e m sa data.length) sa data) := by
    rw [touchFrames_mem, putRuns_mem, writeRuns_writable]
  have hq : queueHdrs e ((storeFrames e m sa data).foldl (touchFrame false) ((writable e m sa data).foldl putRun m)) = queueHdrs e m :=
    (foldl_keeps (queueHdrs e) (by intros; rfl) _ _).trans (foldl_keeps (queueHdrs e) (by intros; rfl) _ _)
  rw [threadStore_one, memGet_keepAllow, hm, memGet_writeRuns_outside _ _ _ _ h]
  · rw [hm]
    exact writeRuns_wf _ h
  · rw [hq]
    intro q hq' ho he
    simp only [List.any_cons, List.any_nil, Bool.or_false] at ho
    have : (queueHdrs e m).any (fun q => a == q + 13 && overlaps sa data.length (q + 14) 1) = true :=
      List.any_eq_true.mpr ⟨q, hq', by rw [ho, he, BEq.rfl, Bool.and_self]⟩
    exact Bool.false_ne_true (hf.symm.trans this)

theorem frameOf_threadStore (f : Nat) :
    frameOf (threadStore e m [(sa, data)] false) f = if f ∈ storeFrames e m sa data then ((frameOf m f).1 + 1, false) else frameOf m f := by
  have hd : (storeFrames e m sa data).Nodup := nodup_eraseDups _
  have hk : ∀ n : Mach, frameOf (keepAllow e n [(sa, data)]) f = frameOf n f := fun n => by rw [frameOf, keepAllow_frames, frameOf]
  have hp : frameOf ((writable e m sa data).foldl putRun m) f = frameOf m f := foldl_keeps (frameOf · f) (by intros; rfl) _ _
  rw [threadStore_one, hk, frameOf_touchFrames false hd, hp]

/-- The frames lie in the range of the store. -/
theorem storeFrames_within {f : Nat} (h : f ∈ storeFrames e m sa data) : f ∈ framesOf sa data.length := by
  obtain ⟨r, hr, hf⟩ := List.mem_flatMap.mp (List.mem_eraseDups.mp h)
  obtain ⟨h1, h2⟩ := writable_within e m sa data r hr
  exact framesOf_within h1 h2 hf

/-- Where stores leave nothing alone, they are all the frames of the range. -/
theorem storeFrames_whole (hr : readOnly e m sa data.length = []) (hd : data ≠ []) {f : Nat} (h : f ∈ framesOf sa data.length) : f ∈ storeFrames e m sa data := by
  have hw : writable e m sa data = [(sa, data)] := by
    simp only [writable, hr, List.isEmpty_iff, hd, ↓reduceIte]
  rw [storeFrames, hw]
  exact List.mem_eraseDups.mpr (List.mem_flatMap.mpr ⟨_, List.mem_singleton_self _, h⟩)

end

theorem performMsg_store {e : Env} {m : Mach} {x : Msg} {sa : Nat} {data : List Byte} (hb : x.body = .store [(sa, data)] false true) :
    performMsg e m x = respondHere e (threadStore e m [(sa, data)] false) x := by
  rw [performMsg_eq (.inr (by rw [hb]; rfl))]
  simp only [performBody, hb, Bool.false_eq_true, ↓reduceIte]

/-- Settles O52: what is written, and which frames are touched, is said of the store at its home, which stands in the same storage as before the message left the network. -/
theorem storesWriteTheirBytes : Obligations.StoresWriteTheirBytes := by
  unfold Obligations.StoresWriteTheirBytes
  intro s id x sa data H hb hwf ro locked follows
  have hv := storeView_atHomeMach s id x
  have hp : storeView (performedAs s x (performMsg s.env (atHomeMach s id x) x)).m = storeView (threadStore s.env (atHomeMach s id x) [(sa, data)] false) := by
    rw [performMsg_store hb]
    exact storeView_performedAs s x s.env _
  have hro : readOnly s.env (atHomeMach s id x) sa data.length = ro := readOnly_of_view hv sa data.length
  have hwf' : Memory.wf (atHomeMach s id x).mem = true := by rwa [mem_of_view hv]
  have hget : ∀ a, follows a = false → memGet (performedAs s x (performMsg s.env (atHomeMach s id x) x)).m.mem a =
      if sa ≤ a ∧ lockedAt ro a = false then (data[a - sa]?).getD (memGet s.m.mem a) else memGet s.m.mem a := by
    intro a ha
    rw [mem_of_view hp, memGet_threadStore _ _ _ _ hwf' a (by rw [queueHdrs_of_view hv]; exact ha), hro, mem_of_view hv]
  have hfr : ∀ f, frameOf (performedAs s x (performMsg s.env (atHomeMach s id x) x)).m f =
      if f ∈ storeFrames s.env (atHomeMach s id x) sa data then ((frameOf s.m f).1 + 1, false) else frameOf s.m f := by
    intro f
    rw [frameOf_of_view hp, frameOf_threadStore, frameOf_of_view hv]
  refine ⟨_, takes_access H (by rw [hb]; rfl) (fun p g ht => nomatch hb.symm.trans ht), ?other, ?bytes, ?wf, ?touched, ?frames⟩
  case other =>
    intro a ha hf
    rw [hget a hf]
    split
    · rw [List.getElem?_eq_none (by omega), Option.getD_none]
    · rfl
  case bytes =>
    intro k b hk hf
    rw [hget _ hf, Nat.add_sub_cancel_left, hk, Option.getD_some]
    have hl : locked (sa + k) = lockedAt ro (sa + k) := rfl
    rw [hl]
    cases lockedAt ro (sa + k) with
    | true => rw [if_neg (fun h => nomatch h.2), if_pos rfl]
    | false => rw [if_pos ⟨Nat.le_add_right sa k, rfl⟩, if_neg Bool.false_ne_true]
  case wf =>
    rw [mem_of_view hp]
    exact threadStore_wf _ _ _ _ hwf'
  case touched =>
    intro hr hd f hf
    rw [hfr, if_pos (storeFrames_whole _ _ _ _ (hro.trans hr) hd hf)]
  case frames =>
    intro f hf
    rw [hfr, if_neg (fun h => hf (storeFrames_within _ _ _ _ h))]

end Sys2Proof.Machine
end

section
/-! SUPPORT. Canonical memory: what is kept, its reading rules, and the operations that every step is made of (03 R77, R84; entry 1 of the assumption log). -/
namespace Sys2Proof.Machine
open Sys2Proof

/-- The memory of a machine stands in its canonical form (entry 1 of the assumption log). -/
abbrev Canon (m : Mach) : Prop := Memory.wf m.mem = true

/-- Where a check answers a result, its machine is canonical. -/
def OkCanon {ε α : Type} (p : α → Mach) : Except ε α → Prop
  | .ok a => Canon (p a)
  | .error _ => True

/-- The machine of an optional result, where there is one, is canonical. -/
def SomeCanon {α : Type} (p : α → Mach) : Option α → Prop
  | some a => Canon (p a)
  | none => True

/-- The next state, where one is answered, has a canonical memory. -/
def NextCanon : Host.Outcome State Fault Refusal → Prop
  | .next s => Canon s.m
  | _ => True

theorem OkCanon.of_eq {ε α : Type} {p : α → Mach} {x : Except ε α} {a : α} (h : OkCanon p x) (hx : x = .ok a) : Canon (p a) := by
  rw [hx] at h
  exact h

theorem SomeCanon.of_eq {α : Type} {p : α → Mach} {x : Option α} {a : α} (h : SomeCanon p x) (hx : x = some a) : Canon (p a) := by
  rw [hx] at h
  exact h

theorem SomeCanon.map {α β : Type} {p : α → Mach} {q : β → Mach} {f : α → β} {x : Option α} (h : SomeCanon p x) (hq : ∀ a, q (f a) = p a) :
    SomeCanon q (x.map f) := by
  cases x with
  | none => trivial
  | some a => exact (congrArg Canon (hq a)).mpr h

theorem canon_ite {p : Prop} [Decidable p] {a b : Mach} (ha : Canon a) (hb : Canon b) : Canon (if p then a else b) := by
  split
  · exact ha
  · exact hb

theorem state_ite {p : Prop} [Decidable p] {a b : State} (ha : Canon a.m) (hb : Canon b.m) : Canon (if p then a else b).m := by
  split
  · exact ha
  · exact hb


theorem OkCanon.ok {ε α : Type} {p : α → Mach} {a : α} (h : Canon (p a)) : OkCanon p (.ok a : Except ε α) :=
  h

theorem okCanon_ite {ε α : Type} {p : α → Mach} {q : Prop} [Decidable q] {x y : Except ε α} (hx : OkCanon p x) (hy : OkCanon p y) : OkCanon p (if q then x else y) := by
  split
  · exact hx
  · exact hy

theorem canon_of_ite_ok {ε α : Type} {p : α → Mach} {q : Prop} [Decidable q] {x : Except ε α} {a b : α} (he : (if q then x else .ok b) = .ok a) (hx : OkCanon p x)
    (hb : Canon (p b)) : Canon (p a) :=
  (okCanon_ite hx (OkCanon.ok hb)).of_eq he

theorem canon_of_ok_ite {ε α : Type} {p : α → Mach} {q : Prop} [Decidable q] {y : Except ε α} {a b : α} (he : (if q then .ok b else y) = .ok a) (hb : Canon (p b))
    (hy : OkCanon p y) : Canon (p a) :=
  (okCanon_ite (OkCanon.ok hb) hy).of_eq he

theorem canon_fst_ite {α : Type} {q : Prop} [Decidable q] {a b : Mach × α} (ha : Canon a.1) (hb : Canon b.1) : Canon (if q then a else b).1 := by
  split
  · exact ha
  · exact hb

theorem foldl_canon {β : Type} {f : Mach → β → Mach} {l : List β} {m : Mach} (h : Canon m) (hf : ∀ m b, Canon m → Canon (f m b)) : Canon (l.foldl f m) :=
  foldl_wf hf l h

/-- A fold that carries more than a machine. -/
theorem foldl_on_canon {α β : Type} (p : α → Mach) {f : α → β → α} {l : List β} {a : α} (h : Canon (p a)) (hf : ∀ a b, Canon (p a) → Canon (p (f a b))) :
    Canon (p (l.foldl f a)) :=
  List.foldlRecOn (motive := fun a => Canon (p a)) l f h (fun a ha b _ => hf a b ha)

variable {e : Env} {c : Ctx} {m : Mach} {s : State}

/-- A landing writes registers and tiles, and a tile stands in the memory (01 R37). -/
theorem applyLanding_canon {l : Landing} (h : Canon m) : Canon (applyLanding m l) :=
  foldl_canon (foldl_canon (foldl_canon h (fun _ _ h => applyWr_wf _ _ h)) (fun _ _ h => h)) (fun _ _ h => h)

theorem preempt_canon {cores : List Nat} (h : Canon m) : Canon (preempt e m cores) := by
  unfold preempt
  dsimp only
  split
  · exact h
  · exact foldl_canon h (fun _ _ h => h)

theorem suspendTeam_canon {team kind : Nat} {reason : Word} {spc saddr : Nat} (h : Canon m) : Canon (suspendTeam e m team kind reason spc saddr) := by
  unfold suspendTeam
  dsimp only
  split
  · exact h
  · split
    · exact h
    · split
      · exact preempt_canon h
      · exact h

theorem doubleFault_canon {g lane cause spc ipc faddr : Nat} (h : Canon m) : Canon (doubleFault e m g lane cause spc ipc faddr) :=
  suspendTeam_canon h

theorem raise_canon {g lane cause faddr info spc ipc prog : Nat} {psolo : Bool} (h : Canon m) : Canon (raise e m g lane cause faddr info spc ipc prog psolo) := by
  unfold raise
  dsimp only
  split
  · exact doubleFault_canon h
  · exact h

theorem joinFault_canon {cl mark va kind : Nat} {who : Option (TRef × Nat)} {eng : Option Nat} (h : Canon m) : Canon (joinFault m cl mark va kind who eng) := by
  unfold joinFault
  dsimp only
  split
  · exact h
  · split <;> exact h

theorem parkFault_canon {g lane va kind pc prog : Nat} {psolo : Bool} (h : Canon m) : Canon (parkFault e m g lane va kind pc prog psolo) :=
  joinFault_canon h

theorem joinWalk_canon {die part va : Nat} {who : List (TRef × Nat × Nat)} {fills : List Fill} {engs : List EReq} (h : Canon m) :
    Canon (joinWalk e m die part va who fills engs) := by
  unfold joinWalk
  dsimp only
  split <;> exact h

theorem nextSlot_canon {die : Nat} (h : Canon m) : Canon (nextSlot e m die) := by
  unfold nextSlot
  split <;> exact h

theorem startWalk_canon {die part va : Nat} {who : TRef} {kind : Nat} (h : Canon m) : Canon (startWalk e m die part va who kind) :=
  joinWalk_canon h

theorem waitWalk_canon {g lane va kind pc prog : Nat} {psolo : Bool} (h : Canon m) : Canon (waitWalk e m g lane va kind pc prog psolo) :=
  startWalk_canon h

theorem closePart_canon {op tm : Nat} {wr : List RegWr} {wake : List TRef} (h : Canon m) : Canon (closePart m op tm wr wake) := by
  unfold closePart
  dsimp only
  split
  · exact h
  · split <;> exact h

theorem effAddr_canon {o : FM} (h : Canon m) : Canon (effAddr e m c o).1 :=
  readOp_wf _ _ _ _ _ (readOp_wf _ _ _ _ _ h)

theorem advance_canon {cu : Cur} {h' : Hdr} (h : Canon m) : Canon (advance e m cu h') :=
  foldl_canon h (fun _ _ h => h)

theorem failMember_canon {lane : Nat} {psolo : Bool} {a : Out} (h : Canon m) : Canon (failMember e m c lane psolo a) := by
  unfold failMember
  split
  · exact h
  · exact raise_canon h
  · exact waitWalk_canon h
  · exact parkFault_canon h

theorem runMember_canon {tr : List Nat} {body : Env → Ctx → Mach → BRes} {acc : Mach × List Nat} {lane : Nat} (hf : ∀ e c m, Canon m → Canon (body e c m).m) (h : Canon acc.1) :
    Canon (runMember e c tr body acc lane).1 := by
  unfold runMember
  dsimp only
  split
  · exact foldl_canon (hf _ _ _ h) (fun _ _ h => h)
  · split
    · exact h
    · exact failMember_canon (hf _ _ _ h)

theorem runOnce_canon {tr : List Nat} {body : Env → Ctx → Mach → BRes} (hf : ∀ e c m, Canon m → Canon (body e c m).m) (h : Canon m) :
    Canon (runOnce e c tr body m).1 := by
  unfold runOnce
  dsimp only
  split
  · exact foldl_canon (hf _ _ _ h) (fun _ _ h => h)
  · refine foldl_canon (hf _ _ _ h) (fun _ _ h => ?_)
    split
    · exact h
    · exact failMember_canon h

theorem failAll_canon {cu : Cur} {cause faddr : Nat} (h : Canon m) : Canon (failAll e m cu cause faddr) :=
  foldl_canon h (fun _ _ h => raise_canon h)

/-- An issue keeps the memory canonical where the body of the instruction does. -/
theorem issue_canon {i : Instr} {h' : Hdr} {once : Bool} {body : Env → Ctx → Mach → BRes} {cu : Cur} (hf : ∀ e c m, Canon m → Canon (body e c m).m) (h : Canon m) :
    Canon (issue i h' once body e cu m) := by
  have hbad : ∀ {l : List Nat} {c0 : Ctx} {p : Bool} {a : Out}, Canon (l.foldl (fun m k => failMember e m c0 k p a) (advance e m cu h')) :=
    foldl_canon (advance_canon h) (fun _ _ h => failMember_canon h)
  have hclear : ∀ {l l' : List Nat} {c0 : Ctx} {p : Bool} {a : Out}, Canon (l'.foldl (fun m k => clearPsolo m cu.g k) (l.foldl (fun m k => failMember e m c0 k p a) (advance e m cu h'))) :=
    foldl_canon hbad (fun _ _ h => h)
  unfold issue
  dsimp only
  split
  · exact failAll_canon h
  · split
    · exact hclear
    · split
      · exact runOnce_canon (fun _ _ _ h => h) hclear
      · split
        · exact runOnce_canon hf hclear
        · exact foldl_on_canon Prod.fst hclear (fun _ _ h => runMember_canon hf h)

end Sys2Proof.Machine
end

section
/-! SUPPORT. The arithmetic, narrow, poison, cross-lane and register instructions keep the memory: they write registers, and the poison that they generate goes to the log of its team (07 R189 to R220). -/
namespace Sys2Proof.Machine
open Sys2Proof

variable {e : Env} {c : Ctx} {m : Mach} {s : State}

theorem read3_canon {ta tb tc : NTy} {a b d : Opnd} (h : Canon m) : Canon (read3 e m c ta tb tc a b d).1 :=
  readOp_wf _ _ _ _ _ (readOp_wf _ _ _ _ _ (readOp_wf _ _ _ _ _ h))

theorem intBody_canon {h' : Hdr} {o : FA} {n : Nat} {sh : Bool} {l32 l64 : Nat} {f : Nat → Nat → Nat → Nat} (h : Canon m) :
    Canon (intBody h' o n sh l32 l64 f e c m).m :=
  read3_canon h

theorem exactBody_canon {h' : Hdr} {o : FA} {n l32 l64 : Nat} {f : Int → Int → Int → Int} (h : Canon m) : Canon (exactBody h' o n l32 l64 f e c m).m :=
  intBody_canon h

theorem unitDone_canon {lat : Nat} (h : Canon m) : Canon (unitDone e m c lat).2 := by
  unfold unitDone
  dsimp only
  split <;> exact h

theorem landVar_canon {h' : Hdr} {o : FA} {ty : NTy} {tm n : Nat} (h : Canon m) : Canon (landVar m c h' o ty tm n).m :=
  h

theorem divBody_canon {h' : Hdr} {o : FA} {f : Int → Int → Int} (h : Canon m) : Canon (divBody h' o f e c m).m := by
  have hr := read3_canon (e := e) (c := c) (ta := intTy h') (tb := intTy h') (tc := intTy h') (a := o.sa) (b := o.sb) (d := .v 0) h
  unfold divBody
  dsimp only
  generalize read3 e m c (intTy h') (intTy h') (intTy h') o.sa o.sb (.v 0) = r at hr ⊢
  split
  · exact hr
  · exact landVar_canon (unitDone_canon hr)

theorem landP_canon {tm : Nat} {dst : Opnd} {q : Bool × Bool} (h : Canon m) : Canon (landP m c tm dst q).m := by
  unfold landP
  split <;> exact h

theorem cmpBody_canon {h' : Hdr} {o : FA} (h : Canon m) : Canon (cmpBody h' o e c m).m :=
  landP_canon (read3_canon h)

theorem selBody_canon {h' : Hdr} {o : FA} (h : Canon m) : Canon (selBody h' o e c m).m :=
  read3_canon h

theorem addcBody_canon {h' : Hdr} {o : FA} (h : Canon m) : Canon (addcBody h' o e c m).m := by
  unfold addcBody
  dsimp only
  split <;> exact read3_canon h

theorem movBody_canon {h' : Hdr} {o : FA} (h : Canon m) : Canon (movBody h' o e c m).m := by
  unfold movBody
  dsimp only
  split
  · exact landP_canon h
  · exact landP_canon (readOp_wf _ _ _ _ _ h)
  · exact readOp_wf _ _ _ _ _ h

theorem cvtBody_canon {h' : Hdr} {o : FA} (h : Canon m) : Canon (cvtBody h' o e c m).m := by
  unfold cvtBody
  dsimp only
  split
  · split
    · split <;> exact readOp_wf _ _ _ _ _ h
    · exact readOp_wf _ _ _ _ _ h
  · split <;> exact readOp_wf _ _ _ _ _ h

theorem carryPoison_canon {ty : NTy} {p : Nat} (h : Canon m) : Canon (carryPoison e m c ty p).1 := by
  unfold carryPoison
  split
  · exact h
  · exact poisonVal_wf _ _ _ _ _ _ _ _ h

theorem settleF_canon {ty : NTy} {srcs : List Nat} {v : Option Nat} (h : Canon m) : Canon (settleF e m c ty srcs v).1 := by
  unfold settleF
  split
  · exact carryPoison_canon h
  · split
    · exact h
    · exact poisonVal_wf _ _ _ _ _ _ _ _ h

theorem fltBody_canon {h' : Hdr} {o : FA} {n l32 l64 : Nat} {f : RMode → Nat → Nat → Nat → Option Nat} (h : Canon m) : Canon (fltBody h' o n l32 l64 f e c m).m :=
  settleF_canon (read3_canon h)

theorem fltExact_canon {h' : Hdr} {o : FA} {n l32 l64 : Nat} {f : RMode → XVal → XVal → XVal → XVal} (h : Canon m) : Canon (fltExact h' o n l32 l64 f e c m).m :=
  fltBody_canon h

theorem fsclBody_canon {h' : Hdr} {o : FA} (h : Canon m) : Canon (fsclBody h' o e c m).m :=
  settleF_canon (read3_canon h)

theorem iterBody_canon {h' : Hdr} {o : FA} {n : Nat} {f : XVal → XVal → XVal} (h : Canon m) : Canon (iterBody h' o n f e c m).m :=
  landVar_canon (unitDone_canon (settleF_canon (read3_canon h)))

theorem plainF_canon {h' : Hdr} {o : FA} {n : Nat} {f : Nat → Nat → Nat → Nat} (h : Canon m) : Canon (plainF h' o n f e c m).m :=
  read3_canon h

theorem fcmpBody_canon {h' : Hdr} {o : FA} (h : Canon m) : Canon (fcmpBody h' o e c m).m := by
  unfold fcmpBody
  dsimp only
  split <;> exact landP_canon (read3_canon h)

theorem fclsBody_canon {h' : Hdr} {o : FA} (h : Canon m) : Canon (fclsBody h' o e c m).m :=
  readOp_wf _ _ _ _ _ h

theorem convPoison_canon {src dst : NTy} {p : Nat} (h : Canon m) : Canon (convPoison e m c src dst p).1 := by
  unfold convPoison
  split
  · split
    · exact h
    · exact poisonVal_wf _ _ _ _ _ _ _ _ h
  · exact h

theorem fdot2Body_canon {h' : Hdr} {o : FA} (h : Canon m) : Canon (fdot2Body h' o e c m).m := by
  unfold fdot2Body
  dsimp only
  split
  · exact convPoison_canon (read3_canon h)
  · exact settleF_canon (read3_canon h)

theorem frndBody_canon {h' : Hdr} {o : FA} (h : Canon m) : Canon (frndBody h' o e c m).m :=
  settleF_canon (readOp_wf _ _ _ _ _ h)

theorem fcvtBody_canon {h' : Hdr} {o : FA} (h : Canon m) : Canon (fcvtBody h' o e c m).m := by
  unfold fcvtBody
  dsimp only
  split
  · exact convPoison_canon (readOp_wf _ _ _ _ _ h)
  · exact readOp_wf _ _ _ _ _ h

theorem ebndAdd_canon {g : Nat} {x : XVal} (h : Canon m) : SomeCanon id (ebndAdd m g x) := by
  unfold ebndAdd
  dsimp only
  split
  · split
    · trivial
    · exact h
  · trivial

theorem nsclBody_canon {h' : Hdr} {o : FA} (h : Canon m) : Canon (nsclBody h' o e c m).m := by
  unfold nsclBody
  dsimp only
  split <;> exact h

theorem packPoison_canon {kind : Nat} {a : PackAcc} (h : Canon a.m) : Canon (packPoison e c kind a).m := by
  unfold packPoison
  dsimp only
  split
  · exact h
  · exact genPoison_wf _ _ _ _ _ _ _ h

theorem packElem_canon {f : NFmt} {md : RMode} {sc : Nat} {a : PackAcc} {x : Nat} (h : Canon a.m) : Canon (packElem e c f md sc a x).m := by
  unfold packElem
  dsimp only
  split
  · split
    · exact h
    · exact packPoison_canon h
  · split
    · exact packPoison_canon h
    · exact h

theorem packBound_canon {a : PackAcc} (h : Canon a.m) : Canon (packBound e c a).m := by
  unfold packBound
  split
  · exact h
  · split
    · rename_i hr
      exact (ebndAdd_canon h).of_eq hr
    · exact packPoison_canon h

theorem npckBody_canon {h' : Hdr} {o : FA} (h : Canon m) : Canon (npckBody h' o e c m).m := by
  unfold npckBody
  dsimp only
  split
  · exact h
  · split
    · exact h
    · split
      · split
        · exact h
        · refine packBound_canon ?_
          refine foldl_on_canon PackAcc.m ?_ (fun _ _ h => packElem_canon h)
          split
          · exact genPoison_wf _ _ _ _ _ _ _ h
          · exact h
      · split
        · exact h
        · refine packBound_canon ?_
          refine foldl_on_canon PackAcc.m ?_ (fun _ _ h => packElem_canon h)
          split
          · exact genPoison_wf _ _ _ _ _ _ _ h
          · exact h

theorem nunpBody_canon {h' : Hdr} {o : FA} (h : Canon m) : Canon (nunpBody h' o e c m).m := by
  unfold nunpBody
  dsimp only
  split
  · exact h
  · split
    · exact h
    · exact h
    · exact poisonVal_wf _ _ _ _ _ _ _ _ h
    · exact h

theorem contF32_canon {k : ContCheck} (h : Canon m) : SomeCanon Prod.fst (contF32 e m c k) := by
  unfold contF32
  split
  · exact h
  · exact poisonVal_wf _ _ _ _ _ _ _ _ h
  · trivial

theorem ndotBody_canon {h' : Hdr} {o : FA} (h : Canon m) : Canon (ndotBody h' o e c m).m := by
  unfold ndotBody
  dsimp only
  split
  · exact h
  · split
    · exact h
    · split
      · rename_i hr
        exact (contF32_canon h).of_eq hr
      · split
        · rename_i hr
          exact (contF32_canon h).of_eq hr
        · exact settleF_canon h

theorem pchkBody_canon {h' : Hdr} {o : FA} (h : Canon m) : Canon (pchkBody h' o e c m).m :=
  landP_canon (readOp_wf _ _ _ _ _ h)

theorem pchkProvBody_canon {h' : Hdr} {o : FA} (h : Canon m) : Canon (pchkProvBody h' o e c m).m :=
  readOp_wf _ _ _ _ _ h

theorem pmrkBody_canon {h' : Hdr} {o : FA} (h : Canon m) : Canon (pmrkBody h' o e c m).m :=
  poisonVal_wf _ _ _ _ _ _ _ _ h

theorem pfixBody_canon {h' : Hdr} {o : FA} (h : Canon m) : Canon (pfixBody h' o e c m).m :=
  read3_canon h

theorem plogBody_canon {h' : Hdr} {o : FA} (h : Canon m) : Canon (plogBody h' o e c m).m := by
  unfold plogBody
  dsimp only
  split
  · exact readOp_wf _ _ _ _ _ h
  · split <;> exact readOp_wf _ _ _ _ _ h

theorem readLanes_canon {ty : NTy} {o : Opnd} (h : Canon m) : Canon (readLanes e c ty o m).1 :=
  foldl_on_canon Prod.fst h (fun _ _ h => readOp_wf _ _ _ _ _ h)

theorem shflBody_canon {h' : Hdr} {o : FA} (h : Canon m) : Canon (shflBody h' o e c m).m :=
  readLanes_canon (readLanes_canon h)

theorem voteBody_canon {h' : Hdr} {o : FA} (h : Canon m) : Canon (voteBody h' o e c m).m := by
  unfold voteBody
  dsimp only
  split <;> split <;> exact h

theorem redStep_canon {ty : NTy} {op : Nat} {md : RMode} {l a b : Nat} (h : Canon m) : Canon (redStep e c ty op md l m a b).1 := by
  unfold redStep
  split
  · split
    · exact settleF_canon h
    · exact h
  · exact h

theorem reduceLanes_canon {ty : NTy} {op : Nat} {md : RMode} {steps : List (Nat × Nat × Nat)} {xs : List (Nat × Nat)} (h : Canon m) :
    Canon (reduceLanes e c ty op md steps m xs).1 :=
  foldl_on_canon Prod.fst h (fun _ _ h => redStep_canon h)

theorem redxBody_canon {h' : Hdr} {o : FA} (h : Canon m) : Canon (redxBody h' o e c m).m :=
  reduceLanes_canon (readLanes_canon h)

theorem scanBody_canon {h' : Hdr} {o : FA} (h : Canon m) : Canon (scanBody h' o e c m).m :=
  reduceLanes_canon (readLanes_canon h)

theorem sredBody_canon {h' : Hdr} {o : FA} (h : Canon m) : Canon (sredBody h' o e c m).m :=
  reduceLanes_canon (readLanes_canon h)

theorem rdlBody_canon {h' : Hdr} {o : FA} (h : Canon m) : Canon (rdlBody h' o e c m).m :=
  readOp_wf _ _ _ _ _ (readLanes_canon h)

theorem wrlBody_canon {h' : Hdr} {o : FA} (h : Canon m) : Canon (wrlBody h' o e c m).m :=
  readOp_wf _ _ _ _ _ (readOp_wf _ _ _ _ _ h)

theorem mtchBody_canon {h' : Hdr} {o : FA} (h : Canon m) : Canon (mtchBody h' o e c m).m :=
  readLanes_canon h

theorem setcBody_canon {o : FA} (h : Canon m) : Canon (setcBody o e c m).m := by
  unfold setcBody
  dsimp only
  split
  · split <;> exact readOp_wf _ _ _ _ _ h
  · split
    · exact readOp_wf _ _ _ _ _ h
    · split
      · exact readOp_wf _ _ _ _ _ h
      · split
        · exact readOp_wf _ _ _ _ _ h
        · split <;> exact readOp_wf _ _ _ _ _ h

theorem clkBody_canon {h' : Hdr} {o : FA} (h : Canon m) : Canon (clkBody h' o e c m).m := by
  unfold clkBody
  split <;> exact h

end Sys2Proof.Machine
end

section
/-! SUPPORT. Fetch, transfers, accesses to memory, atomics, waits and hand queues: what an issue of them does to the memory (06 R160 to R165, 08 R225 to R260). -/
namespace Sys2Proof.Machine
open Sys2Proof

variable {e : Env} {c : Ctx} {m : Mach} {s : State}

theorem fetchLine_canon {core part pc : Nat} (h : Canon m) : Canon (fetchLine e m core part pc).1 := by
  unfold fetchLine
  dsimp only
  split
  · split
    · split
      · split
        · exact h
        · split <;> exact h
      · split <;> exact h
    · exact h
    · exact h
    · exact h
  · exact h

theorem fetchStop_canon {cu : Cur} {r : LineRes} (h : Canon m) : Canon (fetchStop e m cu r) := by
  unfold fetchStop
  dsimp only
  split
  · exact failAll_canon h
  · exact failAll_canon h
  · exact foldl_canon h (fun _ _ h => waitWalk_canon h)
  · exact foldl_canon h (fun _ _ h => parkFault_canon h)
  · split
    · exact h
    · exact failAll_canon h

theorem checkTarget_canon {t : Nat} (h : Canon m) : Canon (checkTarget e m c t).1 := by
  unfold checkTarget
  dsimp only
  split
  · exact h
  · split
    · split <;> exact fetchLine_canon h
    · exact fetchLine_canon h
    · exact fetchLine_canon h
    · exact fetchLine_canon h
    · exact fetchLine_canon h

theorem transfer_canon {h' : Hdr} {t hi : Nat} {k : Mach → BRes} (h : Canon m) (hf : ∀ a0, Canon a0 → Canon (k a0).m) : Canon (transfer e c h' t hi m k).m := by
  unfold transfer
  dsimp only
  split
  · exact h
  · split
    · exact h
    · split
      · exact hf _ (checkTarget_canon h)
      · exact checkTarget_canon h

theorem braBody_canon {h' : Hdr} {o : FC} (h : Canon m) : Canon (braBody h' o e c m).m :=
  transfer_canon h (fun _ h => h)

theorem indirectBody_canon {h' : Hdr} {o : FC} (h : Canon m) : Canon (indirectBody h' o e c m).m :=
  transfer_canon h (fun _ h => h)

theorem callTo_canon {o : FC} {t budget : Nat} (h : Canon m) : Canon (callTo e c o t budget m).m := by
  unfold callTo
  dsimp only
  split <;> exact h

theorem callBody_canon {h' : Hdr} {o : FC} (h : Canon m) : Canon (callBody h' o e c m).m :=
  transfer_canon h (fun _ h => callTo_canon h)

theorem caliBody_canon {h' : Hdr} {o : FC} (h : Canon m) : Canon (caliBody h' o e c m).m :=
  transfer_canon h (fun _ h => callTo_canon h)

theorem loopBody_canon {h' : Hdr} {o : FC} (h : Canon m) : Canon (loopBody h' o e c m).m := by
  unfold loopBody
  dsimp only
  split
  · exact h
  · exact transfer_canon h (fun _ h => foldl_canon h (fun _ _ h => h))

theorem cvwBody_canon {o : FC} (h : Canon m) : Canon (cvwBody o e c m).m := by
  unfold cvwBody
  dsimp only
  split <;> exact h

theorem endThread_canon {g lane : Nat} (h : Canon m) : Canon (endThread m g lane) := by
  unfold endThread
  dsimp only
  split <;> exact h

theorem exitBody_canon (h : Canon m) : Canon (exitBody e c m).m :=
  endThread_canon h

theorem ldBody_canon {h' : Hdr} {o : FM} (h : Canon m) : Canon (ldBody h' o e c m).m := by
  unfold ldBody
  dsimp only
  split <;> exact effAddr_canon h

theorem storeData_canon {w : Nat} {d : Opnd} (h : Canon m) : Canon (storeData e m c w d).1 := by
  unfold storeData
  split
  · split <;> exact h
  · exact readOp_wf _ _ _ _ _ h

theorem stBody_canon {o : FM} (h : Canon m) : Canon (stBody o e c m).m := by
  have ha := effAddr_canon (e := e) (c := c) (o := o) h
  unfold stBody
  dsimp only
  generalize effAddr e m c o = a at ha ⊢
  split
  · exact ha
  · exact ha
  · have hd := storeData_canon (e := e) (c := c) (w := o.width.toNat) (d := o.d) ha
    generalize storeData e a.1 c o.width.toNat o.d = d at hd ⊢
    split
    · exact hd
    · split <;> exact hd

theorem partToks_canon {toks : List TokRef} (h : Canon m) : Canon (partToks c toks m) :=
  foldl_canon h (fun _ _ h => h)

theorem replayToks_canon {toks : List TokRef} (h : Canon m) : Canon (replayToks c toks m) := by
  unfold replayToks
  split
  · exact h
  · exact foldl_canon h (fun _ _ h => h)

theorem tileSend_canon {o : FM} {t : TileGeo} {op : Nat} {l : List (Nat × Nat × Nat)} (h : Canon m) : Canon (tileSend e m c o t op l) := by
  unfold tileSend
  dsimp only
  split <;> exact h

theorem ldtBody_canon {h' : Hdr} {o : FM} (h : Canon m) : Canon (ldtBody h' o e c m).m := by
  unfold ldtBody
  dsimp only
  split
  · exact h
  · split
    · split
      · split
        · split
          · exact h
          · exact replayToks_canon (foldl_canon h (fun _ _ h => tileSend_canon h))
        · split
          · exact h
          · exact replayToks_canon (foldl_canon h (fun _ _ h => tileSend_canon h))
      · split
        · split
          · exact h
          · exact replayToks_canon (foldl_canon h (fun _ _ h => tileSend_canon h))
        · split
          · exact h
          · exact replayToks_canon (foldl_canon h (fun _ _ h => tileSend_canon h))
    · split
      · split
        · split
          · exact h
          · exact partToks_canon (foldl_canon h (fun _ _ h => tileSend_canon h))
        · split
          · exact h
          · exact partToks_canon (foldl_canon h (fun _ _ h => tileSend_canon h))
      · split
        · split
          · exact h
          · exact partToks_canon (foldl_canon h (fun _ _ h => tileSend_canon h))
        · split
          · exact h
          · exact partToks_canon (foldl_canon h (fun _ _ h => tileSend_canon h))

theorem sttBody_canon {h' : Hdr} {o : FM} (h : Canon m) : Canon (sttBody h' o e c m).m := by
  unfold sttBody
  dsimp only
  split
  · exact h
  · split
    · exact h
    · split
      · exact h
      · split
        · split
          · exact h
          · split <;> exact h
        · split
          · exact h
          · split <;> exact h
      · split
        · split
          · split <;> exact h
          · split
            · split
              · exact h
              · exact replayToks_canon (foldl_canon h (fun _ _ h => h))
            · split
              · exact h
              · exact partToks_canon (foldl_canon h (fun _ _ h => h))
        · split
          · split <;> exact h
          · split
            · split
              · exact h
              · exact replayToks_canon (foldl_canon h (fun _ _ h => h))
            · split
              · exact h
              · exact partToks_canon (foldl_canon h (fun _ _ h => h))

theorem ldvTile_canon {h' : Hdr} {o : FM} (h : Canon m) : Canon (ldvTile h' o e c m).m := by
  unfold ldvTile
  dsimp only
  split
  · exact h
  · split
    · exact h
    · split
      · exact h
      · split
        · exact h
        · exact tileSend_canon h

theorem ldvBody_canon {h' : Hdr} {o : FM} (h : Canon m) : Canon (ldvBody h' o e c m).m := by
  unfold ldvBody
  split
  · exact ldvTile_canon h
  · exact ldBody_canon h

theorem fillRetr_canon {cl sa n : Nat} (h : Canon m) : Canon (fillRetr m cl sa n) := by
  unfold fillRetr
  refine foldl_canon h (fun _ _ h => ?_)
  dsimp only
  split <;> exact h

theorem pfxBody_canon {o : FM} (h : Canon m) : Canon (pfxBody o e c m).m := by
  unfold pfxBody
  dsimp only
  split
  · exact fillRetr_canon (effAddr_canon h)
  · exact joinWalk_canon (effAddr_canon h)
  · exact effAddr_canon h

theorem atomVal_canon {ty : NTy} {op old b : Nat} (h : Canon m) : Canon (atomVal e m c ty op old b).1 := by
  unfold atomVal
  split
  · exact h
  · split
    · split
      · exact settleF_canon h
      · exact h
    · exact h

theorem atomBody_canon {h' : Hdr} {o : FM} (h : Canon m) : Canon (atomBody h' o e c m).m := by
  unfold atomBody
  dsimp only
  split
  · split <;> exact effAddr_canon (readOp_wf _ _ _ _ _ h)
  · exact effAddr_canon (readOp_wf _ _ _ _ _ h)
  · exact effAddr_canon (readOp_wf _ _ _ _ _ h)

theorem casBody_canon {h' : Hdr} {o : FM} (h : Canon m) : Canon (casBody h' o e c m).m := by
  unfold casBody
  dsimp only
  split
  · split <;> exact effAddr_canon h
  · exact effAddr_canon h
  · exact effAddr_canon h

theorem drainSlot_canon {g fl : Nat} (h : Canon m) : Canon (drainSlot e m g fl) :=
  foldl_canon h (fun _ _ h => h)

theorem redAdd_canon {ty : NTy} {op dw half b : Nat} (h : Canon m) : Canon (redAdd e m c ty op dw half b) := by
  unfold redAdd
  dsimp only
  split
  · exact atomVal_canon h
  · exact h

theorem redBody_canon {h' : Hdr} {o : FM} (h : Canon m) : Canon (redBody h' o e c m).m := by
  unfold redBody
  dsimp only
  split
  · split
    · split
      · exact redAdd_canon (drainSlot_canon (effAddr_canon (readOp_wf _ _ _ _ _ h)))
      · exact redAdd_canon (effAddr_canon (readOp_wf _ _ _ _ _ h))
    · split
      · exact redAdd_canon (drainSlot_canon (effAddr_canon (readOp_wf _ _ _ _ _ h)))
      · exact redAdd_canon (effAddr_canon (readOp_wf _ _ _ _ _ h))
  · exact effAddr_canon (readOp_wf _ _ _ _ _ h)
  · exact effAddr_canon (readOp_wf _ _ _ _ _ h)

theorem rflBody_canon (h : Canon m) : Canon (rflBody e c m).m := by
  unfold rflBody
  split <;> exact h

theorem fenceBody_canon {h' : Hdr} {o : FM} (h : Canon m) : Canon (fenceBody h' o e c m).m := by
  unfold fenceBody
  refine foldl_canon ?_ (fun _ _ h => h)
  split <;> exact h

theorem monBody_canon {h' : Hdr} {o : FM} (h : Canon m) : Canon (monBody h' o e c m).m := by
  unfold monBody
  dsimp only
  split
  · exact readOp_wf _ _ _ _ _ (effAddr_canon h)
  · exact effAddr_canon h
  · exact effAddr_canon h

theorem waitMon_canon {w : Wait} {dst : Opnd} (h : Canon m) : Canon (waitMon e w c dst m) := by
  unfold waitMon
  dsimp only
  split
  · exact foldl_canon h (fun _ _ h => h)
  · exact h

theorem mwtBody_canon {o : FI} (h : Canon m) : Canon (mwtBody o e c m).m := by
  unfold mwtBody
  split
  · exact h
  · split
    · exact h
    · split
      · exact h
      · exact waitMon_canon h

theorem qwaitBody_canon {o : FM} (h : Canon m) : Canon (qwaitBody o e c m).m := by
  unfold qwaitBody
  dsimp only
  split <;> exact effAddr_canon h

theorem wakeBody_canon {o : FM} (h : Canon m) : Canon (wakeBody o e c m).m := by
  unfold wakeBody
  dsimp only
  split
  · split <;> exact readOp_wf _ _ _ _ _ (effAddr_canon h)
  · exact effAddr_canon h
  · exact effAddr_canon h

theorem waitAll_canon {w : Wait} (h : Canon m) : Canon (waitAll e w c m) :=
  foldl_canon h (fun _ _ h => h)

theorem barBody_canon {h' : Hdr} {o : FA} (h : Canon m) : Canon (barBody h' o e c m).m :=
  waitAll_canon h

theorem bscBody_canon {h' : Hdr} {o : FA} (h : Canon m) : Canon (bscBody h' o e c m).m :=
  waitAll_canon h

theorem arrBody_canon {o : FA} {rel : Bool} {f : Nat → Nat → Body} (h : Canon m) : Canon (arrBody o rel f e c m).m := by
  unfold arrBody
  dsimp only
  split
  · split <;> exact readOp_wf _ _ _ _ _ (readOp_wf _ _ _ _ _ h)
  · exact readOp_wf _ _ _ _ _ (readOp_wf _ _ _ _ _ h)
  · exact readOp_wf _ _ _ _ _ (readOp_wf _ _ _ _ _ h)

theorem awtBody_canon {h' : Hdr} {o : FA} (h : Canon m) : Canon (awtBody h' o e c m).m := by
  unfold awtBody
  dsimp only
  split
  · exact waitMon_canon (readOp_wf _ _ _ _ _ (readOp_wf _ _ _ _ _ h))
  · exact readOp_wf _ _ _ _ _ (readOp_wf _ _ _ _ _ h)
  · exact readOp_wf _ _ _ _ _ (readOp_wf _ _ _ _ _ h)

theorem waitSet_canon {w : Wait} (h : Canon m) : Canon (waitSet e w c m).2 :=
  foldl_canon h (fun _ _ h => h)

theorem qpushBody_canon {o : FA} (h : Canon m) : Canon (qpushBody o e c m).m := by
  unfold qpushBody
  dsimp only
  split
  · exact h
  · exact waitSet_canon h

theorem qpopBody_canon {h' : Hdr} {o : FA} (h : Canon m) : Canon (qpopBody h' o e c m).m := by
  unfold qpopBody
  dsimp only
  split
  · exact h
  · exact waitSet_canon h

theorem lendBody_canon {o : FA} (h : Canon m) : Canon (lendBody o e c m).m := by
  unfold lendBody
  dsimp only
  split
  · exact h
  · exact foldl_canon h (fun _ _ h => h)

theorem claimBody_canon {o : FA} (h : Canon m) : Canon (claimBody o e c m).m := by
  unfold claimBody
  dsimp only
  split
  · exact h
  · exact foldl_canon h (fun _ _ h => h)

theorem sendBody_canon {o : FA} (h : Canon m) : Canon (sendBody o e c m).m := by
  unfold sendBody
  dsimp only
  split
  · exact readOp_wf _ _ _ _ _ h
  · split <;> exact readOp_wf _ _ _ _ _ h

end Sys2Proof.Machine
end

section
/-! SUPPORT. Copies, retrieval, sealing, tiles and records: what an issue of them does to the memory (09 R261 to R293). -/
namespace Sys2Proof.Machine
open Sys2Proof

variable {e : Env} {c : Ctx} {m : Mach} {s : State}

theorem noteCard_canon {handle : Nat} (h : Canon m) : Canon (noteCard e m c handle) := by
  unfold noteCard
  split <;> exact h

theorem dropCards_canon (h : Canon m) : Canon (dropCards m) := by
  unfold dropCards
  refine foldl_canon h (fun _ _ h => ?_)
  split
  split <;> exact h

theorem engRead_canon {sa n : Nat} (h : Canon m) : Canon (engRead e m c sa n).1 := by
  unfold engRead
  refine foldl_on_canon Prod.fst h (fun _ _ h => ?_)
  dsimp only
  split
  · exact h
  · exact genPoison_wf _ _ _ _ _ _ _ h

theorem retrPiece_canon {cl : Nat} {acc : Mach × List Byte} {p : Nat × Nat} (h : Canon acc.1) : Canon (retrPiece cl acc p).1 :=
  fillRetr_canon h

theorem retrRead_canon {a : Int} {n : Nat} (h : Canon m) : OkCanon Prod.fst (retrRead e c m a n) := by
  unfold retrRead
  dsimp only
  split
  · trivial
  · split
    · trivial
    · exact foldl_on_canon Prod.fst h (fun _ _ h => retrPiece_canon h)

theorem findPos_canon {aux t f k : Nat} (h : Canon m) : OkCanon Prod.fst (findPos e c aux t f k m) := by
  induction f generalizing k m with
  | zero => exact h
  | succ f ih =>
    unfold findPos
    split
    · trivial
    · rename_i hr
      have h1 := (retrRead_canon h).of_eq hr
      split
      · exact h1
      · split
        · exact h1
        · exact ih h1

theorem rowFind_canon {cd : Card} {row col lim : Nat} (h : Canon m) : OkCanon Prod.fst (rowFind e c cd row col lim m) := by
  unfold rowFind
  split
  · trivial
  · rename_i hr
    have h1 := (retrRead_canon h).of_eq hr
    split
    · trivial
    · rename_i hr
      have h2 := (retrRead_canon h1).of_eq hr
      exact okCanon_ite h2 (findPos_canon h2)

theorem locate_canon {cd : Card} {ek : EKind} {w : Nat} {idx : List Nat} (h : Canon m) : OkCanon Prod.fst (locate e c cd ek w idx m) := by
  unfold locate
  dsimp only
  refine okCanon_ite h ?_
  split
  · exact h
  · split
    · trivial
    · rename_i hr
      exact (rowFind_canon h).of_eq hr
    · rename_i hr
      exact (rowFind_canon h).of_eq hr
    · rename_i hr
      exact (rowFind_canon h).of_eq hr
  · split
    · trivial
    · rename_i hr
      exact (rowFind_canon h).of_eq hr
    · rename_i hr
      exact (rowFind_canon h).of_eq hr
    · rename_i hr
      have h1 := (rowFind_canon h).of_eq hr
      exact okCanon_ite h1 h1
  · split
    · trivial
    · rename_i hr
      exact (retrRead_canon h).of_eq hr
    · rename_i hr
      have h1 := (retrRead_canon h).of_eq hr
      split <;> exact h1
  · exact h
  · exact okCanon_ite h h

theorem badElem_canon {ek : EKind} {cvt : Bool} {kind : Nat} (h : Canon m) : Canon (badElem e m c ek cvt kind).1 :=
  genPoison_wf _ _ _ _ _ _ _ h

theorem kvzSettle_canon {md : RMode} {base step : Nat} {v : XVal} (h : Canon m) : Canon (kvzSettle e m c md base step v).1 :=
  settleF_canon h

theorem wideElem_canon {t : NTy} {cvt : Bool} {md : RMode} {kv : Option (Nat × Nat)} {n : Nat} (h : Canon m) : Canon (wideElem e m c t cvt md kv n).1 := by
  unfold wideElem
  dsimp only
  split
  · exact h
  · split
    · exact h
    · split
      · exact convPoison_canon h
      · split
        · exact kvzSettle_canon h
        · exact h

theorem narrowElem_canon {f : NFmt} {k sc n j : Nat} {cvt : Bool} {md : RMode} {kv : Option (Nat × Nat)} (h : Canon m) :
    OkCanon Prod.fst (narrowElem e m c f k sc n j cvt md kv) := by
  unfold narrowElem
  dsimp only
  split
  · trivial
  · exact h
  · split
    · exact poisonVal_wf _ _ _ _ _ _ _ _ h
    · exact h
  · split
    · exact h
    · split
      · exact kvzSettle_canon h
      · exact h

theorem kvzPair_canon {cd : Card} {i1 : Nat} (h : Canon m) : OkCanon Prod.fst (kvzPair e c cd i1 m) := by
  unfold kvzPair
  split
  · split
    · trivial
    · rename_i hr
      exact (retrRead_canon h).of_eq hr
  · exact h

theorem deliver_canon {cd : Card} {ek : EKind} {cvt : Bool} {md : RMode} {idx : List Nat} (h : Canon m) : OkCanon Prod.fst (deliver e c cd ek cvt md idx m) := by
  unfold deliver
  dsimp only
  split
  · trivial
  · rename_i hl
    exact (locate_canon h).of_eq hl
  · rename_i hl
    exact badElem_canon ((locate_canon h).of_eq hl)
  · rename_i hl
    have h1 := (locate_canon h).of_eq hl
    split
    · trivial
    · rename_i hk
      exact badElem_canon (canon_of_ite_ok hk (kvzPair_canon h1) h1)
    · rename_i hk
      have h2 := canon_of_ite_ok hk (kvzPair_canon h1) h1
      split
      · split
        · trivial
        · rename_i hr
          exact badElem_canon ((retrRead_canon h2).of_eq hr)
        · rename_i hr
          exact wideElem_canon ((retrRead_canon h2).of_eq hr)
      · split
        · trivial
        · rename_i hr
          have h3 := (retrRead_canon h2).of_eq hr
          split
          · trivial
          · rename_i hr
            have h4 := (retrRead_canon h3).of_eq hr
            split
            · exact badElem_canon h4
            · exact narrowElem_canon h4
            · exact h4
      · exact h2

theorem rfetElems_canon {cd : Card} {ek : EKind} {cvt : Bool} {md : RMode} {idx : List Nat} {f i : Nat} (h : Canon m) :
    Canon (rfetElems e c cd ek cvt md idx f i m).1 := by
  induction f generalizing i m with
  | zero => exact h
  | succ f ih =>
    unfold rfetElems
    split
    · exact h
    · rename_i hr
      exact ih ((deliver_canon h).of_eq hr)

theorem retrStop_canon {tm : Nat} {wr : List RegWr} {toks : List TokRef} {none_ : Bool} {out : Out} (h : Canon m) : Canon (retrStop c m tm wr toks none_ out).m := by
  unfold retrStop
  split
  · exact h
  · exact partToks_canon h

theorem rfetBody_canon {o : FE} (h : Canon m) : Canon (rfetBody o e c m).m := by
  unfold rfetBody
  dsimp only
  split
  · exact h
  · split
    · split
      · exact h
      · split
        · exact replayToks_canon (rfetElems_canon (noteCard_canon h))
        · exact retrStop_canon (rfetElems_canon (noteCard_canon h))
    · split
      · exact h
      · split
        · exact replayToks_canon (rfetElems_canon (noteCard_canon h))
        · exact retrStop_canon (rfetElems_canon (noteCard_canon h))

theorem rfettRow_canon {cd : Card} {ek : EKind} {cvt : Bool} {md : RMode} {idx : List Nat} {f j : Nat} (h : Canon m) :
    OkCanon Prod.fst (rfettRow e c cd ek cvt md idx f j m) := by
  induction f generalizing j m with
  | zero => exact h
  | succ f ih =>
    unfold rfettRow
    split
    · trivial
    · rename_i hr
      have h1 := (deliver_canon h).of_eq hr
      split
      · trivial
      · rename_i hr'
        have h2 := (ih h1).of_eq hr'
        exact h2

theorem rfettRows_canon {cd : Card} {ek : EKind} {cvt : Bool} {md : RMode} {idx : List Nat} {cols f i : Nat} (h : Canon m) :
    Canon (rfettRows e c cd ek cvt md idx cols f i m).1 := by
  induction f generalizing i m with
  | zero => exact h
  | succ f ih =>
    unfold rfettRows
    split
    · exact h
    · rename_i hr
      exact ih ((rfettRow_canon h).of_eq hr)

theorem rfettBody_canon {o : FE} (h : Canon m) : Canon (rfettBody o e c m).m := by
  unfold rfettBody
  dsimp only
  split
  · exact h
  · split
    · exact h
    · split
      · exact h
      · split
        · exact h
        · split
          · exact replayToks_canon (rfettRows_canon (noteCard_canon h))
          · exact retrStop_canon (rfettRows_canon (noteCard_canon h))

theorem csealBody_canon {o : FE} (h : Canon m) : Canon (csealBody o e c m).m := by
  unfold csealBody
  dsimp only
  split <;> exact readOp_wf _ _ _ _ _ h

theorem addSlice_canon {team ch : Nat} {x0 : Chan} {key g : Nat} {l : List Nat} {toks : List TokRef} (h : Canon m) : Canon (addSlice m team ch x0 key g l toks) :=
  foldl_on_canon Prod.fst h (fun _ _ h => h)

theorem cpyBody_canon {o : FE} (h : Canon m) : Canon (cpyBody o e c m).m := by
  unfold cpyBody
  dsimp only
  split
  · split
    · exact engRead_canon h
    · exact addSlice_canon (engRead_canon h)
  · exact h
  · exact h

theorem cpymBody_canon {o : FE} (h : Canon m) : Canon (cpymBody o e c m).m := by
  unfold cpymBody
  dsimp only
  split
  · exact h
  · split
    · split <;> exact h
    · exact h

theorem postBody_canon {h' : Hdr} {o : FA} {sparse : Bool} (h : Canon m) : Canon (postBody h' o sparse e c m).m := by
  unfold postBody
  dsimp only
  split
  · split
    · exact h
    · split
      · exact h
      · split
        · exact h
        · split <;> exact h
  · split
    · exact h
    · split
      · exact h
      · split
        · exact h
        · split <;> exact h

theorem tzroBody_canon {o : FA} (h : Canon m) : Canon (tzroBody o e c m).m := by
  unfold tzroBody
  dsimp only
  split <;> exact h

theorem tmovBody_canon {o : FA} (h : Canon m) : Canon (tmovBody o e c m).m := by
  unfold tmovBody
  dsimp only
  split <;> exact h

theorem trmxGetBody_canon {h' : Hdr} {o : FA} (h : Canon m) : Canon (trmxGetBody h' o e c m).m := by
  unfold trmxGetBody
  dsimp only
  split <;> exact h

theorem trmxPutBody_canon {o : FA} (h : Canon m) : Canon (trmxPutBody o e c m).m := by
  unfold trmxPutBody
  dsimp only
  split
  · exact h
  · split <;> exact h

theorem kbndVal_canon {o : FA} (h : Canon m) : Canon (kbndVal e c o m).1 := by
  unfold kbndVal
  dsimp only
  split
  · exact h
  · split
    · exact carryPoison_canon h
    · split
      · exact h
      · split
        · exact h
        · split
          · exact h
          · split
            · rename_i hr
              exact (ebndAdd_canon h).of_eq hr
            · exact h

theorem kbndBody_canon {h' : Hdr} {o : FA} (h : Canon m) : Canon (kbndBody h' o e c m).m := by
  unfold kbndBody
  dsimp only
  split
  · exact h
  · split
    · exact h
    · exact kbndVal_canon h

theorem withGraph_canon {k : Nat → BRes} (h : Canon m) (hf : ∀ a0, Canon (k a0).m) : Canon (withGraph m c k).m := by
  unfold withGraph
  split
  · exact hf _
  · exact h

theorem ralcBody_canon {o : FA} (h : Canon m) : Canon (ralcBody o e c m).m := by
  unfold ralcBody
  refine withGraph_canon h (fun _ => ?_)
  dsimp only
  split <;> exact h

theorem rputBody_canon {o : FA} {isIn : Bool} (h : Canon m) : Canon (rputBody o isIn e c m).m :=
  withGraph_canon h (fun _ => h)

theorem rgetBody_canon {h' : Hdr} {o : FA} (h : Canon m) : Canon (rgetBody h' o e c m).m := by
  unfold rgetBody
  refine withGraph_canon h (fun _ => ?_)
  dsimp only
  split
  · exact h
  · split <;> exact readOp_wf _ _ _ _ _ h

theorem rdonBody_canon (h : Canon m) : Canon (rdonBody e c m).m := by
  unfold rdonBody
  refine withGraph_canon h (fun _ => ?_)
  dsimp only
  split <;> exact h

theorem rsdBody_canon {o : FA} (h : Canon m) : Canon (rsdBody o e c m).m := by
  unfold rsdBody
  refine withGraph_canon h (fun g => ?_)
  have hw := readOp_wf e _ c .f32 o.sb (readOp_wf e m c .n32 o.sa h)
  dsimp only
  generalize readOp e (readOp e m c .n32 o.sa).1 c .f32 o.sb = w at hw ⊢
  split <;> exact hw

theorem postBodyOf_canon {o : FA} (h : Canon m) : Canon (postBodyOf o e c m).m := by
  unfold postBodyOf
  dsimp only
  split
  · exact h
  · exact readOp_wf _ _ _ _ _ h

theorem snapBody_canon {h' : Hdr} {o : FA} (h : Canon m) : Canon (snapBody h' o e c m).m := by
  unfold snapBody
  dsimp only
  split
  · exact h
  · split <;> exact readOp_wf _ _ _ _ _ h

end Sys2Proof.Machine
end

section
/-! SUPPORT. Reads that deliver poison, contraction and the system instructions keep the memory canonical (05 R146, 09 R298 to R302, 16 R372 to R383). -/
namespace Sys2Proof.Machine
open Sys2Proof

variable {e : Env} {c : Ctx} {m : Mach} {s : State}

theorem loadAs_canon {kind : Option Nat} {sa n va : Nat} (h : Canon m) : Canon (loadAs e m c kind sa n va).1 := by
  unfold loadAs
  dsimp only
  split
  · exact h
  · exact genPoison_wf _ _ _ _ _ _ _ h

theorem loadChk_canon {sa n va : Nat} (h : Canon m) : Canon (loadChk e m c sa n va).1 :=
  loadAs_canon h

theorem evPoison_canon {a : EV} (h : Canon m) : Canon (evPoison e m c a).1 := by
  unfold evPoison
  split
  · exact h
  · exact poisonVal_wf _ _ _ _ _ _ _ _ h
  · exact poisonVal_wf _ _ _ _ _ _ _ _ h

theorem accF_canon {acc : Nat} {l : List (EV × EV)} (h : Canon m) : Canon (accF e m c acc l).1 := by
  unfold accF
  split
  · exact evPoison_canon h
  · split
    · exact carryPoison_canon h
    · split
      · exact h
      · exact poisonVal_wf _ _ _ _ _ _ _ _ h

theorem tolerate_canon {graph : Nat} {mode : Word} {isInt : Bool} {accs : List Nat} (h : Canon m) : SomeCanon Prod.fst (tolerate m graph mode isInt accs) :=
  SomeCanon.map (ebndAdd_canon h) (fun _ => rfl)

theorem replayPass_canon {row : Nat → Nat} {accs : List Nat} (h : Canon m) : Canon (replayPass e m c row accs).m := by
  unfold replayPass
  dsimp only
  split
  · exact h
  · refine foldl_on_canon Prod.fst h (fun _ _ h => ?_)
    split
    · dsimp only
      exact poisonVal_wf _ _ _ _ _ _ _ _ h
    · exact h

theorem passOutcome_canon {k : Nat} {mode : Word} {isInt : Bool} {row : Nat → Nat} {accs : List Nat} (h : Canon m) :
    Canon (passOutcome e m c k mode isInt row accs).m := by
  have hn : Canon { m with free := m.free + 1 } := h
  unfold passOutcome
  split
  · exact h
  · split
    · split
      · split
        · rename_i hr
          exact (tolerate_canon hn).of_eq hr
        · exact replayPass_canon hn
      · exact replayPass_canon hn
    · exact replayPass_canon hn

theorem xconBody_canon {o : FE} (h : Canon m) : Canon (xconBody o e c m).m := by
  unfold xconBody
  dsimp only
  split
  · exact h
  · split
    · exact h
    · split
      · exact h
      · split
        · exact engRead_canon h
        · exact engRead_canon h
        · exact engRead_canon h
        · split
          · exact engRead_canon h
          · split
            · exact engRead_canon h
            · exact foldl_canon (engRead_canon h) (fun _ _ h => noteCard_canon h)
      · exact h

theorem xElem_canon {cd : Card} {fm : List Word} {md : RMode} {idx : List Nat} (h : Canon m) : OkCanon Prod.fst (xElem e c cd fm md idx m) := by
  unfold xElem
  dsimp only
  split
  · trivial
  · rename_i hl
    exact (locate_canon h).of_eq hl
  · rename_i hl
    exact (locate_canon h).of_eq hl
  · rename_i hl
    have h1 := (locate_canon h).of_eq hl
    split
    · trivial
    · rename_i hk
      have h2 := (kvzPair_canon h1).of_eq hk
      split
      · exact genPoison_wf _ _ _ _ _ _ _ h2
      · split
        · trivial
        · rename_i hr
          exact genPoison_wf _ _ _ _ _ _ _ ((retrRead_canon h2).of_eq hr)
        · rename_i hr
          have h3 := (retrRead_canon h2).of_eq hr
          show Canon _
          split
          · exact kvzSettle_canon h3
          · exact h3
      · split
        · trivial
        · rename_i hr
          have h3 := (retrRead_canon h2).of_eq hr
          split
          · trivial
          · rename_i hr
            have h4 := (retrRead_canon h3).of_eq hr
            split
            · exact genPoison_wf _ _ _ _ _ _ _ h4
            · show Canon _
              split
              · exact kvzSettle_canon h4
              · exact h4
            · exact h4
      · exact h2

theorem xPairs_canon {x : XCon} {ca cb : Card} {md : RMode} {t : List (Nat × Nat)} {ks : List (List (Nat × Nat))} {p : XPairs} (h : Canon p.m) :
    OkCanon XPairs.m (xPairs e c x ca cb md t ks p) := by
  induction ks generalizing p with
  | nil => exact h
  | cons k r ih =>
    unfold xPairs
    split
    · trivial
    · rename_i ha
      have h1 := (xElem_canon h).of_eq ha
      split
      · trivial
      · rename_i hb
        exact ih ((xElem_canon h1).of_eq hb)

theorem xStart_canon {x : XCon} {cc : Card} {t : List (Nat × Nat)} (h : Canon m) : OkCanon Prod.fst (xStart e c x cc t m) := by
  unfold xStart
  dsimp only
  refine okCanon_ite h ?_
  split
  · trivial
  · rename_i b hr
    have h1 := (retrRead_canon h).of_eq hr
    cases b with
    | none => exact okCanon_ite (canon_fst_ite (convPoison_canon h1) h1) h1
    | some kind =>
      have h2 := genPoison_wf e _ c.g c.lane c.pc kind 0 h1
      exact okCanon_ite (canon_fst_ite (convPoison_canon h2) h2) h2

theorem xStarts_canon {x : XCon} {cc : Card} {ts : List (List (Nat × Nat))} (h : Canon m) : OkCanon Prod.fst (xStarts e c x cc ts m) := by
  induction ts generalizing m with
  | nil => exact h
  | cons t r ih =>
    unfold xStarts
    split
    · trivial
    · rename_i hr
      have h1 := (xStart_canon h).of_eq hr
      split
      · trivial
      · rename_i hr'
        have h2 := (ih h1).of_eq hr'
        exact h2

theorem xStep_canon {isInt : Bool} {acc : Nat} {l : List (EV × EV)} (h : Canon m) : Canon (xStep e c isInt m acc l).1 := by
  unfold xStep
  dsimp only
  split
  · exact h
  · split
    · exact h
    · exact evPoison_canon h
    · exact h
    · exact evPoison_canon h
    · exact accF_canon h

theorem xChunk_canon {x : XCon} {ca cb : Card} {md : RMode} {ks : List (List (Nat × Nat))} {accs : List (List (Nat × Nat) × Nat)} (h : Canon m) :
    OkCanon Prod.fst (xChunk e c x ca cb md ks accs m) := by
  induction accs generalizing m with
  | nil => exact h
  | cons a r ih =>
    unfold xChunk
    split
    · trivial
    · rename_i hr
      have h1 := (xPairs_canon h).of_eq hr
      dsimp only
      split
      · trivial
      · rename_i hr'
        have h2 := (ih (xStep_canon h1)).of_eq hr'
        exact h2

theorem xOut_canon {ty : NTy} {md : RMode} {n : Nat} (h : Canon m) : Canon (xOut e m c ty md n).1 := by
  unfold xOut
  split
  · split
    · exact convPoison_canon h
    · exact h
  · exact h

theorem xFinal_canon {x : XCon} (h : Canon m) : Canon (xFinal e c x m).1 :=
  foldl_on_canon Prod.fst h (fun _ _ h => xOut_canon h)

theorem xPass_canon {x : XCon} {cl : Nat} (h : Canon m) : Canon (xPass e c x cl m).m :=
  passOutcome_canon h

theorem sendStop_canon {team : Nat} (h : Canon m) : Canon (sendStop e m team) := by
  unfold sendStop
  split <;> exact h

theorem brkBody_canon {o : FS} (h : Canon m) : Canon (brkBody o e c m).m :=
  sendStop_canon h

theorem startAt_canon {pc : Nat} (h : Canon m) : Canon (startAt e m c pc).1 := by
  unfold startAt
  dsimp only
  split
  · exact h
  · split
    · split <;> exact fetchLine_canon h
    · exact fetchLine_canon h
    · exact fetchLine_canon h
    · exact fetchLine_canon h
    · exact fetchLine_canon h

theorem tretFrom_canon {spc : Nat} {r : Mach × Option Out} (h : Canon r.1) : Canon (tretFrom e c spc r).m := by
  unfold tretFrom
  split
  · exact doubleFault_canon h
  · split <;> exact h
  · exact h

theorem tretBody_canon (h : Canon m) : Canon (tretBody e c m).m :=
  tretFrom_canon (startAt_canon h)

theorem tresWBody_canon {o : FS} (h : Canon m) : Canon (tresWBody o e c m).m := by
  unfold tresWBody
  dsimp only
  split
  · split <;> exact readOp_wf _ _ _ _ _ h
  · exact readOp_wf _ _ _ _ _ h

theorem plcwBody_canon {o : FS} (h : Canon m) : Canon (plcwBody o e c m).m := by
  unfold plcwBody
  dsimp only
  split
  · exact h
  · exact readOp_wf _ _ _ _ _ h

theorem diagBody_canon {o : FS} (h : Canon m) : Canon (diagBody o e c m).m := by
  unfold diagBody
  dsimp only
  split <;> exact h

theorem xinvBody_canon {o : FS} (h : Canon m) : Canon (xinvBody o e c m).m := by
  unfold xinvBody
  dsimp only
  split
  · exact h
  · split <;> exact h

theorem swapBody_canon {o : FS} (h : Canon m) : Canon (swapBody o e c m).m :=
  suspendTeam_canon (readOp_wf _ _ _ _ _ h)

theorem fcalBody_canon {o : FS} (h : Canon m) : Canon (fcalBody o e c m).m :=
  foldl_canon (readOp_wf _ _ _ _ _ h) (fun _ _ h => h)

end Sys2Proof.Machine
end

section
/-! SUPPORT. Messages at their homes, the stores of threads and loop nests: the writers of memory keep it canonical (03 R86, 04 R108 to R124, 09 R294 to R297). -/
namespace Sys2Proof.Machine
open Sys2Proof

variable {e : Env} {c : Ctx} {m : Mach} {s : State}

theorem useBanks_canon {x : Msg} (h : Canon m) : Canon (useBanks e m x) := by
  unfold useBanks
  split <;> exact h

theorem mergeClocks_canon {x : Msg} (h : Canon m) : Canon (mergeClocks m x) := by
  unfold mergeClocks
  dsimp only
  split <;> exact h

theorem gain_canon {x : Msg} {l : List (Nat × List Nat)} (h : Canon m) : Canon (gain m x l) := by
  unfold gain
  dsimp only
  split
  · exact h
  · split
    · split
      · exact h
      · exact foldl_canon h (fun _ _ h => h)
    · split
      · exact h
      · exact foldl_canon h (fun _ _ h => h)

theorem viewPart_canon {x : Msg} {acc : Mach × Option Memory} {rs : List (Nat × Nat)} (h : Canon acc.1) : Canon (viewPart x acc rs).1 := by
  unfold viewPart
  dsimp only
  split <;> exact gain_canon h

theorem viewRead_canon {x : Msg} {rs : List (Nat × Nat)} (h : Canon m) : Canon (viewRead m x rs).1 := by
  unfold viewRead
  dsimp only
  split
  · exact viewPart_canon h
  · exact foldl_on_canon Prod.fst h (fun _ _ h => viewPart_canon h)

/-- A read that misses earlier writes is made on a copy; the memory itself is put back (04 R112). -/
theorem asSeen_canon {α : Type} {v : Mach × Option Memory} {f : Mach → Mach × α} (h : Canon v.1) (hf : ∀ a0, Canon a0 → Canon (f a0).1) : Canon (asSeen v f).1 := by
  unfold asSeen
  dsimp only
  split
  · exact hf _ h
  · exact h

theorem notePast_canon {m0 : Mach} {x : Msg} (h : Canon m) : Canon (notePast e m0 m x) := by
  unfold notePast
  dsimp only
  split <;> exact h

theorem dropPast_canon (h : Canon m) : Canon (dropPast e m) := by
  unfold dropPast
  split <;> exact h

theorem dropAcks_canon (h : Canon m) : Canon (dropAcks e m) := by
  unfold dropAcks
  split <;> exact h

theorem attend_canon {x : Msg} (h : Canon m) : Canon (attend m x) := by
  unfold attend
  dsimp only
  split
  · exact gain_canon h
  · exact h

theorem markFar_canon {x : Msg} (h : Canon m) : Canon (markFar m x) := by
  unfold markFar
  dsimp only
  split <;> exact h

theorem respond_canon {x : Msg} {wr : List RegWr} (h : Canon m) : Canon (respond e m x wr) :=
  closePart_canon (mergeClocks_canon h)

theorem respondHere_canon {x : Msg} (h : Canon m) : Canon (respondHere e m x) :=
  closePart_canon (mergeClocks_canon h)

theorem loadWords_canon {sa n : Nat} {sx : Bool} {va : Nat} (h : Canon m) : Canon (loadWords e m c sa n sx va).1 := by
  unfold loadWords
  dsimp only
  split
  · exact loadChk_canon h
  · split
    · exact loadChk_canon h
    · split
      · exact h
      · exact genPoison_wf _ _ _ _ _ _ _ h

theorem tileElemIn_canon {sa eb teb va : Nat} (h : Canon m) : Canon (tileElemIn e m c sa eb teb va).1 := by
  unfold tileElemIn
  dsimp only
  split
  · exact h
  · exact genPoison_wf _ _ _ _ _ _ _ h

theorem tileRun_canon {core k stride eb teb va : Nat} {acc : Mach × List RegWr} {r : Nat × Nat × Nat} (h : Canon acc.1) :
    Canon (tileRun e c core k stride eb teb va acc r).1 := by
  unfold tileRun
  dsimp only
  split
  · exact h
  · exact foldl_on_canon Prod.fst h (fun _ _ h => tileElemIn_canon h)

theorem performAtom_canon {x : Msg} {sa op : Nat} {ty : NTy} {b : Dword} {dst : Option Opnd} {g lane pc va : Nat} (h : Canon m) :
    Canon (performAtom e m x sa op ty b dst g lane pc va) := by
  unfold performAtom
  dsimp only
  split
  · exact respond_canon (threadStore_wf _ _ _ _ (atomVal_canon (loadChk_canon h)))
  · exact mergeClocks_canon (threadStore_wf _ _ _ _ (atomVal_canon (loadChk_canon h)))

theorem performCas_canon {x : Msg} {sa w : Nat} {ex new : Dword} {dst : Opnd} {pc va : Nat} (h : Canon m) : Canon (performCas e m x sa w ex new dst pc va) := by
  unfold performCas
  refine respond_canon ?_
  split
  · exact threadStore_wf _ _ _ _ (loadChk_canon h)
  · exact loadChk_canon h

theorem testMon_canon {r : TRef} (h : Canon m) : Canon (testMon e m r) := by
  unfold testMon
  dsimp only
  split
  · split <;> exact h
  · exact h

theorem monScan_canon (h : Canon m) : Canon (monScan e m) :=
  foldl_canon h (fun _ _ h => testMon_canon h)

theorem armAt_canon {x : Msg} {sn : Nat} (h : Canon m) : Canon (armAt e m x sn) := by
  unfold armAt
  split
  · exact h
  · split
    · split
      · exact testMon_canon h
      · exact h
    · exact h

theorem setQueue_canon {sa : Nat} {q : List TRef} (h : Canon m) : Canon (setQueue e m sa q) :=
  storeAt_wf _ _ _ _ h

theorem linkQueue_canon {sa : Nat} {r : TRef} (h : Canon m) : Canon (linkQueue e m sa r) := by
  unfold linkQueue
  split
  · exact h
  · split
    · exact setQueue_canon h
    · split
      · exact h
      · exact setQueue_canon h

theorem wakeQueue_canon {x : Msg} {sa n : Nat} (h : Canon m) : Canon (wakeQueue e m x sa n) := by
  unfold wakeQueue
  dsimp only
  split
  · exact h
  · refine foldl_canon (setQueue_canon h) (fun _ _ h => ?_)
    refine closePart_canon ?_
    split <;> exact h

theorem queueSet_canon {sa head tail count : Nat} (h : Canon m) : Canon (queueSet m sa head tail count) :=
  storeAt_wf _ _ _ _ h

theorem pushQueue_canon {sa team k : Nat} {x : Dword} (h : Canon m) : Canon (pushQueue m sa team k x) :=
  queueSet_canon (storeAt_wf _ _ _ _ h)

theorem popQueue_canon {sa team k va : Nat} (h : Canon m) : Canon (popQueue e c m sa team k va).1 :=
  queueSet_canon (loadChk_canon h)

theorem ringAppend_canon {core off sender kind sseq : Nat} {payload : List Byte} (h : Canon m) : Canon (ringAppend e m core off sender kind sseq payload) :=
  storeAt_wf _ _ _ _ (storeAt_wf _ _ _ _ h)

theorem ringRefuse_canon {core off : Nat} (h : Canon m) : Canon (ringRefuse e m core off) :=
  storeAt_wf _ _ _ _ h

theorem ringMessage_canon {core k sender : Nat} {payload : List Byte} (h : Canon m) : Canon (ringMessage e m core k sender payload).1 := by
  unfold ringMessage
  dsimp only
  split
  · exact h
  · split
    · exact h
    · split
      · exact ringAppend_canon h
      · split
        · exact h
        · exact ringRefuse_canon h

theorem appendMarker_canon {core k : Nat} (h : Canon m) : Canon (appendMarker e m core k) := by
  unfold appendMarker
  dsimp only
  split
  · exact ringAppend_canon h
  · exact h

theorem writeNi_canon {core reg : Nat} {x : Word} (h : Canon m) : Canon (writeNi m core reg x) := by
  unfold writeNi
  split
  · exact h
  · split
    · exact h
    · split <;> exact h

theorem sealCard_canon {sa : Nat} (h : Canon m) : Canon (sealCard m sa).1 :=
  storeAt_wf _ _ _ _ h

theorem packetDone_canon {x : Msg} {copy idx n : Nat} (h : Canon m) : Canon (packetDone e m x copy idx n) := by
  unfold packetDone
  dsimp only
  split
  · exact h
  · exact foldl_canon h (fun _ _ h => h)

theorem hostMark_canon {sa n : Nat} {ep : Bool} (h : Canon m) : Canon (hostMark m sa n ep) := by
  unfold hostMark
  split <;> exact h

/-- What a message does at its home: a store, an atomic, a packet, a word of a queue or ring. -/
theorem performBody_canon {x : Msg} (h : Canon m) : Canon (performBody e m x) := by
  unfold performBody
  dsimp only
  split
  · exact respond_canon (asSeen_canon (viewRead_canon h) (fun _ h => loadWords_canon h))
  · exact respond_canon (asSeen_canon (viewRead_canon h) (fun _ h => foldl_on_canon Prod.fst h (fun _ _ h => tileRun_canon h)))
  · refine respondHere_canon ?_
    split
    · refine threadStore_wf _ _ _ _ ?_
      split <;> exact h
    · exact foldl_canon h (fun _ _ h => storeAt_wf _ _ _ _ h)
  · exact packetDone_canon (mergeClocks_canon (hostMark_canon (storeAt_wf _ _ _ _ h)))
  · exact performAtom_canon (attend_canon h)
  · exact performCas_canon (attend_canon h)
  · exact respond_canon h
  · exact respond_canon (armAt_canon h)
  · split
    · exact linkQueue_canon (mergeClocks_canon h)
    · exact h
  · exact respond_canon (wakeQueue_canon (mergeClocks_canon h))
  · exact respond_canon (storeAt_wf _ _ _ _ h)
  · split
    · exact respond_canon (storeAt_wf _ _ _ _ h)
    · exact mergeClocks_canon (storeAt_wf _ _ _ _ h)
  · exact closePart_canon (mergeClocks_canon (pushQueue_canon h))
  · exact closePart_canon (mergeClocks_canon (popQueue_canon (attend_canon h)))
  · exact respond_canon (ringMessage_canon h)
  · exact respond_canon (sealCard_canon h)
  · exact respond_canon (asSeen_canon (viewRead_canon h) (fun _ h => loadWords_canon h))
  · exact mergeClocks_canon (storeAt_wf _ _ _ _ h)
  · exact respondHere_canon h
  · exact mergeClocks_canon (asSeen_canon (viewRead_canon h) (fun _ h => h))
  · exact respond_canon (writeNi_canon h)
  · exact respond_canon h
  · exact respond_canon h
  · exact h

theorem linkRead_canon {x : Msg} (h : Canon m) : Canon (linkRead e m x) :=
  performBody_canon h

theorem performMsg_canon {x : Msg} (h : Canon m) : Canon (performMsg e m x) := by
  unfold performMsg
  split
  · exact linkRead_canon h
  · exact performBody_canon h

theorem noteBad_canon {rs : List (Nat × Nat)} (h : Canon m) : Canon (noteBad m rs) := by
  unfold noteBad
  dsimp only
  split
  · exact h
  · refine foldl_canon h (fun _ _ h => ?_)
    split <;> exact h

theorem seeNow_canon {sa n : Nat} (h : Canon m) : Canon (seeNow m c sa n) := by
  unfold seeNow
  dsimp only
  split
  · exact h
  · exact foldl_canon h (fun _ _ h => h)

theorem storeNow_canon {sa : Nat} {data : List Byte} (h : Canon m) : Canon (storeNow e m c sa data) := by
  have h1 := threadStore_wf e m [(sa, data)] false h
  unfold storeNow
  generalize threadStore e m [(sa, data)] false = m1 at h1 ⊢
  dsimp only
  split
  · exact h
  · refine monScan_canon ?_
    split <;> exact h1

theorem lRead_canon {n : Nat} {a : Int} (h : Canon m) : OkCanon Prod.fst (lRead e c n m a) := by
  unfold lRead
  split
  · exact loadAs_canon (seeNow_canon h)
  · trivial
  · trivial

theorem nestOp_canon {ty : NTy} {nop a b d : Nat} (h : Canon m) : Canon (nestOp e c ty nop m a b d).1 := by
  unfold nestOp
  dsimp only
  split
  · exact h
  · split
    · split
      · exact settleF_canon h
      · exact settleF_canon h
      · exact settleF_canon h
      · exact h
      · exact h
      · exact settleF_canon h
    · exact h

theorem nestIter_canon {o : FL} {k : Nat} (h : Canon m) : OkCanon Prod.fst (nestIter e c o m k) := by
  unfold nestIter
  dsimp only
  split
  · trivial
  · rename_i hr
    have h1 := (lRead_canon h).of_eq hr
    split
    · trivial
    · rename_i hr
      have h2 := canon_of_ok_ite hr h1 (lRead_canon h1)
      split
      · trivial
      · rename_i hr
        exact nestOp_canon (canon_of_ite_ok hr (lRead_canon h2) h2)

theorem batchRead_canon {o : FL} {ks : List Nat} (h : Canon m) : OkCanon Prod.fst (batchRead e c o ks m) := by
  induction ks generalizing m with
  | nil => exact h
  | cons k r ih =>
    unfold batchRead
    split
    · trivial
    · rename_i hr
      have h1 := (nestIter_canon h).of_eq hr
      split
      · trivial
      · rename_i hr'
        have h2 := (ih h1).of_eq hr'
        exact h2

theorem batchWrite_canon {n : Nat} {l : List (Nat × Nat)} (h : Canon m) : Canon (batchWrite e c n m l) :=
  foldl_canon h (fun _ _ h => storeNow_canon h)

theorem nestGo_canon {o : FL} {f k : Nat} (h : Canon m) : Canon (nestGo e c o f k m).1 := by
  induction f generalizing k m with
  | zero => exact h
  | succ f ih =>
    unfold nestGo
    dsimp only
    split
    · exact h
    · split
      · exact h
      · rename_i hr
        have h1 := (batchRead_canon h).of_eq hr
        split
        · exact h
        · exact ih (batchWrite_canon h1)

theorem nestBody_canon {o : FL} (h : Canon m) : Canon (nestBody o e c m).m := by
  unfold nestBody
  dsimp only
  split
  · exact h
  · split <;> exact nestGo_canon h

theorem nredOp_canon {ty : NTy} {nop acc a b : Nat} (h : Canon m) : Canon (nredOp e c ty nop m acc a b).1 := by
  unfold nredOp
  dsimp only
  split
  · split
    · exact settleF_canon h
    · exact settleF_canon h
    · exact h
    · exact h
    · exact settleF_canon h
  · exact h

theorem nredInner_canon {o : FL} {f k acc : Nat} (h : Canon m) : OkCanon Prod.fst (nredInner e c o f k acc m) := by
  induction f generalizing k acc m with
  | zero => exact h
  | succ f ih =>
    unfold nredInner
    dsimp only
    split
    · trivial
    · rename_i hr
      have h1 := (lRead_canon h).of_eq hr
      split
      · trivial
      · rename_i hr
        exact ih (nredOp_canon (canon_of_ite_ok hr (lRead_canon h1) h1))

theorem nredTuple_canon {o : FL} {t : Nat} (h : Canon m) : OkCanon id (nredTuple e c o t m) := by
  unfold nredTuple
  dsimp only
  split
  · trivial
  · rename_i hr
    have h1 := (lRead_canon h).of_eq hr
    split
    · trivial
    · rename_i hr
      have h2 := (nredInner_canon h1).of_eq hr
      split
      · trivial
      · exact storeNow_canon h2

theorem nredGo_canon {o : FL} {f t : Nat} (h : Canon m) : Canon (nredGo e c o f t m).1 := by
  induction f generalizing t m with
  | zero => exact h
  | succ f ih =>
    unfold nredGo
    split
    · exact h
    · rename_i hr
      exact ih ((nredTuple_canon h).of_eq hr)

theorem nredBody_canon {o : FL} (h : Canon m) : Canon (nredBody o e c m).m := by
  unfold nredBody
  dsimp only
  split
  · exact h
  · split <;> exact nredGo_canon h

end Sys2Proof.Machine
end

section
/-! SUPPORT. Catalogues and context images keep the memory canonical (02 R44 to R76, 16 R386 to R393). -/
namespace Sys2Proof.Machine
open Sys2Proof

variable {e : Env} {c : Ctx} {m : Mach} {s : State}

theorem agentStore_canon {part va : Nat} {data : List Byte} (h : Canon m) : OkCanon id (agentStore e m part va data) := by
  unfold agentStore
  split
  · trivial
  · exact storeAt_wf _ _ _ _ h

theorem returnResv_canon {g : Nat} (h : Canon m) : Canon (returnResv m g) := by
  unfold returnResv
  dsimp only
  split <;> exact h

theorem recordArrives_canon {g : Nat} {data : List Byte} {slot : Nat} (h : Canon m) : Canon (recordArrives e m g data slot) := by
  unfold recordArrives
  dsimp only
  split
  · exact h
  · split <;> exact h

theorem postArrives_canon {g k : Nat} {w : Word} (h : Canon m) : Canon (postArrives e m g k w) := by
  unfold postArrives
  dsimp only
  split
  · exact h
  · split <;> exact h

theorem copyWindow_canon {core base size : Nat} {recs : List (List Byte)} (h : Canon m) : Canon (copyWindow e m core base size recs) :=
  foldl_canon h (fun _ _ h => storeAt_wf _ _ _ _ h)

theorem launchGroup_canon {g : Nat} {d : Disp} (h : Canon m) : Canon (launchGroup e m g d) :=
  copyWindow_canon h

theorem retire_canon {graph k g : Nat} (h : Canon m) : Canon (retire m graph k g) :=
  returnResv_canon h

theorem writeReport_canon {g mark : Nat} (h : Canon m) : Canon (writeReport e m g mark).1 := by
  unfold writeReport
  dsimp only
  split
  · split
    · exact h
    · split
      · exact h
      · exact storeAt_wf _ _ _ _ (storeAt_wf _ _ _ _ h)
  · exact h

theorem decideRput_canon {g grp d : Nat} {data : List Byte} {depth : Nat} {isIn : Bool} (h : Canon m) : OkCanon Prod.snd (decideRput m g grp d data depth isIn) := by
  unfold decideRput
  dsimp only
  split
  · trivial
  · split
    · trivial
    · split
      · trivial
      · split
        · exact h
        · split
          · exact h
          · trivial

theorem rputOutcome_canon {x : Msg} {r : TRef} {pd : Nat} {k : Option Nat} (h : Canon m) : Canon (rputOutcome e m x r pd k) := by
  unfold rputOutcome
  split
  · exact closePart_canon h
  · exact closePart_canon h
  · exact h

theorem performRput_canon {x : Msg} {g : Nat} {data : List Byte} {depth : Nat} {isIn : Bool} {pd : Nat} (h : Canon m) :
    Canon (performRput e m x g data depth isIn pd) := by
  unfold performRput
  dsimp only
  split
  · exact h
  · split
    · exact rputOutcome_canon (mergeClocks_canon h)
    · refine rputOutcome_canon ?_
      refine mergeClocks_canon ?_
      split
      · rename_i hr _
        exact (decideRput_canon h).of_eq hr
      · rename_i hr _
        exact (decideRput_canon h).of_eq hr

theorem performOutcome_canon {x : Msg} {pd c' : Nat} (h : Canon m) : Canon (performOutcome e m x pd c') := by
  unfold performOutcome
  dsimp only
  split
  · exact h
  · split
    · exact raise_canon (applyWr_wf _ _ (closePart_canon h))
    · exact closePart_canon h

theorem performRalc_canon {x : Msg} {g node n pd : Nat} {lanes : List Nat} (h : Canon m) : Canon (performRalc e m x g node n pd lanes) := by
  unfold performRalc
  dsimp only
  split
  · exact h
  · split <;> exact closePart_canon (mergeClocks_canon h)

theorem performSnap_canon {x : Msg} {g node blk : Nat} {dst : Opnd} {latch : Option Latch} (h : Canon m) : Canon (performSnap e m x g node blk dst latch) :=
  respond_canon (attend_canon h)

theorem inputArrives_canon {g : Nat} {data : List Byte} {slot : Nat} (h : Canon m) : Canon (inputArrives e m g data slot) := by
  unfold inputArrives
  dsimp only
  split <;> exact h

theorem writeImage_canon {k : Nat} (h : Canon m) : Canon (writeImage e m k) :=
  foldl_canon h (fun _ _ h => storeAt_wf _ _ _ _ h)

theorem mergeImage_canon {m0 m1 : Mach} {g : Nat} (h : Canon m1) : Canon (mergeImage m0 m1 g) := by
  unfold mergeImage
  dsimp only
  split
  · refine foldl_canon h (fun _ _ h => ?_)
    refine foldl_canon h (fun _ _ h => ?_)
    split
    · exact h
    · exact storeAt_wf _ _ _ _ h
  · refine foldl_canon h (fun _ _ h => ?_)
    refine foldl_canon h (fun _ _ h => ?_)
    split
    · exact h
    · exact storeAt_wf _ _ _ _ h
  · exact h

theorem landMerged_canon {l : Landing} (h : Canon m) : Canon (landMerged m l) :=
  foldl_canon (applyLanding_canon h) (fun _ _ h => mergeImage_canon h)

theorem fillCore_canon {t : Team} {c' i : Nat} (h : Canon m) : Canon (fillCore m t c' i) :=
  foldl_canon h (fun _ _ h => applyWr_wf _ _ (applyWr_wf _ _ (applyWr_wf _ _ h)))

theorem rearmMons_canon {k : Nat} (h : Canon m) : Canon (rearmMons e m k) :=
  foldl_canon h (fun _ _ h => h)

theorem readImage_canon {k : Nat} (h : Canon m) : Canon (readImage e m k) :=
  rearmMons_canon h

theorem fillTiles_canon {k : Nat} (h : Canon m) : Canon (fillTiles e m k) :=
  foldl_canon h (fun _ _ h => fillCore_canon h)

end Sys2Proof.Machine
end

section
/-! SUPPORT. The steps of the memory system and of waiting threads keep the memory canonical (01 R28 to R37, 03 R94 to R101, 04 R108 to R124). -/
namespace Sys2Proof.Machine
open Sys2Proof

variable {e : Env} {c : Ctx} {m : Mach} {s : State}

theorem mapM_canon {f : Env → Mach → Mach} (h : Canon s.m) (hf : ∀ e m, Canon m → Canon (f e m)) : Canon (State.mapM s f).m :=
  hf _ _ h

theorem landDo_canon {k : Nat} (h : Canon m) : Canon (landDo k e m) := by
  unfold landDo
  dsimp only
  split
  · split
    · exact h
    · exact landMerged_canon h
  · exact h

theorem blend_canon {x : Msg} (h : Canon m) : Canon (blend m x) := by
  unfold blend
  dsimp only
  split <;> exact h

theorem msgDo_canon {f : Env → Mach → Msg → Mach} {id : Nat} (hf : ∀ e m x, Canon m → Canon (f e m x)) (h : Canon m) : Canon (msgDo f id e m) := by
  unfold msgDo
  split
  · exact blend_canon (notePast_canon (hf _ _ _ (noteBad_canon (useBanks_canon (markFar_canon h)))))
  · exact h

theorem accessDo_canon {id : Nat} (h : Canon s.m) : Canon (accessDo id s).m := by
  unfold accessDo
  dsimp only
  split
  · split
    · exact respondHere_canon (mapM_canon h (fun _ _ h => msgDo_canon (fun _ _ _ h => performMsg_canon h) h))
    · exact mapM_canon h (fun _ _ h => msgDo_canon (fun _ _ _ h => performMsg_canon h) h)
  · exact h

theorem holdOne_canon {x : Msg} (h : Canon m) : Canon (holdOne e m x) := by
  unfold holdOne
  split <;> exact h

theorem holdCausal_canon (h : Canon m) : Canon (holdCausal e m) :=
  foldl_canon h (fun _ _ h => holdOne_canon h)

theorem sendOne_canon {x : Msg} (h : Canon m) : Canon (sendOne e m x) := by
  unfold sendOne
  split
  · split <;> exact h
  · split
    · exact h
    · split <;> exact h
  · split
    · exact h
    · split <;> exact h
  · exact h

theorem sendReleases_canon (h : Canon m) : Canon (sendReleases e m) :=
  foldl_canon h (fun _ _ h => sendOne_canon h)

theorem dropOp_canon {op : Nat} (h : Canon m) : Canon (dropOp m op) := by
  unfold dropOp
  split
  · exact foldl_canon h (fun _ _ h => h)
  · exact h

theorem endWait_canon {r : TRef} {wr : List RegWr} (h : Canon m) : Canon (endWait e m r wr) :=
  closePart_canon h

theorem eachThr_canon {f : Mach → TRef → Mach} (hf : ∀ m r, Canon m → Canon (f m r)) (h : Canon m) : Canon (eachThr f m) :=
  foldl_canon h (fun _ _ h => foldl_canon h (fun _ _ h => hf _ _ h))

theorem monAnswer_canon {r : TRef} {mo : Mon} (h : Canon m) : Canon (monAnswer m r mo) := by
  unfold monAnswer
  dsimp only
  split <;> exact h

theorem endMonitor_canon {r : TRef} (h : Canon m) : Canon (endMonitor e m r) := by
  unfold endMonitor
  dsimp only
  split
  · split
    · split
      · split
        · exact h
        · exact endWait_canon (monAnswer_canon h)
      · exact h
    · split
      · split
        · exact h
        · exact endWait_canon (monAnswer_canon h)
      · exact h
    · exact h
  · exact h

theorem fenceDrops_canon {g kind sc : Nat} (h : Canon m) : Canon (fenceDrops m g kind sc) := by
  unfold fenceDrops
  split <;> exact h

theorem fenceOrder_canon {d sc : Nat} {r : TRef} (h : Canon m) : Canon (fenceOrder d sc m r) :=
  h

theorem fenceMark_canon {d sc : Nat} {r : TRef} (h : Canon m) : Canon (fenceMark d sc m r) :=
  h

theorem updThr_canon {g lane : Nat} {f : Thread → Thread} (h : Canon m) : Canon (updThr m g lane f) :=
  h

theorem endFence_canon {r : TRef} (h : Canon m) : Canon (endFence e m r) := by
  unfold endFence
  dsimp only
  split
  · rename_i k sc _
    have hd := fenceDrops_canon (g := r.g) (kind := k) (sc := sc) h
    generalize fenceDrops m r.g k sc = m1 at hd ⊢
    refine canon_ite (endWait_canon ?_) h
    refine canon_ite ?_ (fenceMark_canon ?_) <;> refine canon_ite ?_ (updThr_canon ?_) <;> exact canon_ite (fenceOrder_canon hd) hd
  · exact h

theorem endTret_canon {r : TRef} (h : Canon m) : Canon (endTret m r) := by
  unfold endTret
  dsimp only
  split <;> exact h

theorem pollDo_canon {g lane : Nat} (h : Canon m) : Canon (pollDo g lane e m) :=
  testMon_canon h

theorem timeoutDo_canon {g lane : Nat} (h : Canon m) : Canon (timeoutDo g lane e m) :=
  foldl_canon (dropOp_canon h) (fun _ _ h => raise_canon h)

theorem retryDo_canon {k : Nat} (h : Canon m) : Canon (retryDo k e m) := by
  unfold retryDo
  split
  · exact linkQueue_canon h
  · exact h

theorem claimDo_canon {id : Nat} (h : Canon m) : Canon (claimDo id e m) := by
  unfold claimDo
  dsimp only
  split
  · exact h
  · exact foldl_canon h (fun _ _ h => h)

theorem deadlockDo_canon {k : Nat} (h : Canon m) : Canon (deadlockDo k e m) :=
  foldl_canon h (fun _ _ h => foldl_canon (foldl_canon h (fun _ _ h => h)) (fun _ _ h => raise_canon h))

theorem watchDeadlock_canon (h : Canon m) : Canon (watchDeadlock e m) := by
  unfold watchDeadlock
  refine foldl_canon h (fun _ _ h => ?_)
  dsimp only
  split <;> split <;> exact h

theorem setBar_canon {k : Nat} {b : BarSt} (h : Canon m) : Canon (setBar m k b) := by
  unfold setBar
  split <;> exact h

theorem meetThrs_canon {l : List TRef} (h : Canon m) : Canon (meetThrs m l) :=
  foldl_canon h (fun _ _ h => h)

theorem watchBar_canon {k : Nat} (h : Canon m) : Canon (watchBar e m k) := by
  unfold watchBar
  dsimp only
  split
  · exact h
  · split <;> exact setBar_canon (foldl_canon h (fun _ _ h => h))

theorem barDo_canon {k : Nat} (h : Canon m) : Canon (barDo k e m) := by
  unfold barDo
  refine foldl_canon (setBar_canon (meetThrs_canon h)) (fun _ _ h => ?_)
  refine foldl_canon h (fun _ _ h => ?_)
  split
  · split
    · split
      · exact endWait_canon h
      · exact h
    · split
      · exact endWait_canon h
      · exact h
    · exact h

theorem drainDo_canon {k : Nat} (h : Canon m) : Canon (drainDo k e m) := by
  unfold drainDo
  dsimp only
  split
  · exact drainSlot_canon h
  · exact h

theorem endFlushes_canon (h : Canon m) : Canon (endFlushes e m) := by
  unfold endFlushes
  refine foldl_canon h (fun _ _ h => ?_)
  dsimp only
  split
  · split
    · refine setBar_canon ?_
      split <;> exact h
    · split <;> exact h
  · exact h

end Sys2Proof.Machine
end

section
/-! SUPPORT. The steps of page walkers, engines, Catalogues and traps keep the memory canonical (02 R46 to R76, 09 R263 to R302, 16 R363 to R373, 18 R401 to R403). -/
namespace Sys2Proof.Machine
open Sys2Proof

variable {e : Env} {c : Ctx} {m : Mach} {s : State}

theorem markLeaf_canon {pte pteAt : Nat} {write : Bool} (h : Canon m) : Canon (markLeaf m pte pteAt write) := by
  unfold markLeaf
  dsimp only
  split
  · split
    · exact h
    · exact storeAt_wf _ _ _ _ h
  · split
    · exact h
    · exact storeAt_wf _ _ _ _ h

theorem installLeaf_canon {part core lva pa size perm : Nat} {d : Bool} (h : Canon m) : Canon (installLeaf m part core lva pa size perm d) :=
  h

theorem walkFor_canon {root part core va kind : Nat} (h : Canon m) : SomeCanon id (walkFor e m root part core va kind) := by
  unfold walkFor
  split
  · split
    · exact installLeaf_canon (markLeaf_canon h)
    · exact installLeaf_canon (markLeaf_canon h)
    · trivial
  · trivial

theorem walkOne_canon {root part : Nat} {x : TRef × Nat × Nat} (h : Canon m) : Canon (walkOne e root part m x) := by
  unfold walkOne
  dsimp only
  split
  · exact h
  · split
    · rename_i hr
      have hv := (walkFor_canon h).of_eq hr
      exact hv
    · exact parkFault_canon h

theorem pushLand_canon {l : Landing} (h : Canon m) : Canon (pushLand m l) :=
  h

theorem fillOne_canon {root part : Nat} {f : Fill} (h : Canon m) : Canon (fillOne e root part m f) := by
  unfold fillOne
  refine pushLand_canon ?_
  split
  · exact h
  · rename_i hr
    have h1 := (walkFor_canon h).of_eq hr
    dsimp only [id] at h1
    split
    · exact canon_ite h1 (canon_ite (fillRetr_canon h1) (fillRetr_canon h1))
    · exact h1

theorem engOne_canon {root part : Nat} {r : EReq} (h : Canon m) : Canon (engOne e root part m r) := by
  unfold engOne
  split
  · exact h
  · split
    · exact h
    · split
      · rename_i hr
        have hv := (walkFor_canon h).of_eq hr
        exact hv
      · exact joinFault_canon h

theorem walkDo_canon {k : Nat} (h : Canon m) : Canon (walkDo k e m) := by
  unfold walkDo
  dsimp only
  split
  · exact nextSlot_canon (foldl_canon (foldl_canon (foldl_canon h (fun _ _ h => walkOne_canon h)) (fun _ _ h => fillOne_canon h)) (fun _ _ h => engOne_canon h))
  · exact h

theorem chanDo_canon {team ch : Nat} (h : Canon m) : Canon (chanDo team ch e m) := by
  unfold chanDo
  dsimp only
  split <;> exact h

theorem engMiss_canon {k : Nat} {cp : Copy} {core va kind : Nat} (h : Canon m) : Canon (engMiss e m k cp core va kind) := by
  unfold engMiss
  dsimp only
  split
  · exact joinWalk_canon h
  · exact joinFault_canon h

theorem engWord_canon {cp : Copy} {acc : Mach × List Byte × Bool} {sa : Nat} (h : Canon acc.1) : Canon (engWord e cp acc sa).1 := by
  unfold engWord
  dsimp only
  split
  · exact h
  · exact h
  · exact engRead_canon h

theorem engPacket_canon {k : Nat} {cp : Copy} {r : CRow} {rest : List CRow} (h : Canon m) : Canon (engPacket e m k cp r rest) := by
  unfold engPacket
  dsimp only
  split
  · exact engMiss_canon h
  · exact engMiss_canon h
  · split
    · exact h
    · exact foldl_canon (foldl_on_canon Prod.fst (noteBad_canon h) (fun _ _ h => engWord_canon h)) (fun _ _ h => h)

theorem engColophon_canon {k : Nat} {cp : Copy} (h : Canon m) : Canon (engColophon e m k cp) := by
  unfold engColophon
  dsimp only
  split
  · split
    · exact h
    · exact engMiss_canon h
  · exact foldl_canon h (fun _ _ h => h)

theorem tileToImage_canon {team : Nat} {w : RegWr} (h : Canon m) : Canon (tileToImage e m team w) := by
  unfold tileToImage
  dsimp only
  split
  · exact storeAt_wf _ _ _ _ h
  · exact storeAt_wf _ _ _ _ h
  · exact storeAt_wf _ _ _ _ h
  · exact applyWr_wf _ _ h

/-- Tile elements go to the context image of a team that is out, and to its tiles otherwise. -/
theorem tileWrites_canon {team : Nat} {l : List RegWr} (h : Canon m) : Canon (tileWrites e m team l) := by
  unfold tileWrites
  split
  · exact foldl_canon h (fun _ _ h => tileToImage_canon h)
  · exact foldl_canon h (fun _ _ h => applyWr_wf _ _ h)

theorem xStop_canon {k : Nat} {cp : Copy} {a : Out} (h : Canon m) : Canon (xStop e m k cp a) := by
  unfold xStop
  split
  · exact engMiss_canon h
  · exact engMiss_canon h
  · exact h

theorem xStore_canon {k : Nat} {cp : Copy} {x : XCon} (h : Canon m) : Canon (xStore e m k cp x) := by
  unfold xStore
  dsimp only
  split
  · exact xStop_canon h
  · exact foldl_canon (xFinal_canon h) (fun _ _ h => h)

theorem xLoad_canon {k : Nat} {cp : Copy} {x : XCon} (h : Canon m) : Canon (xLoad e m k cp x) := by
  unfold xLoad
  dsimp only
  split
  · exact xStop_canon h
  · rename_i hr
    exact (xChunk_canon h).of_eq hr

theorem engContract_canon {k : Nat} {cp : Copy} {x : XCon} (h : Canon m) : Canon (engContract e m k cp x) := by
  unfold engContract
  split
  · exact tileWrites_canon h
  · split
    · split
      · exact xStop_canon h
      · rename_i hr
        exact (xStarts_canon h).of_eq hr
    · split
      · exact xStore_canon h
      · split
        · exact xLoad_canon h
        · split
          · exact h
          · split <;> exact h

theorem engDo_canon {k : Nat} (h : Canon m) : Canon (engDo k e m) := by
  unfold engDo
  split
  · split
    · exact engContract_canon h
    · exact engPacket_canon h
    · exact engColophon_canon h
  · exact h

theorem joinCopy_canon {cp : Copy} (h : Canon m) : Canon (joinCopy m cp) :=
  foldl_canon h (fun _ _ h => h)

theorem endCopies_canon (h : Canon m) : Canon (endCopies e m) := by
  unfold endCopies
  refine foldl_canon h (fun _ _ h => ?_)
  dsimp only
  split
  · exact joinCopy_canon h
  · exact h

theorem passAccs_canon {v : Mach} {core : Nat} {q : MReq} (h : Canon m) : Canon (passAccs e c v core q m).1 := by
  unfold passAccs
  refine foldl_on_canon Prod.fst h (fun _ _ h => ?_)
  refine foldl_on_canon Prod.fst h (fun _ _ h => ?_)
  dsimp only
  split
  · exact h
  · exact accF_canon h

theorem reloadA_canon {core : Nat} {q : MReq} {frame : Nat} (h : Canon m) : Canon (reloadA e m c core q frame) :=
  foldl_canon (tileRun_canon h) (fun _ _ h => applyWr_wf _ _ h)

theorem runXPass_canon {cl k : Nat} {q : MReq} (h : Canon m) : Canon (runXPass e m cl k q).1 := by
  unfold runXPass
  dsimp only
  split
  · split
    · exact xPass_canon h
    · exact h
  · exact h

theorem xLanded_canon {q : MReq} (h : Canon m) : Canon (xLanded m q) := by
  unfold xLanded
  split <;> exact h

theorem runPass_canon {cl : Nat} {q : MReq} (h : Canon m) : Canon (runPass e m cl q).1 := by
  unfold runPass
  dsimp only
  split
  · split
    · exact h
    · exact passOutcome_canon (passAccs_canon (reloadA_canon h))
  · split
    · exact h
    · exact passOutcome_canon (passAccs_canon h)

theorem grantDo_canon {cl : Nat} (h : Canon m) : Canon (grantDo cl e m) := by
  unfold grantDo
  dsimp only
  split
  · exact h
  · split
    · exact runXPass_canon h
    · exact runPass_canon h

theorem passDo_canon {cl : Nat} (h : Canon m) : Canon (passDo cl e m) := by
  unfold passDo
  split
  · exact xLanded_canon (landMerged_canon h)
  · exact h

theorem inputDo_canon {x : Msg} (h : Canon m) : Canon (inputDo e m x) := by
  unfold inputDo
  split
  · exact inputArrives_canon (mergeClocks_canon h)
  · exact h

theorem recordDo_canon {x : Msg} (h : Canon m) : Canon (recordDo e m x) := by
  unfold recordDo
  split
  · exact recordArrives_canon (mergeClocks_canon h)
  · exact h

theorem postDo_canon {x : Msg} (h : Canon m) : Canon (postDo e m x) := by
  unfold postDo
  split
  · exact respondHere_canon (postArrives_canon h)
  · exact h

theorem answerDo_canon {x : Msg} (h : Canon m) : Canon (answerDo e m x) := by
  unfold answerDo
  split
  · exact performRput_canon h
  · exact performOutcome_canon h
  · exact performRalc_canon h
  · exact performSnap_canon h
  · exact h

theorem activationDo_canon {d : Nat} (h : Canon m) : Canon (activationDo d e m) := by
  unfold activationDo
  split <;> exact h

theorem choiceDo_canon {d : Nat} (h : Canon m) : Canon (choiceDo d e m) := by
  unfold choiceDo
  split <;> exact h

theorem endDispatch_canon {g : Nat} {d : Disp} (h : Canon m) : Canon (endDispatch e m g d) := by
  have h1 : Canon (freeRecs (returnResv m g) d) := returnResv_canon h
  exact linkPoison_wf e _ d.graph (blkKey d.node d.blk) g h1

theorem launchDo_canon {g : Nat} (h : Canon m) : Canon (launchDo g e m) := by
  unfold launchDo
  split
  · split
    · exact endDispatch_canon h
    · exact launchGroup_canon h
  · exact h

theorem reportDo_canon {g : Nat} (h : Canon s.m) : Canon (reportDo g s).m :=
  writeReport_canon h

theorem withImages_canon {gs : List Nat} {f : Mach → Mach} (hf : ∀ a0, Canon a0 → Canon (f a0)) (h : Canon m) : Canon (withImages gs f m) :=
  foldl_canon (hf _ h) (fun _ _ h => mergeImage_canon h)

theorem admitWaiting_canon {cl : Nat} (h : Canon m) : Canon (admitWaiting m cl) :=
  foldl_canon h (fun _ _ h => joinFault_canon h)

theorem refuseThr_canon {cause : Nat} {x : TRef × Nat} (h : Canon m) : Canon (refuseThr e cause m x) := by
  unfold refuseThr
  dsimp only
  split
  · exact h
  · exact raise_canon h

theorem releaseReqs_canon {cl : Nat} {f : FEnt} (h : Canon m) : Canon (releaseReqs e m cl f) := by
  unfold releaseReqs
  dsimp only
  split
  · split <;> exact foldl_canon (withImages_canon (fun _ h => foldl_canon h (fun _ _ h => h)) h) (fun _ _ h => h)
  · exact foldl_canon (withImages_canon (fun _ h => foldl_canon h (fun _ _ h => refuseThr_canon h)) h) (fun _ _ h => h)

theorem answerFault_canon {cl k st : Nat} {prot : Bool} (h : Canon m) : Canon (answerFault e m cl k st prot) := by
  unfold answerFault
  dsimp only
  split
  · split
    · exact releaseReqs_canon h
    · exact h
  · exact h

theorem freeAnswered_canon {cl : Nat} (h : Canon m) : Canon (freeAnswered e m cl) := by
  unfold freeAnswered
  dsimp only
  split
  · exact h
  · exact admitWaiting_canon (foldl_canon h (fun _ _ h => releaseReqs_canon h))

theorem freeFaults_canon (h : Canon m) : Canon (freeFaults e m) :=
  foldl_canon h (fun _ _ h => freeAnswered_canon h)

theorem eachOfTeam_canon {team : Nat} {f : Thread → Thread} (h : Canon m) : Canon (eachOfTeam team f m) :=
  withImages_canon (fun _ h => h) h

theorem stopDo_canon {team : Nat} (h : Canon m) : Canon (stopDo team m) :=
  eachOfTeam_canon h

theorem resumeDo_canon {team : Nat} (h : Canon m) : Canon (resumeDo team m) := by
  unfold resumeDo
  dsimp only
  split
  · exact h
  · exact eachOfTeam_canon h

theorem leaveClaim_canon {r : TRef} {c' : Claim} (h : Canon m) : Canon (leaveClaim r m c') :=
  foldl_canon h (fun _ _ h => h)

theorem leaveWait_canon {r : TRef} (h : Canon m) : Canon (leaveWait e m r) := by
  unfold leaveWait
  dsimp only
  split
  · exact foldl_canon h (fun _ _ h => leaveClaim_canon h)
  · exact h
  · exact dropOp_canon h
  · exact dropOp_canon h
  · exact dropOp_canon h
  · exact dropOp_canon h
  · exact dropOp_canon (unlinkThr_wf _ _ _ h)
  · exact dropOp_canon h
  · exact dropOp_canon h
  · exact h

theorem stepDo_canon {g lane : Nat} (h : Canon m) : Canon (stepDo g lane e m) :=
  raise_canon (leaveWait_canon (sendStop_canon h))

end Sys2Proof.Machine
end

section
/-! SUPPORT. Pre-emption, grids, host queues and task graphs keep the memory canonical (14 R335 to R351, 16 R383 to R393). -/
namespace Sys2Proof.Machine
open Sys2Proof

variable {e : Env} {c : Ctx} {m : Mach} {s : State}

theorem signalDo_canon {cores : List Nat} (h : Canon m) : Canon (signalDo cores e m) :=
  foldl_canon (foldl_canon h (fun _ _ h => h)) (fun _ _ h => foldl_canon h (fun _ _ h => h))

theorem signalState_canon {cores : List Nat} (h : Canon s.m) : Canon (signalState cores s).m :=
  mapM_canon h (fun _ _ h => signalDo_canon h)

theorem endSpill_canon {cores : List Nat} (h : Canon m) : Canon (endSpill e m cores) :=
  foldl_canon h (fun _ _ h => h)

theorem spillDo_canon {team : Nat} (h : Canon m) : Canon (spillDo team e m) := by
  unfold spillDo
  dsimp only
  split
  · split <;> exact h
  · exact h
  · exact endSpill_canon (writeImage_canon h)
  · exact h

/-- The allocation copy stores the bytes of each range at its new place. -/
theorem moveRanges_canon {l : List (Nat × Nat × Nat)} (h : Canon m) : Canon (moveRanges m l) :=
  foldl_canon h (fun _ _ h => storeAt_wf _ _ _ _ h)

theorem startResumption_canon {team : Nat} (h : Canon m) : Canon (startResumption e m team) := by
  unfold startResumption
  dsimp only
  split
  · split <;> exact preempt_canon h
  · exact preempt_canon h

theorem swapIn_canon {team : Nat} (h : Canon m) : Canon (swapIn e m team) :=
  readImage_canon h

theorem beginCopyBack_canon (h : Canon m) : Canon (beginCopyBack e m) := by
  unfold beginCopyBack
  refine foldl_canon h (fun _ _ h => ?_)
  split
  · split
    · exact fillTiles_canon h
    · exact h

theorem backState_canon {team : Nat} (h : Canon s.m) : Canon (backState team s).m :=
  mapM_canon h (fun _ _ h => moveRanges_canon h)

theorem replyDo_canon {entry gi : Nat} {x : Word} (h : Canon m) : Canon (replyDo entry gi x e m) := by
  unfold replyDo
  dsimp only
  split
  · exact h
  · split <;> exact h

theorem releaseParked_canon {team : Nat} (h : Canon m) : Canon (releaseParked team m) :=
  eachOfTeam_canon h

theorem imgbDo_canon {team base : Nat} (h : Canon m) : Canon (imgbDo team base e m) := by
  unfold imgbDo
  dsimp only
  split
  · split
    · exact h
    · exact preempt_canon (eachOfTeam_canon h)
  · exact h

theorem initQueue_canon {team : Nat} {lp : List Nat} {k : Nat} (h : Canon m) : Canon (initQueue e m team lp k) :=
  storeAt_wf _ _ _ _ h

theorem startTeam_canon {gid : Nat} {g : Grid} {en ent : Nat} {plan : List GPlan} (h : Canon m) : Canon (startTeam e m gid g en ent plan) :=
  foldl_canon (foldl_canon (foldl_canon h (fun _ _ h => h)) (fun _ _ h => h)) (fun _ _ h => initQueue_canon h)

theorem teamStartDo_canon {k : Nat} (h : Canon s.m) : Canon (teamStartDo k s).m := by
  unfold teamStartDo
  dsimp only
  split
  · exact h
  · split <;> exact startTeam_canon h

theorem standingDo_canon {k : Nat} (h : Canon s.m) : Canon (standingDo k s).m := by
  unfold standingDo
  dsimp only
  split <;> exact h

theorem endTeams_canon (h : Canon m) : Canon (endTeams m) := by
  unfold endTeams
  refine foldl_canon h (fun _ _ h => ?_)
  split
  split <;> exact h

theorem forget_canon (h : Canon m) : Canon (forget m) := by
  unfold forget
  refine foldl_canon h (fun _ _ h => ?_)
  split
  split <;> exact h

theorem startDone_canon {q : Nat} {ws : List Nat} (h : Canon s.m) : Canon (startDone s q ws).m := by
  unfold startDone
  dsimp only
  split <;> exact h

theorem runRow_canon {f : Nat → List Nat → State → Except (Nat × Nat) State} {q : Nat} (hf : ∀ q ws s, Canon s.m → OkCanon State.m (f q ws s)) (h : Canon s.m) :
    Canon (runRow f q s).m := by
  unfold runRow
  dsimp only
  split
  · exact h
  · split
    · exact h
    · rename_i hr
      have h1 := (hf _ _ _ h).of_eq hr
      exact h1
  · exact h

theorem nopDo_canon {q : Nat} {ws : List Nat} (h : Canon s.m) : OkCanon State.m (nopDo q ws s) :=
  startDone_canon h

theorem writeDo_canon {q : Nat} {ws : List Nat} (h : Canon s.m) : OkCanon State.m (writeDo q ws s) := by
  unfold writeDo
  split
  · trivial
  · exact h

theorem waitDo_canon {q : Nat} {ws : List Nat} (h : Canon s.m) : OkCanon State.m (waitDo q ws s) := by
  unfold waitDo
  split
  · trivial
  · exact h

theorem indirectDo_canon {q : Nat} {ws : List Nat} (h : Canon s.m) : OkCanon State.m (indirectDo q ws s) := by
  unfold indirectDo
  split
  · trivial
  · exact h

theorem triggerDo_canon {q : Nat} {ws : List Nat} (h : Canon s.m) : OkCanon State.m (triggerDo q ws s) :=
  startDone_canon h

theorem sendInput_canon {g : Nat} {data : List Byte} (h : Canon s.m) : SomeCanon State.m (sendInput s g data) := by
  unfold sendInput
  dsimp only
  cases slotTake _ _ _ with
  | none => trivial
  | some x => exact h

theorem inputPktDo_canon {q : Nat} {ws : List Nat} (h : Canon s.m) : OkCanon State.m (inputPktDo q ws s) := by
  unfold inputPktDo
  dsimp only
  split
  · trivial
  · split
    · trivial
    · split
      · rename_i hr
        have hv := (sendInput_canon h).of_eq hr
        exact hv
      · exact h

theorem slotDo_canon {k : Nat} (h : Canon s.m) : Canon (slotDo k s).m := by
  unfold slotDo
  dsimp only
  split
  · exact h
  · split
    · exact h
    · rename_i hr
      have hv := (sendInput_canon h).of_eq hr
      exact hv
    · exact h

theorem launchPktDo_canon {q : Nat} {ws : List Nat} (h : Canon s.m) : OkCanon State.m (launchPktDo q ws s) := by
  unfold launchPktDo
  dsimp only
  split
  · trivial
  · exact h

theorem loadDo_canon {q : Nat} {ws : List Nat} (h : Canon s.m) : OkCanon State.m (loadDo q ws s) := by
  unfold loadDo
  dsimp only
  split
  · trivial
  · split
    · trivial
    · split
      · exact startDone_canon h
      · trivial

theorem startGraph_canon {part g : Nat} (h : Canon s.m) : OkCanon State.m (startGraph s part g) := by
  unfold startGraph
  dsimp only
  split
  · trivial
  · split
    · exact h
    · split
      · trivial
      · split
        · trivial
        · exact h

theorem startPktDo_canon {q : Nat} {ws : List Nat} (h : Canon s.m) : OkCanon State.m (startPktDo q ws s) := by
  unfold startPktDo
  split
  · trivial
  · rename_i hr
    have hv := (startGraph_canon h).of_eq hr
    exact hv

theorem stopPktDo_canon {q : Nat} {ws : List Nat} (h : Canon s.m) : OkCanon State.m (stopPktDo q ws s) := by
  unfold stopPktDo
  dsimp only
  split
  · trivial
  · exact h

theorem clearGraph_canon {g : Nat} (h : Canon m) : Canon (clearGraph m g) := by
  unfold clearGraph
  refine foldl_canon h (fun _ _ h => ?_)
  split
  · split
    · exact returnResv_canon h
    · exact h

theorem loadTaskDo_canon {q : Nat} {ws : List Nat} (h : Canon s.m) : OkCanon State.m (loadTaskDo q ws s) := by
  unfold loadTaskDo
  dsimp only
  split
  · trivial
  · split
    · trivial
    · trivial
    · exact startDone_canon h

theorem unloadTaskDo_canon {q : Nat} {ws : List Nat} (h : Canon s.m) : OkCanon State.m (unloadTaskDo q ws s) := by
  unfold unloadTaskDo
  dsimp only
  split
  · trivial
  · exact h

theorem pktDone_canon {q : Nat} {p : Pkt} (h : Canon s.m) : SomeCanon State.m (pktDone s q p) := by
  unfold pktDone
  dsimp only
  split
  · split
    · exact h
    · trivial
  · split
    · exact h
    · trivial
  · split
    · exact h
    · trivial
  · split
    · trivial
    · exact h
  · split
    · split
      · exact h
      · trivial
    · split
      · exact h
      · trivial
    · split
      · exact clearGraph_canon h
      · trivial
    · split
      · exact h
      · trivial
    · split
      · exact h
      · trivial
    · exact h
  · split
    · exact h
    · trivial
  · trivial

theorem finishQueue_canon {q : Nat} (h : Canon s.m) : Canon (finishQueue s q).m := by
  unfold finishQueue
  refine foldl_on_canon State.m ?_ (fun _ _ h => ?_)
  · split <;> exact h
  · split
    · rename_i hr
      have hv := (pktDone_canon h).of_eq hr
      exact hv
    · exact h

theorem finishQueues_canon (h : Canon s.m) : Canon (finishQueues s).m := by
  unfold finishQueues
  refine foldl_on_canon State.m h (fun s x h => ?_)
  have h1 := foldl_on_canon State.m (f := fun s _ => finishQueue s x.1) (l := List.range 5) h (fun _ _ h => finishQueue_canon h)
  generalize List.range 5 = l at h1 ⊢
  exact h1

theorem owedDo_canon {q : Nat} (h : Canon s.m) : Canon (owedDo q s).m := by
  unfold owedDo
  dsimp only
  split <;> exact h

theorem onTask_canon {part g : Nat} {f : Task → State → State} (hf : ∀ t s, Canon s.m → Canon (f t s).m) (h : Canon s.m) : Canon (onTask part g f s).m := by
  unfold onTask
  split
  · exact hf _ _ h
  · exact h

theorem launchNodeDo_canon {part g : Nat} {t : Task} (h : Canon s.m) : Canon (launchNodeDo part g t s).m := by
  unfold launchNodeDo
  dsimp only
  split
  · exact h
  · split
    · exact h
    · split
      · exact h
      · split <;> exact h

theorem standingNodeDo_canon {part g : Nat} {t : Task} (h : Canon s.m) : Canon (standingNodeDo part g t s).m := by
  unfold standingNodeDo
  dsimp only
  split
  · exact h
  · split
    · exact h
    · split
      · exact h
      · exact h
      · rename_i hr
        have hv := (startGraph_canon h).of_eq hr
        exact hv

theorem loopNodeDo_canon {part g : Nat} {t : Task} (h : Canon s.m) : Canon (loopNodeDo part g t s).m := by
  unfold loopNodeDo
  dsimp only
  split <;> exact h

theorem copyPieces_canon {part f src dst n : Nat} (h : Canon m) : Canon (copyPieces e part f src dst n m).1 := by
  induction f generalizing src dst n m with
  | zero => exact h
  | succ f ih =>
    unfold copyPieces
    split
    · exact h
    · dsimp only
      split
      · exact h
      · split
        · exact h
        · rename_i hr
          exact ih ((agentStore_canon h).of_eq hr)

theorem copyNodeDo_canon {part g : Nat} {t : Task} (h : Canon s.m) : Canon (copyNodeDo part g t s).m :=
  copyPieces_canon h

theorem signalNodeDo_canon {part g : Nat} {t : Task} (h : Canon s.m) : Canon (signalNodeDo part g t s).m := by
  unfold signalNodeDo
  dsimp only
  split
  · exact h
  · split <;> exact h

theorem feAcquire_canon {part va : Nat} (h : Canon s.m) : Canon (feAcquire s part va).m := by
  unfold feAcquire
  split <;> exact h

theorem waitMetDo_canon {k : Nat} (h : Canon s.m) : Canon (waitMetDo k s).m := by
  unfold waitMetDo
  dsimp only
  split
  · refine onTask_canon (fun _ _ h => ?_) h
    split
    · exact feAcquire_canon h
    · exact h
  · split
    · split
      · exact feAcquire_canon h
      · exact h
    · exact h

theorem runEndDo_canon {part g : Nat} {t : Task} (h : Canon s.m) : Canon (runEndDo part g t s).m := by
  unfold runEndDo
  dsimp only
  split
  · exact foldl_canon h (fun _ _ h => h)
  · exact h

theorem sliceDo_canon {p : Nat} (h : Canon s.m) : Canon (sliceDo p s).m := by
  unfold sliceDo
  dsimp only
  split <;> exact h

end Sys2Proof.Machine
end

section
/-! SUPPORT. Containment, bring-up and the register map keep the memory canonical: a reset takes bytes from the list, host accesses and images store theirs (18 R405 to R414, 19 R416 to R430). -/
namespace Sys2Proof.Machine
open Sys2Proof

variable {e : Env} {c : Ctx} {m : Mach} {s : State}

theorem partEnable_canon {p : Nat} {run : Bool} (h : Canon s.m) : Canon (partEnable s p run).m := by
  unfold partEnable
  dsimp only
  split <;> exact h

theorem resetGo_canon {d cl : Nat} (h : Canon m) : Canon (resetGo e m d cl) := by
  unfold resetGo
  split <;> exact h

theorem isolationDo_canon {d : Nat} (h : Canon m) : Canon (isolationDo d e m) :=
  foldl_canon (foldl_canon h (fun _ _ h => h)) (fun _ _ h => h)

theorem cutDo_canon {id : Nat} (h : Canon m) : Canon (cutDo id e m) := by
  unfold cutDo
  dsimp only
  split
  · exact h
  · split <;> exact h

theorem linkBits_canon {x : Msg} {pc va : Nat} {ty : NTy} (h : Canon m) : Canon (linkBits e m x pc va ty).1 :=
  poisonVal_wf _ _ _ _ _ _ _ _ h

theorem linkValue_canon {x : Msg} {pc va : Nat} {ty : NTy} {dst : Opnd} (h : Canon m) : Canon (linkValue e m x pc va ty dst) :=
  respond_canon (linkBits_canon h)

theorem isolatedAnswer_canon {x : Msg} (h : Canon m) : Canon (isolatedAnswer e m x) := by
  unfold isolatedAnswer
  dsimp only
  split
  · exact linkRead_canon h
  · exact linkRead_canon h
  · exact linkRead_canon h
  · split
    · exact linkValue_canon h
    · exact h
  · exact linkValue_canon h
  · exact linkValue_canon h
  · exact linkValue_canon h
  · exact closePart_canon (linkBits_canon h)
  · exact closePart_canon h
  · exact closePart_canon h
  · exact h
  · exact h
  · split
    · exact respond_canon h
    · exact h
  · exact respond_canon h
  · exact performBody_canon h
  · exact performBody_canon h
  · exact h
  · exact respond_canon h

theorem clearCluster_canon {cl : Nat} (h : Canon s.m) : Canon (clearCluster s cl).m := by
  unfold clearCluster
  exact clearMach_wf _ _ _ _ h

/-- A reset clears the bytes of its die, and writes the outcome to a recovery address. -/
theorem resetState_canon {d : Nat} (h : Canon s.m) : Canon (resetState d s).m := by
  have h1 := clearedMach_wf d h
  show Memory.wf _ = true
  rw [resetState_mem]
  split
  · exact memWrite_wf _ _ _ h1
  · exact h1

theorem restoreDo_canon {d : Nat} (h : Canon m) : Canon (restoreDo d m) :=
  foldl_canon h (fun _ _ h => h)

theorem seedPredictors_canon (h : Canon s.m) : Canon (seedPredictors s).m :=
  foldl_canon h (fun _ _ h => h)

theorem monitorLevel_canon (h : Canon s.m) : Canon (monitorLevel s).m := by
  unfold monitorLevel
  dsimp only
  split
  · exact h
  · split
    · exact h
    · split
      · exact h
      · split <;> exact h

theorem lpddrLevel_canon (h : Canon s.m) : Canon (lpddrLevel s).m := by
  unfold lpddrLevel
  dsimp only
  split
  · exact h
  · split
    · exact h
    · split <;> exact h

theorem hbmRelease_canon {d : Nat} (h : Canon s.m) : Canon (hbmRelease s d).m := by
  unfold hbmRelease
  dsimp only
  split
  · exact h
  · split <;> exact h

theorem mailboxStart_canon {a : Nat} (h : Canon s.m) : Canon (mailboxStart s a).m := by
  unfold mailboxStart
  dsimp only
  split
  · exact h
  · split <;> split <;> exact h

theorem loadStart_canon {a : Nat} (h : Canon s.m) : Canon (loadStart s a).m := by
  unfold loadStart
  dsimp only
  split <;> exact h

theorem loadDone_canon (h : Canon s.m) : Canon (loadDone s).m := by
  unfold loadDone
  dsimp only
  split
  · split
    · split
      · exact seedPredictors_canon h
      · exact h
    · exact h
  · split
    · split
      · exact seedPredictors_canon h
      · exact h
    · exact h

theorem functionReset_canon (h : Canon s.m) : Canon (functionReset s).m := by
  have h1 : Canon ((List.range 144).foldl clearCluster s).m := foldl_on_canon State.m h (fun _ _ h => clearCluster_canon h)
  unfold functionReset
  generalize (List.range 144).foldl clearCluster s = s1 at h1 ⊢
  exact h1

theorem clockStepDo_canon (h : Canon s.m) : Canon (clockStepDo s).m := by
  unfold clockStepDo
  dsimp only
  split
  · exact h
  · exact foldl_canon h (fun _ _ h => h)

/-- A host access stores its bytes, or marks the bytes that it reads as failed. -/
theorem hostAccess_canon {pa : Nat} {data : List Byte} {write : Bool} (h : Canon s.m) : Canon (hostAccess s pa data write).m := by
  unfold hostAccess
  dsimp only
  split
  · exact h
  · split
    · exact mapM_canon h (fun _ _ h => storeAt_wf _ _ _ _ h)
    · exact mapM_canon h (fun _ _ h => noteBad_canon h)

theorem partWord_canon {p w v : Nat} (h : Canon s.m) : Canon (partWord s p w v).m := by
  unfold partWord
  dsimp only
  split
  · exact h
  · split <;> exact partEnable_canon h

theorem faultWord_canon {cl k v : Nat} (h : Canon m) : Canon (faultWord e m cl k v) := by
  unfold faultWord
  split
  · exact answerFault_canon h
  · exact answerFault_canon h
  · exact h

theorem dieMach_canon {d o v : Nat} (h : Canon m) : Canon (dieMach e m d o v) := by
  unfold dieMach
  refine canon_ite ?_ (canon_ite h (canon_ite h (canon_ite h (canon_ite h (canon_ite h ?_)))))
  · have h1 : Canon (if bitOf v 6 then resetGo e m d (bitsOf v 5 0) else updDie m d (fun x => { x with rclus := bitsOf v 5 0 })) := canon_ite (resetGo_canon h) h
    exact canon_ite (restoreDo_canon h1) h1
  · refine canon_ite (replyDo_canon h) (canon_ite (canon_ite (faultWord_canon h) h) (canon_ite h (canon_ite ?_ h)))
    exact foldl_canon h (fun _ _ h => h)

theorem dieWord_canon {d o v : Nat} (h : Canon s.m) : Canon (dieWord s d o v).m :=
  mapM_canon h (fun _ _ h => dieMach_canon h)

theorem entryWord_canon {k w v : Nat} (h : Canon s.m) : Canon (entryWord s k w v).m := by
  unfold entryWord
  dsimp only
  split
  · split
    · exact h
    · split
      · refine releaseParked_canon ?_
        split <;> exact h
      · split <;> exact h
  · split
    · exact mapM_canon h (fun _ _ h => imgbDo_canon h)
    · exact h
  · exact h

/-- A register of the map: the rows that reach the machine part are those of the mailbox, the loader, a partition, a die and an entry. -/
theorem regWrite_canon {a : Agent} {o v : Nat} (h : Canon s.m) : Canon (regWrite s a o v).m := by
  have hdev : ∀ f, Canon (updDev s f).m := fun _ => h
  have hpart : ∀ p f, Canon (updPart s p f).m := fun _ _ => h
  have hqueue : ∀ q w, Canon (queueWordWrite s a q w v).m := fun _ _ => h
  have hvec : ∀ k f, Canon (updVec s k f).m := fun _ _ => h
  have hgraph : ∀ g w, Canon (graphWord s g w v).m := fun _ _ => h
  unfold regWrite
  refine state_ite (hdev _) (state_ite (mailboxStart_canon h) (state_ite (hdev _) (state_ite (hdev _) (state_ite (loadStart_canon h) ?_))))
  refine state_ite (partWord_canon h) (state_ite (hpart _ _) (state_ite (hqueue _ _) (state_ite (hvec _ _) (state_ite (hvec _ _) (state_ite h ?_)))))
  exact state_ite (hgraph _ _) (state_ite (dieWord_canon h) (state_ite (entryWord_canon h) h))

theorem keepRun_canon {s1 : State} {q : Nat} (h : Canon s1.m) : Canon (keepRun s s1 q).m := by
  unfold keepRun
  dsimp only
  split <;> exact h

theorem registerWrite_canon {a : Agent} {o size v : Nat} (h : Canon s.m) : Canon (registerWrite s a o size v).m := by
  unfold registerWrite
  dsimp only
  split
  · split
    · exact regWrite_canon h
    · split
      · exact keepRun_canon (regWrite_canon h)
      · exact regWrite_canon h
  · exact h

end Sys2Proof.Machine
end

section
/-! SUPPORT. Control cores, outside acts, what settles at once, and the clock keep the memory canonical (01 R22, R23, 14 R332 to R334). -/
namespace Sys2Proof.Machine
open Sys2Proof

variable {e : Env} {c : Ctx} {m : Mach} {s : State}

theorem ctlFetch_canon {cc va : Nat} (h : Canon s.m) : Canon (ctlFetch s cc va).m := by
  unfold ctlFetch
  dsimp only
  split
  · exact h
  · split <;> exact h

theorem ctlLoadDo_canon {cc va n : Nat} {sx fp : Bool} {rd : Nat} (h : Canon s.m) : Canon (ctlLoadDo s cc va n sx fp rd).m := by
  unfold ctlLoadDo
  dsimp only
  split
  · exact h
  · split
    · exact h
    · exact h
    · split <;> exact h
    · exact h

/-- The store of a control core: to memory, or to a register of the map. -/
theorem ctlStoreDo_canon {cc va n : Nat} {v : Dword} (h : Canon s.m) : Canon (ctlStoreDo s cc va n v).m := by
  unfold ctlStoreDo
  dsimp only
  split
  · exact h
  · split
    · exact h
    · exact memWrite_wf _ _ _ h
    · split
      · exact registerWrite_canon h
      · exact h
    · exact h

theorem loadPlugin_canon {p pa : Nat} (h : Canon s.m) : Canon (loadPlugin s p pa).m := by
  unfold loadPlugin
  dsimp only
  split <;> split <;> exact h

theorem setSlice_canon {p n : Nat} (h : Canon s.m) : Canon (setSlice s p n).m := by
  unfold setSlice
  dsimp only
  split <;> exact h

theorem ctlOp_canon {cc : Nat} {op : CtlOp} (h : Canon s.m) : Canon (ctlOp s cc op).m := by
  unfold ctlOp
  dsimp only
  split
  · exact ctlFetch_canon h
  · exact ctlLoadDo_canon h
  · exact ctlStoreDo_canon h
  · exact h
  · exact h
  · exact h
  · exact h
  · exact h
  · exact h
  · exact h
  · split <;> exact h
  · split <;> exact h
  · split
    · split
      · exact setSlice_canon h
      · exact h
    · exact h
  · split <;> exact h
  · split
    · split
      · exact loadPlugin_canon h
      · exact h
    · exact h

theorem updCtl_canon {cc : Nat} {f : CtlCore → CtlCore} (h : Canon m) : Canon (updCtl m cc f) :=
  h

theorem bumpDie_canon {d : Nat} (h : Canon m) : Canon (bumpDie m d) :=
  h

theorem endCtlFence_canon {cc : Nat} (h : Canon m) : Canon (endCtlFence e m cc) := by
  unfold endCtlFence
  dsimp only
  split
  · refine canon_ite (updCtl_canon ?_) h
    refine canon_ite ?_ (updCtl_canon (bumpDie_canon ?_)) <;> refine canon_ite ?_ (updCtl_canon ?_) <;> exact canon_ite (fenceOrder_canon h) h
  · exact h

theorem endCtlFences_canon (h : Canon m) : Canon (endCtlFences e m) :=
  foldl_canon h (fun _ _ h => endCtlFence_canon h)

theorem flitIndex_canon {x : Msg} (h : Canon m) : Canon (flitIndex e m x).1 := by
  unfold flitIndex
  split
  · split
    · exact h
    · exact genPoison_wf _ _ _ _ _ _ _ h
  · split
    · split
      · exact genPoison_wf _ _ _ _ _ _ _ h
      · exact h
    · split
      · exact genPoison_wf _ _ _ _ _ _ _ h
      · exact h
    · split
      · exact genPoison_wf _ _ _ _ _ _ _ h
      · exact h
    · exact h
  · exact h

theorem flitFail_canon {id : Nat} (h : Canon m) : Canon (flitFail e m id) := by
  unfold flitFail
  dsimp only
  split
  · exact h
  · split <;> exact flitIndex_canon h

theorem hostPoison_canon {pa n : Nat} (h : Canon s.m) : Canon (hostPoison s pa n).m :=
  hostAccess_canon h

theorem doAct_canon {a : Act} (h : Canon s.m) : Canon (doAct a s).m := by
  unfold doAct
  dsimp only
  split
  · split
    · exact ctlOp_canon h
    · exact h
  · exact h
  · exact hostPoison_canon h
  · exact h
  · split <;> exact h
  · split <;> exact h
  · exact mapM_canon h (fun _ _ h => flitFail_canon h)

theorem takeAct_canon {k : Nat} (h : Canon s.m) : Canon (takeAct k s).m := by
  unfold takeAct
  dsimp only
  split
  · exact doAct_canon h
  · exact h

theorem endDispatches_canon (h : Canon m) : Canon (endDispatches m) := by
  unfold endDispatches
  refine foldl_canon h (fun _ _ h => ?_)
  dsimp only
  split
  · split
    · exact returnResv_canon h
    · exact h
  · split
    · exact returnResv_canon h
    · exact h

/-- What settles at once ends waits and copies, and answers from storage. -/
theorem settleMach_canon (h : Canon m) : Canon (settleMach e m) := by
  unfold settleMach
  refine beginCopyBack_canon (forget_canon (endTeams_canon (foldl_canon ?_ (fun _ _ h => h))))
  refine watchDeadlock_canon (endDispatches_canon (foldl_canon ?_ (fun _ _ h => watchBar_canon h)))
  refine endCopies_canon (endFlushes_canon (endCtlFences_canon ?_))
  refine eachThr_canon (fun _ _ h => endTret_canon h) (eachThr_canon (fun _ _ h => endFence_canon h) (eachThr_canon (fun _ _ h => endMonitor_canon h) ?_))
  exact monScan_canon (dropPast_canon (sendReleases_canon (holdCausal_canon (dropAcks_canon (dropCards_canon h)))))

theorem settle_canon (h : Canon s.m) : Canon (settle s).m :=
  finishQueues_canon (mapM_canon h (fun _ _ h => settleMach_canon h))

theorem select_canon {key : Nat} {cu : Cur} {fresh : Bool} (h : Canon s.m) : Canon (select s key cu fresh).m := by
  unfold select
  dsimp only
  split <;> exact h

theorem noteTable_canon (h : Canon m) : Canon (noteTable e m) := by
  unfold noteTable
  refine foldl_canon h (fun _ _ h => ?_)
  dsimp only
  split
  · exact h
  · split <;> exact h

theorem nextPhase_canon (h : Canon s.m) : Canon (nextPhase s).m := by
  unfold nextPhase
  dsimp only
  split
  · exact mapM_canon h (fun _ _ h => noteTable_canon h)
  · split <;> exact h
  · exact freeFaults_canon h
  · exact h

end Sys2Proof.Machine
end

section
/-! PROOF. Every instruction, every row and every step keeps the memory canonical (03 R77, R84). -/
namespace Sys2Proof.Machine
open Sys2Proof

variable {e : Env} {c : Ctx} {m : Mach} {s : State}

theorem ev_canon {due : Bool} {name : String} (h : Canon s.m) : NextCanon (ev due name s) := by
  unfold ev
  split
  · exact h
  · trivial

theorem runI_canon {i : Instr} {h' : Hdr} {once : Bool} {body : Env → Ctx → Mach → BRes} (hf : ∀ e c m, Canon m → Canon (body e c m).m) (h : Canon s.m) :
    NextCanon (runI i h' once body s) := by
  unfold runI
  split
  · trivial
  · exact issue_canon hf h

theorem refuseStep_canon {n : Nat} (h : Canon s.m) : Canon (refuseStep s n).m :=
  h

theorem execPageWalk_canon (h : Canon s.m) : NextCanon (execPageWalk s) := by
  unfold execPageWalk
  split
  · split
    · trivial
    · exact mapM_canon h (fun _ _ h => walkDo_canon h)
  · trivial

/-- An instruction of a program, by its body. -/
theorem exec_program_canon {i : Instr} {hd : Hdr} (hh : hdrOfInstr i = some hd) (h : Canon s.m) : NextCanon (exec i s) := by
  cases i with
  | add | sub | mul | mulh | mad | neg | abs | min | max | lea => exact runI_canon (fun _ _ _ h => exactBody_canon h) h
  | div | rem => exact runI_canon (fun _ _ _ h => divBody_canon h) h
  | and | or | xor | not | shl | shr | sra | rot | clz | popc | brev | bfx | bfi => exact runI_canon (fun _ _ _ h => intBody_canon h) h
  | cmp => exact runI_canon (fun _ _ _ h => cmpBody_canon h) h
  | sel => exact runI_canon (fun _ _ _ h => selBody_canon h) h
  | addc => exact runI_canon (fun _ _ _ h => addcBody_canon h) h
  | movi | movw | blot | getc | getid | cvb | cvbCur | yield | nop | trap | tclr | park | tres => exact runI_canon (fun _ _ _ h => h) h
  | cvt => exact runI_canon (fun _ _ _ h => cvtBody_canon h) h
  | mov => exact runI_canon (fun _ _ _ h => movBody_canon h) h
  | fadd | fsub | fmul | fma | frcp | frsq => exact runI_canon (fun _ _ _ h => fltExact_canon h) h
  | fmin | fmax | fabs | fneg | fclp => exact runI_canon (fun _ _ _ h => plainF_canon h) h
  | fcmp => exact runI_canon (fun _ _ _ h => fcmpBody_canon h) h
  | fdiv | fsqrt => exact runI_canon (fun _ _ _ h => iterBody_canon h) h
  | fex2 | flg2 | fsin | fcos => exact runI_canon (fun _ _ _ h => fltBody_canon h) h
  | frnd => exact runI_canon (fun _ _ _ h => frndBody_canon h) h
  | fcls => exact runI_canon (fun _ _ _ h => fclsBody_canon h) h
  | fscl => exact runI_canon (fun _ _ _ h => fsclBody_canon h) h
  | fdot2 => exact runI_canon (fun _ _ _ h => fdot2Body_canon h) h
  | fcvt => exact runI_canon (fun _ _ _ h => fcvtBody_canon h) h
  | nscl => exact runI_canon (fun _ _ _ h => nsclBody_canon h) h
  | npck => exact runI_canon (fun _ _ _ h => npckBody_canon h) h
  | nunp => exact runI_canon (fun _ _ _ h => nunpBody_canon h) h
  | ndot => exact runI_canon (fun _ _ _ h => ndotBody_canon h) h
  | pchk => exact runI_canon (fun _ _ _ h => pchkBody_canon h) h
  | pchkProv => exact runI_canon (fun _ _ _ h => pchkProvBody_canon h) h
  | pmrk => exact runI_canon (fun _ _ _ h => pmrkBody_canon h) h
  | pfix => exact runI_canon (fun _ _ _ h => pfixBody_canon h) h
  | plog => exact runI_canon (fun _ _ _ h => plogBody_canon h) h
  | shfl => exact runI_canon (fun _ _ _ h => shflBody_canon h) h
  | vote => exact runI_canon (fun _ _ _ h => voteBody_canon h) h
  | redx => exact runI_canon (fun _ _ _ h => redxBody_canon h) h
  | scan => exact runI_canon (fun _ _ _ h => scanBody_canon h) h
  | sred => exact runI_canon (fun _ _ _ h => sredBody_canon h) h
  | rdl => exact runI_canon (fun _ _ _ h => rdlBody_canon h) h
  | wrl => exact runI_canon (fun _ _ _ h => wrlBody_canon h) h
  | mtch => exact runI_canon (fun _ _ _ h => mtchBody_canon h) h
  | setc => exact runI_canon (fun _ _ _ h => setcBody_canon h) h
  | clk => exact runI_canon (fun _ _ _ h => clkBody_canon h) h
  | bra => exact runI_canon (fun _ _ _ h => braBody_canon h) h
  | brx | ret => exact runI_canon (fun _ _ _ h => indirectBody_canon h) h
  | call => exact runI_canon (fun _ _ _ h => callBody_canon h) h
  | cali => exact runI_canon (fun _ _ _ h => caliBody_canon h) h
  | cvw => exact runI_canon (fun _ _ _ h => cvwBody_canon h) h
  | exit => exact runI_canon (fun _ _ _ h => exitBody_canon h) h
  | loop => exact runI_canon (fun _ _ _ h => loopBody_canon h) h
  | ld => exact runI_canon (fun _ _ _ h => ldBody_canon h) h
  | st => exact runI_canon (fun _ _ _ h => stBody_canon h) h
  | ldt => exact runI_canon (fun _ _ _ h => ldtBody_canon h) h
  | stt => exact runI_canon (fun _ _ _ h => sttBody_canon h) h
  | ldv => exact runI_canon (fun _ _ _ h => ldvBody_canon h) h
  | pfx => exact runI_canon (fun _ _ _ h => pfxBody_canon h) h
  | atom => exact runI_canon (fun _ _ _ h => atomBody_canon h) h
  | cas => exact runI_canon (fun _ _ _ h => casBody_canon h) h
  | red => exact runI_canon (fun _ _ _ h => redBody_canon h) h
  | rfl => exact runI_canon (fun _ _ _ h => rflBody_canon h) h
  | fence => exact runI_canon (fun _ _ _ h => fenceBody_canon h) h
  | mon => exact runI_canon (fun _ _ _ h => monBody_canon h) h
  | mwt => exact runI_canon (fun _ _ _ h => mwtBody_canon h) h
  | qwait => exact runI_canon (fun _ _ _ h => qwaitBody_canon h) h
  | wake => exact runI_canon (fun _ _ _ h => wakeBody_canon h) h
  | bar => exact runI_canon (fun _ _ _ h => barBody_canon h) h
  | bsc => exact runI_canon (fun _ _ _ h => bscBody_canon h) h
  | arrvSet | arrvAdd => exact runI_canon (fun _ _ _ h => arrBody_canon h) h
  | awt => exact runI_canon (fun _ _ _ h => awtBody_canon h) h
  | qpush => exact runI_canon (fun _ _ _ h => qpushBody_canon h) h
  | qpop => exact runI_canon (fun _ _ _ h => qpopBody_canon h) h
  | lend => exact runI_canon (fun _ _ _ h => lendBody_canon h) h
  | claim => exact runI_canon (fun _ _ _ h => claimBody_canon h) h
  | send => exact runI_canon (fun _ _ _ h => sendBody_canon h) h
  | cpy => exact runI_canon (fun _ _ _ h => cpyBody_canon h) h
  | cpym => exact runI_canon (fun _ _ _ h => cpymBody_canon h) h
  | rfet => exact runI_canon (fun _ _ _ h => rfetBody_canon h) h
  | rfett => exact runI_canon (fun _ _ _ h => rfettBody_canon h) h
  | cseal => exact runI_canon (fun _ _ _ h => csealBody_canon h) h
  | mma | mmsp => exact runI_canon (fun _ _ _ h => postBody_canon h) h
  | tzro => exact runI_canon (fun _ _ _ h => tzroBody_canon h) h
  | tmov => exact runI_canon (fun _ _ _ h => tmovBody_canon h) h
  | kbnd => exact runI_canon (fun _ _ _ h => kbndBody_canon h) h
  | trmxGet => exact runI_canon (fun _ _ _ h => trmxGetBody_canon h) h
  | trmxPut => exact runI_canon (fun _ _ _ h => trmxPutBody_canon h) h
  | ralc => exact runI_canon (fun _ _ _ h => ralcBody_canon h) h
  | rput | rputIn => exact runI_canon (fun _ _ _ h => rputBody_canon h) h
  | rget => exact runI_canon (fun _ _ _ h => rgetBody_canon h) h
  | rdon => exact runI_canon (fun _ _ _ h => rdonBody_canon h) h
  | rsd => exact runI_canon (fun _ _ _ h => rsdBody_canon h) h
  | post => exact runI_canon (fun _ _ _ h => postBodyOf_canon h) h
  | snap => exact runI_canon (fun _ _ _ h => snapBody_canon h) h
  | nest => exact runI_canon (fun _ _ _ h => nestBody_canon h) h
  | nred => exact runI_canon (fun _ _ _ h => nredBody_canon h) h
  | xcon => exact runI_canon (fun _ _ _ h => xconBody_canon h) h
  | tret => exact runI_canon (fun _ _ _ h => tretBody_canon h) h
  | brk => exact runI_canon (fun _ _ _ h => brkBody_canon h) h
  | tresW => exact runI_canon (fun _ _ _ h => tresWBody_canon h) h
  | plcw => exact runI_canon (fun _ _ _ h => plcwBody_canon h) h
  | xinv => exact runI_canon (fun _ _ _ h => xinvBody_canon h) h
  | swap => exact runI_canon (fun _ _ _ h => swapBody_canon h) h
  | fcal => exact runI_canon (fun _ _ _ h => fcalBody_canon h) h
  | diag => exact runI_canon (fun _ _ _ h => diagBody_canon h) h
  | _ => cases hh

/-- A row of the device, by what it does to the machine part. -/
theorem exec_row_canon {i : Instr} (hh : hdrOfInstr i = none) (h : Canon s.m) : NextCanon (exec i s) := by
  cases i with
  | memoryAccessPerform => exact ev_canon (accessDo_canon h)
  | monitorPoll => exact ev_canon (mapM_canon h (fun _ _ h => pollDo_canon h))
  | mwtTimeout => exact ev_canon (mapM_canon h (fun _ _ h => timeoutDo_canon h))
  | claimGrant => exact ev_canon (mapM_canon h (fun _ _ h => claimDo_canon h))
  | deadlockDetect => exact ev_canon (mapM_canon h (fun _ _ h => deadlockDo_canon h))
  | cvwRelease | causalBufferRelease | coalescingTimerLapse | probeStart | probeAnswer | gridComplete | handlerEntry | shadowSwapComplete
  | packetDeferral | backInvalidate => exact ev_canon (mapM_canon h (fun _ _ h => h))
  | barDeparture => exact ev_canon (mapM_canon h (fun _ _ h => barDo_canon h))
  | atomicBufferDrain => exact ev_canon (mapM_canon h (fun _ _ h => drainDo_canon h))
  | handQueueApply | inboxMessageArrival | arrivalIncrement | colophonWrite => exact ev_canon (mapM_canon h (fun _ _ h => msgDo_canon (fun _ _ _ h => performMsg_canon h) h))
  | senderResetMarker => exact ev_canon (mapM_canon h (fun _ _ h => appendMarker_canon h))
  | copyInstanceStart => exact ev_canon (mapM_canon h (fun _ _ h => chanDo_canon h))
  | enginePacketWrite => exact ev_canon (mapM_canon h (fun _ _ h => engDo_canon h))
  | matrixGrant => exact ev_canon (mapM_canon h (fun _ _ h => grantDo_canon h))
  | matrixPassComplete => exact ev_canon (mapM_canon h (fun _ _ h => passDo_canon h))
  | inputAccession => exact ev_canon (mapM_canon h (fun _ _ h => msgDo_canon (fun _ _ _ h => inputDo_canon h) h))
  | recordArrival => exact ev_canon (mapM_canon h (fun _ _ h => msgDo_canon (fun _ _ _ h => recordDo_canon h) h))
  | residualPostApply => exact ev_canon (mapM_canon h (fun _ _ h => msgDo_canon (fun _ _ _ h => postDo_canon h) h))
  | catalogueAnswer => exact ev_canon (mapM_canon h (fun _ _ h => msgDo_canon (fun _ _ _ h => answerDo_canon h) h))
  | blockActivation => exact ev_canon (mapM_canon h (fun _ _ h => activationDo_canon h))
  | catalogueChoice => exact ev_canon (mapM_canon h (fun _ _ h => choiceDo_canon h))
  | dispatchLaunch => exact ev_canon (mapM_canon h (fun _ _ h => launchDo_canon h))
  | dispatchRetire =>
    refine ev_canon (mapM_canon h (fun _ _ h => ?_))
    split
    · exact retire_canon h
    · exact h
  | reportWrite => exact ev_canon (reportDo_canon h)
  | faultFill | faultRefuse => exact mapM_canon h (fun _ _ h => answerFault_canon h)
  | stopArrival => exact ev_canon (mapM_canon h (fun _ _ h => stopDo_canon h))
  | dbgcResume | invalidationStart => exact mapM_canon h (fun _ _ h => h)
  | resumeArrival => exact ev_canon (mapM_canon h (fun _ _ h => resumeDo_canon h))
  | singleStep => exact ev_canon (mapM_canon h (fun _ _ h => stepDo_canon h))
  | preemptionSignal => exact state_ite (signalState_canon h) (mapM_canon h (fun _ _ h => preempt_canon h))
  | spill => exact ev_canon (mapM_canon h (fun _ _ h => spillDo_canon h))
  | allocationCopyComplete => exact ev_canon (mapM_canon h (fun _ _ h => moveRanges_canon h))
  | teamResumption =>
    refine ev_canon (mapM_canon h (fun _ _ h => ?_))
    split
    · exact startResumption_canon h
    · exact swapIn_canon h
  | qtailDoorbell | queueRunWrite | msixUnmask | placeTableCommit => exact state_ite h h
  | nopPacket => exact ev_canon (runRow_canon (fun _ _ _ h => nopDo_canon h) h)
  | launch => exact ev_canon (runRow_canon (fun _ _ _ h => launchPktDo_canon h) h)
  | write | signalPacket => exact ev_canon (runRow_canon (fun _ _ _ h => writeDo_canon h) h)
  | waitPacket => exact ev_canon (runRow_canon (fun _ _ _ h => waitDo_canon h) h)
  | waitConditionMet => exact ev_canon (waitMetDo_canon h)
  | indirect => exact ev_canon (runRow_canon (fun _ _ _ h => indirectDo_canon h) h)
  | loadStandingGraph => exact ev_canon (runRow_canon (fun _ _ _ h => loadDo_canon h) h)
  | startStandingGraph => exact ev_canon (runRow_canon (fun _ _ _ h => startPktDo_canon h) h)
  | stopStandingGraph | resetStandingGraph | unloadStandingGraph => exact ev_canon (runRow_canon (fun _ _ _ h => stopPktDo_canon h) h)
  | loadTaskGraph => exact ev_canon (runRow_canon (fun _ _ _ h => loadTaskDo_canon h) h)
  | unloadTaskGraph => exact ev_canon (runRow_canon (fun _ _ _ h => unloadTaskDo_canon h) h)
  | input => exact ev_canon (runRow_canon (fun _ _ _ h => inputPktDo_canon h) h)
  | inputSlotFreed => exact ev_canon (slotDo_canon h)
  | trigger => exact ev_canon (runRow_canon (fun _ _ _ h => triggerDo_canon h) h)
  | completionWordWrite => exact ev_canon (owedDo_canon h)
  | taskGraphTrigger | moduleReset => exact h
  | launchNode => exact ev_canon (onTask_canon (fun _ _ h => launchNodeDo_canon h) h)
  | standingNode => exact ev_canon (onTask_canon (fun _ _ h => standingNodeDo_canon h) h)
  | conditionalNode | waitNode => exact ev_canon (onTask_canon (fun _ _ h => h) h)
  | loopNode => exact ev_canon (onTask_canon (fun _ _ h => loopNodeDo_canon h) h)
  | copyNode => exact ev_canon (onTask_canon (fun _ _ h => copyNodeDo_canon h) h)
  | signalNode => exact ev_canon (onTask_canon (fun _ _ h => signalNodeDo_canon h) h)
  | taskGraphRunEnd => exact ev_canon (onTask_canon (fun _ _ h => runEndDo_canon h) h)
  | timeSliceSwitch => exact ev_canon (sliceDo_canon h)
  | msixMessage => exact ev_canon h
  | imageLoadStart => exact loadStart_canon h
  | fcalReply => exact mapM_canon h (fun _ _ h => canon_ite (replyDo_canon h) h)
  | parkRelease => exact mapM_canon h (fun _ _ h => releaseParked_canon h)
  | imgbWrite => exact mapM_canon h (fun _ _ h => imgbDo_canon h)
  | partitionEnable => exact state_ite (partEnable_canon h) h
  | clusterResetGo => exact mapM_canon h (fun _ _ h => resetGo_canon h)
  | isolation => exact ev_canon (mapM_canon h (fun _ _ h => isolationDo_canon h))
  | cutPacketArrival => exact ev_canon (mapM_canon h (fun _ _ h => cutDo_canon h))
  | isolatedPacketAnswer =>
    refine ev_canon (mapM_canon h (fun _ _ h => ?_))
    split
    · exact isolatedAnswer_canon h
    · exact h
  | resetComplete => exact ev_canon (resetState_canon h)
  | restore => exact state_ite (mapM_canon h (fun _ _ h => restoreDo_canon h)) h
  | hbmRelease => exact hbmRelease_canon h
  | mailboxStart => exact mailboxStart_canon h
  | hostMemAccess => exact hostAccess_canon h
  | registerWrite => exact registerWrite_canon h
  | copyBackComplete => exact ev_canon (backState_canon h)
  | resultLand => exact ev_canon (mapM_canon h (fun _ _ h => landDo_canon h))
  | qwaitRetry => exact ev_canon (mapM_canon h (fun _ _ h => retryDo_canon h))
  | pageWalk => exact execPageWalk_canon h
  | standingTeamFormed => exact ev_canon (standingDo_canon h)
  | teamStart => exact ev_canon (teamStartDo_canon h)
  | imageLoadComplete => exact ev_canon (loadDone_canon h)
  | monitorLevel => exact monitorLevel_canon h
  | lpddrOnlyLevel => exact lpddrLevel_canon h
  | functionLevelReset => exact functionReset_canon h
  | clockStepUpdate => exact ev_canon (clockStepDo_canon h)
  | thermalTrip => exact ev_canon (refuseStep_canon (functionReset_canon h))
  | _ => cases hh

theorem exec_canon {i : Instr} (h : Canon s.m) : NextCanon (exec i s) := by
  cases hh : hdrOfInstr i with
  | none => exact exec_row_canon hh h
  | some hd => exact exec_program_canon hh h

/-! The steps: an issue of the selected set, or a step of the device. -/

theorem runLine_canon {cu : Cur} {l : Nat} (h : Canon s.m) : NextCanon (runLine e s cu l) := by
  unfold runLine
  split
  · split
    · exact exec_canon h
    · exact fetchStop_canon h
  · split
    · exact exec_canon h
    · split
      · exact fetchStop_canon h
      · exact exec_canon h
    · exact fetchStop_canon h

theorem runCur_canon {cu : Cur} (h : Canon s.m) : NextCanon (runCur s cu) := by
  unfold runCur
  dsimp only
  split
  · exact runLine_canon (fetchLine_canon h)
  · exact fetchStop_canon (fetchLine_canon h)

theorem takeInput_canon {k : Nat} (h : Canon s.m) : NextCanon (takeInput s k) := by
  unfold takeInput
  dsimp only
  split
  · split
    · exact exec_canon h
    · exact h
  · exact h

theorem runDevice_canon (h : Canon s.m) : NextCanon (runDevice s) := by
  unfold runDevice
  split
  · split
    · exact takeInput_canon h
    · exact takeAct_canon h
    · exact nextPhase_canon h
  · split
    · exact select_canon h
    · exact nextPhase_canon h
  · split
    · exact takeInput_canon h
    · exact takeAct_canon h
    · exact exec_canon h
    · exact nextPhase_canon h
  · split
    · exact exec_canon h
    · exact nextPhase_canon h

theorem step_canon (h : Canon s.m) : NextCanon (step s) := by
  unfold step
  split
  · exact runCur_canon h
  · exact runDevice_canon (settle_canon h)

/-- Settles O53: a step is an issue of the selected set, or a step of the device once the state has settled; each writes bytes by the stores of the memory alone, and these keep the canonical form that log entry 1 gives to the list of bytes. -/
theorem everyStepKeepsMemoryCanonical : Obligations.EveryStepKeepsMemoryCanonical := by
  unfold Obligations.EveryStepKeepsMemoryCanonical
  intro s t h hs
  have hn := step_canon h
  rw [hs] at hn
  exact hn

end Sys2Proof.Machine
end
